-- ==== Sys2Proof/Word.lean ====
section
/-! DEFINITION. The word types of the SV-9 and maps from numbers to values as plain sorted lists. -/

namespace Sys2Proof

/-- A byte of any memory (R5). -/
abbrev Byte := BitVec 8

/-- A 64-bit scalar register value (R252). -/
abbrev Word := BitVec 64

/-- A stamp of logical time, c0 in [63:48] down to c3 in [15:0] (R133). -/
abbrev Stamp := BitVec 64

/-- A sparse table: pairs of a number and a value, the numbers strictly rising. -/
abbrev Smap (α : Type) := List (Nat × α)

end Sys2Proof
end

