-- ==== Sys2Proof/Syntax.lean ====
section
/-! DEFINITION. The instructions and events of the SV-9: one constructor for each row of spec/opcode_table.json.
Slot words (R261, R262) carry their fields as the table names them, each a bit vector of the field's width.
Events carry the unit they happen at (`l` a die, `k` a core, `c` a context, `p` a package) and what the outside world supplies. -/

namespace Sys2Proof

/-- A firmware image with the two signatures that it carries (R448). -/
structure Signed where
  image     : List (BitVec 8)
  ed25519   : List (BitVec 8) := []
  mldsa65   : List (BitVec 8) := []
  deriving DecidableEq, Repr

/-- A rotation manifest (R448): a version, a new key pair, and its signatures. -/
structure Manifest where
  version   : Nat
  edKey     : List (BitVec 8) := []
  mlKey     : List (BitVec 8) := []
  ed25519   : List (BitVec 8) := []
  mldsa65   : List (BitVec 8) := []
  deriving DecidableEq, Repr

/-- One step of the part (spec/95_what_each_step_holds.md): a slot word's instruction or an operation or event. -/
inductive Instr where
  -- A slot
  | lda (d : BitVec 4) (i : BitVec 16)
  | ldah (d : BitVec 4) (s : BitVec 4) (i : BitVec 16)
  | mova (d : BitVec 4) (s : BitVec 4)
  | adda (d : BitVec 4) (s : BitVec 4) (t : BitVec 4)
  | addai (d : BitVec 4) (s : BitVec 4) (i : BitVec 16)
  | suba (d : BitVec 4) (s : BitVec 4) (t : BitVec 4)
  | shla (d : BitVec 4) (s : BitVec 4) (n : BitVec 6)
  | mada (d : BitVec 4) (s : BitVec 4) (t : BitVec 4)
  | anda (d : BitVec 4) (s : BitVec 4) (t : BitVec 4)
  | popq (d : BitVec 4)
  | ldg (l : BitVec 5) (b : BitVec 4) (y : BitVec 4) (w : BitVec 3) (p : BitVec 2) (x : BitVec 6)
  | lds (l : BitVec 5) (b : BitVec 4) (y : BitVec 4) (w : BitVec 3) (p : BitVec 1) (x : BitVec 7)
  | ldv (l : BitVec 5) (b : BitVec 4) (y : BitVec 4) (z : BitVec 2) (r : BitVec 1) (p : BitVec 1) (s : BitVec 1) (x : BitVec 6)
  | ldvg (l : BitVec 5) (b : BitVec 4) (y : BitVec 4) (s : BitVec 1) (p : BitVec 2) (x : BitVec 6)
  | amos (d : BitVec 4) (s : BitVec 4) (t : BitVec 4) (o : BitVec 4) (w : BitVec 1) (p : BitVec 2) (y : BitVec 4) (h : BitVec 1)
  | amog (d : BitVec 4) (s : BitVec 4) (t : BitVec 4) (o : BitVec 4) (w : BitVec 1) (p : BitVec 2) (y : BitVec 4) (h : BitVec 1)
  | pref (b : BitVec 4) (p : BitVec 2) (x : BitVec 6)
  | stg (b : BitVec 4) (w : BitVec 3) (p : BitVec 2) (x : BitVec 6)
  | sts (b : BitVec 4) (w : BitVec 3) (p : BitVec 1) (x : BitVec 7)
  | stv (b : BitVec 4) (z : BitVec 2) (r : BitVec 1) (p : BitVec 1) (s : BitVec 1) (x : BitVec 6)
  | stvg (b : BitVec 4) (s : BitVec 1) (p : BitVec 2) (x : BitVec 6)
  | rget (d : BitVec 4) (s : BitVec 4) (t : BitVec 4) (c : BitVec 1) (n : BitVec 7)
  | rput (d : BitVec 4) (s : BitVec 4) (t : BitVec 4) (c : BitVec 1) (n : BitVec 7)
  | radvR (s : BitVec 4) (t : BitVec 4) (c : BitVec 1) (n : BitVec 7)
  | radvW (s : BitVec 4) (t : BitVec 4) (c : BitVec 1) (n : BitVec 7)
  | rset (s : BitVec 4) (t : BitVec 4)
  | loop (c : BitVec 12) (l : BitVec 12)
  | loopa (s : BitVec 4) (l : BitVec 12)
  | ba (o : BitVec 11)
  | bca (c : BitVec 3) (s : BitVec 4) (t : BitVec 4) (o : BitVec 11)
  | call (o : BitVec 11)
  | ret
  | fenceS
  | fenceE
  | fenceG
  -- E slot
  | mte (a : BitVec 4) (n : BitVec 6)
  | mfe (b : BitVec 4) (n : BitVec 6)
  | cpy (a : BitVec 4) (b : BitVec 4) (g : BitVec 3)
  | cpyg (a : BitVec 4) (b : BitVec 4) (s : BitVec 1) (g : BitVec 3)
  | cpyx (a : BitVec 4) (b : BitVec 4) (g : BitVec 3)
  | cbld (a : BitVec 4) (b : BitVec 4) (e : BitVec 8) (p : BitVec 1) (k : BitVec 2)
  | cbval (a : BitVec 4) (b : BitVec 4) (j : BitVec 4) (v : BitVec 1) (k : BitVec 2)
  | cbsel (a : BitVec 4)
  | cbsave (a : BitVec 4) (b : BitVec 4) (r : BitVec 1) (e : BitVec 8) (p : BitVec 1) (k : BitVec 2)
  | tsend (a : BitVec 4) (b : BitVec 4) (l : BitVec 8) (m : BitVec 2) (g : BitVec 6)
  | cfw (a : BitVec 4) (p : BitVec 6) (y : BitVec 8)
  | cft (a : BitVec 4) (b : BitVec 4) (p : BitVec 6) (y : BitVec 8)
  | waitc (a : BitVec 4) (b : BitVec 4) (l : BitVec 1) (g : BitVec 3)
  | caph (a : BitVec 4) (y : BitVec 8)
  | capd (a : BitVec 4) (y : BitVec 8)
  | pub (s : BitVec 3)
  | acq (s : BitVec 3)
  | shopen (a : BitVec 4)
  | shpub (a : BitVec 4)
  | yield
  | retire
  | trap (n : BitVec 6)
  | brk (n : BitVec 6)
  | sysc (a : BitVec 4) (b : BitVec 4) (s : BitVec 8)
  | rdtime (b : BitVec 4) (u : BitVec 1)
  -- X slot
  | add (d : BitVec 5) (a : BitVec 5) (b : BitVec 5)
  | sub (d : BitVec 5) (a : BitVec 5) (b : BitVec 5)
  | mul (d : BitVec 5) (a : BitVec 5) (b : BitVec 5)
  | mulh (d : BitVec 5) (a : BitVec 5) (b : BitVec 5)
  | mulhn (d : BitVec 5) (a : BitVec 5) (b : BitVec 5)
  | div (d : BitVec 5) (a : BitVec 5) (b : BitVec 5) (z : BitVec 1)
  | divn (d : BitVec 5) (a : BitVec 5) (b : BitVec 5) (z : BitVec 1)
  | rem (d : BitVec 5) (a : BitVec 5) (b : BitVec 5) (z : BitVec 1)
  | remn (d : BitVec 5) (a : BitVec 5) (b : BitVec 5) (z : BitVec 1)
  | and (d : BitVec 5) (a : BitVec 5) (b : BitVec 5)
  | or (d : BitVec 5) (a : BitVec 5) (b : BitVec 5)
  | xor (d : BitVec 5) (a : BitVec 5) (b : BitVec 5)
  | andn (d : BitVec 5) (a : BitVec 5) (b : BitVec 5)
  | shl (d : BitVec 5) (a : BitVec 5) (b : BitVec 5)
  | shr (d : BitVec 5) (a : BitVec 5) (b : BitVec 5)
  | sar (d : BitVec 5) (a : BitVec 5) (b : BitVec 5)
  | rol (d : BitVec 5) (a : BitVec 5) (b : BitVec 5)
  | clz (d : BitVec 5) (a : BitVec 5)
  | ctz (d : BitVec 5) (a : BitVec 5)
  | popc (d : BitVec 5) (a : BitVec 5)
  | min (d : BitVec 5) (a : BitVec 5) (b : BitVec 5)
  | max (d : BitVec 5) (a : BitVec 5) (b : BitVec 5)
  | minn (d : BitVec 5) (a : BitVec 5) (b : BitVec 5)
  | maxn (d : BitVec 5) (a : BitVec 5) (b : BitVec 5)
  | cmp (d : BitVec 5) (a : BitVec 5) (b : BitVec 5) (c : BitVec 3)
  | sel (d : BitVec 5) (a : BitVec 5) (b : BitVec 5) (c : BitVec 5)
  | addi (d : BitVec 5) (a : BitVec 5) (i : BitVec 14)
  | andi (d : BitVec 5) (a : BitVec 5) (i : BitVec 14)
  | ori (d : BitVec 5) (a : BitVec 5) (i : BitVec 14)
  | xori (d : BitVec 5) (a : BitVec 5) (i : BitVec 14)
  | shli (d : BitVec 5) (a : BitVec 5) (n : BitVec 6)
  | shri (d : BitVec 5) (a : BitVec 5) (n : BitVec 6)
  | sari (d : BitVec 5) (a : BitVec 5) (n : BitVec 6)
  | li (d : BitVec 5) (i : BitVec 19)
  | lih (d : BitVec 5) (i : BitVec 19)
  | take (d : BitVec 5) (l : BitVec 5)
  | push (a : BitVec 5)
  | mfs (d : BitVec 5) (n : BitVec 14)
  | mts (a : BitVec 5) (n : BitVec 14)
  | bx (c : BitVec 3) (a : BitVec 5) (b : BitVec 5) (o : BitVec 11)
  | jx (a : BitVec 5)
  | faddS (d : BitVec 5) (a : BitVec 5) (b : BitVec 5) (r : BitVec 3)
  | fsubS (d : BitVec 5) (a : BitVec 5) (b : BitVec 5) (r : BitVec 3)
  | fmulS (d : BitVec 5) (a : BitVec 5) (b : BitVec 5) (r : BitVec 3)
  | fmaS (d : BitVec 5) (a : BitVec 5) (b : BitVec 5) (r : BitVec 3) (c : BitVec 5)
  | fcvt (d : BitVec 5) (a : BitVec 5) (r : BitVec 3) (v : BitVec 4)
  -- V slot
  | vadd (d : BitVec 4) (a : BitVec 4) (b : BitVec 4) (s : BitVec 1) (f : BitVec 4) (x : BitVec 4)
  | vsub (d : BitVec 4) (a : BitVec 4) (b : BitVec 4) (s : BitVec 1) (f : BitVec 4) (x : BitVec 4)
  | vmul (d : BitVec 4) (a : BitVec 4) (b : BitVec 4) (s : BitVec 1) (f : BitVec 4) (x : BitVec 4)
  | vfma (d : BitVec 4) (a : BitVec 4) (b : BitVec 4) (c : BitVec 4) (f : BitVec 4) (x : BitVec 4)
  | vfms (d : BitVec 4) (a : BitVec 4) (b : BitVec 4) (c : BitVec 4) (f : BitVec 4) (x : BitVec 4)
  | vmin (d : BitVec 4) (a : BitVec 4) (b : BitVec 4) (f : BitVec 4) (x : BitVec 4)
  | vmax (d : BitVec 4) (a : BitVec 4) (b : BitVec 4) (f : BitVec 4) (x : BitVec 4)
  | vabs (d : BitVec 4) (a : BitVec 4) (s : BitVec 1) (f : BitVec 4) (x : BitVec 4)
  | vneg (d : BitVec 4) (a : BitVec 4) (s : BitVec 1) (f : BitVec 4) (x : BitVec 4)
  | vcmp (d : BitVec 4) (a : BitVec 4) (b : BitVec 4) (c : BitVec 2) (f : BitVec 4) (x : BitVec 4)
  | vsel (d : BitVec 4) (a : BitVec 4) (b : BitVec 4) (c : BitVec 4) (f : BitVec 4)
  | vand (d : BitVec 4) (a : BitVec 4) (b : BitVec 4)
  | vor (d : BitVec 4) (a : BitVec 4) (b : BitVec 4)
  | vxor (d : BitVec 4) (a : BitVec 4) (b : BitVec 4)
  | vnot (d : BitVec 4) (a : BitVec 4)
  | vshl (d : BitVec 4) (a : BitVec 4) (b : BitVec 4) (f : BitVec 4)
  | vshr (d : BitVec 4) (a : BitVec 4) (b : BitVec 4) (f : BitVec 4)
  | vsar (d : BitVec 4) (a : BitVec 4) (b : BitVec 4) (f : BitVec 4)
  | vcvt (d : BitVec 4) (a : BitVec 4) (p : BitVec 3) (c : BitVec 4) (f : BitVec 4) (x : BitVec 4)
  | vqnt (d : BitVec 4) (a : BitVec 4) (s : BitVec 4) (c : BitVec 4) (f : BitVec 4) (x : BitVec 4)
  | vdqt (d : BitVec 4) (a : BitVec 4) (p : BitVec 3) (c : BitVec 4) (f : BitVec 4)
  | vcbx (d : BitVec 4) (a : BitVec 4) (x : BitVec 4)
  | vcbi (d : BitVec 4) (a : BitVec 4) (x : BitVec 4)
  | vred (d : BitVec 4) (a : BitVec 4) (b : BitVec 4) (o : BitVec 2) (f : BitVec 4) (x : BitVec 4)
  | vperm (d : BitVec 4) (a : BitVec 4) (b : BitVec 4) (f : BitVec 4)
  | vbcast (d : BitVec 4) (a : BitVec 4) (k : BitVec 8) (f : BitVec 4)
  | vsplat (d : BitVec 4) (i : BitVec 12) (f : BitVec 4)
  | vslide (d : BitVec 4) (a : BitVec 4) (b : BitVec 4) (r : BitVec 1) (f : BitVec 4)
  | vzip (d : BitVec 4) (a : BitVec 4) (b : BitVec 4) (h : BitVec 1) (f : BitVec 4)
  | vunzip (d : BitVec 4) (a : BitVec 4) (b : BitVec 4) (h : BitVec 1) (f : BitVec 4)
  | vexp2 (d : BitVec 4) (a : BitVec 4) (f : BitVec 4) (x : BitVec 4)
  | vlog2 (d : BitVec 4) (a : BitVec 4) (f : BitVec 4) (x : BitVec 4)
  | vrcp (d : BitVec 4) (a : BitVec 4) (f : BitVec 4) (x : BitVec 4)
  | vrsq (d : BitVec 4) (a : BitVec 4) (f : BitVec 4) (x : BitVec 4)
  | vtake (d : BitVec 4) (l : BitVec 4) (h : BitVec 1)
  | vpush (a : BitVec 4)
  -- D slot
  | dcw (a : BitVec 5) (n : BitVec 4)
  | dcr (n : BitVec 4)
  | rclaim (o : BitVec 1) (n : BitVec 2)
  | rrel (o : BitVec 1) (n : BitVec 2)
  | rldw (a : BitVec 5) (b : BitVec 5) (x : BitVec 1) (p : BitVec 2)
  | rpass (v : BitVec 4) (c : BitVec 4) (t : BitVec 2) (p : BitVec 2) (x : BitVec 1)
  | rpassr (h : BitVec 4) (c : BitVec 4) (t : BitVec 2) (p : BitVec 2) (x : BitVec 1) (v : BitVec 1)
  | rsat (c : BitVec 1) (q : BitVec 2)
  | rmin (v : BitVec 4) (x : BitVec 1)
  | rmax (v : BitVec 4) (x : BitVec 1)
  | rsort (v : BitVec 4) (x : BitVec 1) (d : BitVec 1)
  | rtopk (v : BitVec 4) (k : BitVec 6) (x : BitVec 1) (d : BitVec 1)
  | rrank (v : BitVec 4) (x : BitVec 1) (d : BitVec 1)
  | accz (a : BitVec 5) (t : BitVec 2)
  | accrd (a : BitVec 5) (f : BitVec 2) (g : BitVec 2) (t : BitVec 2)
  | accst (a : BitVec 5) (b : BitVec 5) (r : BitVec 1) (p : BitVec 1) (f : BitVec 2) (t : BitVec 2)
  | accnorm (t : BitVec 2)
  | accexp (a : BitVec 5) (e : BitVec 1) (t : BitVec 2)
  | rcal (a : BitVec 5)
  | rtrimr (n : BitVec 6)
  | rtrimw (a : BitVec 5) (n : BitVec 6)
  | rstat (n : BitVec 6)
  -- operations and events
  | bundleIssue (l k : Nat)
  | resultLanding (l k : Nat)
  | landingSlotFill (l k c slot : Nat)
  | sectorLanding (l k r hod sector : Nat) (data : BitVec 256)
  | nbrRequestArrival (l k : Nat)
  | dieCacheRequest (l : Nat)
  | lineReadExpand (l line : Nat) (mask : BitVec 4)
  | fullLineWrite (l line : Nat) (comp : Bool) (data : BitVec 1024)
  | partialLineWrite (l addr : Nat) (comp : Bool) (bytes : List (BitVec 8))
  | tableWalkStart (l : Nat)
  | tableWalkComplete (l : Nat)
  | peerRequestCheck (l ipkg idie expidx gen : Nat) (rights : BitVec 3) (e kind : Nat) (bytes : List (BitVec 8))
  | peerResponseTimeout (l k c slot : Nat)
  | xlinvPage (l : Nat) (vpage : BitVec 36)
  | xlinvRange (l : Nat) (vpage : BitVec 36)
  | xlinvAll (l : Nat)
  | xlinvReject (l : Nat) (v : BitVec 64)
  | invalidationDone (l : Nat)
  | shopenGrant (l k c : Nat)
  | shpubExchange (l k c : Nat)
  | claimGrant (l k : Nat) (tile : Bool) (n : Nat)
  | engineCommandAccept (l k c : Nat)
  | copyChunkTranslate (l k c : Nat)
  | copyBlockWrite (l k c : Nat)
  | copyComplete (l k c : Nat)
  | stampedCopyAck (l : Nat)
  | transformChunkStart (l k c : Nat)
  | transformEcall (l k c : Nat)
  | transformTimeout (l k c : Nat)
  | transformException (l k c : Nat) (access : Bool)
  | engineFaultReport (l k c : Nat)
  | cbldEntryCommit (l k c : Nat)
  | cbvalCommit (l k c : Nat)
  | cbsaveComplete (l k c : Nat)
  | codebookExchange (l k c : Nat)
  | rldwCourseCommit (l k : Nat)
  | passConverterRead (l k : Nat) (refused : BitVec 256)
  | reraceComplete (l k : Nat) (refused : BitVec 256)
  | passLanding (l k : Nat)
  | renormalisationStep (l k t : Nat)
  | combRead (l k : Nat) (refused : Bool)
  | combResultLand (l k : Nat)
  | rcalResult (l k : Nat)
  | eccCorrectedCore (l k : Nat)
  | eccFreezeEnd (l k : Nat)
  | eccCorrectedMemory (l addr : Nat)
  | uncorrectableError (l place k addr : Nat)
  | calibrationPeriodicTimer (l k : Nat)
  | temperatureSample (l k : Nat) (temp : BitVec 16)
  | calibrationStart (l k : Nat)
  | calibrationRoutine (l k : Nat)
  | doorbellWrite (l q : Nat) (tail : BitVec 32)
  | openRegion (l q : Nat)
  | placeOperator (l q : Nat)
  | refresh (l q : Nat)
  | closeRegion (l q : Nat)
  | killRegion (l q : Nat)
  | resume (l q : Nat)
  | launchRefused (l q : Nat)
  | stepRelease (l w : Nat)
  | switchThresholdExpiry (l k : Nat)
  | sliceExpiry (l k : Nat)
  | priorityAgeing (l k c : Nat)
  | swapThresholdExpiry (l k c : Nat)
  | swapOut (l k c : Nat)
  | swapIn (l slot : Nat)
  | waitingBudgetExhausted (l k c : Nat)
  | stepTimeBoundOverrun (l k c : Nat)
  | waitcTimeout (l k c : Nat)
  | publicationComplete (l k c : Nat)
  | fenceComplete (l k c : Nat)
  | retirementComplete (l k c : Nat)
  | scratchpadAllocationFree (l k : Nat)
  | tokenArrival (l : Nat)
  | tokenAcceptance (l : Nat)
  | tokenRefusal (l : Nat)
  | ltEnable (l p : Nat)
  | ltEnableComplete (l p : Nat)
  | ltAdvanceRoot (l p : Nat)
  | ltSeal (l p : Nat)
  | ltDisable (l p : Nat)
  | ltBadCommand (l : Nat) (v : BitVec 64)
  | rootNoticeApply (l : Nat)
  | rootNoticeReply (l : Nat)
  | batchCloseTimeout (l : Nat)
  | batchApply (l : Nat)
  | curfewNoticeApply (l : Nat)
  | spillReadback (l : Nat)
  | ltspszWrite (l : Nat) (v : BitVec 64)
  | interleaveCommit (l : Nat) (v : BitVec 64)
  | interleaveCommitDone (l : Nat)
  | faultRecordWrite (l : Nat)
  | fqheadWrite (l : Nat) (v : BitVec 32)
  | fqbaseWrite (l : Nat) (v : BitVec 64)
  | machineCheck (l unit : Nat)
  | functionLevelReset (l : Nat)
  | powerOnReset (p : Nat)
  | startStageAdvance (l reason : Nat)
  | firmwareVerify (p : Nat) (flash : Option Signed) (manifests : List Manifest) (mailbox : Bool)
  | doeImageWrite (p : Nat) (image : Signed)
  | msixUnmask (l v : Nat)
  | hostCxlMemAccess (l : Nat) (write : Bool) (addr n : Nat) (bytes : List (BitVec 8))
  | meshFlitReceive (p link seq : Nat) (good : Bool)
  | meshLaneFailure (p link lane : Nat)
  | beyvexFlitReceive (p port seq ack : Nat) (good : Bool)
  | beyvexNakReceive (p port seq : Nat)
  | beyvexLaneFailure (p port lane : Nat)
  | beyvexRetrainDone (p port : Nat)
  | bxctlRetrain (l port : Nat)
  | peerRegionCommit (l : Nat) (v : BitVec 64)
  | peerRegionCommitDone (p : Nat)
  | staggerMessage (p port base step modulus : Nat)
  | powerEstimateTick (p watts : Nat)
  | quietDetection (p : Nat)
  | floorHoldExpiry (p : Nat)
  | stagoffExpiry (p : Nat)
  | fillerRaceStart (l k : Nat)
  | powerRegisterWrite (l off : Nat) (v : BitVec 64)
  | registerWrite (l block off : Nat) (v : BitVec 64)
  | meshLaneSpareReplay (p link : Nat)
  | linkPartnerRetrain (p port : Nat)
  | virtualHierarchyBinding (l : Nat) (host : Option Nat)
  | spdmRequest (l request : Nat)
  deriving DecidableEq, Repr

end Sys2Proof
end

