-- ==== Sys2Proof/WellFormed.lean ====
section
/-! DEFINITION. Which instructions are legal: the fields a slot word may hold (R253, R260, R264, R274, R281, R300, R301, R347, R374)
and the units an event may name (R2). A well-formed slot instruction is exactly one whose word no class 0 cause rejects. -/

namespace Sys2Proof

/-- The reasons of a class 0 cause for places 0 to 5 (R264). -/
inductive Reason where
  | opcode | reserved | source | dest | value | hold | privileged
  deriving DecidableEq, Repr

/-- The reason's code, bits [2:0] of the detail (R264). -/
def Reason.code : Reason → Nat
  | .opcode => 0 | .reserved => 1 | .source => 2 | .dest => 3 | .value => 4 | .hold => 5 | .privileged => 6

/-- Scalar destination codes: 0 the age file, 1 the queue, 16 to 31 k registers (R260). -/
def scalarDest (d : BitVec 5) : Bool := d.toNat == 0 || d.toNat == 1 || 16 ≤ d.toNat

/-- Vector destination codes: 0 the age file, 1 discard, 8 to 15 w registers (R260). -/
def vectorDest (d : BitVec 4) : Bool := d.toNat == 0 || d.toNat == 1 || 8 ≤ d.toNat

/-- Access destinations are a0 to a14 (R260, R272). -/
def accessDest (d : BitVec 4) : Bool := d.toNat != 15

/-- Condition codes 0 to 5 (R261). -/
def condOk (c : BitVec 3) : Bool := c.toNat ≤ 5

/-- Set A of R301. -/
def setA (f : BitVec 4) : Bool := [0, 1, 2, 5, 6, 7, 8, 9, 10, 13].contains f.toNat
/-- Set S of R301. -/
def setS (f : BitVec 4) : Bool := [0, 1, 2, 5, 6, 7, 13].contains f.toNat
/-- Set W of R301. -/
def setW (f : BitVec 4) : Bool := [0, 1, 2, 5, 6, 7, 8, 9, 10].contains f.toNat
/-- Set I of R301. -/
def setI (f : BitVec 4) : Bool := 5 ≤ f.toNat && f.toNat ≤ 10
/-- Set F of R301. -/
def setF (f : BitVec 4) : Bool := f.toNat ≤ 2
/-- Set B of R301. -/
def setB (f : BitVec 4) : Bool := [3, 4, 11, 12].contains f.toNat

/-- Element width in bits of a format code (R219); BFP16 counts its 32-bit lane. -/
def fmtWidth (f : Nat) : Nat :=
  match f with
  | 0 | 5 | 8 | 13 => 32
  | 1 | 2 | 6 | 9 => 16
  | 3 | 4 | 7 | 10 => 8
  | 11 | 12 => 4
  | _ => 32

/-- Elements of a vector in a format (R299). -/
def fmtCount (f : Nat) : Nat := 2048 / fmtWidth f

/-- The first reason that holds of a list of tests: a test that is false gives its reason. -/
def firstReason : List (Bool × Reason) → Option Reason
  | [] => none
  | (ok, r) :: rest => if ok then firstReason rest else some r

/-- The tests common to the V slot: the expansion fields (R88, R300, R301), then the destination. `inSet` says whether
the format field lies in the instruction's set, `expandable` whether 0xF is allowed. -/
def vectorTests (d f x : BitVec 4) (inSet expandable : Bool) : List (Bool × Reason) :=
  [(f == 15#4 || x == 0#4, .reserved), (vectorDest d, .dest), (inSet || (expandable && f == 15#4), .value)]

/-- The S bit is reserved for floating-point and BFP16 formats (R306, R308). -/
def satTest (s : BitVec 1) (f : BitVec 4) : Bool × Reason := (s == 0#1 || setI f || f == 15#4, .reserved)

/-- The legal parts of vcvt for known formats (R313): P below ns / nd when the destination is as wide or wider, else 0. -/
def partOk (nsrc ndst p : Nat) : Bool := if ndst ≤ nsrc then p < nsrc / ndst else p == 0

/-- The legal destination formats of vred (R318). -/
def vredDest (op src dst : Nat) : Bool :=
  if op = 0 then
    if src ≤ 2 || src = 13 then dst ≤ 2
    else if 5 ≤ src && src ≤ 7 then 5 ≤ dst && dst ≤ 7
    else 8 ≤ dst && dst ≤ 10
  else if src = 13 then dst == 0 else dst == src

/-- The ELEM codes of a bank (R82); those that vred takes as a source, in set A (R301). -/
def bankElems : List Nat := [0, 1, 2, 3, 4, 5, 6]
def redElems : List Nat := [0, 1, 2, 5, 6]
/-- The part of a vcvt is legal for its source format, or with 0xF for some element of a bank (R313). -/
def partLegal (f c : BitVec 4) (p : Nat) : Bool :=
  if f = 15#4 then bankElems.any fun e => partOk (fmtCount e) (fmtCount c.toNat) p else partOk (fmtCount f.toNat) (fmtCount c.toNat) p
/-- The destination format of a vred is legal for its source format, or with 0xF for some element of a bank (R318). -/
def redLegal (op : Nat) (f b : BitVec 4) : Bool :=
  if f = 15#4 then redElems.any fun e => vredDest op e b.toNat else vredDest op f.toNat b.toNat

/-- Ring counts (R283): the field that SRC leaves unused is reserved. -/
def ringTests (s : BitVec 4) (c : BitVec 1) (n : BitVec 7) : List (Bool × Reason) :=
  [(if c = 0#1 then s == 0#4 else n == 0#7, .reserved)]

/-- The rounding field of the FP32 instructions: 0 to 4 (R296). -/
def roundOk (r : BitVec 3) : Bool := r.toNat ≤ 4

/-- System register numbers that mts may name (R254). -/
def mtsOk (n : BitVec 14) : Bool := [2, 5, 6, 7, 8, 9, 10, 11].contains n.toNat

/-- The reason an instruction's fields are illegal, none when they are legal. Reserved fields are tested first, then
destinations, sources and values (log entry 7). -/
def Instr.ill : Instr → Option Reason
  | .lda d _ => firstReason [(accessDest d, .dest)]
  | .ldah d _ _ => firstReason [(accessDest d, .dest)]
  | .mova d _ => firstReason [(accessDest d, .dest)]
  | .adda d _ _ => firstReason [(accessDest d, .dest)]
  | .addai d _ _ => firstReason [(accessDest d, .dest)]
  | .suba d _ _ => firstReason [(accessDest d, .dest)]
  | .shla d _ _ => firstReason [(accessDest d, .dest)]
  | .mada d _ _ => firstReason [(accessDest d, .dest)]
  | .anda d _ _ => firstReason [(accessDest d, .dest)]
  | .popq d => firstReason [(accessDest d, .dest)]
  | .ldg _ _ _ w p _ => firstReason [(w != 7#3 && p != 3#2, .value)]
  | .lds _ _ _ w _ _ => firstReason [(w != 7#3, .value)]
  | .ldv _ _ _ _ r _ s _ => firstReason [(!(r == 1#1 && s == 1#1), .value)]
  | .ldvg _ _ _ _ p _ => firstReason [(p != 3#2, .value)]
  | .amos _ _ _ o _ p _ _ => firstReason [(o.toNat ≤ 9 && p.toNat ≤ 1, .value)]
  | .amog _ _ _ o _ p _ _ => firstReason [(o.toNat ≤ 9 && p.toNat ≤ 2, .value)]
  | .pref _ p _ => firstReason [(p != 3#2, .value)]
  | .stg _ w p _ => firstReason [(w != 7#3 && p != 3#2, .value)]
  | .sts _ w _ _ => firstReason [(w != 7#3, .value)]
  | .stv _ _ r _ s _ => firstReason [(!(r == 1#1 && s == 1#1), .value)]
  | .stvg _ _ p _ => firstReason [(p != 3#2, .value)]
  | .rget d s _ c n => firstReason (ringTests s c n ++ [(accessDest d, .dest)])
  | .rput d s _ c n => firstReason (ringTests s c n ++ [(accessDest d, .dest)])
  | .radvR s _ c n => firstReason (ringTests s c n)
  | .radvW s _ c n => firstReason (ringTests s c n)
  | .rset _ _ => none
  | .loop _ _ => none
  | .loopa _ _ => none
  | .ba _ => none
  | .bca c _ _ _ => firstReason [(condOk c, .value)]
  | .call _ => none
  | .ret => none
  | .fenceS => none
  | .fenceE => none
  | .fenceG => none
  | .mte _ _ => none
  | .mfe b _ => firstReason [(accessDest b, .dest)]
  | .cpy _ _ _ => none
  | .cpyg _ _ _ _ => none
  | .cpyx _ _ _ => none
  | .cbld _ _ _ _ _ => none
  | .cbval _ _ j v _ => firstReason [(v == 1#1 || j == 0#4, .reserved)]
  | .cbsel _ => none
  | .cbsave _ _ _ _ _ _ => none
  | .tsend _ _ _ _ _ => none
  | .cfw _ _ _ => none
  | .cft _ b _ _ => firstReason [(accessDest b, .dest)]
  | .waitc _ b _ _ => firstReason [(accessDest b, .dest)]
  | .caph _ _ => none
  | .capd _ _ => none
  | .pub s => firstReason [(1 ≤ s.toNat && s.toNat ≤ 4, .value)]
  | .acq s => firstReason [(1 ≤ s.toNat && s.toNat ≤ 4, .value)]
  | .shopen _ => none
  | .shpub _ => none
  | .yield => none
  | .retire => none
  | .trap _ => none
  | .brk n => firstReason [(n != 63#6, .value)]
  | .sysc _ _ _ => none
  | .rdtime b _ => firstReason [(accessDest b, .dest)]
  | .add d _ _ => firstReason [(scalarDest d, .dest)]
  | .sub d _ _ => firstReason [(scalarDest d, .dest)]
  | .mul d _ _ => firstReason [(scalarDest d, .dest)]
  | .mulh d _ _ => firstReason [(scalarDest d, .dest)]
  | .mulhn d _ _ => firstReason [(scalarDest d, .dest)]
  | .div d _ _ _ => firstReason [(scalarDest d, .dest)]
  | .divn d _ _ _ => firstReason [(scalarDest d, .dest)]
  | .rem d _ _ _ => firstReason [(scalarDest d, .dest)]
  | .remn d _ _ _ => firstReason [(scalarDest d, .dest)]
  | .and d _ _ => firstReason [(scalarDest d, .dest)]
  | .or d _ _ => firstReason [(scalarDest d, .dest)]
  | .xor d _ _ => firstReason [(scalarDest d, .dest)]
  | .andn d _ _ => firstReason [(scalarDest d, .dest)]
  | .shl d _ _ => firstReason [(scalarDest d, .dest)]
  | .shr d _ _ => firstReason [(scalarDest d, .dest)]
  | .sar d _ _ => firstReason [(scalarDest d, .dest)]
  | .rol d _ _ => firstReason [(scalarDest d, .dest)]
  | .clz d _ => firstReason [(scalarDest d, .dest)]
  | .ctz d _ => firstReason [(scalarDest d, .dest)]
  | .popc d _ => firstReason [(scalarDest d, .dest)]
  | .min d _ _ => firstReason [(scalarDest d, .dest)]
  | .max d _ _ => firstReason [(scalarDest d, .dest)]
  | .minn d _ _ => firstReason [(scalarDest d, .dest)]
  | .maxn d _ _ => firstReason [(scalarDest d, .dest)]
  | .cmp d _ _ c => firstReason [(scalarDest d, .dest), (condOk c, .value)]
  | .sel d _ _ _ => firstReason [(scalarDest d, .dest)]
  | .addi d _ _ => firstReason [(scalarDest d, .dest)]
  | .andi d _ _ => firstReason [(scalarDest d, .dest)]
  | .ori d _ _ => firstReason [(scalarDest d, .dest)]
  | .xori d _ _ => firstReason [(scalarDest d, .dest)]
  | .shli d _ _ => firstReason [(scalarDest d, .dest)]
  | .shri d _ _ => firstReason [(scalarDest d, .dest)]
  | .sari d _ _ => firstReason [(scalarDest d, .dest)]
  | .li d _ => firstReason [(scalarDest d, .dest)]
  | .lih d _ => firstReason [(scalarDest d && d != 1#5, .dest)]
  | .take d _ => firstReason [(scalarDest d, .dest)]
  | .push _ => none
  | .mfs d n => firstReason [(scalarDest d, .dest), (n.toNat ≤ 16, .value)]
  | .mts _ n => firstReason [(mtsOk n, .value)]
  | .bx c _ _ _ => firstReason [(condOk c, .value)]
  | .jx _ => none
  | .faddS d _ _ r => firstReason [(scalarDest d, .dest), (roundOk r, .value)]
  | .fsubS d _ _ r => firstReason [(scalarDest d, .dest), (roundOk r, .value)]
  | .fmulS d _ _ r => firstReason [(scalarDest d, .dest), (roundOk r, .value)]
  | .fmaS d _ _ r _ => firstReason [(scalarDest d, .dest), (roundOk r, .value)]
  | .fcvt d _ r v => firstReason [(scalarDest d, .dest), (roundOk r && v.toNat ≤ 9, .value)]
  | .vadd d _ _ s f x => firstReason (satTest s f :: vectorTests d f x (setA f) true)
  | .vsub d _ _ s f x => firstReason (satTest s f :: vectorTests d f x (setA f) true)
  | .vmul d _ _ s f x => firstReason (satTest s f :: vectorTests d f x (setA f) true)
  | .vfma d _ _ _ f x => firstReason (vectorTests d f x (setA f) true)
  | .vfms d _ _ _ f x => firstReason (vectorTests d f x (setA f) true)
  | .vmin d _ _ f x => firstReason (vectorTests d f x (setA f) true)
  | .vmax d _ _ f x => firstReason (vectorTests d f x (setA f) true)
  | .vabs d _ s f x => firstReason (satTest s f :: vectorTests d f x (setS f) true)
  | .vneg d _ s f x => firstReason (satTest s f :: vectorTests d f x (setS f) true)
  | .vcmp d _ _ _ f x => firstReason (vectorTests d f x (setA f) true)
  | .vsel d _ _ _ f => firstReason (vectorTests d f 0#4 (setW f) false)
  | .vand d _ _ => firstReason [(vectorDest d, .dest)]
  | .vor d _ _ => firstReason [(vectorDest d, .dest)]
  | .vxor d _ _ => firstReason [(vectorDest d, .dest)]
  | .vnot d _ => firstReason [(vectorDest d, .dest)]
  | .vshl d _ _ f => firstReason (vectorTests d f 0#4 (setI f) false)
  | .vshr d _ _ f => firstReason (vectorTests d f 0#4 (setI f) false)
  | .vsar d _ _ f => firstReason (vectorTests d f 0#4 (setI f) false)
  | .vcvt d _ p c f x => firstReason (vectorTests d f x (decide (f.toNat ≤ 11)) true ++ [(decide (c.toNat ≤ 11) && partLegal f c p.toNat, .value)])
  | .vqnt d _ s c f x => firstReason (vectorTests d f x (setF f) true ++ [(s.toNat == 0 || decide (8 ≤ s.toNat), .source), ((setB c || c == 13#4) && (s == 0#4 || decide (c.toNat ≤ 11)), .value)])
  | .vdqt d _ p c f => firstReason (vectorTests d f 0#4 (setB f || f == 13#4) false ++ [(setF c && (if f = 13#4 then p == 0#3 else decide (p.toNat < fmtCount f.toNat / fmtCount c.toNat)), .value)])
  | .vcbx d _ _ => firstReason [(vectorDest d, .dest)]
  | .vcbi d _ _ => firstReason [(vectorDest d, .dest)]
  | .vred d _ b o f x => firstReason (vectorTests d f x (setA f) true ++ [(o != 3#2 && redLegal o.toNat f b, .value)])
  | .vperm d _ _ f => firstReason (vectorTests d f 0#4 (setW f) false)
  | .vbcast d _ k f => firstReason (vectorTests d f 0#4 (setW f) false ++ [(decide (k.toNat < fmtCount f.toNat), .value)])
  | .vsplat d _ f => firstReason (vectorTests d f 0#4 (setW f) false)
  | .vslide d _ _ _ f => firstReason (vectorTests d f 0#4 (setW f || setB f) false)
  | .vzip d _ _ _ f => firstReason (vectorTests d f 0#4 (setW f) false)
  | .vunzip d _ _ _ f => firstReason (vectorTests d f 0#4 (setW f) false)
  | .vexp2 d _ f x => firstReason (vectorTests d f x (setF f) true)
  | .vlog2 d _ f x => firstReason (vectorTests d f x (setF f) true)
  | .vrcp d _ f x => firstReason (vectorTests d f x (setF f) true)
  | .vrsq d _ f x => firstReason (vectorTests d f x (setF f) true)
  | .vtake d _ _ => firstReason [(vectorDest d, .dest)]
  | .vpush _ => none
  | .dcw _ _ => none
  | .dcr _ => none
  | .rclaim _ _ => none
  | .rrel _ _ => none
  | .rldw _ _ _ _ => none
  | .rpass _ _ _ _ _ => none
  | .rpassr _ _ _ _ _ _ => none
  | .rsat _ _ => none
  | .rmin _ _ => none
  | .rmax _ _ => none
  | .rsort _ _ _ => none
  | .rtopk _ _ _ _ => none
  | .rrank _ _ _ => none
  | .accz _ _ => none
  | .accrd _ f _ _ => firstReason [(f != 3#2, .value)]
  | .accst _ _ _ _ _ _ => none
  | .accnorm _ => none
  | .accexp a e _ => firstReason [(e == 1#1 || a == 0#5, .reserved)]
  | .rcal _ => none
  | .rtrimr _ => none
  | .rtrimw _ _ => none
  | .rstat _ => none
  | .bundleIssue _ _ => none
  | .resultLanding _ _ => none
  | .landingSlotFill _ _ _ _ => none
  | .sectorLanding _ _ _ _ _ _ => none
  | .nbrRequestArrival _ _ => none
  | .dieCacheRequest _ => none
  | .lineReadExpand _ _ _ => none
  | .fullLineWrite _ _ _ _ => none
  | .partialLineWrite _ _ _ _ => none
  | .tableWalkStart _ => none
  | .tableWalkComplete _ => none
  | .peerRequestCheck _ _ _ _ _ _ _ _ _ => none
  | .peerResponseTimeout _ _ _ _ => none
  | .xlinvPage _ _ => none
  | .xlinvRange _ _ => none
  | .xlinvAll _ => none
  | .xlinvReject _ _ => none
  | .invalidationDone _ => none
  | .shopenGrant _ _ _ => none
  | .shpubExchange _ _ _ => none
  | .claimGrant _ _ _ _ => none
  | .engineCommandAccept _ _ _ => none
  | .copyChunkTranslate _ _ _ => none
  | .copyBlockWrite _ _ _ => none
  | .copyComplete _ _ _ => none
  | .stampedCopyAck _ => none
  | .transformChunkStart _ _ _ => none
  | .transformEcall _ _ _ => none
  | .transformTimeout _ _ _ => none
  | .transformException _ _ _ _ => none
  | .engineFaultReport _ _ _ => none
  | .cbldEntryCommit _ _ _ => none
  | .cbvalCommit _ _ _ => none
  | .cbsaveComplete _ _ _ => none
  | .codebookExchange _ _ _ => none
  | .rldwCourseCommit _ _ => none
  | .passConverterRead _ _ _ => none
  | .reraceComplete _ _ _ => none
  | .passLanding _ _ => none
  | .renormalisationStep _ _ _ => none
  | .combRead _ _ _ => none
  | .combResultLand _ _ => none
  | .rcalResult _ _ => none
  | .eccCorrectedCore _ _ => none
  | .eccFreezeEnd _ _ => none
  | .eccCorrectedMemory _ _ => none
  | .uncorrectableError _ _ _ _ => none
  | .calibrationPeriodicTimer _ _ => none
  | .temperatureSample _ _ _ => none
  | .calibrationStart _ _ => none
  | .calibrationRoutine _ _ => none
  | .doorbellWrite _ _ _ => none
  | .openRegion _ _ => none
  | .placeOperator _ _ => none
  | .refresh _ _ => none
  | .closeRegion _ _ => none
  | .killRegion _ _ => none
  | .resume _ _ => none
  | .launchRefused _ _ => none
  | .stepRelease _ _ => none
  | .switchThresholdExpiry _ _ => none
  | .sliceExpiry _ _ => none
  | .priorityAgeing _ _ _ => none
  | .swapThresholdExpiry _ _ _ => none
  | .swapOut _ _ _ => none
  | .swapIn _ _ => none
  | .waitingBudgetExhausted _ _ _ => none
  | .stepTimeBoundOverrun _ _ _ => none
  | .waitcTimeout _ _ _ => none
  | .publicationComplete _ _ _ => none
  | .fenceComplete _ _ _ => none
  | .retirementComplete _ _ _ => none
  | .scratchpadAllocationFree _ _ => none
  | .tokenArrival _ => none
  | .tokenAcceptance _ => none
  | .tokenRefusal _ => none
  | .ltEnable _ _ => none
  | .ltEnableComplete _ _ => none
  | .ltAdvanceRoot _ _ => none
  | .ltSeal _ _ => none
  | .ltDisable _ _ => none
  | .ltBadCommand _ _ => none
  | .rootNoticeApply _ => none
  | .rootNoticeReply _ => none
  | .batchCloseTimeout _ => none
  | .batchApply _ => none
  | .curfewNoticeApply _ => none
  | .spillReadback _ => none
  | .ltspszWrite _ _ => none
  | .interleaveCommit _ _ => none
  | .interleaveCommitDone _ => none
  | .faultRecordWrite _ => none
  | .fqheadWrite _ _ => none
  | .fqbaseWrite _ _ => none
  | .machineCheck _ _ => none
  | .functionLevelReset _ => none
  | .powerOnReset _ => none
  | .startStageAdvance _ _ => none
  | .firmwareVerify _ _ _ _ => none
  | .doeImageWrite _ _ => none
  | .msixUnmask _ _ => none
  | .hostCxlMemAccess _ _ _ _ _ => none
  | .meshFlitReceive _ _ _ _ => none
  | .meshLaneFailure _ _ _ => none
  | .beyvexFlitReceive _ _ _ _ _ => none
  | .beyvexNakReceive _ _ _ => none
  | .beyvexLaneFailure _ _ _ => none
  | .beyvexRetrainDone _ _ => none
  | .bxctlRetrain _ _ => none
  | .peerRegionCommit _ _ => none
  | .peerRegionCommitDone _ => none
  | .staggerMessage _ _ _ _ _ => none
  | .powerEstimateTick _ _ => none
  | .quietDetection _ => none
  | .floorHoldExpiry _ => none
  | .stagoffExpiry _ => none
  | .fillerRaceStart _ _ => none
  | .powerRegisterWrite _ _ _ => none
  | .registerWrite _ _ _ _ => none
  | .meshLaneSpareReplay _ _ => none
  | .linkPartnerRetrain _ _ => none
  | .virtualHierarchyBinding _ _ => none
  | .spdmRequest _ _ => none

/-- Number of a die: 16 × package + die, dies 0 to 7 the compute dies and 8 the green (R2, R139). -/
def dieOk (l : Nat) : Bool := l < 16 * 1024 && l % 16 ≤ 8

/-- The units an event names exist in a part (R2, R137, R185, R443, R452); a slot instruction names none. -/
def Instr.unitsOk : Instr → Bool
  | .lda _ _ => true
  | .ldah _ _ _ => true
  | .mova _ _ => true
  | .adda _ _ _ => true
  | .addai _ _ _ => true
  | .suba _ _ _ => true
  | .shla _ _ _ => true
  | .mada _ _ _ => true
  | .anda _ _ _ => true
  | .popq _ => true
  | .ldg _ _ _ _ _ _ => true
  | .lds _ _ _ _ _ _ => true
  | .ldv _ _ _ _ _ _ _ _ => true
  | .ldvg _ _ _ _ _ _ => true
  | .amos _ _ _ _ _ _ _ _ => true
  | .amog _ _ _ _ _ _ _ _ => true
  | .pref _ _ _ => true
  | .stg _ _ _ _ => true
  | .sts _ _ _ _ => true
  | .stv _ _ _ _ _ _ => true
  | .stvg _ _ _ _ => true
  | .rget _ _ _ _ _ => true
  | .rput _ _ _ _ _ => true
  | .radvR _ _ _ _ => true
  | .radvW _ _ _ _ => true
  | .rset _ _ => true
  | .loop _ _ => true
  | .loopa _ _ => true
  | .ba _ => true
  | .bca _ _ _ _ => true
  | .call _ => true
  | .ret => true
  | .fenceS => true
  | .fenceE => true
  | .fenceG => true
  | .mte _ _ => true
  | .mfe _ _ => true
  | .cpy _ _ _ => true
  | .cpyg _ _ _ _ => true
  | .cpyx _ _ _ => true
  | .cbld _ _ _ _ _ => true
  | .cbval _ _ _ _ _ => true
  | .cbsel _ => true
  | .cbsave _ _ _ _ _ _ => true
  | .tsend _ _ _ _ _ => true
  | .cfw _ _ _ => true
  | .cft _ _ _ _ => true
  | .waitc _ _ _ _ => true
  | .caph _ _ => true
  | .capd _ _ => true
  | .pub _ => true
  | .acq _ => true
  | .shopen _ => true
  | .shpub _ => true
  | .yield => true
  | .retire => true
  | .trap _ => true
  | .brk _ => true
  | .sysc _ _ _ => true
  | .rdtime _ _ => true
  | .add _ _ _ => true
  | .sub _ _ _ => true
  | .mul _ _ _ => true
  | .mulh _ _ _ => true
  | .mulhn _ _ _ => true
  | .div _ _ _ _ => true
  | .divn _ _ _ _ => true
  | .rem _ _ _ _ => true
  | .remn _ _ _ _ => true
  | .and _ _ _ => true
  | .or _ _ _ => true
  | .xor _ _ _ => true
  | .andn _ _ _ => true
  | .shl _ _ _ => true
  | .shr _ _ _ => true
  | .sar _ _ _ => true
  | .rol _ _ _ => true
  | .clz _ _ => true
  | .ctz _ _ => true
  | .popc _ _ => true
  | .min _ _ _ => true
  | .max _ _ _ => true
  | .minn _ _ _ => true
  | .maxn _ _ _ => true
  | .cmp _ _ _ _ => true
  | .sel _ _ _ _ => true
  | .addi _ _ _ => true
  | .andi _ _ _ => true
  | .ori _ _ _ => true
  | .xori _ _ _ => true
  | .shli _ _ _ => true
  | .shri _ _ _ => true
  | .sari _ _ _ => true
  | .li _ _ => true
  | .lih _ _ => true
  | .take _ _ => true
  | .push _ => true
  | .mfs _ _ => true
  | .mts _ _ => true
  | .bx _ _ _ _ => true
  | .jx _ => true
  | .faddS _ _ _ _ => true
  | .fsubS _ _ _ _ => true
  | .fmulS _ _ _ _ => true
  | .fmaS _ _ _ _ _ => true
  | .fcvt _ _ _ _ => true
  | .vadd _ _ _ _ _ _ => true
  | .vsub _ _ _ _ _ _ => true
  | .vmul _ _ _ _ _ _ => true
  | .vfma _ _ _ _ _ _ => true
  | .vfms _ _ _ _ _ _ => true
  | .vmin _ _ _ _ _ => true
  | .vmax _ _ _ _ _ => true
  | .vabs _ _ _ _ _ => true
  | .vneg _ _ _ _ _ => true
  | .vcmp _ _ _ _ _ _ => true
  | .vsel _ _ _ _ _ => true
  | .vand _ _ _ => true
  | .vor _ _ _ => true
  | .vxor _ _ _ => true
  | .vnot _ _ => true
  | .vshl _ _ _ _ => true
  | .vshr _ _ _ _ => true
  | .vsar _ _ _ _ => true
  | .vcvt _ _ _ _ _ _ => true
  | .vqnt _ _ _ _ _ _ => true
  | .vdqt _ _ _ _ _ => true
  | .vcbx _ _ _ => true
  | .vcbi _ _ _ => true
  | .vred _ _ _ _ _ _ => true
  | .vperm _ _ _ _ => true
  | .vbcast _ _ _ _ => true
  | .vsplat _ _ _ => true
  | .vslide _ _ _ _ _ => true
  | .vzip _ _ _ _ _ => true
  | .vunzip _ _ _ _ _ => true
  | .vexp2 _ _ _ _ => true
  | .vlog2 _ _ _ _ => true
  | .vrcp _ _ _ _ => true
  | .vrsq _ _ _ _ => true
  | .vtake _ _ _ => true
  | .vpush _ => true
  | .dcw _ _ => true
  | .dcr _ => true
  | .rclaim _ _ => true
  | .rrel _ _ => true
  | .rldw _ _ _ _ => true
  | .rpass _ _ _ _ _ => true
  | .rpassr _ _ _ _ _ _ => true
  | .rsat _ _ => true
  | .rmin _ _ => true
  | .rmax _ _ => true
  | .rsort _ _ _ => true
  | .rtopk _ _ _ _ => true
  | .rrank _ _ _ => true
  | .accz _ _ => true
  | .accrd _ _ _ _ => true
  | .accst _ _ _ _ _ _ => true
  | .accnorm _ => true
  | .accexp _ _ _ => true
  | .rcal _ => true
  | .rtrimr _ => true
  | .rtrimw _ _ => true
  | .rstat _ => true
  | .bundleIssue l k => dieOk l && decide (k < 48)
  | .resultLanding l k => dieOk l && decide (k < 48)
  | .landingSlotFill l k c slot => dieOk l && decide (k < 48) && decide (c < 65540) && decide (slot < 32)
  | .sectorLanding l k _ hod sector _ => dieOk l && decide (k < 48) && decide (hod < 64) && decide (sector < 512)
  | .nbrRequestArrival l k => dieOk l && decide (k < 48)
  | .dieCacheRequest l => dieOk l
  | .lineReadExpand l _ _ => dieOk l
  | .fullLineWrite l _ _ _ => dieOk l
  | .partialLineWrite l _ _ _ => dieOk l
  | .tableWalkStart l => dieOk l
  | .tableWalkComplete l => dieOk l
  | .peerRequestCheck l _ _ _ _ _ _ _ _ => dieOk l
  | .peerResponseTimeout l k c slot => dieOk l && decide (k < 48) && decide (c < 65540) && decide (slot < 33)
  | .xlinvPage l _ => dieOk l
  | .xlinvRange l _ => dieOk l
  | .xlinvAll l => dieOk l
  | .xlinvReject l _ => dieOk l
  | .invalidationDone l => dieOk l
  | .shopenGrant l k c => dieOk l && decide (k < 48) && decide (c < 4)
  | .shpubExchange l k c => dieOk l && decide (k < 48) && decide (c < 65540)
  | .claimGrant l k _ n => dieOk l && decide (k < 48) && decide (n < 4)
  | .engineCommandAccept l k c => dieOk l && decide (k < 48) && decide (c < 4)
  | .copyChunkTranslate l k c => dieOk l && decide (k < 48) && decide (c < 4)
  | .copyBlockWrite l k c => dieOk l && decide (k < 48) && decide (c < 4)
  | .copyComplete l k c => dieOk l && decide (k < 48) && decide (c < 4)
  | .stampedCopyAck l => dieOk l
  | .transformChunkStart l k c => dieOk l && decide (k < 48) && decide (c < 4)
  | .transformEcall l k c => dieOk l && decide (k < 48) && decide (c < 4)
  | .transformTimeout l k c => dieOk l && decide (k < 48) && decide (c < 4)
  | .transformException l k c _ => dieOk l && decide (k < 48) && decide (c < 4)
  | .engineFaultReport l k c => dieOk l && decide (k < 48) && decide (c < 4)
  | .cbldEntryCommit l k c => dieOk l && decide (k < 48) && decide (c < 4)
  | .cbvalCommit l k c => dieOk l && decide (k < 48) && decide (c < 4)
  | .cbsaveComplete l k c => dieOk l && decide (k < 48) && decide (c < 4)
  | .codebookExchange l k c => dieOk l && decide (k < 48) && decide (c < 4)
  | .rldwCourseCommit l k => dieOk l && decide (k < 48)
  | .passConverterRead l k _ => dieOk l && decide (k < 48)
  | .reraceComplete l k _ => dieOk l && decide (k < 48)
  | .passLanding l k => dieOk l && decide (k < 48)
  | .renormalisationStep l k t => dieOk l && decide (k < 48) && decide (t < 4)
  | .combRead l k _ => dieOk l && decide (k < 48)
  | .combResultLand l k => dieOk l && decide (k < 48)
  | .rcalResult l k => dieOk l && decide (k < 48)
  | .eccCorrectedCore l k => dieOk l && decide (k < 48)
  | .eccFreezeEnd l k => dieOk l && decide (k < 48)
  | .eccCorrectedMemory l _ => dieOk l
  | .uncorrectableError l place k _ => dieOk l && decide (place < 3) && decide (k < 48)
  | .calibrationPeriodicTimer l k => dieOk l && decide (k < 48)
  | .temperatureSample l k _ => dieOk l && decide (k < 48)
  | .calibrationStart l k => dieOk l && decide (k < 48)
  | .calibrationRoutine l k => dieOk l && decide (k < 48)
  | .doorbellWrite l q _ => dieOk l && decide (q < 8192)
  | .openRegion l q => dieOk l && decide (q < 8192)
  | .placeOperator l q => dieOk l && decide (q < 8192)
  | .refresh l q => dieOk l && decide (q < 8192)
  | .closeRegion l q => dieOk l && decide (q < 8192)
  | .killRegion l q => dieOk l && decide (q < 8192)
  | .resume l q => dieOk l && decide (q < 8192)
  | .launchRefused l q => dieOk l && decide (q < 8192)
  | .stepRelease l w => dieOk l && decide (w < 4)
  | .switchThresholdExpiry l k => dieOk l && decide (k < 48)
  | .sliceExpiry l k => dieOk l && decide (k < 48)
  | .priorityAgeing l k c => dieOk l && decide (k < 48) && decide (c < 65540)
  | .swapThresholdExpiry l k c => dieOk l && decide (k < 48) && decide (c < 4)
  | .swapOut l k c => dieOk l && decide (k < 48) && decide (c < 4)
  | .swapIn l slot => dieOk l && decide (slot < 65536)
  | .waitingBudgetExhausted l k c => dieOk l && decide (k < 48) && decide (c < 65540)
  | .stepTimeBoundOverrun l k c => dieOk l && decide (k < 48) && decide (c < 65540)
  | .waitcTimeout l k c => dieOk l && decide (k < 48) && decide (c < 4)
  | .publicationComplete l k c => dieOk l && decide (k < 48) && decide (c < 65540)
  | .fenceComplete l k c => dieOk l && decide (k < 48) && decide (c < 4)
  | .retirementComplete l k c => dieOk l && decide (k < 48) && decide (c < 4)
  | .scratchpadAllocationFree l k => dieOk l && decide (k < 48)
  | .tokenArrival l => dieOk l
  | .tokenAcceptance l => dieOk l
  | .tokenRefusal l => dieOk l
  | .ltEnable l p => dieOk l && decide (p < 64)
  | .ltEnableComplete l p => dieOk l && decide (p < 64)
  | .ltAdvanceRoot l p => dieOk l && decide (p < 64)
  | .ltSeal l p => dieOk l && decide (p < 64)
  | .ltDisable l p => dieOk l && decide (p < 64)
  | .ltBadCommand l _ => dieOk l
  | .rootNoticeApply l => dieOk l
  | .rootNoticeReply l => dieOk l
  | .batchCloseTimeout l => dieOk l
  | .batchApply l => dieOk l
  | .curfewNoticeApply l => dieOk l
  | .spillReadback l => dieOk l
  | .ltspszWrite l _ => dieOk l
  | .interleaveCommit l _ => dieOk l
  | .interleaveCommitDone l => dieOk l
  | .faultRecordWrite l => dieOk l
  | .fqheadWrite l _ => dieOk l
  | .fqbaseWrite l _ => dieOk l
  | .machineCheck l unit => dieOk l && decide (unit < 12)
  | .functionLevelReset l => dieOk l
  | .powerOnReset p => decide (p < 1024)
  | .startStageAdvance l _ => dieOk l
  | .firmwareVerify p _ _ _ => decide (p < 1024)
  | .doeImageWrite p _ => decide (p < 1024)
  | .msixUnmask l v => dieOk l && decide (v < 2048)
  | .hostCxlMemAccess l _ _ _ _ => dieOk l
  | .meshFlitReceive p link _ _ => decide (p < 1024) && decide (link < 24)
  | .meshLaneFailure p link lane => decide (p < 1024) && decide (link < 12) && decide (lane < 136)
  | .beyvexFlitReceive p port _ _ _ => decide (p < 1024) && decide (port < 12)
  | .beyvexNakReceive p port _ => decide (p < 1024) && decide (port < 12)
  | .beyvexLaneFailure p port lane => decide (p < 1024) && decide (port < 12) && decide (lane < 16)
  | .beyvexRetrainDone p port => decide (p < 1024) && decide (port < 12)
  | .bxctlRetrain l port => dieOk l && decide (port < 12)
  | .peerRegionCommit l _ => dieOk l
  | .peerRegionCommitDone p => decide (p < 1024)
  | .staggerMessage p port _ _ _ => decide (p < 1024) && decide (port < 12)
  | .powerEstimateTick p _ => decide (p < 1024)
  | .quietDetection p => decide (p < 1024)
  | .floorHoldExpiry p => decide (p < 1024)
  | .stagoffExpiry p => decide (p < 1024)
  | .fillerRaceStart l k => dieOk l && decide (k < 48)
  | .powerRegisterWrite l _ _ => dieOk l
  | .registerWrite l _ _ _ => dieOk l
  | .meshLaneSpareReplay p link => decide (p < 1024) && decide (link < 12)
  | .linkPartnerRetrain p port => decide (p < 1024) && decide (port < 12)
  | .virtualHierarchyBinding l _ => dieOk l
  | .spdmRequest l _ => dieOk l

/-- A well-formed instruction: legal fields and existing units. -/
def Instr.wf (i : Instr) : Bool := i.ill.isNone && i.unitsOk

end Sys2Proof
end

