-- ==== Sys2Proof/Decode.lean ====
section
/-! DEFINITION. Reading and writing slot words (R244, R261 to R264) and bundle headers (R243).
`decodeSlot` is total: a word is an instruction or is rejected with its place and reason. -/

namespace Sys2Proof

/-- Why a word of a bundle is illegal: the place and the reason of R264. -/
structure DecodeError where
  place  : Nat
  reason : Reason
  deriving DecidableEq, Repr

/-- The field of `n` bits whose lowest bit is `lo` (R5). -/
def fld {n : Nat} (w : BitVec 32) (lo : Nat) : BitVec n := w.extractLsb' lo n

/-- A word carrying MARK in [31:26] is a header wherever it stands (R244). -/
def isHeader (w : BitVec 32) : Bool := w.extractLsb' 26 6 == 0b101101#6

/-- The last checks on a word whose opcode is listed: reserved bits are zero (R8), then the legality of the fields. -/
def checked (place : Nat) (w rsv : BitVec 32) (i : Instr) : Except DecodeError Instr :=
  if w &&& rsv = 0#32 then
    match i.ill with
    | none => .ok i
    | some r => .error ⟨place, r⟩
  else .error ⟨place, .reserved⟩

/-- The A slot's opcodes (R262). A fence with fn 3 reports its value before a reserved bit (log entry 7). -/
def decodeA (w : BitVec 32) : Except DecodeError Instr :=
  match (w.extractLsb' 24 8).toNat with
  | 0x01 => checked 1 w 0x000F0000#32 (.lda (fld w 20) (fld w 0))
  | 0x02 => checked 1 w 0x00000000#32 (.ldah (fld w 20) (fld w 16) (fld w 0))
  | 0x03 => checked 1 w 0x0000FFFF#32 (.mova (fld w 20) (fld w 16))
  | 0x04 => checked 1 w 0x00000FFF#32 (.adda (fld w 20) (fld w 16) (fld w 12))
  | 0x05 => checked 1 w 0x00000000#32 (.addai (fld w 20) (fld w 16) (fld w 0))
  | 0x06 => checked 1 w 0x00000FFF#32 (.suba (fld w 20) (fld w 16) (fld w 12))
  | 0x07 => checked 1 w 0x0000FFC0#32 (.shla (fld w 20) (fld w 16) (fld w 0))
  | 0x08 => checked 1 w 0x00000FFF#32 (.mada (fld w 20) (fld w 16) (fld w 12))
  | 0x09 => checked 1 w 0x00000FFF#32 (.anda (fld w 20) (fld w 16) (fld w 12))
  | 0x0A => checked 1 w 0x000FFFFF#32 (.popq (fld w 20))
  | 0x10 => checked 1 w 0x00000000#32 (.ldg (fld w 19) (fld w 15) (fld w 11) (fld w 8) (fld w 6) (fld w 0))
  | 0x11 => checked 1 w 0x00000000#32 (.lds (fld w 19) (fld w 15) (fld w 11) (fld w 8) (fld w 7) (fld w 0))
  | 0x12 => checked 1 w 0x00000000#32 (.ldv (fld w 19) (fld w 15) (fld w 11) (fld w 9) (fld w 8) (fld w 7) (fld w 6) (fld w 0))
  | 0x13 => checked 1 w 0x00000300#32 (.ldvg (fld w 19) (fld w 15) (fld w 11) (fld w 10) (fld w 6) (fld w 0))
  | 0x14 => checked 1 w 0x00000000#32 (.amos (fld w 20) (fld w 16) (fld w 12) (fld w 8) (fld w 7) (fld w 5) (fld w 1) (fld w 0))
  | 0x15 => checked 1 w 0x00000000#32 (.amog (fld w 20) (fld w 16) (fld w 12) (fld w 8) (fld w 7) (fld w 5) (fld w 1) (fld w 0))
  | 0x16 => checked 1 w 0x00F87F00#32 (.pref (fld w 15) (fld w 6) (fld w 0))
  | 0x20 => checked 1 w 0x00F87800#32 (.stg (fld w 15) (fld w 8) (fld w 6) (fld w 0))
  | 0x21 => checked 1 w 0x00F87800#32 (.sts (fld w 15) (fld w 8) (fld w 7) (fld w 0))
  | 0x22 => checked 1 w 0x00F87800#32 (.stv (fld w 15) (fld w 9) (fld w 8) (fld w 7) (fld w 6) (fld w 0))
  | 0x23 => checked 1 w 0x00F87B00#32 (.stvg (fld w 15) (fld w 10) (fld w 6) (fld w 0))
  | 0x30 => checked 1 w 0x00000780#32 (.rget (fld w 20) (fld w 16) (fld w 12) (fld w 11) (fld w 0))
  | 0x31 => checked 1 w 0x00000780#32 (.rput (fld w 20) (fld w 16) (fld w 12) (fld w 11) (fld w 0))
  | 0x32 => if w.extractLsb' 10 1 = 0#1 then checked 1 w 0x00F00380#32 (.radvR (fld w 16) (fld w 12) (fld w 11) (fld w 0)) else checked 1 w 0x00F00380#32 (.radvW (fld w 16) (fld w 12) (fld w 11) (fld w 0))
  | 0x33 => checked 1 w 0x00F00FFF#32 (.rset (fld w 16) (fld w 12))
  | 0x40 => checked 1 w 0x00000000#32 (.loop (fld w 12) (fld w 0))
  | 0x41 => checked 1 w 0x000FF000#32 (.loopa (fld w 20) (fld w 0))
  | 0x42 => checked 1 w 0x00FFF800#32 (.ba (fld w 0))
  | 0x43 => checked 1 w 0x00001800#32 (.bca (fld w 21) (fld w 17) (fld w 13) (fld w 0))
  | 0x44 => checked 1 w 0x00FFF800#32 (.call (fld w 0))
  | 0x45 => checked 1 w 0x00FFFFFF#32 (.ret)
  | 0x46 => match (w.extractLsb' 0 2).toNat with
    | 0 => checked 1 w 0x00FFFFFC#32 .fenceS
    | 1 => checked 1 w 0x00FFFFFC#32 .fenceE
    | 2 => checked 1 w 0x00FFFFFC#32 .fenceG
    | _ => .error ⟨1, .value⟩
  | _ => .error ⟨1, .opcode⟩

/-- The E slot's opcodes (R262). -/
def decodeE (w : BitVec 32) : Except DecodeError Instr :=
  match (w.extractLsb' 24 8).toNat with
  | 0x01 => checked 2 w 0x000FFFC0#32 (.mte (fld w 20) (fld w 0))
  | 0x02 => checked 2 w 0x00F0FFC0#32 (.mfe (fld w 16) (fld w 0))
  | 0x08 => checked 2 w 0x0000FFF8#32 (.cpy (fld w 20) (fld w 16) (fld w 0))
  | 0x09 => checked 2 w 0x0000FFF0#32 (.cpyg (fld w 20) (fld w 16) (fld w 3) (fld w 0))
  | 0x0A => checked 2 w 0x0000FFF8#32 (.cpyx (fld w 20) (fld w 16) (fld w 0))
  | 0x10 => checked 2 w 0x0000F800#32 (.cbld (fld w 20) (fld w 16) (fld w 3) (fld w 2) (fld w 0))
  | 0x11 => checked 2 w 0x0000FF80#32 (.cbval (fld w 20) (fld w 16) (fld w 3) (fld w 2) (fld w 0))
  | 0x12 => checked 2 w 0x000FFFFF#32 (.cbsel (fld w 20))
  | 0x13 => checked 2 w 0x0000F000#32 (.cbsave (fld w 20) (fld w 16) (fld w 11) (fld w 3) (fld w 2) (fld w 0))
  | 0x18 => checked 2 w 0x00000000#32 (.tsend (fld w 20) (fld w 16) (fld w 8) (fld w 6) (fld w 0))
  | 0x20 => checked 2 w 0x000FC000#32 (.cfw (fld w 20) (fld w 8) (fld w 0))
  | 0x21 => checked 2 w 0x0000C000#32 (.cft (fld w 20) (fld w 16) (fld w 8) (fld w 0))
  | 0x22 => checked 2 w 0x0000FFF0#32 (.waitc (fld w 20) (fld w 16) (fld w 3) (fld w 0))
  | 0x23 => checked 2 w 0x000FFF00#32 (.caph (fld w 20) (fld w 0))
  | 0x24 => checked 2 w 0x000FFF00#32 (.capd (fld w 20) (fld w 0))
  | 0x28 => checked 2 w 0x00FFFFF8#32 (.pub (fld w 0))
  | 0x29 => checked 2 w 0x00FFFFF8#32 (.acq (fld w 0))
  | 0x2A => checked 2 w 0x000FFFFF#32 (.shopen (fld w 20))
  | 0x2B => checked 2 w 0x000FFFFF#32 (.shpub (fld w 20))
  | 0x30 => checked 2 w 0x00FFFFFF#32 (.yield)
  | 0x31 => checked 2 w 0x00FFFFFF#32 (.retire)
  | 0x32 => checked 2 w 0x00FFFFC0#32 (.trap (fld w 0))
  | 0x33 => checked 2 w 0x00FFFFC0#32 (.brk (fld w 0))
  | 0x34 => checked 2 w 0x0000FF00#32 (.sysc (fld w 20) (fld w 16) (fld w 0))
  | 0x35 => checked 2 w 0x00F0FFFE#32 (.rdtime (fld w 16) (fld w 0))
  | _ => .error ⟨2, .opcode⟩

/-- The X slot's opcodes (R262). -/
def decodeX (w : BitVec 32) : Except DecodeError Instr :=
  match (w.extractLsb' 24 8).toNat with
  | 0x01 => checked 3 w 0x000001FF#32 (.add (fld w 19) (fld w 14) (fld w 9))
  | 0x02 => checked 3 w 0x000001FF#32 (.sub (fld w 19) (fld w 14) (fld w 9))
  | 0x03 => checked 3 w 0x000001FF#32 (.mul (fld w 19) (fld w 14) (fld w 9))
  | 0x04 => checked 3 w 0x000001FF#32 (.mulh (fld w 19) (fld w 14) (fld w 9))
  | 0x05 => checked 3 w 0x000001FF#32 (.mulhn (fld w 19) (fld w 14) (fld w 9))
  | 0x06 => checked 3 w 0x000001FE#32 (.div (fld w 19) (fld w 14) (fld w 9) (fld w 0))
  | 0x07 => checked 3 w 0x000001FE#32 (.divn (fld w 19) (fld w 14) (fld w 9) (fld w 0))
  | 0x08 => checked 3 w 0x000001FE#32 (.rem (fld w 19) (fld w 14) (fld w 9) (fld w 0))
  | 0x09 => checked 3 w 0x000001FE#32 (.remn (fld w 19) (fld w 14) (fld w 9) (fld w 0))
  | 0x0A => checked 3 w 0x000001FF#32 (.and (fld w 19) (fld w 14) (fld w 9))
  | 0x0B => checked 3 w 0x000001FF#32 (.or (fld w 19) (fld w 14) (fld w 9))
  | 0x0C => checked 3 w 0x000001FF#32 (.xor (fld w 19) (fld w 14) (fld w 9))
  | 0x0D => checked 3 w 0x000001FF#32 (.andn (fld w 19) (fld w 14) (fld w 9))
  | 0x0E => checked 3 w 0x000001FF#32 (.shl (fld w 19) (fld w 14) (fld w 9))
  | 0x0F => checked 3 w 0x000001FF#32 (.shr (fld w 19) (fld w 14) (fld w 9))
  | 0x10 => checked 3 w 0x000001FF#32 (.sar (fld w 19) (fld w 14) (fld w 9))
  | 0x11 => checked 3 w 0x000001FF#32 (.rol (fld w 19) (fld w 14) (fld w 9))
  | 0x12 => checked 3 w 0x00003FFF#32 (.clz (fld w 19) (fld w 14))
  | 0x13 => checked 3 w 0x00003FFF#32 (.ctz (fld w 19) (fld w 14))
  | 0x14 => checked 3 w 0x00003FFF#32 (.popc (fld w 19) (fld w 14))
  | 0x15 => checked 3 w 0x000001FF#32 (.min (fld w 19) (fld w 14) (fld w 9))
  | 0x16 => checked 3 w 0x000001FF#32 (.max (fld w 19) (fld w 14) (fld w 9))
  | 0x17 => checked 3 w 0x000001FF#32 (.minn (fld w 19) (fld w 14) (fld w 9))
  | 0x18 => checked 3 w 0x000001FF#32 (.maxn (fld w 19) (fld w 14) (fld w 9))
  | 0x19 => checked 3 w 0x000001F8#32 (.cmp (fld w 19) (fld w 14) (fld w 9) (fld w 0))
  | 0x1A => checked 3 w 0x000001E0#32 (.sel (fld w 19) (fld w 14) (fld w 9) (fld w 0))
  | 0x20 => checked 3 w 0x00000000#32 (.addi (fld w 19) (fld w 14) (fld w 0))
  | 0x21 => checked 3 w 0x00000000#32 (.andi (fld w 19) (fld w 14) (fld w 0))
  | 0x22 => checked 3 w 0x00000000#32 (.ori (fld w 19) (fld w 14) (fld w 0))
  | 0x23 => checked 3 w 0x00000000#32 (.xori (fld w 19) (fld w 14) (fld w 0))
  | 0x24 => checked 3 w 0x00003FC0#32 (.shli (fld w 19) (fld w 14) (fld w 0))
  | 0x25 => checked 3 w 0x00003FC0#32 (.shri (fld w 19) (fld w 14) (fld w 0))
  | 0x26 => checked 3 w 0x00003FC0#32 (.sari (fld w 19) (fld w 14) (fld w 0))
  | 0x27 => checked 3 w 0x00000000#32 (.li (fld w 19) (fld w 0))
  | 0x28 => checked 3 w 0x00000000#32 (.lih (fld w 19) (fld w 0))
  | 0x30 => checked 3 w 0x0007FFE0#32 (.take (fld w 19) (fld w 0))
  | 0x31 => checked 3 w 0x00F83FFF#32 (.push (fld w 14))
  | 0x32 => checked 3 w 0x0007C000#32 (.mfs (fld w 19) (fld w 0))
  | 0x33 => checked 3 w 0x00F80000#32 (.mts (fld w 14) (fld w 0))
  | 0x38 => checked 3 w 0x00000000#32 (.bx (fld w 21) (fld w 16) (fld w 11) (fld w 0))
  | 0x39 => checked 3 w 0x00F83FFF#32 (.jx (fld w 14))
  | 0x40 => checked 3 w 0x0000011F#32 (.faddS (fld w 19) (fld w 14) (fld w 9) (fld w 5))
  | 0x41 => checked 3 w 0x0000011F#32 (.fsubS (fld w 19) (fld w 14) (fld w 9) (fld w 5))
  | 0x42 => checked 3 w 0x0000011F#32 (.fmulS (fld w 19) (fld w 14) (fld w 9) (fld w 5))
  | 0x43 => checked 3 w 0x00000100#32 (.fmaS (fld w 19) (fld w 14) (fld w 9) (fld w 5) (fld w 0))
  | 0x44 => checked 3 w 0x00003F10#32 (.fcvt (fld w 19) (fld w 14) (fld w 5) (fld w 0))
  | _ => .error ⟨3, .opcode⟩

/-- The V slot's opcodes (R262). A fmt of vand, vor, vxor and vnot that is not 0, or of vcbx and vcbi that is not 0xF, is reported before a
reserved bit of the word (log entry 7). -/
def decodeV (w : BitVec 32) : Except DecodeError Instr :=
  match (w.extractLsb' 24 8).toNat with
  | 0x01 => checked 4 w 0x00000700#32 (.vadd (fld w 20) (fld w 16) (fld w 12) (fld w 11) (fld w 4) (fld w 0))
  | 0x02 => checked 4 w 0x00000700#32 (.vsub (fld w 20) (fld w 16) (fld w 12) (fld w 11) (fld w 4) (fld w 0))
  | 0x03 => checked 4 w 0x00000700#32 (.vmul (fld w 20) (fld w 16) (fld w 12) (fld w 11) (fld w 4) (fld w 0))
  | 0x04 => checked 4 w 0x00000000#32 (.vfma (fld w 20) (fld w 16) (fld w 12) (fld w 8) (fld w 4) (fld w 0))
  | 0x05 => checked 4 w 0x00000000#32 (.vfms (fld w 20) (fld w 16) (fld w 12) (fld w 8) (fld w 4) (fld w 0))
  | 0x06 => checked 4 w 0x00000F00#32 (.vmin (fld w 20) (fld w 16) (fld w 12) (fld w 4) (fld w 0))
  | 0x07 => checked 4 w 0x00000F00#32 (.vmax (fld w 20) (fld w 16) (fld w 12) (fld w 4) (fld w 0))
  | 0x08 => checked 4 w 0x0000F700#32 (.vabs (fld w 20) (fld w 16) (fld w 11) (fld w 4) (fld w 0))
  | 0x09 => checked 4 w 0x0000F700#32 (.vneg (fld w 20) (fld w 16) (fld w 11) (fld w 4) (fld w 0))
  | 0x0A => checked 4 w 0x00000C00#32 (.vcmp (fld w 20) (fld w 16) (fld w 12) (fld w 8) (fld w 4) (fld w 0))
  | 0x0B => checked 4 w 0x0000000F#32 (.vsel (fld w 20) (fld w 16) (fld w 12) (fld w 8) (fld w 4))
  | 0x0C => if w.extractLsb' 4 4 = 0#4 then checked 4 w 0x00000F0F#32 (.vand (fld w 20) (fld w 16) (fld w 12)) else .error ⟨4, .value⟩
  | 0x0D => if w.extractLsb' 4 4 = 0#4 then checked 4 w 0x00000F0F#32 (.vor (fld w 20) (fld w 16) (fld w 12)) else .error ⟨4, .value⟩
  | 0x0E => if w.extractLsb' 4 4 = 0#4 then checked 4 w 0x00000F0F#32 (.vxor (fld w 20) (fld w 16) (fld w 12)) else .error ⟨4, .value⟩
  | 0x0F => if w.extractLsb' 4 4 = 0#4 then checked 4 w 0x0000FF0F#32 (.vnot (fld w 20) (fld w 16)) else .error ⟨4, .value⟩
  | 0x10 => checked 4 w 0x00000F0F#32 (.vshl (fld w 20) (fld w 16) (fld w 12) (fld w 4))
  | 0x11 => checked 4 w 0x00000F0F#32 (.vshr (fld w 20) (fld w 16) (fld w 12) (fld w 4))
  | 0x12 => checked 4 w 0x00000F0F#32 (.vsar (fld w 20) (fld w 16) (fld w 12) (fld w 4))
  | 0x18 => checked 4 w 0x00008000#32 (.vcvt (fld w 20) (fld w 16) (fld w 12) (fld w 8) (fld w 4) (fld w 0))
  | 0x19 => checked 4 w 0x00000000#32 (.vqnt (fld w 20) (fld w 16) (fld w 12) (fld w 8) (fld w 4) (fld w 0))
  | 0x1A => checked 4 w 0x0000800F#32 (.vdqt (fld w 20) (fld w 16) (fld w 12) (fld w 8) (fld w 4))
  | 0x1B => if w.extractLsb' 4 4 = 0xF#4 then checked 4 w 0x0000FF00#32 (.vcbx (fld w 20) (fld w 16) (fld w 0)) else .error ⟨4, .value⟩
  | 0x1C => if w.extractLsb' 4 4 = 0xF#4 then checked 4 w 0x0000FF00#32 (.vcbi (fld w 20) (fld w 16) (fld w 0)) else .error ⟨4, .value⟩
  | 0x20 => checked 4 w 0x00000C00#32 (.vred (fld w 20) (fld w 16) (fld w 12) (fld w 8) (fld w 4) (fld w 0))
  | 0x21 => checked 4 w 0x00000F0F#32 (.vperm (fld w 20) (fld w 16) (fld w 12) (fld w 4))
  | 0x22 => checked 4 w 0x0000000F#32 (.vbcast (fld w 20) (fld w 16) (fld w 8) (fld w 4))
  | 0x23 => checked 4 w 0x0000000F#32 (.vsplat (fld w 20) (fld w 8) (fld w 4))
  | 0x24 => checked 4 w 0x00000E0F#32 (.vslide (fld w 20) (fld w 16) (fld w 12) (fld w 8) (fld w 4))
  | 0x25 => checked 4 w 0x00000E0F#32 (.vzip (fld w 20) (fld w 16) (fld w 12) (fld w 8) (fld w 4))
  | 0x26 => checked 4 w 0x00000E0F#32 (.vunzip (fld w 20) (fld w 16) (fld w 12) (fld w 8) (fld w 4))
  | 0x28 => checked 4 w 0x0000FF00#32 (.vexp2 (fld w 20) (fld w 16) (fld w 4) (fld w 0))
  | 0x29 => checked 4 w 0x0000FF00#32 (.vlog2 (fld w 20) (fld w 16) (fld w 4) (fld w 0))
  | 0x2A => checked 4 w 0x0000FF00#32 (.vrcp (fld w 20) (fld w 16) (fld w 4) (fld w 0))
  | 0x2B => checked 4 w 0x0000FF00#32 (.vrsq (fld w 20) (fld w 16) (fld w 4) (fld w 0))
  | 0x30 => checked 4 w 0x0000EFFF#32 (.vtake (fld w 20) (fld w 16) (fld w 12))
  | 0x31 => checked 4 w 0x00F0FFFF#32 (.vpush (fld w 16))
  | _ => .error ⟨4, .opcode⟩

/-- The D slot's opcodes (R262). -/
def decodeD (w : BitVec 32) : Except DecodeError Instr :=
  match (w.extractLsb' 24 8).toNat with
  | 0x01 => checked 5 w 0x0007FFF0#32 (.dcw (fld w 19) (fld w 0))
  | 0x02 => checked 5 w 0x00FFFFF0#32 (.dcr (fld w 0))
  | 0x08 => checked 5 w 0x00FFFFF8#32 (.rclaim (fld w 2) (fld w 0))
  | 0x09 => checked 5 w 0x00FFFFF8#32 (.rrel (fld w 2) (fld w 0))
  | 0x0A => checked 5 w 0x00003FF8#32 (.rldw (fld w 19) (fld w 14) (fld w 2) (fld w 0))
  | 0x10 => checked 5 w 0x00FFC001#32 (.rpass (fld w 10) (fld w 6) (fld w 4) (fld w 2) (fld w 1))
  | 0x11 => checked 5 w 0x00FFC000#32 (.rpassr (fld w 10) (fld w 6) (fld w 4) (fld w 2) (fld w 1) (fld w 0))
  | 0x12 => checked 5 w 0x00FFFFF8#32 (.rsat (fld w 2) (fld w 0))
  | 0x18 => checked 5 w 0x00FFC3F7#32 (.rmin (fld w 10) (fld w 3))
  | 0x19 => checked 5 w 0x00FFC3F7#32 (.rmax (fld w 10) (fld w 3))
  | 0x1A => checked 5 w 0x00FFC3F3#32 (.rsort (fld w 10) (fld w 3) (fld w 2))
  | 0x1B => checked 5 w 0x00FFC003#32 (.rtopk (fld w 10) (fld w 4) (fld w 3) (fld w 2))
  | 0x1C => checked 5 w 0x00FFC3F3#32 (.rrank (fld w 10) (fld w 3) (fld w 2))
  | 0x20 => checked 5 w 0x0007FFFC#32 (.accz (fld w 19) (fld w 0))
  | 0x21 => checked 5 w 0x0007FFC0#32 (.accrd (fld w 19) (fld w 4) (fld w 2) (fld w 0))
  | 0x22 => checked 5 w 0x00003FC0#32 (.accst (fld w 19) (fld w 14) (fld w 5) (fld w 4) (fld w 2) (fld w 0))
  | 0x23 => checked 5 w 0x00FFFFFC#32 (.accnorm (fld w 0))
  | 0x24 => checked 5 w 0x0007FFF8#32 (.accexp (fld w 19) (fld w 2) (fld w 0))
  | 0x30 => checked 5 w 0x0007FFFF#32 (.rcal (fld w 19))
  | 0x31 => checked 5 w 0x00FFFFC0#32 (.rtrimr (fld w 0))
  | 0x32 => checked 5 w 0x0007FFC0#32 (.rtrimw (fld w 19) (fld w 0))
  | 0x33 => checked 5 w 0x00FFFFC0#32 (.rstat (fld w 0))
  | _ => .error ⟨5, .opcode⟩

/-- A slot word read in the slot numbered 0 for A up to 4 for D; a word with MARK is never one (R263). -/
def decodeSlot (slot : Nat) (w : BitVec 32) : Except DecodeError Instr :=
  if isHeader w then .error ⟨slot + 1, .opcode⟩
  else
    match slot with
    | 0 => decodeA w
    | 1 => decodeE w
    | 2 => decodeX w
    | 3 => decodeV w
    | 4 => decodeD w
    | _ => .error ⟨slot + 1, .opcode⟩

/-- The header word of a bundle (R243). -/
structure Header where
  slots : BitVec 5
  hold  : BitVec 5
  sync  : BitVec 2
  deriving DecidableEq, Repr

/-- A header word read under R243: MARK, reserved bits and SYNC 11 are checked. -/
def decodeHeader (w : BitVec 32) : Except DecodeError Header :=
  if !isHeader w then .error ⟨0, .opcode⟩
  else if w.extractLsb' 0 14 ≠ 0#14 then .error ⟨0, .reserved⟩
  else if w.extractLsb' 14 2 = 3#2 then .error ⟨0, .value⟩
  else .ok ⟨w.extractLsb' 21 5, w.extractLsb' 16 5, w.extractLsb' 14 2⟩

/-- The number of slot words that follow a header (R244). -/
def Header.words (h : Header) : Nat := ((List.range 5).filter fun i => h.slots.getLsbD i).length

/-- The header word with these fields (R243). -/
def Header.encode (h : Header) : BitVec 32 := 0b101101#6 ++ h.slots ++ h.hold ++ h.sync ++ 0#14

/-- The slot whose word encodes the instruction: 0 A, 1 E, 2 X, 3 V, 4 D; none for an event. -/
def Instr.slot : Instr → Option Nat
  | .lda _ _ => some 0
  | .ldah _ _ _ => some 0
  | .mova _ _ => some 0
  | .adda _ _ _ => some 0
  | .addai _ _ _ => some 0
  | .suba _ _ _ => some 0
  | .shla _ _ _ => some 0
  | .mada _ _ _ => some 0
  | .anda _ _ _ => some 0
  | .popq _ => some 0
  | .ldg _ _ _ _ _ _ => some 0
  | .lds _ _ _ _ _ _ => some 0
  | .ldv _ _ _ _ _ _ _ _ => some 0
  | .ldvg _ _ _ _ _ _ => some 0
  | .amos _ _ _ _ _ _ _ _ => some 0
  | .amog _ _ _ _ _ _ _ _ => some 0
  | .pref _ _ _ => some 0
  | .stg _ _ _ _ => some 0
  | .sts _ _ _ _ => some 0
  | .stv _ _ _ _ _ _ => some 0
  | .stvg _ _ _ _ => some 0
  | .rget _ _ _ _ _ => some 0
  | .rput _ _ _ _ _ => some 0
  | .radvR _ _ _ _ => some 0
  | .radvW _ _ _ _ => some 0
  | .rset _ _ => some 0
  | .loop _ _ => some 0
  | .loopa _ _ => some 0
  | .ba _ => some 0
  | .bca _ _ _ _ => some 0
  | .call _ => some 0
  | .ret => some 0
  | .fenceS => some 0
  | .fenceE => some 0
  | .fenceG => some 0
  | .mte _ _ => some 1
  | .mfe _ _ => some 1
  | .cpy _ _ _ => some 1
  | .cpyg _ _ _ _ => some 1
  | .cpyx _ _ _ => some 1
  | .cbld _ _ _ _ _ => some 1
  | .cbval _ _ _ _ _ => some 1
  | .cbsel _ => some 1
  | .cbsave _ _ _ _ _ _ => some 1
  | .tsend _ _ _ _ _ => some 1
  | .cfw _ _ _ => some 1
  | .cft _ _ _ _ => some 1
  | .waitc _ _ _ _ => some 1
  | .caph _ _ => some 1
  | .capd _ _ => some 1
  | .pub _ => some 1
  | .acq _ => some 1
  | .shopen _ => some 1
  | .shpub _ => some 1
  | .yield => some 1
  | .retire => some 1
  | .trap _ => some 1
  | .brk _ => some 1
  | .sysc _ _ _ => some 1
  | .rdtime _ _ => some 1
  | .add _ _ _ => some 2
  | .sub _ _ _ => some 2
  | .mul _ _ _ => some 2
  | .mulh _ _ _ => some 2
  | .mulhn _ _ _ => some 2
  | .div _ _ _ _ => some 2
  | .divn _ _ _ _ => some 2
  | .rem _ _ _ _ => some 2
  | .remn _ _ _ _ => some 2
  | .and _ _ _ => some 2
  | .or _ _ _ => some 2
  | .xor _ _ _ => some 2
  | .andn _ _ _ => some 2
  | .shl _ _ _ => some 2
  | .shr _ _ _ => some 2
  | .sar _ _ _ => some 2
  | .rol _ _ _ => some 2
  | .clz _ _ => some 2
  | .ctz _ _ => some 2
  | .popc _ _ => some 2
  | .min _ _ _ => some 2
  | .max _ _ _ => some 2
  | .minn _ _ _ => some 2
  | .maxn _ _ _ => some 2
  | .cmp _ _ _ _ => some 2
  | .sel _ _ _ _ => some 2
  | .addi _ _ _ => some 2
  | .andi _ _ _ => some 2
  | .ori _ _ _ => some 2
  | .xori _ _ _ => some 2
  | .shli _ _ _ => some 2
  | .shri _ _ _ => some 2
  | .sari _ _ _ => some 2
  | .li _ _ => some 2
  | .lih _ _ => some 2
  | .take _ _ => some 2
  | .push _ => some 2
  | .mfs _ _ => some 2
  | .mts _ _ => some 2
  | .bx _ _ _ _ => some 2
  | .jx _ => some 2
  | .faddS _ _ _ _ => some 2
  | .fsubS _ _ _ _ => some 2
  | .fmulS _ _ _ _ => some 2
  | .fmaS _ _ _ _ _ => some 2
  | .fcvt _ _ _ _ => some 2
  | .vadd _ _ _ _ _ _ => some 3
  | .vsub _ _ _ _ _ _ => some 3
  | .vmul _ _ _ _ _ _ => some 3
  | .vfma _ _ _ _ _ _ => some 3
  | .vfms _ _ _ _ _ _ => some 3
  | .vmin _ _ _ _ _ => some 3
  | .vmax _ _ _ _ _ => some 3
  | .vabs _ _ _ _ _ => some 3
  | .vneg _ _ _ _ _ => some 3
  | .vcmp _ _ _ _ _ _ => some 3
  | .vsel _ _ _ _ _ => some 3
  | .vand _ _ _ => some 3
  | .vor _ _ _ => some 3
  | .vxor _ _ _ => some 3
  | .vnot _ _ => some 3
  | .vshl _ _ _ _ => some 3
  | .vshr _ _ _ _ => some 3
  | .vsar _ _ _ _ => some 3
  | .vcvt _ _ _ _ _ _ => some 3
  | .vqnt _ _ _ _ _ _ => some 3
  | .vdqt _ _ _ _ _ => some 3
  | .vcbx _ _ _ => some 3
  | .vcbi _ _ _ => some 3
  | .vred _ _ _ _ _ _ => some 3
  | .vperm _ _ _ _ => some 3
  | .vbcast _ _ _ _ => some 3
  | .vsplat _ _ _ => some 3
  | .vslide _ _ _ _ _ => some 3
  | .vzip _ _ _ _ _ => some 3
  | .vunzip _ _ _ _ _ => some 3
  | .vexp2 _ _ _ _ => some 3
  | .vlog2 _ _ _ _ => some 3
  | .vrcp _ _ _ _ => some 3
  | .vrsq _ _ _ _ => some 3
  | .vtake _ _ _ => some 3
  | .vpush _ => some 3
  | .dcw _ _ => some 4
  | .dcr _ => some 4
  | .rclaim _ _ => some 4
  | .rrel _ _ => some 4
  | .rldw _ _ _ _ => some 4
  | .rpass _ _ _ _ _ => some 4
  | .rpassr _ _ _ _ _ _ => some 4
  | .rsat _ _ => some 4
  | .rmin _ _ => some 4
  | .rmax _ _ => some 4
  | .rsort _ _ _ => some 4
  | .rtopk _ _ _ _ => some 4
  | .rrank _ _ _ => some 4
  | .accz _ _ => some 4
  | .accrd _ _ _ _ => some 4
  | .accst _ _ _ _ _ _ => some 4
  | .accnorm _ => some 4
  | .accexp _ _ _ => some 4
  | .rcal _ => some 4
  | .rtrimr _ => some 4
  | .rtrimw _ _ => some 4
  | .rstat _ => some 4
  | .bundleIssue _ _ => none
  | .resultLanding _ _ => none
  | .landingSlotFill _ _ _ _ => none
  | .sectorLanding _ _ _ _ _ _ => none
  | .nbrRequestArrival _ _ => none
  | .dieCacheRequest _ => none
  | .lineReadExpand _ _ _ => none
  | .fullLineWrite _ _ _ _ => none
  | .partialLineWrite _ _ _ _ => none
  | .tableWalkStart _ => none
  | .tableWalkComplete _ => none
  | .peerRequestCheck _ _ _ _ _ _ _ _ _ => none
  | .peerResponseTimeout _ _ _ _ => none
  | .xlinvPage _ _ => none
  | .xlinvRange _ _ => none
  | .xlinvAll _ => none
  | .xlinvReject _ _ => none
  | .invalidationDone _ => none
  | .shopenGrant _ _ _ => none
  | .shpubExchange _ _ _ => none
  | .claimGrant _ _ _ _ => none
  | .engineCommandAccept _ _ _ => none
  | .copyChunkTranslate _ _ _ => none
  | .copyBlockWrite _ _ _ => none
  | .copyComplete _ _ _ => none
  | .stampedCopyAck _ => none
  | .transformChunkStart _ _ _ => none
  | .transformEcall _ _ _ => none
  | .transformTimeout _ _ _ => none
  | .transformException _ _ _ _ => none
  | .engineFaultReport _ _ _ => none
  | .cbldEntryCommit _ _ _ => none
  | .cbvalCommit _ _ _ => none
  | .cbsaveComplete _ _ _ => none
  | .codebookExchange _ _ _ => none
  | .rldwCourseCommit _ _ => none
  | .passConverterRead _ _ _ => none
  | .reraceComplete _ _ _ => none
  | .passLanding _ _ => none
  | .renormalisationStep _ _ _ => none
  | .combRead _ _ _ => none
  | .combResultLand _ _ => none
  | .rcalResult _ _ => none
  | .eccCorrectedCore _ _ => none
  | .eccFreezeEnd _ _ => none
  | .eccCorrectedMemory _ _ => none
  | .uncorrectableError _ _ _ _ => none
  | .calibrationPeriodicTimer _ _ => none
  | .temperatureSample _ _ _ => none
  | .calibrationStart _ _ => none
  | .calibrationRoutine _ _ => none
  | .doorbellWrite _ _ _ => none
  | .openRegion _ _ => none
  | .placeOperator _ _ => none
  | .refresh _ _ => none
  | .closeRegion _ _ => none
  | .killRegion _ _ => none
  | .resume _ _ => none
  | .launchRefused _ _ => none
  | .stepRelease _ _ => none
  | .switchThresholdExpiry _ _ => none
  | .sliceExpiry _ _ => none
  | .priorityAgeing _ _ _ => none
  | .swapThresholdExpiry _ _ _ => none
  | .swapOut _ _ _ => none
  | .swapIn _ _ => none
  | .waitingBudgetExhausted _ _ _ => none
  | .stepTimeBoundOverrun _ _ _ => none
  | .waitcTimeout _ _ _ => none
  | .publicationComplete _ _ _ => none
  | .fenceComplete _ _ _ => none
  | .retirementComplete _ _ _ => none
  | .scratchpadAllocationFree _ _ => none
  | .tokenArrival _ => none
  | .tokenAcceptance _ => none
  | .tokenRefusal _ => none
  | .ltEnable _ _ => none
  | .ltEnableComplete _ _ => none
  | .ltAdvanceRoot _ _ => none
  | .ltSeal _ _ => none
  | .ltDisable _ _ => none
  | .ltBadCommand _ _ => none
  | .rootNoticeApply _ => none
  | .rootNoticeReply _ => none
  | .batchCloseTimeout _ => none
  | .batchApply _ => none
  | .curfewNoticeApply _ => none
  | .spillReadback _ => none
  | .ltspszWrite _ _ => none
  | .interleaveCommit _ _ => none
  | .interleaveCommitDone _ => none
  | .faultRecordWrite _ => none
  | .fqheadWrite _ _ => none
  | .fqbaseWrite _ _ => none
  | .machineCheck _ _ => none
  | .functionLevelReset _ => none
  | .powerOnReset _ => none
  | .startStageAdvance _ _ => none
  | .firmwareVerify _ _ _ _ => none
  | .doeImageWrite _ _ => none
  | .msixUnmask _ _ => none
  | .hostCxlMemAccess _ _ _ _ _ => none
  | .meshFlitReceive _ _ _ _ => none
  | .meshLaneFailure _ _ _ => none
  | .beyvexFlitReceive _ _ _ _ _ => none
  | .beyvexNakReceive _ _ _ => none
  | .beyvexLaneFailure _ _ _ => none
  | .beyvexRetrainDone _ _ => none
  | .bxctlRetrain _ _ => none
  | .peerRegionCommit _ _ => none
  | .peerRegionCommitDone _ => none
  | .staggerMessage _ _ _ _ _ => none
  | .powerEstimateTick _ _ => none
  | .quietDetection _ => none
  | .floorHoldExpiry _ => none
  | .stagoffExpiry _ => none
  | .fillerRaceStart _ _ => none
  | .powerRegisterWrite _ _ _ => none
  | .registerWrite _ _ _ _ => none
  | .meshLaneSpareReplay _ _ => none
  | .linkPartnerRetrain _ _ => none
  | .virtualHierarchyBinding _ _ => none
  | .spdmRequest _ _ => none

/-- The slot word of an instruction, from the encoding tables of R261, R262, R274, R281, R300, R347 and R374; 0 for an event. -/
def encode : Instr → BitVec 32
  | .lda d i => 0x1#8 ++ d ++ 0x0#4 ++ i
  | .ldah d s i => 0x2#8 ++ d ++ s ++ i
  | .mova d s => 0x3#8 ++ d ++ s ++ 0x0#16
  | .adda d s t => 0x4#8 ++ d ++ s ++ t ++ 0x0#12
  | .addai d s i => 0x5#8 ++ d ++ s ++ i
  | .suba d s t => 0x6#8 ++ d ++ s ++ t ++ 0x0#12
  | .shla d s n => 0x7#8 ++ d ++ s ++ 0x0#10 ++ n
  | .mada d s t => 0x8#8 ++ d ++ s ++ t ++ 0x0#12
  | .anda d s t => 0x9#8 ++ d ++ s ++ t ++ 0x0#12
  | .popq d => 0xa#8 ++ d ++ 0x0#20
  | .ldg l b y w p x => 0x10#8 ++ l ++ b ++ y ++ w ++ p ++ x
  | .lds l b y w p x => 0x11#8 ++ l ++ b ++ y ++ w ++ p ++ x
  | .ldv l b y z r p s x => 0x12#8 ++ l ++ b ++ y ++ z ++ r ++ p ++ s ++ x
  | .ldvg l b y s p x => 0x13#8 ++ l ++ b ++ y ++ s ++ 0x0#2 ++ p ++ x
  | .amos d s t o w p y h => 0x14#8 ++ d ++ s ++ t ++ o ++ w ++ p ++ y ++ h
  | .amog d s t o w p y h => 0x15#8 ++ d ++ s ++ t ++ o ++ w ++ p ++ y ++ h
  | .pref b p x => 0x16#8 ++ 0x0#5 ++ b ++ 0x0#7 ++ p ++ x
  | .stg b w p x => 0x20#8 ++ 0x0#5 ++ b ++ 0x0#4 ++ w ++ p ++ x
  | .sts b w p x => 0x21#8 ++ 0x0#5 ++ b ++ 0x0#4 ++ w ++ p ++ x
  | .stv b z r p s x => 0x22#8 ++ 0x0#5 ++ b ++ 0x0#4 ++ z ++ r ++ p ++ s ++ x
  | .stvg b s p x => 0x23#8 ++ 0x0#5 ++ b ++ 0x0#4 ++ s ++ 0x0#2 ++ p ++ x
  | .rget d s t c n => 0x30#8 ++ d ++ s ++ t ++ c ++ 0x0#4 ++ n
  | .rput d s t c n => 0x31#8 ++ d ++ s ++ t ++ c ++ 0x0#4 ++ n
  | .radvR s t c n => 0x32#8 ++ 0x0#4 ++ s ++ t ++ c ++ 0x0#4 ++ n
  | .radvW s t c n => 0x32#8 ++ 0x0#4 ++ s ++ t ++ c ++ 0x8#4 ++ n
  | .rset s t => 0x33#8 ++ 0x0#4 ++ s ++ t ++ 0x0#12
  | .loop c l => 0x40#8 ++ c ++ l
  | .loopa s l => 0x41#8 ++ s ++ 0x0#8 ++ l
  | .ba o => 0x42#8 ++ 0x0#13 ++ o
  | .bca c s t o => 0x43#8 ++ c ++ s ++ t ++ 0x0#2 ++ o
  | .call o => 0x44#8 ++ 0x0#13 ++ o
  | .ret => 0x45#8 ++ 0x0#24
  | .fenceS => 0x46#8 ++ 0x0#24
  | .fenceE => 0x46#8 ++ 0x1#24
  | .fenceG => 0x46#8 ++ 0x2#24
  | .mte a n => 0x1#8 ++ a ++ 0x0#14 ++ n
  | .mfe b n => 0x2#8 ++ 0x0#4 ++ b ++ 0x0#10 ++ n
  | .cpy a b g => 0x8#8 ++ a ++ b ++ 0x0#13 ++ g
  | .cpyg a b s g => 0x9#8 ++ a ++ b ++ 0x0#12 ++ s ++ g
  | .cpyx a b g => 0xa#8 ++ a ++ b ++ 0x0#13 ++ g
  | .cbld a b e p k => 0x10#8 ++ a ++ b ++ 0x0#5 ++ e ++ p ++ k
  | .cbval a b j v k => 0x11#8 ++ a ++ b ++ 0x0#9 ++ j ++ v ++ k
  | .cbsel a => 0x12#8 ++ a ++ 0x0#20
  | .cbsave a b r e p k => 0x13#8 ++ a ++ b ++ 0x0#4 ++ r ++ e ++ p ++ k
  | .tsend a b l m g => 0x18#8 ++ a ++ b ++ l ++ m ++ g
  | .cfw a p y => 0x20#8 ++ a ++ 0x0#6 ++ p ++ y
  | .cft a b p y => 0x21#8 ++ a ++ b ++ 0x0#2 ++ p ++ y
  | .waitc a b l g => 0x22#8 ++ a ++ b ++ 0x0#12 ++ l ++ g
  | .caph a y => 0x23#8 ++ a ++ 0x0#12 ++ y
  | .capd a y => 0x24#8 ++ a ++ 0x0#12 ++ y
  | .pub s => 0x28#8 ++ 0x0#21 ++ s
  | .acq s => 0x29#8 ++ 0x0#21 ++ s
  | .shopen a => 0x2a#8 ++ a ++ 0x0#20
  | .shpub a => 0x2b#8 ++ a ++ 0x0#20
  | .yield => 0x30#8 ++ 0x0#24
  | .retire => 0x31#8 ++ 0x0#24
  | .trap n => 0x32#8 ++ 0x0#18 ++ n
  | .brk n => 0x33#8 ++ 0x0#18 ++ n
  | .sysc a b s => 0x34#8 ++ a ++ b ++ 0x0#8 ++ s
  | .rdtime b u => 0x35#8 ++ 0x0#4 ++ b ++ 0x0#15 ++ u
  | .add d a b => 0x1#8 ++ d ++ a ++ b ++ 0x0#9
  | .sub d a b => 0x2#8 ++ d ++ a ++ b ++ 0x0#9
  | .mul d a b => 0x3#8 ++ d ++ a ++ b ++ 0x0#9
  | .mulh d a b => 0x4#8 ++ d ++ a ++ b ++ 0x0#9
  | .mulhn d a b => 0x5#8 ++ d ++ a ++ b ++ 0x0#9
  | .div d a b z => 0x6#8 ++ d ++ a ++ b ++ 0x0#8 ++ z
  | .divn d a b z => 0x7#8 ++ d ++ a ++ b ++ 0x0#8 ++ z
  | .rem d a b z => 0x8#8 ++ d ++ a ++ b ++ 0x0#8 ++ z
  | .remn d a b z => 0x9#8 ++ d ++ a ++ b ++ 0x0#8 ++ z
  | .and d a b => 0xa#8 ++ d ++ a ++ b ++ 0x0#9
  | .or d a b => 0xb#8 ++ d ++ a ++ b ++ 0x0#9
  | .xor d a b => 0xc#8 ++ d ++ a ++ b ++ 0x0#9
  | .andn d a b => 0xd#8 ++ d ++ a ++ b ++ 0x0#9
  | .shl d a b => 0xe#8 ++ d ++ a ++ b ++ 0x0#9
  | .shr d a b => 0xf#8 ++ d ++ a ++ b ++ 0x0#9
  | .sar d a b => 0x10#8 ++ d ++ a ++ b ++ 0x0#9
  | .rol d a b => 0x11#8 ++ d ++ a ++ b ++ 0x0#9
  | .clz d a => 0x12#8 ++ d ++ a ++ 0x0#14
  | .ctz d a => 0x13#8 ++ d ++ a ++ 0x0#14
  | .popc d a => 0x14#8 ++ d ++ a ++ 0x0#14
  | .min d a b => 0x15#8 ++ d ++ a ++ b ++ 0x0#9
  | .max d a b => 0x16#8 ++ d ++ a ++ b ++ 0x0#9
  | .minn d a b => 0x17#8 ++ d ++ a ++ b ++ 0x0#9
  | .maxn d a b => 0x18#8 ++ d ++ a ++ b ++ 0x0#9
  | .cmp d a b c => 0x19#8 ++ d ++ a ++ b ++ 0x0#6 ++ c
  | .sel d a b c => 0x1a#8 ++ d ++ a ++ b ++ 0x0#4 ++ c
  | .addi d a i => 0x20#8 ++ d ++ a ++ i
  | .andi d a i => 0x21#8 ++ d ++ a ++ i
  | .ori d a i => 0x22#8 ++ d ++ a ++ i
  | .xori d a i => 0x23#8 ++ d ++ a ++ i
  | .shli d a n => 0x24#8 ++ d ++ a ++ 0x0#8 ++ n
  | .shri d a n => 0x25#8 ++ d ++ a ++ 0x0#8 ++ n
  | .sari d a n => 0x26#8 ++ d ++ a ++ 0x0#8 ++ n
  | .li d i => 0x27#8 ++ d ++ i
  | .lih d i => 0x28#8 ++ d ++ i
  | .take d l => 0x30#8 ++ d ++ 0x0#14 ++ l
  | .push a => 0x31#8 ++ 0x0#5 ++ a ++ 0x0#14
  | .mfs d n => 0x32#8 ++ d ++ 0x0#5 ++ n
  | .mts a n => 0x33#8 ++ 0x0#5 ++ a ++ n
  | .bx c a b o => 0x38#8 ++ c ++ a ++ b ++ o
  | .jx a => 0x39#8 ++ 0x0#5 ++ a ++ 0x0#14
  | .faddS d a b r => 0x40#8 ++ d ++ a ++ b ++ 0x0#1 ++ r ++ 0x0#5
  | .fsubS d a b r => 0x41#8 ++ d ++ a ++ b ++ 0x0#1 ++ r ++ 0x0#5
  | .fmulS d a b r => 0x42#8 ++ d ++ a ++ b ++ 0x0#1 ++ r ++ 0x0#5
  | .fmaS d a b r c => 0x43#8 ++ d ++ a ++ b ++ 0x0#1 ++ r ++ c
  | .fcvt d a r v => 0x44#8 ++ d ++ a ++ 0x0#6 ++ r ++ 0x0#1 ++ v
  | .vadd d a b s f x => 0x1#8 ++ d ++ a ++ b ++ s ++ 0x0#3 ++ f ++ x
  | .vsub d a b s f x => 0x2#8 ++ d ++ a ++ b ++ s ++ 0x0#3 ++ f ++ x
  | .vmul d a b s f x => 0x3#8 ++ d ++ a ++ b ++ s ++ 0x0#3 ++ f ++ x
  | .vfma d a b c f x => 0x4#8 ++ d ++ a ++ b ++ c ++ f ++ x
  | .vfms d a b c f x => 0x5#8 ++ d ++ a ++ b ++ c ++ f ++ x
  | .vmin d a b f x => 0x6#8 ++ d ++ a ++ b ++ 0x0#4 ++ f ++ x
  | .vmax d a b f x => 0x7#8 ++ d ++ a ++ b ++ 0x0#4 ++ f ++ x
  | .vabs d a s f x => 0x8#8 ++ d ++ a ++ 0x0#4 ++ s ++ 0x0#3 ++ f ++ x
  | .vneg d a s f x => 0x9#8 ++ d ++ a ++ 0x0#4 ++ s ++ 0x0#3 ++ f ++ x
  | .vcmp d a b c f x => 0xa#8 ++ d ++ a ++ b ++ 0x0#2 ++ c ++ f ++ x
  | .vsel d a b c f => 0xb#8 ++ d ++ a ++ b ++ c ++ f ++ 0x0#4
  | .vand d a b => 0xc#8 ++ d ++ a ++ b ++ 0x0#12
  | .vor d a b => 0xd#8 ++ d ++ a ++ b ++ 0x0#12
  | .vxor d a b => 0xe#8 ++ d ++ a ++ b ++ 0x0#12
  | .vnot d a => 0xf#8 ++ d ++ a ++ 0x0#16
  | .vshl d a b f => 0x10#8 ++ d ++ a ++ b ++ 0x0#4 ++ f ++ 0x0#4
  | .vshr d a b f => 0x11#8 ++ d ++ a ++ b ++ 0x0#4 ++ f ++ 0x0#4
  | .vsar d a b f => 0x12#8 ++ d ++ a ++ b ++ 0x0#4 ++ f ++ 0x0#4
  | .vcvt d a p c f x => 0x18#8 ++ d ++ a ++ 0x0#1 ++ p ++ c ++ f ++ x
  | .vqnt d a s c f x => 0x19#8 ++ d ++ a ++ s ++ c ++ f ++ x
  | .vdqt d a p c f => 0x1a#8 ++ d ++ a ++ 0x0#1 ++ p ++ c ++ f ++ 0x0#4
  | .vcbx d a x => 0x1b#8 ++ d ++ a ++ 0xf#12 ++ x
  | .vcbi d a x => 0x1c#8 ++ d ++ a ++ 0xf#12 ++ x
  | .vred d a b o f x => 0x20#8 ++ d ++ a ++ b ++ 0x0#2 ++ o ++ f ++ x
  | .vperm d a b f => 0x21#8 ++ d ++ a ++ b ++ 0x0#4 ++ f ++ 0x0#4
  | .vbcast d a k f => 0x22#8 ++ d ++ a ++ k ++ f ++ 0x0#4
  | .vsplat d i f => 0x23#8 ++ d ++ i ++ f ++ 0x0#4
  | .vslide d a b r f => 0x24#8 ++ d ++ a ++ b ++ 0x0#3 ++ r ++ f ++ 0x0#4
  | .vzip d a b h f => 0x25#8 ++ d ++ a ++ b ++ 0x0#3 ++ h ++ f ++ 0x0#4
  | .vunzip d a b h f => 0x26#8 ++ d ++ a ++ b ++ 0x0#3 ++ h ++ f ++ 0x0#4
  | .vexp2 d a f x => 0x28#8 ++ d ++ a ++ 0x0#8 ++ f ++ x
  | .vlog2 d a f x => 0x29#8 ++ d ++ a ++ 0x0#8 ++ f ++ x
  | .vrcp d a f x => 0x2a#8 ++ d ++ a ++ 0x0#8 ++ f ++ x
  | .vrsq d a f x => 0x2b#8 ++ d ++ a ++ 0x0#8 ++ f ++ x
  | .vtake d l h => 0x30#8 ++ d ++ l ++ 0x0#3 ++ h ++ 0x0#12
  | .vpush a => 0x31#8 ++ 0x0#4 ++ a ++ 0x0#16
  | .dcw a n => 0x1#8 ++ a ++ 0x0#15 ++ n
  | .dcr n => 0x2#8 ++ 0x0#20 ++ n
  | .rclaim o n => 0x8#8 ++ 0x0#21 ++ o ++ n
  | .rrel o n => 0x9#8 ++ 0x0#21 ++ o ++ n
  | .rldw a b x p => 0xa#8 ++ a ++ b ++ 0x0#11 ++ x ++ p
  | .rpass v c t p x => 0x10#8 ++ 0x0#10 ++ v ++ c ++ t ++ p ++ x ++ 0x0#1
  | .rpassr h c t p x v => 0x11#8 ++ 0x0#10 ++ h ++ c ++ t ++ p ++ x ++ v
  | .rsat c q => 0x12#8 ++ 0x0#21 ++ c ++ q
  | .rmin v x => 0x18#8 ++ 0x0#10 ++ v ++ 0x0#6 ++ x ++ 0x0#3
  | .rmax v x => 0x19#8 ++ 0x0#10 ++ v ++ 0x0#6 ++ x ++ 0x0#3
  | .rsort v x d => 0x1a#8 ++ 0x0#10 ++ v ++ 0x0#6 ++ x ++ d ++ 0x0#2
  | .rtopk v k x d => 0x1b#8 ++ 0x0#10 ++ v ++ k ++ x ++ d ++ 0x0#2
  | .rrank v x d => 0x1c#8 ++ 0x0#10 ++ v ++ 0x0#6 ++ x ++ d ++ 0x0#2
  | .accz a t => 0x20#8 ++ a ++ 0x0#17 ++ t
  | .accrd a f g t => 0x21#8 ++ a ++ 0x0#13 ++ f ++ g ++ t
  | .accst a b r p f t => 0x22#8 ++ a ++ b ++ 0x0#8 ++ r ++ p ++ f ++ t
  | .accnorm t => 0x23#8 ++ 0x0#22 ++ t
  | .accexp a e t => 0x24#8 ++ a ++ 0x0#16 ++ e ++ t
  | .rcal a => 0x30#8 ++ a ++ 0x0#19
  | .rtrimr n => 0x31#8 ++ 0x0#18 ++ n
  | .rtrimw a n => 0x32#8 ++ a ++ 0x0#13 ++ n
  | .rstat n => 0x33#8 ++ 0x0#18 ++ n
  | .bundleIssue _ _ => 0#32
  | .resultLanding _ _ => 0#32
  | .landingSlotFill _ _ _ _ => 0#32
  | .sectorLanding _ _ _ _ _ _ => 0#32
  | .nbrRequestArrival _ _ => 0#32
  | .dieCacheRequest _ => 0#32
  | .lineReadExpand _ _ _ => 0#32
  | .fullLineWrite _ _ _ _ => 0#32
  | .partialLineWrite _ _ _ _ => 0#32
  | .tableWalkStart _ => 0#32
  | .tableWalkComplete _ => 0#32
  | .peerRequestCheck _ _ _ _ _ _ _ _ _ => 0#32
  | .peerResponseTimeout _ _ _ _ => 0#32
  | .xlinvPage _ _ => 0#32
  | .xlinvRange _ _ => 0#32
  | .xlinvAll _ => 0#32
  | .xlinvReject _ _ => 0#32
  | .invalidationDone _ => 0#32
  | .shopenGrant _ _ _ => 0#32
  | .shpubExchange _ _ _ => 0#32
  | .claimGrant _ _ _ _ => 0#32
  | .engineCommandAccept _ _ _ => 0#32
  | .copyChunkTranslate _ _ _ => 0#32
  | .copyBlockWrite _ _ _ => 0#32
  | .copyComplete _ _ _ => 0#32
  | .stampedCopyAck _ => 0#32
  | .transformChunkStart _ _ _ => 0#32
  | .transformEcall _ _ _ => 0#32
  | .transformTimeout _ _ _ => 0#32
  | .transformException _ _ _ _ => 0#32
  | .engineFaultReport _ _ _ => 0#32
  | .cbldEntryCommit _ _ _ => 0#32
  | .cbvalCommit _ _ _ => 0#32
  | .cbsaveComplete _ _ _ => 0#32
  | .codebookExchange _ _ _ => 0#32
  | .rldwCourseCommit _ _ => 0#32
  | .passConverterRead _ _ _ => 0#32
  | .reraceComplete _ _ _ => 0#32
  | .passLanding _ _ => 0#32
  | .renormalisationStep _ _ _ => 0#32
  | .combRead _ _ _ => 0#32
  | .combResultLand _ _ => 0#32
  | .rcalResult _ _ => 0#32
  | .eccCorrectedCore _ _ => 0#32
  | .eccFreezeEnd _ _ => 0#32
  | .eccCorrectedMemory _ _ => 0#32
  | .uncorrectableError _ _ _ _ => 0#32
  | .calibrationPeriodicTimer _ _ => 0#32
  | .temperatureSample _ _ _ => 0#32
  | .calibrationStart _ _ => 0#32
  | .calibrationRoutine _ _ => 0#32
  | .doorbellWrite _ _ _ => 0#32
  | .openRegion _ _ => 0#32
  | .placeOperator _ _ => 0#32
  | .refresh _ _ => 0#32
  | .closeRegion _ _ => 0#32
  | .killRegion _ _ => 0#32
  | .resume _ _ => 0#32
  | .launchRefused _ _ => 0#32
  | .stepRelease _ _ => 0#32
  | .switchThresholdExpiry _ _ => 0#32
  | .sliceExpiry _ _ => 0#32
  | .priorityAgeing _ _ _ => 0#32
  | .swapThresholdExpiry _ _ _ => 0#32
  | .swapOut _ _ _ => 0#32
  | .swapIn _ _ => 0#32
  | .waitingBudgetExhausted _ _ _ => 0#32
  | .stepTimeBoundOverrun _ _ _ => 0#32
  | .waitcTimeout _ _ _ => 0#32
  | .publicationComplete _ _ _ => 0#32
  | .fenceComplete _ _ _ => 0#32
  | .retirementComplete _ _ _ => 0#32
  | .scratchpadAllocationFree _ _ => 0#32
  | .tokenArrival _ => 0#32
  | .tokenAcceptance _ => 0#32
  | .tokenRefusal _ => 0#32
  | .ltEnable _ _ => 0#32
  | .ltEnableComplete _ _ => 0#32
  | .ltAdvanceRoot _ _ => 0#32
  | .ltSeal _ _ => 0#32
  | .ltDisable _ _ => 0#32
  | .ltBadCommand _ _ => 0#32
  | .rootNoticeApply _ => 0#32
  | .rootNoticeReply _ => 0#32
  | .batchCloseTimeout _ => 0#32
  | .batchApply _ => 0#32
  | .curfewNoticeApply _ => 0#32
  | .spillReadback _ => 0#32
  | .ltspszWrite _ _ => 0#32
  | .interleaveCommit _ _ => 0#32
  | .interleaveCommitDone _ => 0#32
  | .faultRecordWrite _ => 0#32
  | .fqheadWrite _ _ => 0#32
  | .fqbaseWrite _ _ => 0#32
  | .machineCheck _ _ => 0#32
  | .functionLevelReset _ => 0#32
  | .powerOnReset _ => 0#32
  | .startStageAdvance _ _ => 0#32
  | .firmwareVerify _ _ _ _ => 0#32
  | .doeImageWrite _ _ => 0#32
  | .msixUnmask _ _ => 0#32
  | .hostCxlMemAccess _ _ _ _ _ => 0#32
  | .meshFlitReceive _ _ _ _ => 0#32
  | .meshLaneFailure _ _ _ => 0#32
  | .beyvexFlitReceive _ _ _ _ _ => 0#32
  | .beyvexNakReceive _ _ _ => 0#32
  | .beyvexLaneFailure _ _ _ => 0#32
  | .beyvexRetrainDone _ _ => 0#32
  | .bxctlRetrain _ _ => 0#32
  | .peerRegionCommit _ _ => 0#32
  | .peerRegionCommitDone _ => 0#32
  | .staggerMessage _ _ _ _ _ => 0#32
  | .powerEstimateTick _ _ => 0#32
  | .quietDetection _ => 0#32
  | .floorHoldExpiry _ => 0#32
  | .stagoffExpiry _ => 0#32
  | .fillerRaceStart _ _ => 0#32
  | .powerRegisterWrite _ _ _ => 0#32
  | .registerWrite _ _ _ _ => 0#32
  | .meshLaneSpareReplay _ _ => 0#32
  | .linkPartnerRetrain _ _ => 0#32
  | .virtualHierarchyBinding _ _ => 0#32
  | .spdmRequest _ _ => 0#32

/-- How many bits of a slot word its operands take: the bits the tables of the five slots do not fix. -/
def Instr.operandBits : Instr → Nat
  | .ret .. | .fenceS .. | .fenceE .. | .fenceG .. | .yield .. | .retire .. => 0
  | .accnorm .. => 2
  | .pub .. | .acq .. | .rclaim .. | .rrel .. | .rsat .. => 3
  | .popq .. | .cbsel .. | .shopen .. | .shpub .. | .vpush .. | .dcr .. => 4
  | .rdtime .. | .push .. | .jx .. | .rmin .. | .rmax .. | .rcal .. => 5
  | .trap .. | .brk .. | .rsort .. | .rrank .. | .rtrimr .. | .rstat .. => 6
  | .accz .. => 7
  | .mova .. | .rset .. | .vnot .. | .accexp .. => 8
  | .vtake .. | .dcw .. => 9
  | .mte .. | .mfe .. | .clz .. | .ctz .. | .popc .. | .take .. => 10
  | .ba .. | .call .. | .cpy .. | .cpyx .. | .accrd .. | .rtrimw .. => 11
  | .adda .. | .suba .. | .mada .. | .anda .. | .pref .. | .cpyg .. | .waitc .. | .caph .. | .capd .. | .vand ..
    | .vor .. | .vxor .. | .vcbx .. | .vcbi .. | .rtopk .. => 12
  | .stvg .. | .rldw .. | .rpass .. => 13
  | .shla .. | .rpassr .. => 14
  | .stg .. | .sts .. | .stv .. | .cbval .. | .add .. | .sub .. | .mul .. | .mulh .. | .mulhn .. | .and ..
    | .or .. | .xor .. | .andn .. | .shl .. | .shr .. | .sar .. | .rol .. | .min .. | .max .. | .minn ..
    | .maxn .. => 15
  | .radvR .. | .radvW .. | .loopa .. | .sysc .. | .div .. | .divn .. | .rem .. | .remn .. | .shli .. | .shri ..
    | .sari .. | .vshl .. | .vshr .. | .vsar .. | .vperm .. | .vexp2 .. | .vlog2 .. | .vrcp .. | .vrsq ..
    | .accst .. => 16
  | .fcvt .. | .vabs .. | .vneg .. | .vslide .. | .vzip .. | .vunzip .. => 17
  | .cfw .. | .cmp .. | .faddS .. | .fsubS .. | .fmulS .. => 18
  | .cbld .. | .mfs .. | .mts .. | .vdqt .. => 19
  | .lda .. | .rget .. | .rput .. | .cbsave .. | .sel .. | .vmin .. | .vmax .. | .vsel .. | .vbcast ..
    | .vsplat .. => 20
  | .vadd .. | .vsub .. | .vmul .. => 21
  | .ldvg .. | .bca .. | .cft .. | .vcmp .. | .vred .. => 22
  | .fmaS .. | .vcvt .. => 23
  | .ldah .. | .addai .. | .ldg .. | .lds .. | .ldv .. | .amos .. | .amog .. | .loop .. | .tsend .. | .addi ..
    | .andi .. | .ori .. | .xori .. | .li .. | .lih .. | .bx .. | .vfma .. | .vfms .. | .vqnt .. => 24
  | _ => 32

/-- The readings of a word by the five slots' decoders, each with its slot (0 for A up to 4 for D). -/
def slotReadings (w : BitVec 32) : List (Nat × Instr) :=
  ([1, 2, 3, 0, 4] : List Nat).filterMap fun i =>
    match decodeSlot i w with
    | .ok j => some (i, j)
    | .error _ => none

/-- The reading whose encoding fixes the most bits; the first in the order E, X, V, A, D among equals. -/
def closestReading (w : BitVec 32) : Option (Nat × Instr) :=
  (slotReadings w).foldl (init := none) fun b e =>
    match b with
    | none => some e
    | some c => if e.2.operandBits < c.2.operandBits then some e else some c

def decodeAny (w : BitVec 32) : Option Instr := (closestReading w).map (·.2)

/-- The instruction read from the table's word `w`. A slot word is 32 bits (R261), its opcode is shared between slots
and the bundle's header says its slot (R261, R262); the table's word comes without a header, so of the slots that
accept it the one whose encoding fixes the most bits is taken (log entry 5, DESIGN CHOICE). -/
def decodeTableWord (_nbits w : Nat) : Option Instr := decodeAny (BitVec.ofNat 32 w)

end Sys2Proof
end

