-- ==== Sys2Proof/Config.lean ====
section
/-! DEFINITION. What the manual leaves free: opaque constants with no body, each applied to what it may depend on or
to a counter held in State. No value of one can be proved. -/

namespace Sys2Proof.Config

/-- Undefined bytes: of a shadow image after its owner's end (R47), of a line with a reserved tag (R125), of the parts of a context save
slot that hold nothing (R430). -/
opaque freeByte : Nat → BitVec 8

/-- How the blocks of a context save slot that R430 and R431 list without a bit layout hold what they list: block, its contents in the
order in which the manual names them, byte (log entry 105). -/
opaque imageByte : Nat → List Nat → Nat → BitVec 8

/-- The number that such a block is read back as, when its bytes are not those that the part wrote there: block, bytes, place among the
contents (R432, log entry 15). -/
opaque imageNum : Nat → List (BitVec 8) → Nat → Nat

/-- Which of two values a byte takes where the manual says only that it is one of them (R383). -/
opaque freePick : Nat → Bool

/-- Undefined contents of a plane after a claim (R77): draw, course. -/
opaque freeCourse : Nat → Nat → BitVec 1536

/-- Undefined contents of a tile after a claim (R77): draw, element row × 256 + column; a 48-bit mantissa (R73). -/
opaque freeMantissa : Nat → Nat → BitVec 48

/-- The exponent of a tile after a claim: draw. -/
opaque freeExponent : Nat → BitVec 16

/-- The unit delay of a chain in 2^-64 oscillator periods (R336, R340): core, chain, draw for trim code 0; core, chain, code, draw for what
the step from one trim code to the next adds. -/
opaque delayBase : Nat → Nat → Nat → Nat
opaque delayStep : Nat → Nat → Nat → Nat → Nat

/-- The place of a corrected error in a core's storage (R122, R435): draw. -/
opaque eccPlace : Nat → BitVec 64

/-- The columns whose reading the converters refuse while a context leaves its core (R327, R429): draw. -/
opaque refused : Nat → BitVec 256

/-- The bytes of a packet whose format the manual does not give (R450, R452): draw. -/
opaque packetBody : Nat → List (BitVec 8)

/-- The package and port at the other end of a Beyvex port's cable (R454): package, port. -/
opaque cable : Nat → Nat → Option (Nat × Nat)

/-- The lanes of a port that have failed and are found good when the port retrains (R455): draw. -/
opaque laneLocks : Nat → BitVec 16

/-- The mask-ROM key pair (R448): for Ed25519 and for ML-DSA-65. -/
opaque rootKeys : List (BitVec 8) × List (BitVec 8)

/-- Whether a signature of a text verifies under a key (R448): for ML-DSA-65, else for Ed25519; key, text, signature. -/
opaque verifies : Bool → List (BitVec 8) → List (BitVec 8) → List (BitVec 8) → Bool

/-- The text of a rotation manifest that is signed (R448): version and the two keys. -/
opaque manifestText : Nat → List (BitVec 8) → List (BitVec 8) → List (BitVec 8)

/-- The BAR0 offset of the register block with an identifier (R445). -/
opaque blockBase : Nat → Nat

/-! The instructions of the transform core (R126): the manual names its instruction set and gives none of its instructions, so what an
instruction does to the registers is free, while the model keeps the routine's memory, its limits and its ends (log entry 16). -/

/-- What a routine's registers hold: pc, the integer registers, those of the F and D extensions, the vector registers of 512 bits, the
vector type (none while it is illegal), and whatever further state the extensions have. -/
structure RvState where
  pc    : Nat
  x     : List (BitVec 64)
  f     : List (BitVec 64)
  v     : List (BitVec 512)
  vtype : Option Nat := none
  more  : List Nat := []
  deriving DecidableEq, Repr, Inhabited

/-- What the instruction at pc asks for: whether it ends the chunk with ecall (0), raises an exception of the profile (1: ebreak, an
illegal instruction, a misaligned access that is not performed), or goes on (2); the ranges it reads and writes, each as address and
length; the clocks it takes. -/
structure RvPlan where
  ends   : Nat
  reads  : List (Nat × Nat)
  writes : List (Nat × Nat)
  clocks : Nat
  deriving DecidableEq, Repr, Inhabited

/-- The plan of the instruction of 32 fetched bits. -/
opaque rvPlan : RvState → BitVec 32 → RvPlan

/-- The registers after an instruction that has read some bytes. -/
opaque rvNext : RvState → BitVec 32 → List (BitVec 8) → RvState

/-- The bytes that it writes to its ranges, in their order: the place among them. -/
opaque rvWrites : RvState → BitVec 32 → List (BitVec 8) → Nat → BitVec 8

/-- Bytes of a routine's memory that nothing has written (R126): chunk, address. -/
opaque rvByte : Nat → Nat → BitVec 8

end Sys2Proof.Config
end

