-- ==== Sys2Proof/Machine/Map.lean ====
section
/-! DEFINITION. Operations on sparse tables and on byte memories kept in canonical form. -/

namespace Sys2Proof.Machine

/-- A byte memory: cells strictly rising, none equal to what an unlisted address reads as (log entry 2). -/
abbrev Mem := List Host.Cell

/-- What a byte of memory that nothing has written reads as (log entry 2, DESIGN CHOICE). -/
def emptyByte : BitVec 8 := 0#8

/-- The value listed at a number. -/
def mget {α : Type} : Smap α → Nat → Option α
  | [], _ => none
  | (k, v) :: r, n => if k = n then some v else mget r n

/-- The value at a number, or the default of unlisted numbers. -/
def mgetD {α : Type} (m : Smap α) (n : Nat) (d : α) : α := (mget m n).getD d

/-- Lists `v` at `n`, keeping the numbers rising. -/
def mput {α : Type} : Smap α → Nat → α → Smap α
  | [], n, v => [(n, v)]
  | (k, w) :: r, n, v =>
    if n < k then (n, v) :: (k, w) :: r
    else if n = k then (n, v) :: r
    else (k, w) :: mput r n v

/-- Removes the entry at `n`. -/
def mdel {α : Type} : Smap α → Nat → Smap α
  | [], _ => []
  | (k, w) :: r, n => if k = n then r else (k, w) :: mdel r n

/-- Writes `v` at `n`; the default of unlisted numbers is never listed. -/
def mset {α : Type} [DecidableEq α] (m : Smap α) (n : Nat) (v d : α) : Smap α :=
  if v = d then mdel m n else mput m n v

/-- The numbers are strictly rising. -/
def rising {α : Type} : Smap α → Bool
  | [] => true
  | [_] => true
  | (a, _) :: (b, w) :: r => decide (a < b) && rising ((b, w) :: r)

/-- No entry equals the default. -/
def noneDefault {α : Type} [DecidableEq α] (d : α) : Smap α → Bool
  | [] => true
  | (_, v) :: r => decide (v ≠ d) && noneDefault d r

/-- The byte at an address. -/
def Mem.get (m : Mem) (a : Nat) : BitVec 8 := mgetD m a emptyByte

/-- Writes one byte. -/
def Mem.set (m : Mem) (a : Nat) (b : BitVec 8) : Mem := mset m a b emptyByte

/-- The canonical form of a memory. -/
def Mem.wf (m : Mem) : Bool := rising m && noneDefault emptyByte m

/-- `n` bytes from address `a`. -/
def Mem.bytes (m : Mem) (a : Nat) : Nat → List (BitVec 8)
  | 0 => []
  | n + 1 => Mem.get m a :: Mem.bytes m (a + 1) n

/-- Writes bytes from address `a`. -/
def Mem.setBytes (m : Mem) (a : Nat) : List (BitVec 8) → Mem
  | [] => m
  | b :: r => Mem.setBytes (Mem.set m a b) (a + 1) r

/-- The cells of bytes that lie from address `a` on; a byte that an unlisted address reads as has none. -/
def Mem.cells (a : Nat) : List (BitVec 8) → Mem
  | [] => []
  | b :: r => if b = emptyByte then Mem.cells (a + 1) r else (a, b) :: Mem.cells (a + 1) r

/-- Writes bytes from address `a` in one pass over the memory. -/
def Mem.putBlock (m : Mem) (a : Nat) (bs : List (BitVec 8)) : Mem :=
  m.filter (fun c => decide (c.1 < a)) ++ (Mem.cells a bs ++ m.filter fun c => decide (a + bs.length ≤ c.1))

/-- The entries at `n` numbers from `a` on, and all the others. -/
def within {α : Type} (m : Smap α) (a n : Nat) : Smap α := m.filter fun e => decide (a ≤ e.1) && decide (e.1 < a + n)
def outside {α : Type} (m : Smap α) (a n : Nat) : Smap α := m.filter fun e => decide (e.1 < a) || decide (a + n ≤ e.1)
/-- The part of a memory that `n` addresses from `a` on lie in. -/
def Mem.window (m : Mem) (a n : Nat) : Mem := within m a n

/-- Puts an element in its place in a sorted list, after its equals. -/
def insertBy {α : Type} (le : α → α → Bool) (x : α) : List α → List α
  | [] => [x]
  | y :: r => if le y x then y :: insertBy le x r else x :: y :: r

/-- A list sorted by an order, equals kept in their order. -/
def sortBy {α : Type} (le : α → α → Bool) (l : List α) : List α := l.foldl (fun acc x => insertBy le x acc) []

/-- Bytes read as one little-endian number (R5). -/
def leNat : List (BitVec 8) → Nat
  | [] => 0
  | b :: r => b.toNat + 256 * leNat r

/-- The `n` little-endian bytes of a number (R5). -/
def natLe : Nat → Nat → List (BitVec 8)
  | 0, _ => []
  | n + 1, v => BitVec.ofNat 8 v :: natLe n (v / 256)

/-- A set of numbers, as the table of its members. -/
abbrev Nset := Smap Bool

/-- Membership in a set. -/
def Nset.has (m : Nset) (n : Nat) : Bool := mgetD m n false

/-- Adds or removes a member. -/
def Nset.upd (m : Nset) (n : Nat) (b : Bool) : Nset := mset m n b false

/-- The field of `n` bits of a number whose lowest bit is `lo` (R5). -/
def bits (v lo n : Nat) : Nat := (v >>> lo) % 2 ^ n

/-- A number's bit. -/
def bit (v i : Nat) : Bool := Nat.testBit v i

/-- The `n`-bit field `v` read as two's complement (R9). -/
def sext (v n : Nat) : Int := if 2 * (v % 2 ^ n) < 2 ^ n then ((v % 2 ^ n : Nat) : Int) else ((v % 2 ^ n : Nat) : Int) - ((2 ^ n : Nat) : Int)

/-- An integer kept in `n` bits (R9). -/
def wrap (n : Nat) (x : Int) : Nat := (x % ((2 ^ n : Nat) : Int)).toNat

/-- The indices of a mask's set bits below `n`, rising. -/
def setBits (v n : Nat) : List Nat := (List.range n).filter (bit v)

end Sys2Proof.Machine
end

