-- ==== Sys2Proof/Machine/State.lean ====
section
/-! DEFINITION. Everything the manual gives the part, as plain data. A package is the green and eight compute dies (R2); dies are
numbered 16 × package + die, die 8 the green. A die, core or context that is not listed is as its reset. -/

namespace Sys2Proof.Machine

/-- Why the model stops. Raised by events that name a unit the part does not have (R2); safe: the part has no such step. -/
inductive Fault where
  /-- Raised by an event that names a die, core, context, port, link, queue or vector that does not exist. Safe. -/
  | noSuchUnit
  deriving DecidableEq, Repr

/-- Why an instruction has no meaning here. -/
inductive Refusal where
  /-- Raised by the dispatch of an instruction that has no meaning yet. Safe: it stops. -/
  | notModelled (mnemonic : String)
  deriving DecidableEq, Repr

/-- A 64-bit register with its valid bit (R253) and poison mark (R123). -/
structure Reg where
  val    : Word := 0#64
  valid  : Bool := false
  poison : Bool := false
  deriving DecidableEq, Repr

/-- A vector register: 2,048 data bits and the side word (R226). -/
structure VReg where
  data   : BitVec 2048 := 0#2048
  side   : BitVec 256 := 0#256
  valid  : Bool := false
  poison : Bool := false
  deriving DecidableEq, Repr

/-- The states of a landing slot (R69); Taken is never held. -/
inductive LsState where
  | free | pending | arrived
  deriving DecidableEq, Repr

/-- A landing slot (R68 to R70). `due` is the first domain clock in which the data may arrive, `here` says that the data is at
hand, `mark` is 0 or the cause that its take raises (R124, R415), `parts` the pieces of the access that have not been served. -/
structure LSlot where
  st      : LsState := .free
  vec     : Bool := false
  visible : Nat := 0
  due     : Nat := 0
  here    : Bool := false
  data    : BitVec 2048 := 0#2048
  side    : BitVec 256 := 0#256
  mark    : Nat := 0
  glob    : Bool := false
  parts   : Nat := 1
  deriving DecidableEq, Repr

/-- A token tag of a hod (R61): the consumer's parish on this die, its operator yard, the stamp and the token's input port yard. -/
structure Tag where
  parish : Nat
  yard   : Nat
  stamp  : Stamp
  port   : Nat
  landed : Bool := false
  fresh  : Bool := true
  deriving DecidableEq, Repr

/-- A ring control (R59, R61): the configuration half, the status half, a sector count and a token tag for each hod, the bytes landed
in sectors not yet counted (R64), and the record cursor RCUR (R359). `bound` is the ordinal a slot ring is bound to (R202), `poison` the mark
of its handle (R415). -/
structure Ring where
  cfg    : BitVec 64 := 0#64
  ovf    : Bool := false
  rp     : Nat := 0
  wp     : Nat := 0
  used   : Nat := 0
  counts : Smap Nat := []
  landed : Smap Nat := []
  tags   : Smap Tag := []
  rcur   : Nat := 0
  bound  : Option Int := none
  poison : Bool := false
  deriving DecidableEq, Repr

/-- Where a result goes when it lands (R260). -/
inductive Dest where
  | age
  | none
  | reg (n : Nat)
  | queue (id : Nat)
  | sysreg (n : Nat)
  deriving DecidableEq, Repr

/-- What lands. -/
inductive Payload where
  | scalar (v : Word)
  | vec (d : BitVec 2048) (s : BitVec 256)
  | flags
  deriving DecidableEq, Repr

/-- A result in flight (R256, R431): its landing cc, the slot it issued in (0 X, 1 V, 2 D), the bundle that issued it. -/
structure Fly where
  land  : Nat
  slot  : Nat
  seq   : Nat
  dest  : Dest
  pay   : Payload
  flags : BitVec 7 := 0#7
  poison : Bool := false
  deriving DecidableEq, Repr

/-- An entry of the scalar data queue (R249): reserved at issue, filled when its value lands. -/
structure SEntry where
  id  : Nat
  val : Option Word := none
  poison : Bool := false
  deriving DecidableEq, Repr

/-- An entry of the vector data queue (R249). -/
structure VEntry where
  id  : Nat
  val : Option VReg := none
  deriving DecidableEq, Repr

/-- An open loop level (R266): the addresses of the body's first and last bundles and of the bundle after it, the counter, and the
number of calls and handlers it stands inside. -/
structure Level where
  first : Nat
  last  : Nat
  exit  : Nat
  count : Nat
  frame : Nat
  deriving DecidableEq, Repr

/-- The execute half of a bundle that the access stream has issued and the execute stream has not: its address, its X, V and D
words when present, its hold bits, the loop levels as they stood when the access stream reached it and (`opened`) after its own loop
word but before any end test, whether a handler was running there, the selection that its cbsel leaves to the bundles after it (R392), and whether both halves issue together (R246). -/
structure RunB where
  va    : Nat
  size  : Nat
  x     : Option (BitVec 32) := none
  v     : Option (BitVec 32) := none
  d     : Option (BitVec 32) := none
  hold  : BitVec 5 := 0#5
  loops : List Level := []
  opened : List Level := []
  inH   : Bool := false
  sel   : Option (BitVec 12) := none
  sync  : Bool := false
  deriving DecidableEq, Repr

/-- Where a bundle's access word sends the streams (R265 to R269): nowhere, past a loop body that is skipped, to a branch target, to
a call's target or a return's, with the bundles and the wait that a handler's return restores. -/
inductive Goto where
  | fall
  | skip (last exit : Nat)
  | taken (va : Nat)
  | back (va : Nat) (run : List RunB) (await : Bool)
  deriving DecidableEq, Repr

/-- A trap found and not yet taken, with what its record holds (R427, R428). A margin fault is taken once the execute stream has reached
cc `after`, and discards what was issued from bundle `from_` on (R328). -/
structure TrapInfo where
  cause  : Nat
  access : Bool := false
  kind   : Nat := 0
  va     : Option Nat := none
  addr   : Nat := 0
  slot   : Nat := 0
  index  : Nat := 0
  course : Nat := 0
  ndisc  : Nat := 0
  after  : Nat := 0
  from_  : Nat := 0
  args   : Nat × Nat × Nat := (0, 0, 0)
  deriving DecidableEq, Repr

/-- A byte that the step has stored (R163, R173): its value and whether a publication has covered it. `seq` counts the step's stores
and atomics, `comp` and `ca` are the C bit and the cacheability of its page (R110, R118), `poison` whether a copy carried poison there
(R124), `page` the page whose walk the store waits for (R29). -/
structure Own where
  val    : BitVec 8
  seq    : Nat := 0
  pub    : Bool := false
  comp   : Bool := false
  ca     : Nat := 0
  poison : Bool := false
  copy   : Option Nat := none
  page   : Option Nat := none
  deriving DecidableEq, Repr

/-- What takes back an A word whose E word traps after a wait (R416), as far as it lies in the core: the landing slot it has made Pending, the
queue entries that the bundle has popped, the call's entry that a ret has taken or that a call has pushed, the bytes and poison marks of
the scratchpad and the step's own stores as they stood before (log entry 109). -/
structure Undo where
  slot : Option Nat := none
  sq   : List SEntry := []
  vq   : List VEntry := []
  ret  : Option (Nat × Nat) := none
  call : Bool := false
  spad : List (Nat × BitVec 8) := []
  bad  : List (Nat × Bool) := []
  own  : List (Nat × Nat × Option Own) := []
  deriving DecidableEq, Repr

/-- A bundle whose A word has issued and whose E word waits (R280): the access registers, the loop levels and the handler bit as they stood
before it, the words that the E word has taken from the queue (R375), and what takes the A word back when that can be done (R416). -/
structure Half where
  regs   : List Reg := []
  loops  : List Level := []
  inH    : Bool := false
  popped : Option (List Word) := none
  undo   : Option Undo := none
  deriving DecidableEq, Repr

/-- A waitc that waits (R401, R402): the ticks at which it was first tested and at which its timeout ends, and its conditions, control word and
stamp, as it read them at its issue (R378). -/
structure Waitc where
  since : Nat
  ends  : Nat
  conds : List (Nat × Nat) := []
  deriving DecidableEq, Repr

/-- An entry of the return stack: a call's (R269), or a trap's with its boundary (R419, R420), and what the access word that stands there
had begun: whether its publication was complete (R406), its waitc (R402), its half bundle, its retirement; `passOver` says that the return passes over that word's bundle (R420). -/
structure RetEntry where
  trap   : Bool := false
  va     : Nat := 0
  depth  : Nat := 0
  loops  : List Level := []
  run    : List RunB := []
  await  : Bool := false
  done   : Bool := false
  waitc  : Option Waitc := none
  half   : Option Half := none
  retiring : Nat := 0
  passOver : Bool := false
  deriving DecidableEq, Repr

/-- Why a context waits: the KIND bits of R211 and what its snapshot names; `queue` says that it waits at a pop that finds its data queue
empty (R250). -/
structure Wait where
  kind    : BitVec 8 := 0#8
  since   : Nat := 0
  stamp   : Stamp := 0#64
  yard    : Nat := 0
  parish  : Nat := 0
  lsmask  : BitVec 32 := 0#32
  rhmask  : BitVec 16 := 0#16
  plwait  : BitVec 4 := 0#4
  accwait : BitVec 4 := 0#4
  cbwait  : BitVec 4 := 0#4
  bie     : Nat := 0
  budget  : Bool := true
  queue   : Bool := false
  slot    : Nat := 1
  deriving DecidableEq, Repr

/-- Device memory of one stack (R115, R116, R123): the stored bytes of every slot, the tag of every line that is not raw, the
32-byte sectors that are poisoned, and the runs of lines whose contents are undefined (R47), as (first line, count, draw). -/
structure Hbm where
  slots  : Mem := []
  tags   : Smap Nat := []
  poison : Nset := []
  undef  : List (Nat × Nat × Nat) := []
  deriving DecidableEq, Repr

/-- A codebook bank (R80 to R82). `poison` marks entries by number, and VMAP 256, CBFMT 257, CBLIM 258 (R437). -/
structure Bank where
  entries : Smap (BitVec 64) := []
  poison  : Nset := []
  vmap    : BitVec 256 := 0#256
  lim     : Word := 0#64
  fmt     : Word := 0#64
  changed : Bool := false
  deriving DecidableEq, Repr

/-- A pass in flight (R329): bundle, cc of its reading and of its landing, the exact sums, the span, the destination. `ok` marks
the columns already accepted. -/
structure Pass where
  seq    : Nat
  va     : Nat
  read   : Nat
  land   : Nat
  sums   : List Int
  span   : Nat
  tile   : Nat
  row    : Nat
  exp    : Int
  claim  : Nat
  ok     : BitVec 256 := 0#256
  races  : Nat := 0
  steps  : Nat := 0
  done   : Bool := false
  poison : Bool := false
  deriving DecidableEq, Repr

/-- A comb operation in flight (R333). -/
structure Comb where
  seq   : Nat
  va    : Nat
  read  : Nat
  land  : Nat
  pay   : Payload
  races : Nat := 0
  done  : Bool := false
  poison : Bool := false
  deriving DecidableEq, Repr

/-- A plane load in flight (R354, R355). -/
structure Load where
  seq    : Nat
  va     : Nat
  plane  : Nat
  claim  : Nat
  first  : Nat
  count  : Nat
  next   : Nat := 0
  off    : Nat
  exp    : BitVec 8
  bank   : Option Nat := none
  book   : Bank := {}
  width  : Nat := 6
  deriving DecidableEq, Repr

/-- An rcal measurement in flight (R369): chain, landing cc, count, the tick at which its ring periods have ended. -/
structure Rcal where
  chain : Nat
  land  : Nat
  seq   : Nat
  val   : BitVec 32
  ends  : Nat := 0
  deriving DecidableEq, Repr

/-- The registers that programs name (R252). Ages are held most recent first. `rh` names ring controls of the core. -/
structure Regs where
  a  : List Reg := List.replicate 15 {}
  b  : List Reg := List.replicate 16 {}
  k  : List Reg := List.replicate 16 {}
  v  : List VReg := List.replicate 8 {}
  w  : List VReg := List.replicate 8 {}
  eg : List Reg := List.replicate 64 {}
  dc : List Reg := List.replicate 16 {}
  ls : List LSlot := List.replicate 32 {}
  rh : List (Option Nat) := List.replicate 16 none
  deriving DecidableEq, Repr

/-- The system registers of a context (R254), its codebook selection (R89) and SATMASK (R326). `poison` marks the words that an uncorrectable
error has hit (R437), by the numbers of R254; 32 is the selection, 64 to 67 the words of SATMASK, 80 and 81 the loop and return stacks. -/
structure Sys where
  stepId  : Word := 0#64
  opid    : Nat := 0
  stamp   : Stamp := 0#64
  core    : BitVec 16 := 0#16
  late    : BitVec 32 := 0#32
  frz     : Word := 0#64
  rmode   : BitVec 2 := 0#2
  vflags  : BitVec 7 := 0#7
  rflags  : BitVec 4 := 0#4
  trapc   : BitVec 10 := 0#10
  trapb   : BitVec 52 := 0#52
  sel     : BitVec 12 := 0#12
  satmask : BitVec 256 := 0#256
  poison  : Nset := []
  deriving DecidableEq, Repr

/-- The two streams of a context (R247, R248). `last` is the last word issued in each slot as the execute stream stands, `seen` as the
access stream does (R245). The access position is `pc`; `run` holds the bundles between the streams, so the slip
is its length; `cc` is the sequence number of the next execute bundle and equals CYC (R251). `half` is the bundle at the access position
when only its A word has issued, `popped` what the E word now under test has taken from the queue. `dtraps` are the faults detected and not yet
taken, the earliest first (R418); `checked` says that the rpassr at which the execute stream is frozen has passed its checks (R349), `passOver`
that a Skip passes over the bundle at the access position once its header can be read (R423). -/
structure Streams where
  pc      : Nat := 0
  await   : Bool := false
  cc      : Nat := 0
  run     : List RunB := []
  loops   : List Level := []
  rstack  : List RetEntry := []
  last    : List (Option (BitVec 32)) := List.replicate 5 none
  seen    : List (Option (BitVec 32)) := List.replicate 5 none
  sq      : List SEntry := []
  vq      : List VEntry := []
  nextId  : Nat := 0
  flight  : List Fly := []
  atrap   : Option TrapInfo := none
  dtraps  : List TrapInfo := []
  handler : Bool := false
  late    : Bool := false
  aWait   : Option Wait := none
  xWait   : Option Wait := none
  goto    : Goto := .fall
  selNext : Option (BitVec 12) := none
  skipTo  : Nat := 0
  skipLoops : List Level := []
  half    : Option Half := none
  popped  : List Word := []
  checked : Bool := false
  passOver : Bool := false
  deriving DecidableEq, Repr

/-- A token from tsend to acceptance (R395, R396). -/
structure Token where
  id      : Nat
  src     : Nat
  core    : Nat
  sid     : Nat
  pkg     : Nat
  die     : Nat
  opid    : Nat
  port    : Nat
  dyard   : Nat
  stamp   : Stamp
  parish  : Nat
  home    : Nat
  hpar    : Nat
  expidx  : Nat := 0
  gen     : Nat := 0
  local_  : Bool := true
  route   : Word
  payload : List (BitVec 8)
  bad     : List Nat := []
  at_     : Nat := 0
  way     : Option Nat := none
  deriving DecidableEq, Repr

/-- A launch's reporting fields (R188). -/
structure Launch where
  crec : Nat := 0
  tag  : Nat := 0
  msie : Bool := false
  msix : Nat := 0
  deriving DecidableEq, Repr

/-- A context of a core (R205): one step with everything it holds. `pubReq` is the scope of a pub that waits, or 8 + the BIE of a
shpub; `shWait` the BIE of a shopen that waits; `retiring` is 1 from the retire, 2 once its execute halves have issued (R408); `eff`
and `opb` are the region's effective RCB and the OPB as the step was released under them (R190), `banks` its private codebooks while
they are out of the core (R107), `badBanks` that their image was refused when the context came back (R104). `charge` is the waiting
charged so far in ticks, `waitFrom` the start of the interval that is being charged, `tokWaits` counts the step's tokens that wait for a
ring bound to another ordinal (R202, R210); `readyAt` is the tick from which it has been ready without issuing, `agedAt` that from which the
next whole millisecond of ageing counts (R206); `resumed` is the Resumes whose records are due when the step is back on a core (R189). Of its
global reads and writes (R163 to R176): `snap`, `hostImg` and `hostSnap` are the images that its reads use, `own` its stores, `atoms` what its atomics
wrote, `stores` and `acquires` count them and its acquires, `bies` is its resolutions of BIEs (R46), `oldBies` what BIEs
gave that have exchanged since an image was fixed (R47). `xlAsk` is the page whose walk
the access stream waits for and `xlFault` how that walk failed (R29); `reads` and `pages` are used by the view of a command
only: what it has read and the pages that it has translated, not yet noted at the memories and the TLBs. -/
structure Ctx where
  live    : Bool := false
  priv    : Bool := false
  sid     : Nat := 0
  regs    : Regs := {}
  sys     : Sys := {}
  st      : Streams := {}
  passes  : List Pass := []
  combs   : List Comb := []
  loads   : List Load := []
  rcals   : List Rcal := []
  caps    : List (Nat × Nat) := []
  pending : Nat := 0
  kept    : List Token := []
  snap    : Smap Hbm := []
  hostImg : Option Mem := none
  hostSnap : Smap (List (BitVec 8)) := []
  own     : Smap (Smap Own) := []
  atoms   : Smap (Smap Own) := []
  stores  : Nat := 0
  acquires : Nat := 0
  bies    : Smap (Nat × Nat) := []
  oldBies : Smap (Nat × Nat) := []
  openBies : Nset := []
  pubReq  : Option Nat := none
  pubDone : Bool := false
  fence   : Option Nat := none
  xlAsk   : Option Nat := none
  xlFault : Option (Nat × Nat) := none
  reads   : List (Nat × Nat × Nat) := []
  pages   : List Nat := []
  shWait  : Option Nat := none
  claimWait : Option (Bool × Nat × Nat) := none
  retiring : Nat := 0
  paused  : Option TrapInfo := none
  overrun : Bool := false
  charge  : Nat := 0
  waitFrom : Option Nat := none
  tokWaits : Nat := 0
  resumed : List Launch := []
  started : Option Nat := none
  held    : Nat := 0
  readyAt : Nat := 0
  ageing  : Nat := 0
  agedAt  : Nat := 0
  residAt : Nat := 0
  waitc   : Option Waitc := none
  cblims  : Smap Nat := []
  eff     : BitVec 2048 := 0#2048
  opb     : BitVec 4096 := 0#4096
  banks   : Option (List Bank) := none
  badBanks : Bool := false
  deriving DecidableEq, Repr

/-- The claim of a plane or tile (R77): `gen` counts claims, `readers` the accst and copies not yet past translation. -/
inductive ClaimState where
  | free | reserved | held | draining | faulted
  deriving DecidableEq, Repr

/-- Who holds a plane or tile, and who waits for it (R77, R78). `again` counts the rclaims that the holder's access stream has passed and
its execute stream has not (R352). -/
structure Claim where
  st      : ClaimState := .free
  owner   : Nat := 0
  gen     : Nat := 0
  readers : Nat := 0
  faulted : Nat := 0
  again   : Nat := 0
  waiting : List Nat := []
  deriving DecidableEq, Repr

/-- A weight plane (R75): courses written since its contents became undefined, exponent, claim. `poison` marks 64-bit words, 24 a course, and
the exponent 1536 (R415, R437). -/
structure Plane where
  undef   : Nat := 0
  courses : Smap (BitVec 1536) := []
  exp     : Option (BitVec 8) := none
  poison  : Nset := []
  claim   : Claim := {}
  deriving DecidableEq, Repr

/-- An accumulator tile (R73): rows written since its contents became undefined, of 256 mantissas each; `zero` says that rows not
listed are zero. `poison` marks elements, 256 a row, and the exponent 16384 (R415, R437). -/
structure Tile where
  undef : Nat := 0
  zero  : Bool := false
  rows  : Smap (List Int) := []
  exp   : Option Int := none
  poison : Nset := []
  claim : Claim := {}
  deriving DecidableEq, Repr

/-- A translation held by a TLB (R27): the first page and number of 64 KiB pages it covers, and its leaf. -/
structure TlbE where
  page  : Nat
  pages : Nat
  leaf  : Nat
  deriving DecidableEq, Repr

/-- The kinds of engine command (R377). -/
inductive CmdKind where
  | cpy | cpyg | cpyx | cbld | cbval | cbsave | accst
  deriving DecidableEq, Repr

/-- Where a command stands: waiting to be accepted, running, stopped by a fault, all writes done. -/
inductive CmdState where
  | waiting | running | stopped | written
  deriving DecidableEq, Repr

/-- One 8-bit piece of a chunk's destination: a place in device or host memory (`core` none) or a byte place of a core's scratchpad,
its value and poison, and in a ring the ring control, hod and sector that it belongs to. -/
structure DstB where
  core : Option Nat := none
  home : Nat := 0
  addr : Nat
  val  : BitVec 8
  bad  : Bool := false
  comp : Bool := false
  ca   : Nat := 0
  page : Option Nat := none
  sec  : Option (Nat × Nat × Nat) := none
  deriving DecidableEq, Repr

/-- Bytes on their way to one sector of a hod (R64): ring control, hod, sector, and the command and block that they belong to. -/
structure Landing where
  core   : Nat
  ring   : Nat
  hod    : Nat
  sector : Nat
  cmd    : Option (Nat × Nat) := none
  bytes  : List DstB
  deriving DecidableEq, Repr

/-- A command of the copy engine (R377 to R393), its progress (R130), and what acceptance fixed. `view` is the images that its reads
use (R181), `left` the stores that it made after its step had retired (R167), `wrote` the places that its chunks have written, highest
first, with what stood there before and what it has given them (R383), `issued` the blocks of the chunk that have been issued (R130).
`readAt` is the core whose tile it reads, when its step has left that core (R208). `opid`, `stamp` and `va` are its step's, for the record
of a fault after the step's end (R427), `xstamp` a stamped copy's (R428). `ahead` is the bytes of the next chunk that were read with the
aligned word that holds the last ones, `tail` the bytes that wait to be written with the rest of their aligned word (R164). -/
structure Cmd where
  id      : Nat
  kind    : CmdKind
  ctx     : Nat
  sid     : Nat
  opid    : Nat := 0
  stamp   : Nat := 0
  va      : Nat := 0
  xstamp  : Nat := 0
  st      : CmdState := .waiting
  accepted : Bool := false
  d       : List Word := []
  src     : Word := 0#64
  dst     : Word := 0#64
  scat    : Bool := false
  bank    : Nat := 0
  sp      : Nat := 0
  first   : Nat := 0
  count   : Nat := 0
  next    : Nat := 0
  vm      : Option (BitVec 256) := none
  fmt     : Word := 0#64
  lim     : Word := 0#64
  regOut  : Bool := false
  floor   : Nat := 0
  n       : List Nat := []
  ss      : List Int := []
  ds      : List Int := []
  ring    : Option (Nat × Nat) := none
  rcfg    : BitVec 64 := 0#64
  w0      : Nat := 0
  total   : Nat := 0
  chix    : Nat := 0
  smask   : Nat := 0
  issued  : Nat := 0
  chunk   : Option (List (List DstB)) := none
  input   : Option (List (BitVec 8) × Bool) := none
  tile    : Option Tile := none
  tileNo  : Nat := 0
  tileFmt : Nat := 0
  readAt  : Option Nat := none
  reading : Bool := false
  heldF   : Bool := false
  rm      : Nat := 0
  stamped : Option (Nat × Nat × Nat) := none
  image   : List (BitVec 8) := []
  entry   : Nat := 0
  arg     : Word := 0#64
  started : Bool := false
  outPos  : Nat := 0
  outLen  : Nat := 0
  beyond  : Bool := false
  fault   : Option (Nat × Nat) := none
  refused : Bool := false
  view    : Ctx := {}
  left    : Smap (Smap Own) := []
  wrote   : List (Nat × (BitVec 8 × Bool) × (BitVec 8 × Bool)) := []
  ahead   : List (BitVec 8 × Bool) := []
  tail    : List DstB := []
  deriving DecidableEq, Repr

/-- A request that a core's bank serves for another core (R57, R177): an OWN-format access of the core's scratchpad. -/
structure NbrReq where
  src  : Nat
  ctx  : Nat
  sid  : Nat
  kind : Nat
  off  : Nat
  n    : Nat := 0
  swz  : Nat := 0
  opn  : Nat := 0
  v    : Word := 0#64
  w    : Word := 0#64
  data : List (BitVec 8) := []
  slot : Nat := 0
  sx   : Bool := false
  rl   : Nat := 4
  side : Bool := false
  deriving DecidableEq, Repr

/-- A scratchpad allocation or port area (R202, R204). -/
structure Alloc where
  off   : Nat
  len   : Nat
  sid   : Nat
  opid  : Nat := 0
  freeing : Bool := false
  rings : List Nat := []
  deriving DecidableEq, Repr

/-- A port area's ring on a core (R202): operator, port, slot number, ring control. -/
structure PortRing where
  opid : Nat
  port : Nat
  slot : Nat
  ring : Nat
  deriving DecidableEq, Repr

/-- A core (R2). -/
structure Core where
  ctxs     : Smap Ctx := []
  spad     : Mem := []
  spadPoison : Nset := []
  banks    : List Bank := List.replicate 4 {}
  cbOwner  : Option (Nat × Nat) := none
  planes   : List Plane := List.replicate 4 {}
  tiles    : List Tile := List.replicate 4 {}
  trim     : List (BitVec 64) := List.replicate 16 0x88#64
  strim    : List (BitVec 64) := List.replicate 8 0x88#64
  smap     : List (BitVec 64) := List.replicate 8 0#64
  calctl   : BitVec 64 := 0x000400020009861F#64
  calstat  : BitVec 64 := 0#64
  passes   : Nat := 0
  reraces  : Nat := 0
  margins  : Nat := 0
  cals     : Nat := 0
  caltime  : Nat := 0
  caltemp  : BitVec 16 := 0#16
  satcols  : Nat := 0
  temp     : BitVec 16 := 0#16
  rings    : Smap Ring := []
  ports    : List PortRing := []
  allocs   : List Alloc := []
  queue    : List Cmd := []
  nbrQ     : List NbrReq := []
  l1       : List TlbE := []
  misses   : Nat := 0
  clk      : Nat := 0
  active   : Option Nat := none
  switching : Nat := 0
  freeze   : Nat := 0
  rerace   : Option (Nat × Bool × Nat) := none
  renorm   : Option Nat := none
  calReq   : Bool := false
  calDue   : Bool := false
  calAt    : Nat := 0
  calRun   : Nat := 0
  yieldReq : Bool := false
  filler   : Bool := false
  issuing  : Nat := 0
  eccHold  : Nat := 0
  deriving DecidableEq, Repr


/-- A region (R191). `eff` holds its effective RCB fields (R192). -/
structure Region where
  rcb      : BitVec 2048 := 0#2048
  eff      : BitVec 2048 := 0#2048
  depth    : Nat := 1
  closed   : Bool := false
  killed   : Bool := false
  complete : Bool := false
  reserved : Nat := 0
  launch   : Launch := {}
  start    : Option Nat := none
  steps    : Nat := 0
  faults   : Nat := 0
  cause    : Nat := 0
  deriving DecidableEq, Repr

/-- An operator placed in a walker (R195, R199). `next` is the stamp of its next step, `parked` the stamps and cores of steps that a
fault discarded and whose re-run waits for a Resume (R434), `resumed` the Resumes whose re-run is to come (R189). -/
structure Op where
  va       : Nat := 0
  opb      : BitVec 4096 := 0#4096
  region   : Nat := 0
  next     : Option Nat := none
  resident : List Nat := []
  reruns   : List (Nat × Nat) := []
  launch   : Launch := {}
  start    : Option Nat := none
  steps    : Nat := 0
  running  : Nat := 0
  faults   : Nat := 0
  cause    : Nat := 0
  complete : Bool := false
  killed   : Bool := false
  served   : Nat := 0
  savedOn  : Nset := []
  parked   : List (Nat × Nat) := []
  resumed  : List (Nat × Launch) := []
  deriving DecidableEq, Repr

/-- A parish as a belfry holds it (R138, R139, R474). A curfew not listed is (0, 0, 0, 0). `counts` is the
home's table of (yard, stamp, count), no count zero (R153, R158), `spilled` the entries in the spill area with their places there
(R159), `full` that an entry found the area full (R160). -/
structure Parish where
  enabled  : Bool := false
  enabling : Bool := false
  desc     : BitVec 256 := 0#256
  members  : List Word := []
  auths    : List (Nat × Nat) := []
  pst      : Smap Nat := []
  root     : Nat := 0
  isSealed : Bool := false
  cmd      : Option (Nat × Nat) := none
  replies  : Nat := 0
  counts   : List (Nat × Nat × Int) := []
  spilled  : List (Nat × Nat × Nat × Int) := []
  full     : Bool := false
  curfews  : Smap Nat := []
  stopped  : Bool := false
  deriving DecidableEq, Repr

/-- One record of a batch (R157): parish at the home, yard, stamp, count change. -/
structure Rec where
  parish : Nat
  yard   : Nat
  stamp  : Nat
  delta  : Int
  deriving DecidableEq, Repr

/-- A progress batch (R155, R157). `way` is the number of the packet that it travels in, while it is on its way (R450, R452). -/
structure Batch where
  src   : Nat
  home  : Nat
  seq   : Nat := 0
  recs  : List Rec := []
  at_   : Nat := 0
  auth  : Option (Nat × Nat) := none
  bad   : Bool := false
  way   : Option Nat := none
  deriving DecidableEq, Repr

/-- A curfew notice (R154) or, with `root`, a root notice or its reply (R474). -/
structure Notice where
  src    : Nat
  parish : Nat
  root   : Bool := false
  yard   : Nat := 0
  value  : Nat := 0
  sealN  : Bool := false
  auth   : Option (Nat × Nat) := none
  way    : Option Nat := none
  deriving DecidableEq, Repr

/-- A request to a home (R173, R176): one piece of a load or vector load, an atomic, or (`pref`) a prefetch. `part` is the byte of the
access at which the piece starts, `seq` and `mine` the step's own writes of those bytes as the request was issued (R163), `fixed` what
a load reads once the step's acquire interval has ended, `page` the page whose walk it waits for (R29). -/
structure HomeReq where
  src   : Nat
  core  : Nat
  ctx   : Nat
  sid   : Nat
  slot  : Nat
  addr  : Nat
  n     : Nat
  sx    : Bool := false
  vec   : Bool := false
  atom  : Option Nat := none
  v     : Word := 0#64
  w     : Word := 0#64
  poison : Bool := false
  ca    : Nat := 0
  comp  : Bool := false
  home  : Nat := 0
  part  : Nat := 0
  seq   : Nat := 0
  mine  : Smap Own := []
  fixed : Option (List (BitVec 8) × Nat) := none
  page  : Option Nat := none
  pref  : Bool := false
  way   : Option Nat := none
  deriving DecidableEq, Repr

/-- A table walk (R27, R29): the 64 KiB page, who waits, the table pointer it starts from, and once it has read the tables, each entry
once (R30), the leaf or the reason found there and the table pointers it passed. -/
structure Walk where
  page  : Nat
  who   : List (Nat × Nat)
  level : Nat := 3
  table : Nat := 0
  found : Option (Nat × Bool ⊕ Nat) := none
  ptrs  : List (Nat × Nat × Nat) := []
  deriving DecidableEq, Repr

/-- What a save wrote into the blocks of its slot that R430 gives no bit layout, in numbers: control, valid bits, stacks, last words, landing
slots, commands; the ring handles with their RCUR, and the landing slots whose data was at hand, as a mask. -/
structure SaveText where
  control : List Nat := []
  valid   : List Nat := []
  frames  : List Nat := []
  last    : List Nat := []
  slots   : List (List Nat) := []
  cmds    : List Nat := []
  handles : List (Nat × Nat) := []
  here    : Nat := 0
  deriving DecidableEq, Repr

/-- A swapped-out context (R430): the context with its private banks, the core it left, the planes and tiles it holds, and its
engine commands; `cal` says that a calibration of that core, still running, put it out (R209). All this stands in the slot's bytes too, and
comes back from them (R432, log entry 15); `text` is what the save wrote there. -/
structure Saved where
  ctx    : Ctx
  core   : Nat
  planes : List (Nat × Plane) := []
  tiles  : List (Nat × Tile) := []
  cmds   : List Cmd := []
  cal    : Bool := false
  text   : SaveText := {}
  deriving DecidableEq, Repr

/-- The registers of an LD's blocks (R31, R112, R140, R185, R426). -/
structure LdRegs where
  xlroot    : Word := 0#64
  xlinv     : Word := 0#64
  xlinvlen  : Word := 0#64
  xlinvst   : Word := 0#64
  biebase   : Word := 0#64
  bielim    : Word := 0#64
  htbase    : Word := 0#64
  expbase   : Word := 0#64
  hwbase    : Smap Word := []
  hwlim     : Smap Word := []
  ivact     : Smap Word := []
  ivstg     : Smap Word := []
  ivcmt     : Word := 0#64
  ivst      : Word := 0#64
  ecccnt    : Word := 0#64
  trtbase   : Word := 0#64
  ltparbase : Word := 0#64
  ltspbase  : Word := 0#64
  ltspsz    : Word := 0#64
  ltcmd     : Word := 0#64
  ltarg     : Word := 0#64
  ltst      : Word := 0#64
  wqtbase   : Word := 0#64
  ctxbase   : Word := 0#64
  ctxn      : Word := 0#64
  wqdb      : Smap Word := []
  fqbase    : Word := 0#64
  fqtail    : Word := 0#64
  fqhead    : Word := 0#64
  fqmsi     : Word := 0#64
  ebwix     : Word := 0#64
  deriving DecidableEq, Repr

/-- The belfry of a die (R155): batches open and in order of sending, sequence numbers, what has arrived. -/
structure Belfry where
  openB    : List Batch := []
  inbox    : List Batch := []
  notices  : List Notice := []
  replies  : List Notice := []
  seqOut   : Smap Nat := []
  seqIn    : Smap Nat := []
  deriving DecidableEq, Repr

/-- An MSI-X table entry as PCI Express defines it (R443): message address, message data, vector mask. -/
structure MsixEntry where
  addr   : Nat := 0
  data   : Nat := 0
  masked : Bool := true
  deriving DecidableEq, Repr

/-- A line of a die cache (R109, R110): its valid and dirty sectors, whether it goes first, and when it was last used. -/
structure CLine where
  valid : Nat := 0
  dirty : Nat := 0
  low   : Bool := false
  used  : Nat := 0
  deriving DecidableEq, Repr

/-- A logical device: a compute die, or the green's own home of host memory and parishes (R2, R441). `crecs` and `bells` are the completion
records still to be written and the queues whose doorbell is still to be taken, held by a commit (R114); `units` counts the 32-byte units
that reads have been charged (R117). `msix` is the MSI-X table and `msixSent` the messages written, with vector, address and data (R443);
`host` is the number of the host whose virtual hierarchy holds the LD (R441), `hostHeld` the lines that its caches hold, `snooped` the
back-invalidate snoops sent to it, `viral` the LD's viral status (R442). -/
structure Ld where
  regs     : LdRegs := {}
  hbm      : Hbm := {}
  cores    : Smap Core := []
  cache    : Smap CLine := []
  cacheAt  : Nat := 0
  units    : Nat := 0
  epochs   : Smap Nat := []
  l2       : List TlbE := []
  psc      : List (Nat × Nat × Nat) := []
  missQ    : List Walk := []
  walks    : List Walk := []
  inval    : Option (Nat × Nat) := none
  commit   : Option (Nat × Nat) := none
  commitAt : Nat := 0
  homeQ    : List HomeReq := []
  parishes : Smap Parish := []
  belfry   : Belfry := {}
  tokIn    : List Token := []
  tokWait  : List Token := []
  tokBack  : List Token := []
  landing  : List Landing := []
  acksDue  : List (Nat × Nat × Nat × Nat) := []
  regions  : Smap Region := []
  ops      : Smap Op := []
  saved    : Smap Saved := []
  wqEn     : Nset := []
  wqDesc   : Smap Nat := []
  wqWork   : Nset := []
  faultQ   : List (Nat × BitVec 512) := []
  crecs    : List (Launch × Nat) := []
  bells    : Nset := []
  pausedRecs : Smap (Nat × BitVec 512) := []
  errs     : Smap (BitVec 256) := []
  msix     : Smap MsixEntry := []
  msixPend : Nset := []
  msixSent : List (Nat × Nat × Nat) := []
  stage    : Nat := 0
  failed   : Nat := 0
  out      : Bool := false
  host     : Option Nat := some 0
  hostHeld : Nset := []
  snooped  : List Nat := []
  viral    : Bool := false
  nextSid  : Nat := 0
  nextCmd  : Nat := 0
  peerAns  : Option (Nat × Nat) := none
  lastRead : List (BitVec 8) := []
  lastBad  : List Bool := []
  deriving DecidableEq, Repr

/-- A packet between two dies (R450, R452): its number, by which what travels in it waits at its destination, its virtual channel and its
bytes. -/
structure Packet where
  id   : Nat
  src  : Nat
  dst  : Nat
  vc   : Nat := 0
  body : List (BitVec 8) := []
  deriving DecidableEq, Repr

/-- A packet at a place of a package's grid, or on the link that leads there (R450): whether it has taken its detour, and the places
through which the detour still leads. -/
structure Transit where
  pkt    : Packet
  pos    : Nat × Nat
  turned : Bool := false
  via    : List (Nat × Nat) := []
  deriving DecidableEq, Repr

/-- A flit that its sender keeps until it is acknowledged (R449, R453): number, virtual channel, packet bytes, and the packet that it ends. -/
structure Flit where
  seq  : Nat
  vc   : Nat := 0
  body : List (BitVec 8) := []
  last : Option Transit := none
  deriving DecidableEq, Repr

/-- A Beyvex port (R452 to R455): its registers, its replay buffer, the last SEQ received in order, the SEQ that a NAK names, whether later
flits are discarded, how many degradations the training answers. -/
structure Port where
  ctl    : Word := 1#64
  status : Word := 0xFFFF000C#64
  retry  : Word := 0#64
  seq    : Word := 0#64
  buf    : List Flit := []
  recv   : Nat := 0
  nak    : Option Nat := none
  drop   : Bool := false
  lost   : Nat := 0
  deriving DecidableEq, Repr

/-- One direction of a mesh link (R449): the last number sent and received in order, the number that a retry asks to follow, the replay
buffer. -/
structure LinkDir where
  sent : Nat := 0
  recv : Nat := 0
  nak  : Option Nat := none
  buf  : List Flit := []
  deriving DecidableEq, Repr

/-- A mesh link of the package (R449), with its two directions and the lanes that have failed. -/
structure Link where
  bad    : Nset := []
  up     : Bool := true
  paused : Bool := false
  fore   : LinkDir := {}
  back   : LinkDir := {}
  deriving DecidableEq, Repr

/-- The green's package-wide state: Beyvex, mesh, power, root of trust (R447 to R460). `envelope` is in hundredths of a watt, `idleAt` the
tick since which no step runs, `floorAt` that at which the envelope reached FLOOR, `stagAt` that from which STAGOFF is counted, `waits` the
packets that wait for a link or a port (R451, R455, R456), `fwOk` the firmware image that runs, `mailbox` the one the host has written. -/
structure Pkg where
  ports   : List Port := List.replicate 12 {}
  links   : List Link := List.replicate 12 {}
  waits   : List Transit := []
  staged  : Smap Word := []
  table   : Smap Word := []
  prcmt   : Word := 0#64
  prst    : Word := 0#64
  prRun   : Option (Nat × Nat) := none
  pwcap   : Nat := 1500
  rampup  : Nat := 100
  rampdn  : Nat := 100
  floor   : Nat := 0
  flhold  : Nat := 0
  stagoff : Nat := 0
  pwnow   : Nat := 0
  envelope : Nat := 0
  holding : Bool := false
  fillers : Bool := false
  idleAt  : Option Nat := some 0
  floorAt : Option Nat := none
  floorDone : Bool := false
  quiet   : Bool := false
  stagAt  : Option Nat := none
  fwOk    : Option Signed := none
  fwRefused : Bool := false
  mailbox : Option Signed := none
  deriving DecidableEq, Repr

/-- The unit a slot word acts on: die, core, context. -/
structure Cur where
  l : Nat := 0
  k : Nat := 0
  c : Nat := 0
  deriving DecidableEq, Repr

/-- The whole part. `ticks` is global time in sevenths of a nanosecond (R6, log entry 9). `agenda`, `turn`, `cur` and `draw` are the
model's own (log entry 4): the steps the outside world has chosen to come next, the core whose clock comes next, the unit a slot
word acts on, and the counter of the free values. -/
structure State where
  lds    : Smap Ld := []
  pkgs   : Smap Pkg := []
  host   : Mem := []
  ticks  : Nat := 0
  spdm   : List (Nat × Nat × Bool × Bool) := []
  agenda : List Instr := []
  turn   : Nat × Nat := (0, 0)
  cur    : Cur := {}
  draw   : Nat := 0
  deriving DecidableEq, Repr

/-- The part right after reset: every unit at its reset, nothing listed (R447). -/
def State.reset : State := {}

end Sys2Proof.Machine
end

