-- ==== Sys2Proof/Machine/Base.lean ====
section
/-! DEFINITION. The named operations every meaning is built from: reading and changing one unit of the part, stopping in a trap, a
wait or a freeze, and the fields of records. -/

namespace Sys2Proof.Machine

/-- The outcome of one step. -/
abbrev Res := Host.Outcome State Fault Refusal

/-- Why an operation did not complete: a trap (R416), a stall of the access stream with what it leaves asked for (R205, R248), a
freeze of the execute stream (R251), an event whose condition does not hold (log entry 8). -/
inductive Stop where
  | trap (t : TrapInfo)
  | wait (w : Wait) (ask : State → State)
  | frozen (w : Wait) (late : Bool)
  | idle

/-- An operation on the part: a state change and a result, or a stop that leaves the state as it was. -/
abbrev M (α : Type) := StateT State (Except Stop) α

/-! Units -/

def State.ld (s : State) (l : Nat) : Ld := mgetD s.lds l {}
def State.putLd (s : State) (l : Nat) (x : Ld) : State := { s with lds := mput s.lds l x }
def State.updLd (s : State) (l : Nat) (f : Ld → Ld) : State := s.putLd l (f (s.ld l))
def Ld.core (x : Ld) (k : Nat) : Core := mgetD x.cores k {}
def Ld.updCore (x : Ld) (k : Nat) (f : Core → Core) : Ld := { x with cores := mput x.cores k (f (x.core k)) }
def Core.ctx (x : Core) (c : Nat) : Ctx := mgetD x.ctxs c {}
def Core.updCtx (x : Core) (c : Nat) (f : Ctx → Ctx) : Core := { x with ctxs := mput x.ctxs c (f (x.ctx c)) }
def State.core (s : State) (l k : Nat) : Core := (s.ld l).core k
def State.updCore (s : State) (l k : Nat) (f : Core → Core) : State := s.updLd l fun x => x.updCore k f
def State.ctx (s : State) (l k c : Nat) : Ctx := (s.core l k).ctx c
def State.updCtx (s : State) (l k c : Nat) (f : Ctx → Ctx) : State := s.updCore l k fun x => x.updCtx c f
def State.pkg (s : State) (p : Nat) : Pkg := mgetD s.pkgs p {}
def State.updPkg (s : State) (p : Nat) (f : Pkg → Pkg) : State := { s with pkgs := mput s.pkgs p (f (s.pkg p)) }

/-- The context, core and die that the current slot word acts on. -/
def State.me (s : State) : Ctx := s.ctx s.cur.l s.cur.k s.cur.c
def State.updMe (s : State) (f : Ctx → Ctx) : State := s.updCtx s.cur.l s.cur.k s.cur.c f

/-- Global time in ns and in reference ticks (R6). -/
def State.ns (s : State) : Nat := s.ticks / 7
def State.rt (s : State) : Nat := s.ticks / 70

/-- The package of a die and its number there. -/
def pkgOf (l : Nat) : Nat := l / 16
def dieOf (l : Nat) : Nat := l % 16
/-- The die number of package `p`, die `d`. -/
def ldNo (p d : Nat) : Nat := 16 * p + d
/-- The home key of host memory. -/
def hostKey : Nat := 1000000

def getMe : M Ctx := fun s => .ok (s.me, s)
def updMe (f : Ctx → Ctx) : M Unit := fun s => .ok ((), s.updMe f)
def getCore : M Core := fun s => .ok (s.core s.cur.l s.cur.k, s)
def updCore (f : Core → Core) : M Unit := fun s => .ok ((), s.updCore s.cur.l s.cur.k f)
def getLd : M Ld := fun s => .ok (s.ld s.cur.l, s)
def updLd (f : Ld → Ld) : M Unit := fun s => .ok ((), s.updLd s.cur.l f)
def getS : M State := fun s => .ok (s, s)
def updS (f : State → State) : M Unit := fun s => .ok ((), f s)
/-- A fresh number for a free value. -/
def fresh : M Nat := fun s => .ok (s.draw, { s with draw := s.draw + 1 })

/-- The operation stops in a trap raised by the word of a slot, 1 A to 5 D (R416). -/
def trapAt {α : Type} (slot cause : Nat) (index : Nat := 0) (addr : Nat := 0) : M α :=
  fun _ => .error (.trap { cause := cause, access := decide (slot ≤ 2), slot := slot, index := index, addr := addr })
/-- The access stream stalls. -/
def stall {α : Type} (w : Wait) (ask : State → State := id) : M α := fun _ => .error (.wait w ask)
/-- The execute domain freezes; `late` for a take of late data (R70). -/
def freezeX {α : Type} (w : Wait) (late : Bool := false) : M α := fun _ => .error (.frozen w late)
/-- The event's condition does not hold. -/
def idle {α : Type} : M α := fun _ => .error .idle
/-- Goes on only when the condition holds. -/
def need (b : Bool) : M Unit := if b then pure () else idle
/-- Traps unless the condition holds. -/
def check (b : Bool) (slot cause : Nat) (addr : Nat := 0) : M Unit := if b then pure () else trapAt slot cause 0 addr

/-- A wait that names no cause of R205: an empty data queue, a full miss queue, a branch outcome (R29, R249, R265). -/
def plainWait : Wait := { budget := false }
/-- A wait of KIND bit `n` (R211). -/
def kindWait (n : Nat) : Wait := { kind := BitVec.ofNat 8 (2 ^ n) }

/-- An event's meaning: its operation's state, or the state unchanged when it is not enabled (log entry 8). A trap inside an event
is the event's own concern and leaves the state unchanged. -/
def runEv (ok : Bool) (m : M Unit) (s : State) : Res :=
  if ok then
    match m s with
    | .ok (_, t) => .next t
    | .error _ => .next s
  else .fault .noSuchUnit

/-- Runs an operation that must not stop; a stop leaves the state unchanged. -/
def tryM (m : M Unit) (s : State) : State :=
  match m s with
  | .ok (_, t) => t
  | .error _ => s

/-- Applies an operation to each member of a list in turn. -/
def forEach {α : Type} (f : α → M Unit) : List α → M Unit
  | [] => pure ()
  | x :: r => do f x; forEach f r

/-- Applies a state change for each member of a list in turn. -/
def foldS {α : Type} (f : α → State → State) : List α → State → State
  | [], s => s
  | x :: r, s => foldS f r (f x s)

/-- The operator a context runs for and its region. -/
def State.opOf (s : State) (l opid : Nat) : Op := mgetD (s.ld l).ops opid {}
def State.regionOf (s : State) (l opid : Nat) : Region := mgetD (s.ld l).regions (s.opOf l opid).region {}
def State.updOp (s : State) (l opid : Nat) (f : Op → Op) : State :=
  s.updLd l fun x => { x with ops := mput x.ops opid (f (mgetD x.ops opid {})) }
def State.updRegion (s : State) (l r : Nat) (f : Region → Region) : State :=
  s.updLd l fun x => { x with regions := mput x.regions r (f (mgetD x.regions r {})) }

/-- A field of an OPB or of a region's effective RCB (R191, R195). -/
def Op.fld (o : Op) (lo n : Nat) : Nat := bits o.opb.toNat lo n
def Region.fld (r : Region) (lo n : Nat) : Nat := bits r.eff.toNat lo n

/-- OPB fields (R195). -/
def Op.entry (o : Op) : Nat := o.fld 0 64
def Op.rcbVa (o : Op) : Nat := o.fld 64 64
def Op.handler (o : Op) : Nat := o.fld 128 64
def Op.hcls (o : Op) : Nat := o.fld 192 4
def Op.restart (o : Op) : Bool := bit o.opb.toNat 196
def Op.privcb (o : Op) : Bool := bit o.opb.toNat 197
def Op.pmode (o : Op) : Nat := o.fld 200 2
def Op.slots (o : Op) : Nat := o.fld 202 3 + 1
def Op.parish (o : Op) : Nat := o.fld 208 6
def Op.yard (o : Op) : Nat := o.fld 216 8
def Op.tbound (o : Op) : Nat := o.fld 224 32
def Op.lcnt (o : Op) (j : Nat) : Nat := o.fld (256 + 16 * j) 16
def Op.lbase (o : Op) (j : Nat) : Nat := o.fld (320 + 16 * j) 16
def Op.spstep (o : Op) : Nat := o.fld 800 16
def Op.cmod (o : Op) : Nat := o.fld 776 6 + 1
def Op.cbase (o : Op) : Nat := o.fld 768 6
def Op.cbimg (o : Op) : Nat := o.fld 832 64
def Op.cbsave (o : Op) : Nat := o.fld 896 64
def Op.inport (o : Op) (p : Nat) : Nat := o.fld (960 + 64 * p) 64
def Op.iring (o : Op) (p : Nat) : Nat := o.fld (1216 + 64 * p) 64
def Op.oport (o : Op) (m : Nat) : Nat := o.fld (1472 + 64 * m) 64
def Op.oring (o : Op) (m : Nat) : Nat := o.fld (1728 + 64 * m) 64
/-- Port entry fields (R196). -/
def portYard (e : Nat) : Nat := bits e 0 8
def portV (e : Nat) : Bool := bit e 8
def portRing (e : Nat) : Bool := bit e 16
def portSum (e : Nat) : Nat := bits e 17 16
/-- The yards of an operator's present output ports. -/
def Op.outYards (o : Op) : List Nat := ((List.range 4).filter fun m => portV (o.oport m)).map fun m => portYard (o.oport m)

/-- Stage size and stage count of a ring configuration (R59). -/
def ringStage (cfg : BitVec 64) : Nat := 64 * 2 ^ bits cfg.toNat 46 4
def ringCount (cfg : BitVec 64) : Nat := bits cfg.toNat 50 6 + 1
def ringBase (cfg : BitVec 64) : Nat := 64 * bits cfg.toNat 6 16
/-- Sectors in a hod (R59). -/
def ringSectors (cfg : BitVec 64) : Nat := ringStage cfg / 32
/-- A ring configuration that rset accepts (R60). -/
def ringOk (cfg : Nat) : Bool :=
  bits cfg 0 6 == 0 && bits cfg 22 24 == 0 && bits cfg 56 8 == 0 && bits cfg 50 6 != 0 && decide (bits cfg 46 4 ≤ 8) &&
  decide (64 * bits cfg 6 16 + 64 * 2 ^ bits cfg 46 4 * (bits cfg 50 6 + 1) ≤ 0x300000)

/-- The end of scratchpad offsets (R48). -/
def spadEnd : Nat := 0x300000

/-! The error bank (R435) -/

/-- A field placed in a record. -/
def put (v lo n : Nat) : Nat := (v % 2 ^ n) <<< lo

/-- An error bank entry's word (R435). -/
def errEntry (time loc count unit : Nat) (unq : Bool) (sev cause : Nat) : BitVec 256 :=
  BitVec.ofNat 256 (put time 192 64 ||| put loc 128 64 ||| put count 96 32 ||| put unit 16 8 ||| put unq.toNat 15 1 ||| put sev 10 2 ||| put cause 0 10)

/-- Adds an entry to a die's error bank; the bank keeps the latest 256 (R435). -/
def State.errLog (s : State) (l sev unit cause loc : Nat) (unq : Bool) : State :=
  s.updLd l fun x =>
    { x with
      errs := mput x.errs (x.regs.ebwix.toNat % 256) (errEntry s.ns loc 0 unit unq sev cause)
      regs.ebwix := BitVec.ofNat 64 ((x.regs.ebwix.toNat + 1) % 2 ^ 32) }

end Sys2Proof.Machine
end

