-- ==== Sys2Proof/Machine/Fabric.lean ====
section
/-! DEFINITION. How a request finds its way: the mesh of a package (R2, R450), the peer region table and the ports (R454, R456). -/

namespace Sys2Proof.Machine

/-- A die's place in the 3 × 3 grid; the green stands in the middle (R2). -/
def diePos (d : Nat) : Nat × Nat := [(0, 0), (1, 0), (2, 0), (2, 1), (2, 2), (1, 2), (0, 2), (0, 1)].getD d (1, 1)
/-- The die at a place. -/
def dieAt (p : Nat × Nat) : Nat := ((List.range 8).find? fun d => diePos d == p).getD 8
/-- The number of the link between two adjacent places: 0 to 5 the horizontal ones row by row, 6 to 11 the vertical ones (log entry 31). -/
def linkOf (a b : Nat × Nat) : Nat := if a.2 = b.2 then 2 * a.2 + min a.1 b.1 else 6 + 3 * min a.2 b.2 + a.1
/-- The places that a link joins. -/
def linkEnds (n : Nat) : (Nat × Nat) × (Nat × Nat) :=
  if n < 6 then ((n % 2, n / 2), (n % 2 + 1, n / 2)) else (((n - 6) % 3, (n - 6) / 3), ((n - 6) % 3, (n - 6) / 3 + 1))
/-- The next place under X-then-Y routing (R450). -/
def xyNext (a b : Nat × Nat) : Nat × Nat :=
  if a.1 < b.1 then (a.1 + 1, a.2) else if b.1 < a.1 then (a.1 - 1, a.2) else if a.2 < b.2 then (a.1, a.2 + 1) else (a.1, a.2 - 1)
/-- A link is up. -/
def Pkg.linkUp (p : Pkg) (a b : Nat × Nat) : Bool := (p.links.getD (linkOf a b) {}).up
/-- The other two dies of a grid square that holds both ends of a link and the green: of two squares, the one whose compute dies have
the lower lowest number (R450). -/
def detour (a b : Nat × Nat) : (Nat × Nat) × (Nat × Nat) :=
  let two := if a.2 = b.2 then [((a.1, a.2 - 1), (b.1, b.2 - 1)), ((a.1, a.2 + 1), (b.1, b.2 + 1))] else [((a.1 - 1, a.2), (b.1 - 1, b.2)), ((a.1 + 1, a.2), (b.1 + 1, b.2))]
  let there := two.filter fun u => u.1 != a && [a, b, u.1, u.2].contains (1, 1) && decide (u.1.1 ≤ 2) && decide (u.1.2 ≤ 2)
  let low (u : (Nat × Nat) × (Nat × Nat)) : Nat := ([a, b, u.1, u.2].map dieAt).foldl min 8
  there.foldl (fun c u => if low u < low c then u else c) (there.headD (a, a))
/-- A packet goes around a link by the other two dies of its square, when the three links there are up (R450). -/
def Pkg.detourUp (p : Pkg) (a c : Nat × Nat) : Bool :=
  let d := detour a c
  d.1 != a && p.linkUp a d.1 && p.linkUp d.1 d.2 && p.linkUp d.2 c
/-- Whether a packet arrives, at most one detour taken (R450); the answer says whether it has taken one. -/
def Pkg.arrives (p : Pkg) (b : Nat × Nat) : Nat → Nat × Nat → Bool → Option Bool
  | 0, a, turned => if a = b then some turned else none
  | n + 1, a, turned =>
    if a = b then some turned
    else
      let c := xyNext a b
      if p.linkUp a c then Pkg.arrives p b n c turned
      else if !turned && p.detourUp a c then Pkg.arrives p b n c true
      else none
/-- The mesh of a package carries a packet from one die to another; `turned` as above. -/
def Pkg.mesh (p : Pkg) (a b : Nat) (turned : Bool) : Option Bool := p.arrives (diePos b) 5 (diePos a) turned

/-- The usable ports to a package, in ascending order (R456). -/
def Pkg.portsTo (p : Pkg) (dst : Nat) : List Nat :=
  let e := (mgetD p.table dst 0#64).toNat
  (List.range 12).filter fun i => bit e i && bit (p.ports.getD i {}).ctl.toNat 0 && bit (p.ports.getD i {}).status.toNat 0

/-- Why a packet from one die to another is lost, if it is (R415, R450, R456): one detour on the whole way. -/
def State.route (s : State) (src dst : Nat) : Option Nat :=
  let p := s.pkg (pkgOf src)
  if pkgOf src = pkgOf dst then (if (p.mesh (dieOf src) (dieOf dst) false).isSome then none else some 0x301)
  else
    match p.mesh (dieOf src) 8 false with
    | none => some 0x301
    | some turned =>
      if !bit (mgetD p.table (pkgOf dst) 0#64).toNat 12 then some 0x303
      else if (p.portsTo (pkgOf dst)).isEmpty then some 0x302
      else if ((s.pkg (pkgOf dst)).mesh 8 (dieOf dst) turned).isNone then some 0x301
      else none

/-- Why an access from one die to another fails on its way or its answer on the way back, if one does. -/
def State.roundTrip (s : State) (src dst : Nat) : Option Nat := if src = dst then none else (s.route src dst).or (s.route dst src)

def Pkg.updPort (p : Pkg) (n : Nat) (f : Port → Port) : Pkg := { p with ports := p.ports.modify n f }
def Pkg.updLink (p : Pkg) (n : Nat) (f : Link → Link) : Pkg := { p with links := p.links.modify n f }
def State.port (s : State) (p n : Nat) : Port := (s.pkg p).ports.getD n {}
def State.updPort (s : State) (p n : Nat) (f : Port → Port) : State := s.updPkg p fun g => g.updPort n f
/-- A number of 64 bits with one field replaced. -/
def setField (w : Word) (lo n v : Nat) : Word := BitVec.ofNat 64 (w.toNat - (bits w.toNat lo n <<< lo) + ((v % 2 ^ n) <<< lo))

/-! Ports (R452 to R456) -/

/-- Fields of BXST and BXSEQ (R454). -/
def Port.good (q : Port) : Nat := bits q.status.toNat 16 16
def Port.degr (q : Port) : Nat := bits q.status.toNat 8 4
def Port.sel (q : Port) : Nat := bits q.status.toNat 4 2
def Port.width (q : Port) : Nat := bits q.status.toNat 2 2
def Port.training (q : Port) : Bool := bit q.status.toNat 1
def Port.up (q : Port) : Bool := bit q.status.toNat 0
def Port.sent (q : Port) : Nat := bits q.seq.toNat 16 16
def Port.acked (q : Port) : Nat := bits q.seq.toNat 0 16
/-- Flits sent and not acknowledged. -/
def Port.behind (q : Port) : Nat := (q.sent + 2 ^ 16 - q.acked) % 2 ^ 16

/-- The package and port at the other end of a port's cable, which names this end too (R454, log entry 129). -/
def farEnd (p n : Nat) : Option (Nat × Nat) :=
  match Config.cable p n with
  | some (q, m) => if Config.cable q m = some (p, n) ∧ q < 1024 ∧ m < 12 ∧ (q, m) ≠ (p, n) then some (q, m) else none
  | none => none
/-- BXCTL as it is read: NPKG is the package at the other end (R454). -/
def State.bxctl (s : State) (p n : Nat) : Word := setField (s.port p n).ctl 54 10 (((farEnd p n).map (·.1)).getD 0)
/-- A change of a port and of the port at the other end of its link. -/
def State.bothEnds (s : State) (p n : Nat) (f : Port → Port) : State :=
  match farEnd p n with
  | some (q, m) => (s.updPort p n f).updPort q m f
  | none => s.updPort p n f

/-- A status word (R454). -/
def bxst (good degr sel width : Nat) (train up : Bool) : Word :=
  BitVec.ofNat 64 (put good 16 16 ||| put (min degr 15) 8 4 ||| put sel 4 2 ||| put width 2 2 ||| put train.toNat 1 1 ||| up.toNat)

/-- All of some lanes are good. -/
def lanesGood (good lo n : Nat) : Bool := bits good lo n == 2 ^ n - 1
/-- The widest selection up to ×8 on good lanes alone (R455): width code and SEL. -/
def narrowed (good : Nat) : Nat × Nat :=
  match (List.range 2).find? fun h => lanesGood good (8 * h) 8 with
  | some h => (2, h)
  | none => match (List.range 4).find? fun q => lanesGood good (4 * q) 4 with
    | some q => (1, q)
    | none => (0, 0)
/-- The widest good width (R454). -/
def widest (good : Nat) : Nat × Nat := if lanesGood good 0 16 then (3, 0) else narrowed good

/-- A lane lies in the current selection (R455). -/
def Port.uses (q : Port) (lane : Nat) : Bool :=
  match q.width with
  | 3 => true
  | 2 => lane / 8 == q.sel
  | 1 => lane / 4 == q.sel
  | _ => false

/-- Replay counts, saturating (R453, R454). -/
def Port.replayed (q : Port) (flits episodes : Nat) : Port :=
  { q with retry := BitVec.ofNat 64 (put (min (bits q.retry.toNat 32 32 + flits) (2 ^ 32 - 1)) 32 32 ||| min (bits q.retry.toNat 0 32 + episodes) (2 ^ 32 - 1)) }

/-- The flits up to a number are acknowledged and leave the replay buffer; a number that is not among those sent changes nothing (R453). -/
def Port.acknowledged (q : Port) (ack : Nat) : Port :=
  let n := (ack + 2 ^ 16 - q.acked) % 2 ^ 16
  if n ≤ q.behind then { q with seq := setField q.seq 0 16 ack, buf := q.buf.drop n } else q

/-- Whether a type of flit carries a number of its own: data and control (log entry 130). -/
def numbered (typ : Nat) : Bool := typ == 1 || typ == 3

/-- A receiver's flit (R452, R453): its type, SEQ, ACK, and whether its CRC is right. A numbered one out of order, or a bad one, is discarded with
every later one, and a NAK names the last good SEQ. -/
def Port.receive (q : Port) (typ seq ack : Nat) (good : Bool) : Port :=
  if !good || (numbered typ && seq != (q.recv + 1) % 2 ^ 16) then { q with nak := some q.recv, drop := true }
  else ((if numbered typ then { q with recv := seq, nak := none, drop := false } else q).acknowledged ack)

/-- A failed lane (R455, R470): one of the selection degrades the port and its training, or takes it down, which counts an episode at once. -/
def Port.laneFails (q : Port) (lane : Nat) : Port :=
  let good := q.good - (if bit q.good lane then 2 ^ lane else 0)
  if !bit q.good lane then q
  else if !(q.up && q.uses lane) then { q with status := bxst good q.degr q.sel q.width q.training q.up }
  else
    let (w, h) := narrowed good
    if w = 0 then { q with status := bxst good (q.degr + 1) 0 0 false false, lost := 0 }.replayed 0 (q.lost + 1)
    else { q with status := bxst good (q.degr + 1) h w true true, lost := q.lost + 1 }

/-- A retrain ends (R454, R455, R470): the port carries traffic and sends again from ACKED. Each degradation counts one episode; another
retrain counts one when it sends flits again. -/
def Port.trained (q : Port) : Port :=
  let n := q.behind
  let q := q.replayed n (if q.lost = 0 then min n 1 else q.lost)
  { q with status := bxst q.good q.degr q.sel q.width false (q.width != 0), ctl := setField q.ctl 1 1 0, lost := 0 }

/-- A retrain at the widest good width, by a write of RETRAIN at either end, resets DEGR and the retry counts (R454, R470). Lanes that have
failed are considered again (R455): `locks` are those that are found good. -/
def Port.retrain (locks : Nat) (q : Port) : Port :=
  let good := q.good ||| locks
  let (w, h) := widest good
  { q with status := bxst good 0 h w (w != 0) (q.up && w != 0), retry := 0#64, lost := 0 }

end Sys2Proof.Machine
end

