-- ==== Sys2Proof/Machine/Mem.lean ====
section
/-! DEFINITION. The memories: scratchpad banks (R48 to R53), device memory with its line encodings (R115 to R120), poison (R123 to
R125), what a step reads and stores (R163 to R176), and the translation of addresses (R13 to R47). -/

namespace Sys2Proof.Machine

/-! Scratchpad -/

/-- The place of granule `g` under a swizzle mode, as depth × 256 + bank (R49, R50). -/
def granulePlace (mode g : Nat) : Nat :=
  match mode with
  | 1 => g ^^^ ((g >>> 8) % 8)
  | 2 => g ^^^ ((g >>> 8) % 16)
  | 3 => g ^^^ ((g >>> 8) % 4)
  | _ => g

/-- The place of the byte at an offset (R49 to R51). -/
def bytePlace (mode off : Nat) : Nat := 4 * granulePlace mode (off / 4) + off % 4

/-- `n` bytes read from an offset under a mode (R51, R52). -/
def Core.spRead (x : Core) (mode off : Nat) : Nat → List (BitVec 8)
  | 0 => []
  | n + 1 => Mem.get x.spad (bytePlace mode off) :: Core.spRead x mode (off + 1) n

/-- Whether a granule of a range is poisoned (R123). -/
def Core.spBad (x : Core) (mode off n : Nat) : Bool :=
  (List.range ((off + n + 3) / 4 - off / 4)).any fun i => x.spadPoison.has (granulePlace mode (off / 4 + i))

/-- Writes bytes at an offset under a mode. -/
def spWriteBytes (m : Mem) (mode off : Nat) : List (BitVec 8) → Mem
  | [] => m
  | b :: r => spWriteBytes (Mem.set m (bytePlace mode off) b) mode (off + 1) r

/-- The granules that a range covers whole. -/
def wholeGranules (off n : Nat) : List Nat :=
  (List.range ((off + n) / 4 - (off + 3) / 4)).map fun i => (off + 3) / 4 + i

/-- A store into the scratchpad: poison leaves a granule only when the store covers it whole (R123, R278). -/
def Core.spWrite (x : Core) (mode off : Nat) (bs : List (BitVec 8)) : Core :=
  { x with
    spad := spWriteBytes x.spad mode off bs
    spadPoison := (wholeGranules off bs.length).foldl (fun p g => p.upd (granulePlace mode g) false) x.spadPoison }

/-- Marks the granule of an offset poisoned (R124). -/
def Core.spPoison (x : Core) (mode off : Nat) : Core :=
  { x with spadPoison := x.spadPoison.upd (granulePlace mode (off / 4)) true }

/-- Bank time: the most distinct granules that an access touches in one bank (R53). -/
def bankTime (places : List Nat) : Nat :=
  let d := places.eraseDups
  d.foldl (fun k g => max k (d.countP fun h => h % 256 == g % 256)) 0

/-! Device memory -/

/-- The word of a line that its tag and stored bytes give (R116, R117). -/
def Hbm.word (h : Hbm) (line k : Nat) : Nat :=
  let s := 128 * line
  match mgetD h.tags line 0 with
  | 0 => leNat (Mem.bytes h.slots (s + 8 * k) 8)
  | 1 => 0
  | 2 => leNat (Mem.bytes h.slots s 8)
  | 3 => wrap 64 (leNat (Mem.bytes h.slots s 8) + sext (leNat (Mem.bytes h.slots (s + 8 + k) 1)) 8)
  | 4 => wrap 64 (leNat (Mem.bytes h.slots s 8) + sext (leNat (Mem.bytes h.slots (s + 8 + 2 * k) 2)) 16)
  | 5 => wrap 64 (leNat (Mem.bytes h.slots s 8) + sext (leNat (Mem.bytes h.slots (s + 8 + 4 * k) 4)) 32)
  | _ => leNat ((List.range 8).map fun i => Config.freeByte (s + 8 * k + i))

/-- The draw that names a line's undefined contents (R47). -/
def Hbm.undefAt (h : Hbm) (line : Nat) : Option Nat := (h.undef.find? fun r => decide (r.1 ≤ line) && decide (line < r.1 + r.2.1)).map (·.2.2)
/-- The contents of `n` lines become undefined (R47). -/
def Hbm.undefine (h : Hbm) (line n draw : Nat) : Hbm := { h with undef := (line, n, draw) :: h.undef }
/-- The runs without one line, which has been written. -/
def definedLine (u : List (Nat × Nat × Nat)) (line : Nat) : List (Nat × Nat × Nat) :=
  u.flatMap fun r =>
    if r.1 ≤ line ∧ line < r.1 + r.2.1 then [(r.1, line - r.1, r.2.2), (line + 1, r.1 + r.2.1 - line - 1, r.2.2)].filter (fun q => q.2.1 != 0) else [r]

/-- The byte at an address; a raw line's byte is the stored byte, a byte of undefined contents a free value. -/
def Hbm.byte (h : Hbm) (a : Nat) : BitVec 8 :=
  match h.undefAt (a / 128) with
  | some d => Config.freeByte (2 ^ 36 * (d + 1) + a)
  | none =>
  if mgetD h.tags (a / 128) 0 = 0 then Mem.get h.slots a
  else BitVec.ofNat 8 (h.word (a / 128) (a % 128 / 8) >>> (8 * (a % 8)))

/-- `n` bytes from an address. -/
def Hbm.read (h : Hbm) (a : Nat) : Nat → List (BitVec 8)
  | 0 => []
  | n + 1 => h.byte a :: Hbm.read h (a + 1) n

/-- 0, or the cause that consuming a byte of the address raises (R124, R125). -/
def Hbm.bad (h : Hbm) (a : Nat) : Nat :=
  if 6 ≤ mgetD h.tags (a / 128) 0 then 0x1C1 else if h.poison.has (a / 32) then 0x1C0 else 0

/-- The cause of a range: the first byte's that has one. -/
def Hbm.badRange (h : Hbm) (a n : Nat) : Nat :=
  (List.range n).foldl (fun c i => if c = 0 then h.bad (a + i) else c) 0

/-- The 32-byte units that a request for the sectors of `mask` is charged under a tag (R117). -/
def unitsOf (tag mask : Nat) : List Nat :=
  let one (s : Nat) : List Nat :=
    match tag with
    | 0 => [s]
    | 1 => []
    | 2 | 3 => [0]
    | 4 => if s = 3 then [0, 1] else [0]
    | _ => if s = 0 then [0] else if s = 3 then [0, 1, 2] else [0, 1]
  ((setBits mask 4).flatMap one).eraseDups

/-- The tag and the stored bytes of a line's words (R118). -/
def chooseEncoding (ws : List Nat) : Nat × List (BitVec 8) :=
  let b := ws.headD 0
  let delta (w : Nat) : Int := sext (wrap 64 ((w : Int) - b)) 64
  let fits (n : Nat) : Bool := ws.all fun w => decide (-(2 ^ (8 * n - 1) : Int) ≤ delta w) && decide (delta w ≤ 2 ^ (8 * n - 1) - 1)
  let enc (n : Nat) : List (BitVec 8) := natLe 8 b ++ ws.flatMap fun w => natLe n (wrap (8 * n) (delta w))
  if ws.all (· == 0) then (1, [])
  else if ws.all (· == b) then (2, natLe 8 b)
  else if fits 1 then (3, enc 1)
  else if fits 2 then (4, enc 2)
  else if fits 4 then (5, enc 4)
  else (0, ws.flatMap (natLe 8))

/-- The words of 128 bytes. -/
def wordsOf (bs : List (BitVec 8)) : List Nat := (List.range 16).map fun k => leNat ((bs.drop (8 * k)).take 8)

/-- A write to one line: `f i` is the byte written at offset `i`, with its poison. A whole line is encoded under R118, a part is
merged under R119, a line with a reserved tag is handled under R125; through C = 0 the line is stored raw. -/
def Hbm.mergeLine (h : Hbm) (line : Nat) (comp : Bool) (f : Nat → Option (BitVec 8 × Bool)) : Hbm :=
  let tag := mgetD h.tags line 0
  let idx := List.range 128
  let full := idx.all fun i => (f i).isSome
  let broken := decide (6 ≤ tag) && !full
  let new := idx.map fun i => ((f i).map (·.1)).getD (h.byte (128 * line + i))
  let (tag', stored) := if comp && !broken then chooseEncoding (wordsOf new) else (0, new)
  let sectorIdx (q : Nat) := (List.range 32).map fun i => 32 * q + i
  let poison := (List.range 4).foldl (fun (p : Nset) q =>
    let whole := (sectorIdx q).all fun i => (f i).isSome
    let dirty := (sectorIdx q).any fun i => ((f i).map (·.2)).getD false
    let was := p.has (4 * line + q)
    p.upd (4 * line + q) (dirty || (!whole && (was || broken)))) h.poison
  { slots := Mem.setBytes h.slots (128 * line) stored, tags := mset h.tags line tag' 0, poison := poison, undef := definedLine h.undef line }

/-- The lines that a range touches. -/
def linesOf (a n : Nat) : List Nat := (List.range ((a + n + 127) / 128 - a / 128)).map fun i => a / 128 + i

/-- A write of bytes at an address, each with its poison (R118, R119, R123). -/
def Hbm.writeBad (h : Hbm) (a : Nat) (bs : List (BitVec 8 × Bool)) (comp : Bool) : Hbm :=
  (linesOf a bs.length).foldl (fun h line =>
    h.mergeLine line comp fun i => if a ≤ 128 * line + i then bs[128 * line + i - a]? else none) h
/-- A write of clean bytes at an address. -/
def Hbm.write (h : Hbm) (a : Nat) (bs : List (BitVec 8)) (comp : Bool := false) : Hbm := h.writeBad a (bs.map fun b => (b, false)) comp

/-- A little-endian number of `n` bytes as published in a stack. -/
def Ld.num (x : Ld) (a n : Nat) : Nat := leNat (x.hbm.read a n)
/-! Homes, images and own stores -/

/-- The published bytes at a home. -/
def State.homeBytes (s : State) (home a n : Nat) : List (BitVec 8) :=
  if home = hostKey then Mem.bytes s.host a n else (s.ld home).hbm.read a n

/-- The image of a home that a step reads: the one taken at its first read since its last acquire (R172, R173). -/
def State.snapOf (s : State) (x : Ctx) (home : Nat) : Hbm := mgetD x.snap home (s.ld home).hbm

/-- The host line that a step reads: as the directory held it at the step's first read (R174). -/
def State.hostLine (s : State) (x : Ctx) (line : Nat) : List (BitVec 8) := mgetD x.hostSnap line (Mem.bytes (x.hostImg.getD s.host) (128 * line) 128)

/-- The later of two writes of a step. -/
def laterOwn : Option Own → Option Own → Option Own
  | some a, some b => some (if a.seq < b.seq then b else a)
  | some a, none => some a
  | none, o => o

/-- The step's own latest store or atomic to a byte (R163, R176). -/
def Ctx.mine (x : Ctx) (home a : Nat) : Option Own := laterOwn (mget (mgetD x.own home []) a) (mget (mgetD x.atoms home []) a)

/-- A byte of the image that a step reads (R172 to R174). -/
def State.imageByte (s : State) (x : Ctx) (home a : Nat) : BitVec 8 :=
  if home = hostKey then (s.hostLine x (a / 128)).getD (a % 128) emptyByte else (s.snapOf x home).byte a
/-- The cause that consuming it raises. -/
def State.imageBad (s : State) (x : Ctx) (home a : Nat) : Nat := if home = hostKey then 0 else (s.snapOf x home).bad a

/-- A byte of an own write, else of the image, with the cause that consuming it raises (R124, R173). -/
def State.overImage (s : State) (x : Ctx) (home a : Nat) (o : Option Own) : BitVec 8 × Nat :=
  match o with
  | some o => (o.val, if o.poison then 0x1C0 else 0)
  | none => (s.imageByte x home a, s.imageBad x home a)

/-- The bytes of a list, and the first cause among them. -/
def seenBytes (vs : List (BitVec 8 × Nat)) : List (BitVec 8) × Nat :=
  (vs.map (·.1), vs.foldl (fun c v => if c = 0 then v.2 else c) 0)

/-- Bytes as a step sees them, with the first cause among them (R173). -/
def State.sees (s : State) (x : Ctx) (home a n : Nat) : List (BitVec 8) × Nat :=
  seenBytes ((List.range n).map fun i => s.overImage x home (a + i) (x.mine home (a + i)))

/-- The step's image of a home is fixed (R172). -/
def Ctx.imageFixed (x : Ctx) (home : Nat) : Bool := if home = hostKey then x.hostImg.isSome else (mget x.snap home).isSome

/-- The step's published writes at a home go: an image fixed now holds them, or what was published over them (R163, R173). -/
def Ctx.dropPub (x : Ctx) (home : Nat) : Ctx :=
  { x with
    own := x.own.map fun p => if p.1 = home then (p.1, p.2.filter fun o => !o.2.pub) else p
    atoms := mdel x.atoms home }

/-- The image of a home that the step's reads use for the rest of its acquire interval is fixed, at its first read there (R172, R173). -/
def State.fixHome (s : State) (x : Ctx) (home : Nat) : Ctx :=
  if x.imageFixed home then x
  else if home = hostKey then { x.dropPub home with hostImg := some s.host }
  else { x.dropPub home with snap := mput x.snap home (s.ld home).hbm }

/-- A read of a range fixes its home's image, and the host lines that it reads first (R172, R174). -/
def State.fixSnap (s : State) (x : Ctx) (home a n : Nat) : Ctx :=
  let x := s.fixHome x home
  if home = hostKey then { x with hostSnap := (linesOf a n).foldl (fun m line => mput m line (s.hostLine x line)) x.hostSnap } else x

/-- An acquire of the homes within a scope's reach (R162, R170, R171, R173): their images, the resolutions of their BIEs and the published
own writes are dropped. -/
def Ctx.acquireAt (x : Ctx) (inReach : Nat → Bool) : Ctx :=
  { x with
    snap := x.snap.filter fun p => !inReach p.1
    hostImg := if inReach hostKey then none else x.hostImg
    hostSnap := if inReach hostKey then [] else x.hostSnap
    bies := x.bies.filter fun p => !inReach (p.1 / 2 ^ 20)
    oldBies := x.oldBies.filter fun p => !inReach (p.1 / 2 ^ 20)
    atoms := x.atoms.filter fun p => !inReach p.1
    own := x.own.map fun p => if inReach p.1 then (p.1, p.2.filter fun o => !o.2.pub) else p
    acquires := x.acquires + 1 }

/-- An acquire at every home (R170, R173). -/
def Ctx.acquire (x : Ctx) : Ctx := x.acquireAt fun _ => true

/-- Writes of bytes at a home from an address on. -/
def putOwn (m : Smap Own) (a : Nat) (o : Own) (bs : List (BitVec 8)) : Smap Own :=
  (bs.zipIdx).foldl (fun (m : Smap Own) b => mput m (a + b.2) { o with val := b.1 }) m

/-- Own stores of bytes at a home, unpublished (R165). -/
def Ctx.storeOwn (x : Ctx) (home a : Nat) (bs : List (BitVec 8)) (comp : Bool) (ca : Nat) (page : Option Nat) : Ctx :=
  { x with
    stores := x.stores + 1
    own := mput x.own home (putOwn (mgetD x.own home []) a { val := 0#8, seq := x.stores + 1, comp := comp, ca := ca, page := page } bs) }

/-- The value that an atomic of the step has written, published as it was performed (R176). -/
def Ctx.storeAtomic (x : Ctx) (home a seq : Nat) (bs : List (BitVec 8)) : Ctx :=
  { x with atoms := mput x.atoms home (putOwn (mgetD x.atoms home []) a { val := 0#8, seq := seq, pub := true } bs) }

/-- Whether a context has a store left to publish that `sel` picks. -/
def Ctx.hasUnpub (x : Ctx) (sel : Nat → Own → Bool) : Bool := x.own.any fun p => p.2.any fun e => !e.2.pub && sel p.1 e.2

/-- The homes that a scope reaches from die `l` (R162). -/
def scopeReach (l scope home : Nat) : Bool :=
  match scope with
  | 1 | 2 => home == l
  | 3 => home != hostKey
  | 4 => true
  | _ => false

/-- Changes every context of the part, resident, swapped out, or the view of a command. -/
def State.mapViews (s : State) (f : Ctx → Ctx) : State :=
  let cmd (q : Cmd) : Cmd := { q with view := f q.view }
  { s with lds := s.lds.map fun (d : Nat × Ld) => (d.1, { d.2 with
      cores := d.2.cores.map (fun (k : Nat × Core) => (k.1, { k.2 with
        ctxs := k.2.ctxs.map fun c => (c.1, f c.2)
        queue := k.2.queue.map cmd }))
      saved := d.2.saved.map fun (v : Nat × Saved) => (v.1, { v.2 with ctx := f v.2.ctx, cmds := v.2.cmds.map cmd }) }) }

/-- The host's own write to host memory (R174): every line that a step has not read yet shows it. Byte `a` of host number n's memory stands at
2^52 · n + a. -/
def Ctx.hostWrites (x : Ctx) (a : Nat) (bs : List (BitVec 8)) : Ctx :=
  let hides (p : Nat) : Bool := decide (a ≤ p) && decide (p < a + bs.length) && (mget x.hostSnap (p / 128)).isNone
  let shown (m : Smap (Smap Own)) : Smap (Smap Own) := m.map fun p => if p.1 = hostKey then (p.1, p.2.filter fun o => !(o.2.pub && hides o.1)) else p
  { x with hostImg := x.hostImg.map fun m => Mem.setBytes m a bs, own := shown x.own, atoms := shown x.atoms }
def State.hostWrites (s : State) (a : Nat) (bs : List (BitVec 8)) : State :=
  { s with host := Mem.setBytes s.host a bs }.mapViews fun x => x.hostWrites a bs

/-- An interleave commit holds bytes of a range (R114). -/
def State.commitHolds (s : State) (home a n : Nat) : Bool :=
  home != hostKey && (match (s.ld home).commit with
    | some (b, m) => decide (a < b + m) && decide (b < a + n)
    | none => false)

/-! The die cache (R109, R110) -/

/-- Sets and ways of a die cache of 96 MiB (log entry 17). -/
def cacheSets : Nat := 49152
def cacheWays : Nat := 16

/-- The 32-byte sectors of a line that a range touches. -/
def sectorsOf (line a n : Nat) : Nat :=
  (List.range 4).foldl (fun k q => if a < 128 * line + 32 * q + 32 ∧ 128 * line + 32 * q < a + n then k ||| 2 ^ q else k) 0

/-- Whether one line leaves its set before another: one of CA 01 first, then the least recently used (R110). -/
def CLine.before (a b : CLine) : Bool := (a.low && !b.low) || (a.low == b.low && decide (a.used < b.used))

/-- The lines without the one that a full set gives up for `line`; its dirty sectors are in the stack (R110, log entry 17). -/
def evictFor (m : Smap CLine) (line : Nat) : Smap CLine :=
  match m.filter fun e => e.1 % cacheSets == line % cacheSets with
  | [] => m
  | e :: r => if r.length + 1 < cacheWays then m else mdel m (r.foldl (fun (b : Nat × CLine) c => if c.2.before b.2 then c else b) e).1

/-- A published change of a line that the host holds sends it a back-invalidate snoop first (R442). -/
def Ld.snoop (x : Ld) (line : Nat) : Ld :=
  if x.hostHeld.has line then { x with hostHeld := x.hostHeld.upd line false, snooped := x.snooped ++ [line] } else x

/-- An access of one line through the cache (R110): a hit is served and updated, a miss allocates the sectors unless CA is 10. A change is a
published one. -/
def Ld.touchLine (x : Ld) (line secs ca : Nat) (dirty : Bool) : Ld :=
  let x := if dirty then x.snoop line else x
  let put (m : Smap CLine) (c : CLine) (secs : Nat) : Ld :=
    { x with cacheAt := x.cacheAt + 1, cache := mput m line { c with valid := c.valid ||| secs, dirty := if dirty then c.dirty ||| secs else c.dirty, used := x.cacheAt + 1 } }
  match mget x.cache line with
  | some c => put x.cache c (if ca = 2 then secs &&& c.valid else secs)
  | none => if ca = 2 then x else put (evictFor x.cache line) { low := ca == 1 } secs

/-- An access of a range of the stack through the die cache (R109). -/
def Ld.touch (x : Ld) (a n ca : Nat) (dirty : Bool) : Ld := (linesOf a n).foldl (fun x line => x.touchLine line (sectorsOf line a n) ca dirty) x

/-! Atomics -/

/-- The value an atomic writes (R282); a cas that fails writes the old value back. -/
def atomNew (op n old v w : Nat) : Nat :=
  match op with
  | 0 => (old + v) % 2 ^ n
  | 1 => old &&& v
  | 2 => old ||| v
  | 3 => old ^^^ v
  | 4 => if sext old n ≤ sext v n then old else v
  | 5 => if sext old n ≤ sext v n then v else old
  | 6 => min old v
  | 7 => max old v
  | 8 => v
  | _ => if old = v then w else old

/-! Walks (R18 to R23) -/

/-- A place that an address names: its home, the address there, and what the leaves say (R22). `win` is the die whose host windows
decide it (R42), `page` the page whose walk the access waits for (R29), `vpage` the page translated, `lost` the cause of a request that the fabric loses. -/
structure Phys where
  home : Nat
  addr : Nat
  comp : Bool := false
  ca   : Nat := 0
  pr   : Bool := false
  bie  : Option (Nat × Nat × Nat) := none
  win  : Option Nat := none
  page : Option Nat := none
  vpage : Option Nat := none
  lost : Option Nat := none

/-- How a translation ends: a place, a cause, or a request that the fabric loses (R415). -/
inductive Xl where
  | ok (p : Phys)
  | fault (cause : Nat)
  | lost (cause : Nat)

/-- A class 5 or 6 cause (R25). -/
def xlCause (cls kind reason : Nat) : Nat := 64 * cls + 8 * kind + reason

/-- A DPA of the own stack, given as its 64 KiB or 4 KiB frame address (R21). -/
def dpaOk (a : Nat) : Bool := decide (a < 2 ^ 36)

/-- Whether a valid leaf at a level is malformed (R22, R23). -/
def leafBad (e lv : Nat) : Bool :=
  let s := bit e 62; let h := bit e 61; let p := bit e 60
  let frame := bits e 16 36
  bits e 52 5 != 0 || bits e 12 4 != 0 || bits e 4 8 != 0 || (s && h) || (s && p) || (h && p) || (bit e 57 && (h || p)) ||
  bits e 58 2 == 3 || (lv == 1 && bits frame 0 9 != 0) || (lv == 2 && bits frame 0 18 != 0) || lv == 3 ||
  (!s && !h && !p && !dpaOk (frame * 65536))

/-- Where the entry of an address lies in a table of a level (R18). -/
def entryAt (va lv table : Nat) : Nat := table + 8 * bits va (16 + 9 * lv) 9

/-- A walk (R18 to R23) from a table at level `fuel − 1`: the leaf, with its level in bits [65:64], or the reason and whether it is
a table read's (R20). A pointer with both a reserved bit and an illegal DPA is reported for the reserved bit (log entry 96). -/
def walkFrom (h : Hbm) (va : Nat) : Nat → Nat → Except (Nat × Bool) Nat
  | 0, _ => .error (5, false)
  | lv + 1, table =>
    let e := leNat (h.read (entryAt va lv table) 8)
    if !bit e 0 then .error (3 - lv, false)
    else if bit e 1 then
      if lv = 0 || bits e 52 12 != 0 || bits e 4 8 != 0 then .error (5, false)
      else if !dpaOk (4096 * bits e 12 40) then .error (5, true)
      else walkFrom h va lv (4096 * bits e 12 40)
    else if leafBad e lv then .error (5, false)
    else .ok (e + lv * 2 ^ 64)

/-- The table pointers that a walk passes, as (level of the table, VA bits above it, table), for the page-structure cache (R27). -/
def walkPointers (h : Hbm) (va : Nat) : Nat → Nat → List (Nat × Nat × Nat)
  | 0, _ => []
  | lv + 1, table =>
    let e := leNat (h.read (entryAt va lv table) 8)
    if bit e 0 && bit e 1 && lv != 0 then
      (lv - 1, va >>> (16 + 9 * lv), 4096 * bits e 12 40) :: walkPointers h va lv (4096 * bits e 12 40)
    else []

/-- Where a walk of a page starts: at the lowest table that the page-structure cache holds for it, else at the root (R27, R32). -/
def Ld.walkStart (x : Ld) (page : Nat) : Nat × Nat :=
  match [0, 1, 2].findSome? fun lv => (x.psc.find? fun e => e.1 == lv && e.2.1 == page >>> (9 * (lv + 1))).map fun e => (lv, e.2.2) with
  | some p => p
  | none => (3, 4096 * bits x.regs.xlroot.toNat 12 40)

/-- A walk from where one starts (R20). -/
def Ld.walkAt (x : Ld) (va : Nat) (start : Nat × Nat) : Except (Nat × Bool) Nat :=
  if dpaOk start.2 then walkFrom x.hbm va (start.1 + 1) start.2 else .error (5, true)

/-- The table entries that a walk reads, as ranges of the stack (R109). -/
def Ld.walkReads (x : Ld) (l va : Nat) (start : Nat × Nat) : List (Nat × Nat × Nat) :=
  (start :: (walkPointers x.hbm va (start.1 + 1) start.2).map fun p => (p.1, p.2.2)).map fun t => (l, entryAt va t.1 t.2, 8)

/-- The 64 KiB pages that a leaf's page covers: first page and count (R19). -/
def leafSpan (leaf va : Nat) : Nat × Nat :=
  let n := 2 ^ (9 * (leaf / 2 ^ 64))
  (va / 65536 / n * n, n)

/-! Translation buffers (R27) -/

/-- The TLB entry that holds a page. -/
def tlbFind (t : List TlbE) (page : Nat) : Option TlbE := t.find? fun e => decide (e.page ≤ page) && decide (page < e.page + e.pages)

/-- An entry enters an L1 TLB of 128, fully associative; the oldest leaves it. -/
def l1Add (t : List TlbE) (e : TlbE) : List TlbE := (e :: t.filter fun x => !(x.page == e.page && x.pages == e.pages)).take 128

/-- The set of the L2 TLB that an entry belongs to, of 2,048 (log entry 106). -/
def TlbE.set (e : TlbE) : Nat := e.page / e.pages % 2048
/-- A list without its last member that `p` picks. -/
def dropLast {α : Type} (p : α → Bool) (t : List α) : List α :=
  let r := t.reverse
  (r.takeWhile (fun x => !p x) ++ (r.dropWhile fun x => !p x).drop 1).reverse
/-- An entry enters the L2 TLB of 16,384, 8-way set associative; the oldest of a full set leaves it. -/
def l2Add (t : List TlbE) (e : TlbE) : List TlbE :=
  let t := t.filter fun x => !(x.page == e.page && x.pages == e.pages)
  e :: if t.countP (fun x => x.set == e.set) < 8 then t else dropLast (fun x => x.set == e.set) t

/-- The translation of an address by a walk made now, with its entry: none of a walk that fails is kept (R27, R28). -/
def Ld.learn (x : Ld) (va : Nat) : Ld :=
  if (tlbFind x.l2 (va / 65536)).isSome then x
  else
    let start := x.walkStart (va / 65536)
    match x.walkAt va start with
    | .ok leaf =>
      let (p, n) := leafSpan leaf va
      { x with
        l2 := l2Add x.l2 { page := p, pages := n, leaf := leaf }
        psc := ((walkPointers x.hbm va (start.1 + 1) start.2).reverse ++ x.psc).eraseDups.take 512 }
    | .error _ => x

/-- The leaf of a page (R27): a core's L1 TLB, the L2 TLB, else a walk. -/
def Ld.leafOf (x : Ld) (k va : Nat) : Except (Nat × Bool) Nat :=
  match tlbFind (x.core k).l1 (va / 65536) with
  | some e => .ok e.leaf
  | none =>
    match tlbFind x.l2 (va / 65536) with
    | some e => .ok e.leaf
    | none => x.walkAt va (x.walkStart (va / 65536))

/-! Host windows (R42, R43) -/

/-- Where the memory of an LD's host starts: host number n's bytes stand from 2^52 · n on, so that different hosts may own different LDs (R441). -/
def Ld.hostBase (x : Ld) : Nat := 2 ^ 52 * x.host.getD 0

/-- Checks an access against the host windows (R42, R43). -/
def hostCheck (x : Ld) (kind a n : Nat) : Xl :=
  let inW (i : Nat) : Bool :=
    let b := (mgetD x.regs.hwbase i 0#64).toNat; let m := (mgetD x.regs.hwlim i 0#64).toNat
    bits b 0 3 != 0 && decide (4096 * bits b 12 40 ≤ a) && decide (a + n ≤ 4096 * bits m 12 40 + 4096)
  match (List.range 64).find? inW with
  | none => .fault (xlCause 6 kind 2)
  | some i =>
    let b := (mgetD x.regs.hwbase i 0#64).toNat
    let ok := match kind with
      | 2 | 5 => bit b 1
      | 3 => bit b 2
      | _ => bit b 0
    if ok then .ok { home := hostKey, addr := x.hostBase + a } else .fault (xlCause 6 kind 3)

/-- Why an access of a kind to another die is lost, if it is: a request, and the answer of a copy; a load's and an atomic's answer is tried as it
is sent (R450). -/
def State.lostOnWay (s : State) (kind src dst : Nat) : Option Nat := if 4 ≤ kind then s.roundTrip src dst else s.route src dst

/-- An access to host memory, through the green (R42, R43, R450). -/
def State.hostPlace (s : State) (l kind a n : Nat) : Xl :=
  match hostCheck (s.ld l) kind a n with
  | .ok p => (match s.lostOnWay kind l (ldNo (pkgOf l) 8) with
    | some c => .lost c
    | none => .ok p)
  | r => r

/-- A place checked against the host windows that decide it. -/
def State.windowed (s : State) (kind n : Nat) (r : Xl) : Xl :=
  match r with
  | .ok p =>
    match p.win with
    | none => .ok p
    | some l => match s.hostPlace l kind p.addr n with
      | .ok q => .ok { p with win := none, addr := q.addr }
      | e => e
  | e => e

/-! Buffer indirection entries (R44 to R47) -/

/-- Where a BIE lies, and its record (R45). -/
def Ld.bieAddr (x : Ld) (i : Nat) : Nat := 4096 * bits x.regs.biebase.toNat 12 40 + 32 * i
def Ld.bie (x : Ld) (i : Nat) : Nat := x.num (x.bieAddr i) 32
/-- Fields of a BIE. -/
def bieState (r : Nat) : Nat := bits r 192 8
def bieLive (r : Nat) : Nat := bits r 16 36
def bieShadow (r : Nat) : Nat := bits r 80 36
def biePages (r : Nat) : Nat := bits r 128 20 + 1
/-- The publish count of a BIE as the part keeps it (R45, log entry 88). -/
def Ld.epoch (x : Ld) (i : Nat) : Nat := mgetD x.epochs i 0
/-- The key of a BIE among resolutions. -/
def bieKey (l i : Nat) : Nat := l * 2 ^ 20 + i
/-- A BIE with a reserved bit set, an image that does not lie in the stack (log entry 97) or another state than 0 to 2 (R21, R45). -/
def bieBad (r : Nat) : Bool :=
  bits r 224 32 != 0 || bits r 200 16 != 0 || bits r 148 12 != 0 || bits r 116 12 != 0 || bits r 52 28 != 0 || bits r 0 16 != 0 ||
  decide (2 < bieState r) || !dpaOk ((bieLive r + biePages r - 1) * 65536) || !dpaOk ((bieShadow r + biePages r - 1) * 65536)
/-- Why a BIE cannot be used, if it cannot (R44, R45, R47): its state comes first (log entry 96). -/
def bieCause (x : Ld) (i : Nat) : Option Nat :=
  if bits x.regs.bielim.toNat 0 17 ≤ i || bieState (x.bie i) == 0 then some (xlCause 5 7 7)
  else if bieBad (x.bie i) then some (xlCause 5 7 5)
  else none
/-- A context that OWNER names (R45). -/
def bieOwned (r k c : Nat) : Bool := bieState r == 2 && bits r 216 6 == k && bits r 222 2 == c

/-- The place that a shadowed leaf gives an access of a step of die `me` (R44 to R46). A write while the BIE is in state 1 goes to the live
image, whatever the step has resolved. -/
def resolveBie (s : State) (me : Nat) (x : Ctx) (l leaf va kind : Nat) : Xl :=
  let frame := bits leaf 16 36
  let i := bits frame 20 16
  let page := bits frame 0 20 + va % 2 ^ (16 + 9 * (leaf / 2 ^ 64)) / 65536
  let r := (s.ld l).bie i
  let owner := bieState r == 2 && me == l && x.openBies.has i
  match bieCause (s.ld l) i with
  | some c => .fault c
  | none =>
    if biePages r ≤ page then .fault (xlCause 5 7 6)
    else if bieState r == 2 && !owner && (kind == 2 || kind == 5 || kind == 3) then .fault (xlCause 6 kind 1)
    else
      let now := if owner then (bieShadow r, (s.ld l).epoch i) else (mget x.oldBies (bieKey l i)).getD (bieLive r, (s.ld l).epoch i)
      let (img, ep) := (mget x.bies (bieKey l i)).getD now
      let at_ := if !owner && (kind == 2 || kind == 5 || kind == 3) then bieLive r else img
      .ok { home := l, addr := (at_ + page) * 65536 + va % 65536, comp := bit leaf 57, ca := bits leaf 58 2, pr := bit leaf 63
            bie := some (bieKey l i, img, ep) }

/-! Leaves and handles (R22 to R41) -/

/-- The failure of a leaf before what it names is looked at (R23, R36, R39): `hops` is 1 for the step's own LD and 0 at the owner of a
handle. -/
def leafFault (hops leaf va kind : Nat) : Option Nat :=
  let wr := kind == 2 || kind == 5
  if bit leaf 60 && hops == 0 then some (xlCause 5 7 5)
  else if bit leaf 60 != (va / 2 ^ 44 == 0xFF) then some (xlCause 6 kind 7)
  else if !wr && !bit leaf 2 then some (xlCause 6 kind 0)
  else if (wr || kind == 3) && !bit leaf 3 then some (xlCause 6 kind 1)
  else none

/-- The slot of the imported-handle table that a peer leaf names (R38), and the owning die of a handle (R37). -/
def Ld.handleAt (x : Ld) (leaf : Nat) : Nat := 4096 * bits x.regs.htbase.toNat 12 40 + 16 * bits (bits leaf 16 36) 24 12
def handleOwner (hd : Nat) : Nat := ldNo (bits hd 118 10) (bits hd 115 3)
/-- An export entry (R40). -/
def Ld.exportAt (x : Ld) (i : Nat) : Nat := 4096 * bits x.regs.expbase.toNat 12 40 + 32 * i
/-- The exporter address of an access through a handle (R39). -/
def handlePage (leaf va : Nat) : Nat := bits (bits leaf 16 36) 0 24 + va % 2 ^ (16 + 9 * (leaf / 2 ^ 64)) / 65536
def handleAddr (hd leaf va : Nat) : Nat := (bits hd 28 36 + handlePage leaf va) * 65536 + va % 65536

/-- Checks 1 to 3 of R39 on an export entry, and what E must be before it is walked. With EXPBASE as a reset leaves it no entry is in use (R444,
log entry 138). -/
def exportFault (y : Ld) (ent ipkg idie gen : Nat) (may : Bool) (e kind : Nat) : Option Nat :=
  if y.regs.expbase = 0#64 then some (xlCause 6 kind 4)
  else if bits ent 64 192 != 0 || bits ent 17 34 != 0 then some (xlCause 5 7 5)
  else if !bit ent 16 || bits ent 0 16 != gen then some (xlCause 6 kind 4)
  else if bits ent 54 10 != ipkg || bits ent 51 3 != idie then some (xlCause 6 kind 6)
  else if !may then some (xlCause 6 kind 5)
  else if 2 ^ 52 ≤ e then some (xlCause 5 kind 4)
  else if !bit y.regs.xlroot.toNat 0 then some (xlCause 5 kind 0)
  else none

/-- Rights RD, WR and AT cover an access kind (R37). -/
def rightsCover (rd wr at_ : Bool) (kind : Nat) : Bool :=
  match kind with
  | 2 | 5 => wr
  | 3 => at_ && wr && rd
  | _ => rd

/-- A class 5 cause of a walk that failed (R20, R25). -/
def walkCause (kind : Nat) (e : Nat × Bool) : Nat := xlCause 5 (if e.2 then 6 else kind) e.1

/-- The place that a leaf gives an access at `va` (R22, R36, R39, R42 to R46) of a step with context `x` of die `me`. What a place in host
memory must satisfy is left to the windows. -/
def resolveLeaf (s : State) (me : Nat) (x : Ctx) : Nat → Nat → Nat → Nat → Nat → Xl
  | hops, l, leaf, va, kind =>
    let off := va % 2 ^ (16 + 9 * (leaf / 2 ^ 64))
    match leafFault hops leaf va kind with
    | some c => .fault c
    | none =>
      if bit leaf 61 then .ok { home := hostKey, addr := bits leaf 16 36 * 65536 + off, pr := bit leaf 63, win := some l }
      else if bit leaf 62 then resolveBie s me x l leaf va kind
      else if bit leaf 60 then
        match hops with
        | 0 => .fault (xlCause 5 7 5)
        | hops' + 1 =>
          let hd := (s.ld l).num ((s.ld l).handleAt leaf) 16
          let owner := handleOwner hd
          let y := s.ld owner
          let ent := y.num (y.exportAt (bits hd 68 12)) 32
          let ea := handleAddr hd leaf va
          if bits hd 96 16 != 0 || bits hd 64 4 != 0 || bits hd 0 4 != 0 then .fault (xlCause 5 7 5)
          else if bits hd 4 24 < handlePage leaf va then .fault (xlCause 5 7 6)
          else
            match s.lostOnWay kind l owner with
            | some c => .lost c
            | none =>
              match exportFault y ent (pkgOf l) (dieOf l) (bits hd 80 16) (rightsCover (bit hd 114) (bit hd 113) (bit hd 112) kind) ea kind with
              | some c => .fault c
              | none =>
                match y.leafOf 64 ea with
                | .error e => .fault (walkCause kind e)
                | .ok leaf' =>
                  match resolveLeaf s me x hops' owner leaf' ea kind with
                  | .ok p => .ok { p with pr := p.pr || bit leaf 63 }
                  | r => r
      else .ok { home := l, addr := bits leaf 16 36 * 65536 + off, comp := bit leaf 57, ca := bits leaf 58 2, pr := bit leaf 63 }

/-- What a resolution reads beside the leaf: a BIE, a handle, an export entry and the exporter's tables (R109, R110). -/
def leafReads (s : State) : Nat → Nat → Nat → Nat → List (Nat × Nat × Nat)
  | hops, l, leaf, va =>
    let x := s.ld l
    if bit leaf 62 then [(l, x.bieAddr (bits (bits leaf 16 36) 20 16), 32)]
    else if bit leaf 60 then
      match hops with
      | 0 => []
      | hops' + 1 =>
        let hd := x.num (x.handleAt leaf) 16
        let owner := handleOwner hd
        let y := s.ld owner
        let ea := handleAddr hd leaf va
        (l, x.handleAt leaf, 16) ::
          if (s.route l owner).isSome then []
          else
            (owner, y.exportAt (bits hd 68 12), 32) ::
              ((if (tlbFind y.l2 (ea / 65536)).isSome then [] else y.walkReads owner ea (y.walkStart (ea / 65536))) ++
                (match y.leafOf 64 ea with
                | .ok leaf' => leafReads s hops' owner leaf' ea
                | .error _ => []))
    else []

/-- The exporter's TLB keeps the translation of an access through a handle (R27, R39). -/
def State.learnFar (s : State) (l leaf va : Nat) : State :=
  if bit leaf 60 then
    let hd := (s.ld l).num ((s.ld l).handleAt leaf) 16
    s.updLd (handleOwner hd) fun y => y.learn (handleAddr hd leaf va)
  else s

/-- Keeps the BIE resolution that an access made (R46). -/
def Ctx.keepBie (x : Ctx) (p : Phys) : Ctx :=
  match p.bie with
  | some (key, img, ep) => { x with bies := mput x.bies key (img, ep) }
  | none => x

/-- The virtual address of a GLB (0) or PEER (2) operand, or its class 5 cause (R13, R36). -/
def spaceVa (sp kind a : Nat) : Except Nat Nat :=
  if sp = 0 then (if a < 2 ^ 52 then .ok a else .error (xlCause 5 kind 4))
  else (if a < 2 ^ 44 then .ok (0xFF00000000000 + a) else .error (xlCause 5 kind 4))

/-! What reads leave at the memories (R109, R110, R125) -/

/-- Reading lines with a reserved tag poisons the sectors read and is recorded (R125). -/
def State.noteBrokenRead (s : State) (home a n : Nat) : State :=
  if home = hostKey then s
  else
    (linesOf a n).foldl (fun s line =>
      if 6 ≤ mgetD (s.ld home).hbm.tags line 0 then
        (s.updLd home fun x =>
          { x with hbm.poison := (setBits (sectorsOf line a n) 4).foldl (fun (p : Nset) q => p.upd (4 * line + q) true) x.hbm.poison }).errLog
          home 1 7 0x1C1 (128 * line) true
      else s) s

/-- A line of a stack with the stores that a step has performed there, published or not (R118, R119, R165): its tag, its stored bytes and its
poison as the home holds them for that step. -/
def State.lineFor (s : State) (x : Ctx) (home line : Nat) : Hbm :=
  let h := s.snapOf x home
  let mine := (mgetD x.own home []).filter fun e => e.1 / 128 == line
  if mine.isEmpty then h
  else h.mergeLine line (mine.any fun e => e.2.comp) fun i => (mget mine (128 * line + i)).map fun o => (o.val, o.poison)

/-- The units that a read of a range is charged for a step (R117): line by line those that the sectors read need. -/
def State.unitsRead (s : State) (x : Ctx) (home a n : Nat) : Nat :=
  (linesOf a n).foldl (fun t line => t + (unitsOf (mgetD (s.lineFor x home line).tags line 0) (sectorsOf line a n)).length) 0

/-- Reads of stacks pass through their die caches under CA (R109, R110) and are charged their units (R117), for a step by the lines as it has
written them. -/
def State.readThrough (s : State) (ca : Nat) (rs : List (Nat × Nat × Nat)) (by_ : Ctx := {}) : State :=
  rs.foldl (fun s r =>
    if r.1 = hostKey then s
    else
      (s.noteBrokenRead r.1 r.2.1 r.2.2).updLd r.1 fun x =>
        { x.touch r.2.1 r.2.2 ca false with units := x.units + s.unitsRead by_ r.1 r.2.1 r.2.2 }) s

/-- A read that an interleave commit holds (R114). -/
def State.anyHeld (s : State) (rs : List (Nat × Nat × Nat)) : Bool := rs.any fun r => s.commitHolds r.1 r.2.1 r.2.2

/-! Translation made at once: the engine, code addresses, the command processor (R27, log entry 106) -/

/-- The answer while a commit holds what a translation or its access reads (R114), or while no walker is free; no cause has this number. -/
def heldCode : Nat := 0x1000

/-- Every walker of the die has a walk, or a miss that came before (R29). -/
def Ld.walkersBusy (x : Ld) : Bool := decide (64 ≤ x.walks.length + x.missQ.length)
/-- The exporter of the page that a leaf names must walk, and has no walker free. -/
def State.farBusy (s : State) (l leaf va : Nat) : Bool :=
  bit leaf 60 &&
    (let hd := (s.ld l).num ((s.ld l).handleAt leaf) 16
     let y := s.ld (handleOwner hd)
     (tlbFind y.l2 (handleAddr hd leaf va / 65536)).isNone && y.walkersBusy)
/-- A translation needs a walk and finds no walker free, here or at an exporter. -/
def State.xlBusy (s : State) (l k va : Nat) : Bool :=
  let x := s.ld l
  ((tlbFind (x.core k).l1 (va / 65536)).isNone && (tlbFind x.l2 (va / 65536)).isNone && x.walkersBusy) ||
  (match x.leafOf k va with
   | .ok leaf => s.farBusy l leaf va
   | .error _ => false)

/-- What a translation of an address on core `k` reads: tables, then what the leaf refers to. -/
def State.xlReads (s : State) (l k va : Nat) : List (Nat × Nat × Nat) :=
  let x := s.ld l
  let page := va / 65536
  (if (tlbFind (x.core k).l1 page).isSome || (tlbFind x.l2 page).isSome then [] else x.walkReads l va (x.walkStart page)) ++
  (match x.leafOf k va with
   | .ok leaf => leafReads s 1 l leaf va
   | .error _ => [])

/-- A translation for a context with its BIE resolutions (R46): spaces 0 GLB, 1 HOST, 2 PEER. It waits for a free walker and for commits. -/
def State.translateFor (s : State) (l k : Nat) (c : Ctx) (sp kind a n : Nat) : Xl :=
  let x := s.ld l
  if sp = 1 then (if a < 2 ^ 52 then s.hostPlace l kind a n else .fault (xlCause 6 kind 2))
  else
    match spaceVa sp kind a with
    | .error e => .fault e
    | .ok va =>
      if !bit x.regs.xlroot.toNat 0 then .fault (xlCause 5 kind 0)
      else if s.anyHeld (s.xlReads l k va) || s.xlBusy l k va then .lost heldCode
      else
        match x.leafOf k va with
        | .error e => .fault (walkCause kind e)
        | .ok leaf =>
          match s.windowed kind n (resolveLeaf s l c 1 l leaf va kind) with
          | .ok p => if s.commitHolds p.home p.addr n then .lost heldCode else .ok { p with vpage := some (va / 65536) }
          | r => r

/-- A translation for the step of a context, or by the command processor (core 48). -/
def State.translateNow (s : State) (l k c sp kind a n : Nat) : Xl := s.translateFor l k (s.ctx l k c) sp kind a n

/-- What a translation that was made leaves behind: entries in the TLBs and the page-structure cache, its reads in the die caches. -/
def State.afterXl (s : State) (l k sp a : Nat) : State :=
  match spaceVa sp 0 a with
  | .error _ => s
  | .ok va =>
    if sp = 1 || !bit (s.ld l).regs.xlroot.toNat 0 then s
    else
      let leaf := (s.ld l).leafOf k va
      let s := (s.readThrough 0 (s.xlReads l k va)).updLd l fun x =>
        let x := if (tlbFind (x.core k).l1 (va / 65536)).isSome then x else x.learn va
        if k < 48 then
          match tlbFind (x.core k).l1 (va / 65536), tlbFind x.l2 (va / 65536) with
          | none, some e => x.updCore k fun y => { y with l1 := l1Add y.l1 e }
          | _, _ => x
        else x
      match leaf with
      | .ok leaf => s.learnFar l leaf va
      | .error _ => s

/-! The access stream's translations (R26 to R29) -/

/-- L2 misses that wait in a die's queue (R29). -/
def Ld.queued (x : Ld) : Nat := (x.missQ.map fun w => w.who.length).sum
/-- A miss of a core finds an entry (R29): one that joins a walk in progress takes none in the queue. -/
def Ld.missRoom (x : Ld) (k c page : Nat) : Bool :=
  ((x.missQ ++ x.walks).any fun w => w.page == page && w.who.contains (k, c)) ||
  (decide ((x.core k).misses < 16) && (x.walks.any (fun w => w.page == page) || decide (x.queued < 4096)))

/-- The table entries that a walk in progress reads. -/
def Walk.reads (w : Walk) (x : Ld) (l : Nat) : List (Nat × Nat × Nat) := x.walkReads l (65536 * w.page) (w.level, w.table)
/-- A walk with what it finds in the tables. -/
def Walk.look (w : Walk) (x : Ld) : Walk :=
  let va := 65536 * w.page
  { w with
    found := some (match x.walkAt va (w.level, w.table) with | .ok leaf => .inr leaf | .error e => .inl e)
    ptrs := walkPointers x.hbm va (w.level + 1) w.table }
/-- A walk reads the tables, once, through the die cache (R27, R30); a commit that holds one of its entries holds it (R114). -/
def State.walkLooks (s : State) (l : Nat) (w : Walk) : State :=
  if w.found.isSome || s.anyHeld (w.reads (s.ld l) l) then s
  else
    (s.readThrough 0 (w.reads (s.ld l) l)).updLd l fun x =>
      { x with walks := x.walks.map fun v => if v.page = w.page then w.look x else v }
/-- A walker takes a miss (R27, R29, R32): the walk starts at the lowest table known, or at ROOT as it stands, and reads the tables. -/
def State.startWalk (s : State) (l : Nat) (w : Walk) : State :=
  let at_ := (s.ld l).walkStart w.page
  let w := { w with level := at_.1, table := at_.2 }
  (s.updLd l fun x => { x with walks := x.walks ++ [w] }).walkLooks l w

/-- An L1 miss of a core's context at its die (R29): it joins a walk of its page in the queue or in progress; else a free walker takes it, or it
waits in the queue. -/
def askWalk (l k c page : Nat) (s : State) : State :=
  let x := s.ld l
  if ((x.missQ ++ x.walks).any fun w => w.page == page && w.who.contains (k, c)) || !x.missRoom k c page then s
  else
    let join (ws : List Walk) : List Walk := ws.map fun w => if w.page == page then { w with who := w.who ++ [(k, c)] } else w
    let s := s.updCore l k fun z => { z with misses := z.misses + 1 }
    if x.walks.any fun w => w.page == page then s.updLd l fun y => { y with walks := join y.walks }
    else if x.missQ.any fun w => w.page == page then s.updLd l fun y => { y with missQ := join y.missQ }
    else if x.walkersBusy then s.updLd l fun y => { y with missQ := y.missQ ++ [{ page := page, who := [(k, c)] }] }
    else s.startWalk l { page := page, who := [(k, c)] }

/-- Whether a page's walk has not ended (R29). -/
def Ld.walking (x : Ld) (page : Nat) : Bool := (x.missQ ++ x.walks).any fun w => w.page == page

/-- The access stream waits for the walk of a page. -/
def stallWalk {α : Type} (page : Nat) : M α :=
  stall plainWait fun s => (askWalk s.cur.l s.cur.k s.cur.c page s).updMe fun x => { x with xlAsk := some page }

/-- The leaf that a walk in progress has found for a page. -/
def Ld.walkLeaf (x : Ld) (page : Nat) : Option Nat :=
  match (x.walks.find? fun w => w.page == page).bind (·.found) with
  | some (.inr leaf) => some leaf
  | _ => none

/-- A leaf found for an access of the access stream, with the page whose walk it still waits for (R27, R29): what that walk has found
(R30). A fetch, and an access whose walk fails, has not started, or whose miss finds no entry, stall until the walk has ended. -/
def findLeaf (slot kind a va : Nat) : M (Nat × Option Nat) := do
  let s ← getS
  let (l, k) := (s.cur.l, s.cur.k)
  let x := s.ld l
  let page := va / 65536
  if !bit x.regs.xlroot.toNat 0 then trapAt slot (xlCause 5 kind 0) 0 a
  else
    match tlbFind (x.core k).l1 page with
    | some e => pure (e.leaf, none)
    | none =>
      match tlbFind x.l2 page with
      | some e => do
        updCore fun y => { y with l1 := l1Add y.l1 e }
        pure (e.leaf, none)
      | none =>
        match s.me.xlFault with
        | some (p, code) =>
          if p = page then trapAt slot (walkCause kind (code % 8, decide (8 ≤ code))) 0 a else stallWalk page
        | none =>
          let t := askWalk l k s.cur.c page s
          match (t.ld l).walkLeaf page with
          | none => stallWalk page
          | some leaf =>
            if kind = 0 || !x.missRoom k s.cur.c page || (leafFault 1 leaf va kind).isSome then stallWalk page
            else do
              updS fun _ => t
              pure (leaf, some page)

/-- A piece of an access with its leaf: its address and length, the virtual address, the leaf and the page waited for; no leaf in HOST
space. -/
structure Piece where
  a    : Nat
  n    : Nat
  leaf : Option (Nat × Nat) := none
  page : Option Nat := none

/-- The leaf of a piece, with the checks that come before windows and handles (R275). -/
def findPiece (slot sp kind a n : Nat) : M Piece :=
  if sp = 1 then (if a < 2 ^ 52 then pure { a := a, n := n } else trapAt slot (xlCause 6 kind 2) 0 a)
  else
    match spaceVa sp kind a with
    | .error e => trapAt slot e 0 a
    | .ok va => do
      let (leaf, page) ← findLeaf slot kind a va
      match leafFault 1 leaf va kind with
      | some c => trapAt slot c 0 a
      | none => do
        let s ← getS
        match (if bit leaf 62 then resolveBie s s.cur.l s.me s.cur.l leaf va kind else .ok { home := 0, addr := 0 }) with
        | .fault c => trapAt slot c 0 a
        | _ => pure { a := a, n := n, leaf := some (va, leaf), page := page }

/-- The place of a piece, its windows unchecked (R22, R39, R46); what the resolution reads passes through the die caches. -/
def placePiece (slot kind : Nat) (p : Piece) : M Phys := do
  let s ← getS
  let l := s.cur.l
  match p.leaf with
  | none => pure { home := hostKey, addr := p.a, win := some l }
  | some (va, leaf) => do
    let reads := leafReads s 1 l leaf va
    if s.anyHeld reads || s.farBusy l leaf va then stall plainWait else pure ()
    match resolveLeaf s l s.me 1 l leaf va kind with
    | .fault e => trapAt slot e 0 p.a
    | .lost e => if kind = 1 || kind = 3 then pure { home := l, addr := 0, lost := some e, page := p.page } else trapAt slot e 0 p.a
    | .ok q => do
      updS fun s => ((s.readThrough 0 reads).learnFar l leaf va).updMe (·.keepBie q)
      pure { q with page := p.page }

/-- Adjoining pieces of host memory are one access to its windows (R43). -/
def joinHost : List (Phys × Nat) → List (Phys × Nat)
  | (p, n) :: (q, m) :: r =>
    if p.win.isSome ∧ p.win = q.win ∧ p.addr + n = q.addr then ({ p with pr := p.pr || q.pr }, n + m) :: r else (p, n) :: joinHost ((q, m) :: r)
  | r => r

/-- The windows of the pieces of an access (R42, R43, R275). -/
def windowPieces (slot kind a : Nat) : List (Phys × Nat) → M (List (Phys × Nat))
  | [] => pure []
  | (p, n) :: r => do
    let s ← getS
    let q ← (match s.windowed kind n (.ok p) with
      | .ok q => pure q
      | .fault e => trapAt slot e 0 a
      | .lost e => if kind = 1 || kind = 3 then pure { p with win := none, lost := some e } else trapAt slot e 0 a)
    let qs ← windowPieces slot kind a r
    pure ((q, n) :: qs)

/-- Applies an operation to each member of a list in turn and keeps what it gives. -/
def mapM' {α β : Type} (f : α → M β) : List α → M (List β)
  | [] => pure []
  | x :: r => do
    let y ← f x
    let ys ← mapM' f r
    pure (y :: ys)

/-- The places of an access given as its pieces: translation and permission of them all, then handles, then host windows (R275). -/
def placesOf (slot sp kind a : Nat) (ps : List (Nat × Nat)) : M (List (Phys × Nat)) := do
  let found ← mapM' (fun (p : Nat × Nat) => findPiece slot sp kind p.1 p.2) ps
  let placed ← mapM' (fun p => do let q ← placePiece slot kind p; pure (q, p.n)) found
  updMe fun x => { x with xlAsk := none }
  windowPieces slot kind a (joinHost placed)

/-- The place of an access that lies in one page. -/
def translate (slot sp kind a n : Nat) : M Phys := do
  let ps ← placesOf slot sp kind a [(a, n)]
  match ps with
  | (p, _) :: _ => pure p
  | [] => idle

end Sys2Proof.Machine
end

