-- ==== Sys2Proof/Machine/Records.lean ====
section
/-! DEFINITION. What the part reports: the error bank (R435), MSI-X vectors (R443), the fault queue and its records (R426 to R428). -/

namespace Sys2Proof.Machine

/-- A partial write to a line with a reserved tag is recorded (R125). -/
def State.noteBroken (s : State) (l a n : Nat) : State :=
  (linesOf a n).foldl (fun s line =>
    if 6 ≤ mgetD (s.ld l).hbm.tags line 0 ∧ ¬(a ≤ 128 * line ∧ 128 * line + 128 ≤ a + n) then s.errLog l 1 7 0x1C1 (128 * line) true else s) s

/-- A write of bytes with their poison, through the die cache, published as it is made. -/
def State.pokeBad (s : State) (l a : Nat) (bs : List (BitVec 8 × Bool)) (comp : Bool) (ca : Nat) : State :=
  (s.noteBroken l a bs.length).updLd l fun x => { x with hbm := x.hbm.writeBad a bs comp }.touch a bs.length ca true
/-- A write of clean bytes. One that the part makes without a leaf, and CXL.mem's, is stored as through C = 0 and CA 00 (log entries 58, 113). -/
def State.pokeLd (s : State) (l a : Nat) (bs : List (BitVec 8)) (comp : Bool := false) (ca : Nat := 0) : State :=
  s.pokeBad l a (bs.map fun b => (b, false)) comp ca
/-- A write at a place that a translation gave, published as it is made. -/
def State.pokeAt (s : State) (p : Phys) (bs : List (BitVec 8 × Bool)) : State :=
  if p.home = hostKey then { s with host := Mem.setBytes s.host p.addr (bs.map (·.1)) } else s.pokeBad p.home p.addr bs p.comp p.ca
/-- Published bytes at a place that a translation gave, each with the cause that consuming it raises (R22, R123, R125). -/
def State.peekAt (s : State) (p : Phys) (n : Nat) : List (BitVec 8 × Nat) :=
  (s.homeBytes p.home p.addr n).zipIdx.map fun b =>
    let bad := if p.home = hostKey then 0 else (s.ld p.home).hbm.bad (p.addr + b.2)
    (b.1, if bad = 0 ∧ p.pr then 0x1C0 else bad)

/-! Publication (R166, R168) -/

/-- The update of one home by a publication (R168): every selected own store takes its place in one step; the sectors stored are dirty in
the die cache (R110). -/
def State.publishHome (s : State) (home : Nat) (es : List (Nat × Own)) : State :=
  if home = hostKey then { s with host := es.foldl (fun m e => Mem.set m e.1 e.2.val) s.host }
  else
    let lines := (es.map fun e => e.1 / 128).eraseDups
    let s := lines.foldl (fun s line => if 128 ≤ es.countP fun e => e.1 / 128 = line then s else s.noteBroken home (128 * line) 1) s
    let s := s.updLd home fun x =>
      { x with
        hbm := lines.foldl (fun h line =>
          let mine := es.filter fun e => e.1 / 128 = line
          h.mergeLine line (mine.any fun e => e.2.comp) fun i =>
            (mget mine (128 * line + i)).map fun o => (o.val, o.poison)) x.hbm }
    s.updLd home fun x => lines.foldl (fun (x : Ld) line =>
      let mine := es.filter fun e => e.1 / 128 = line
      x.touchLine line (mine.foldl (fun k e => k ||| sectorsOf line e.1 1) 0) ((mine.head?.map (·.2.ca)).getD 0) true) x

/-! Records and notices -/

/-- An entry of the error bank is of a corrected error of a unit at a location, less than 1 ms old (R435). -/
def sameError (unit loc now : Nat) (e : BitVec 256) : Bool :=
  bits e.toNat 0 15 == 0 && bits e.toNat 16 8 == unit && bits e.toNat 128 64 == loc % 2 ^ 64 && decide (now < bits e.toNat 192 64 + 1000000)

/-- A corrected error, of which no record is written: repeats at one location within 1 ms raise the COUNT of their entry (R435). -/
def State.errCorrected (s : State) (l unit loc : Nat) : State :=
  match (s.ld l).errs.find? fun e => sameError unit loc s.ns e.2 with
  | some (i, e) =>
    s.updLd l fun y => { y with errs := mput y.errs i (errEntry (bits e.toNat 192 64) loc (bits e.toNat 96 32 + 1) unit true 0 0) }
  | none => s.errLog l 0 unit 0 loc true

/-- A vector's message goes to the host: its data to its address (R443). -/
def Ld.signal (x : Ld) (v : Nat) : Ld :=
  let e := mgetD x.msix v {}
  { x with msixSent := x.msixSent ++ [(v, e.addr, e.data)] }
/-- Signals an MSI-X vector; a masked one becomes pending (R443). -/
def State.msix (s : State) (l v : Nat) : State :=
  s.updLd l fun x => if (mgetD x.msix v {}).masked then { x with msixPend := x.msixPend.upd v true } else x.signal v

/-- The fault queue has a legal size and room for one record beside `waiting` others (R426). -/
def Ld.fqRoom (x : Ld) (waiting : Nat := 0) : Bool :=
  let n := bits x.regs.fqbase.toNat 0 6
  decide (4 ≤ n) && decide (n ≤ 16) && decide ((x.regs.fqtail.toNat + 2 ^ 32 - x.regs.fqhead.toNat) % 2 ^ 32 + waiting < 2 ^ n)

/-- A notice has room in the fault queue: beside the records that already wait to be written there (R426). -/
def Ld.noticeRoom (x : Ld) : Bool := x.fqRoom x.faultQ.length

/-- The common half of a fault record (R427). -/
structure RecordHead where
  stamp : Nat := 0
  trapb : Nat := 0
  slip  : Nat := 0
  opid  : Nat := 0
  core  : Nat := 0
  ctx   : Nat := 0
  kind  : Nat := 0
  act   : Nat := 0
  href  : Bool := false
  rst   : Bool := false
  ndisc : Nat := 0
  cause : Nat := 0

/-- A fault record (R427, R428); `hi` is bits [511:256]. -/
def faultRecord (ns die : Nat) (h : RecordHead) (hi : Nat) : BitVec 512 :=
  BitVec.ofNat 512 (put ns 192 64 ||| put h.stamp 128 64 ||| put h.trapb 76 52 ||| put h.slip 64 6 ||| put h.opid 48 16 ||| put die 44 4 |||
    put h.core 38 6 ||| put h.ctx 36 2 ||| put h.kind 32 4 ||| put h.act 30 2 ||| put h.href.toNat 29 1 ||| put h.rst.toNat 28 1 |||
    put h.ndisc 22 6 ||| put h.cause 0 10 ||| (hi <<< 256))

/-- Bits [511:256] of a KIND 0 or 1 record (R428), moved to bit 0. -/
def trapHalf (t : TrapInfo) : Nat :=
  put t.addr 192 64 ||| put t.slot 189 3 ||| put t.index 180 9 ||| put t.course 174 6

/-- Bits [511:256] of a KIND 2 record (R428). -/
def engineHalf (addr smask chix cmd tiles xstamp : Nat) : Nat :=
  put addr 192 64 ||| put smask 176 16 ||| put chix 144 32 ||| put cmd 140 4 ||| put tiles 136 4 ||| put xstamp 64 64

/-- The synchronisation snapshot (R211), bits [511:256] of a KIND 3 record. -/
def waitHalf (w : Wait) (charge : Nat) : Nat :=
  put w.stamp.toNat 192 64 ||| put w.yard 184 8 ||| put w.parish 178 6 ||| put w.lsmask.toNat 144 32 ||| put w.rhmask.toNat 128 16 |||
  put w.plwait.toNat 124 4 ||| put w.accwait.toNat 120 4 ||| put w.cbwait.toNat 116 4 ||| put w.bie 99 17 ||| put w.kind.toNat 64 8 ||| put charge 32 32

/-- Bits [511:256] of a KIND 4 record: a sysc request (R410, R428). -/
def syscHalf (a b service : Nat) : Nat := put a 192 64 ||| put b 128 64 ||| put service 120 8

/-- Bits [511:256] of a KIND 5 to 7 record (R428). -/
def noticeHalf (loc unit : Nat) : Nat := put loc 192 64 ||| put unit 184 8

/-- Adds a record to those waiting to be written (R426); `sid` is 1 + the step that it pauses, or 0. -/
def State.queueRecord (s : State) (l sid : Nat) (r : BitVec 512) : State :=
  s.updLd l fun x => { x with faultQ := x.faultQ ++ [(sid, r)] }

/-- A refusal reported in the fault queue (R218, R426): a KIND 5 record, or an unqueued error bank entry while the queue has no room. -/
def State.noteRefusal (s : State) (l cause loc : Nat) : State :=
  if (s.ld l).noticeRoom then s.queueRecord l 0 (faultRecord s.ns (dieOf l) { kind := 5, act := 3, cause := cause } (noticeHalf loc 9))
  else s.errLog l 2 9 cause loc true

/-- A notice with no step behind it: an error bank entry and, when the queue has room, a record (R426, R435). -/
def State.notice (s : State) (l kind sev unit cause loc : Nat) : State :=
  let room := (s.ld l).noticeRoom
  let s' := s.errLog l sev unit cause loc (!room)
  if room then s'.queueRecord l 0 (faultRecord s.ns (dieOf l) { kind := kind, act := 3, cause := cause } (noticeHalf loc unit)) else s'

end Sys2Proof.Machine
end

