-- ==== Sys2Proof/Machine/Transport.lean ====
section
/-! DEFINITION. How packets cross the fabric (R449 to R456): flits and replay buffers, the mesh of a package, the Beyvex ports, and what
waits at a packet's destination until it has arrived. -/

namespace Sys2Proof.Machine

/-! Where a step is -/

/-- A step's place: a context of a core, or a context save slot. -/
inductive Place where
  | at_ (k c : Nat)
  | slot (n : Nat)
  deriving DecidableEq, Repr

/-- The context number of a place; 0 for a save slot. -/
def Place.ctxNo (p : Place) : Nat :=
  match p with
  | .at_ _ c => c
  | .slot _ => 0

/-- The contexts that hold a live step of a die, with their places; a privileged context is no step (R255). -/
def Ld.steps (x : Ld) : List (Place × Nat × Ctx) :=
  (x.cores.flatMap fun k => (k.2.ctxs.filter fun c => c.2.live && !c.2.priv).map fun c => (Place.at_ k.1 c.1, k.1, c.2)) ++
  x.saved.map fun v => (Place.slot v.1, v.2.core, v.2.ctx)

/-- The place of a step by its number. -/
def Ld.findStep (x : Ld) (sid : Nat) : Option (Place × Nat × Ctx) := x.steps.find? fun p => p.2.2.sid == sid

/-- Changes a step's context wherever it is. -/
def State.updStep (s : State) (l sid : Nat) (f : Ctx → Ctx) : State :=
  match (s.ld l).findStep sid with
  | some (.at_ k c, _, _) => s.updCtx l k c f
  | some (.slot n, _, _) => s.updLd l fun x => { x with saved := (x.saved.map fun v => if v.1 = n then (n, { v.2 with ctx := f v.2.ctx }) else v) }
  | none => s

/-- A piece of a global access has been served: its bytes, as a number, take their place in the slot from byte `part` on; the last piece
brings the data in. Of several causes the first found stands. -/
def LSlot.addPart (sl : LSlot) (part data mark : Nat) : LSlot :=
  { sl with
    here := sl.parts ≤ 1
    parts := sl.parts - 1
    data := sl.data ||| BitVec.ofNat 2048 (data <<< (8 * part))
    side := sl.side ||| BitVec.ofNat 256 ((data <<< (8 * part)) >>> 2048)
    mark := if sl.mark = 0 then mark else sl.mark }
def Ctx.fillPart (x : Ctx) (ls part data mark : Nat) : Ctx :=
  { x with regs.ls := x.regs.ls.modify ls fun sl => sl.addPart part data mark }

/-- A token is refused (R398): the refusal goes back to the sender's die. -/
def State.refuseToken (s : State) (t : Token) : State := s.updLd t.src fun x => { x with tokBack := x.tokBack ++ [t] }

/-! Flits (R449, R452) -/

/-- The packet bytes of a mesh flit and of a Beyvex flit. -/
def meshBytes : Nat := 64
def portBytes : Nat := 240

/-- Bytes cut into pieces of `w`, one at least; `n` bounds their number. -/
def cutBytes (w : Nat) : Nat → List (BitVec 8) → List (List (BitVec 8))
  | 0, bs => [bs]
  | n + 1, bs => if bs.length ≤ w then [bs] else bs.take w :: cutBytes w n (bs.drop w)

/-- The flits of a packet, numbered on from `sent`; the last names the packet. -/
def flitsOf (w sent : Nat) (t : Transit) : List Flit :=
  let ps := cutBytes w t.pkt.body.length t.pkt.body
  ps.zipIdx.map fun b => { seq := (sent + 1 + b.2) % 2 ^ 16, vc := t.pkt.vc, body := b.1, last := if b.2 + 1 = ps.length then some t else none }

/-- CRC-64 of ECMA-182 (R452): the polynomial 0x42F0E1EBA9EA3693, high bit first, from 0. -/
def crc64 (bs : List (BitVec 8)) : BitVec 64 :=
  let bit1 (c : BitVec 64) : BitVec 64 := if c.getLsbD 63 then (c <<< 1) ^^^ 0x42F0E1EBA9EA3693#64 else c <<< 1
  bs.foldl (fun (c : BitVec 64) (b : BitVec 8) =>
    let mixed : BitVec 64 := c ^^^ (BitVec.ofNat 64 b.toNat <<< (56 : Nat))
    (List.range 8).foldl (fun (c : BitVec 64) _ => bit1 c) mixed) 0#64

/-- The type of a flit that carries packet bytes (R452): control on channel 3, else data. -/
def Flit.typ (f : Flit) : Nat := if f.vc = 3 then 3 else 1

/-- The 256 bytes of a Beyvex flit (R452): HDR, SEQ, ACK, payload, CRC. The payload bytes that are not used are free. -/
def Flit.image (f : Flit) (ack : Nat) : List (BitVec 8) :=
  let bs := natLe 4 (put f.typ 28 4 ||| put f.vc 25 3 ||| put f.body.length 17 8) ++ natLe 2 f.seq ++ natLe 2 ack ++ f.body ++
    (List.range (240 - f.body.length)).map Config.freeByte
  bs ++ natLe 8 (crc64 bs).toNat

/-- The CRC of 256 bytes that have arrived is right (R453): what `good` says of a flit that an event receives. -/
def flitGood (bs : List (BitVec 8)) : Bool := bs.drop 248 == natLe 8 (crc64 (bs.take 248)).toNat

/-! Arrival and loss -/

/-- What travels in a packet has arrived. -/
def Ld.arrived (x : Ld) (id : Nat) : Ld :=
  let here (w : Option Nat) : Option Nat := if w = some id then none else w
  { x with
    homeQ := x.homeQ.map fun r => { r with way := here r.way }
    tokIn := x.tokIn.map fun t => { t with way := here t.way }
    belfry.inbox := x.belfry.inbox.map fun b => { b with way := here b.way }
    belfry.notices := x.belfry.notices.map fun n => { n with way := here n.way }
    belfry.replies := x.belfry.replies.map fun n => { n with way := here n.way } }

/-- A packet is dropped (R415, R450, R456): a load or an atomic fails with the cause; a token is refused, a batch or a notice gone, with a
notice of 0x304 at the sender. -/
def State.lostPacket (s : State) (k : Packet) (cause : Nat) : State :=
  let x := s.ld k.dst
  let on (w : Option Nat) : Bool := w == some k.id
  let s := s.updLd k.dst fun x =>
    { x with
      homeQ := x.homeQ.filter fun r => !on r.way
      tokIn := x.tokIn.filter fun t => !on t.way
      belfry.inbox := x.belfry.inbox.filter fun b => !on b.way
      belfry.notices := x.belfry.notices.filter fun n => !on n.way
      belfry.replies := x.belfry.replies.filter fun n => !on n.way }
  let s := (x.homeQ.filter fun r => on r.way && !r.pref).foldl (fun s r => s.updStep r.src r.sid fun y => y.fillPart r.slot r.part 0 cause) s
  let ts := x.tokIn.filter fun t => on t.way
  let s := if ts.isEmpty && !(x.belfry.inbox.any fun b => on b.way) && !(x.belfry.notices.any fun n => on n.way) && !(x.belfry.replies.any fun n => on n.way)
    then s else s.notice k.src 6 2 10 0x304 k.dst
  ts.foldl State.refuseToken s

/-! The mesh (R449 to R451) -/

/-- Two packets are of one die to one other die, and keep their order (R451). -/
def Packet.follows (a b : Packet) : Bool := a.src == b.src && a.dst == b.dst
/-- A packet of a pair of dies ends in one of some flits. -/
def pairIn (k : Packet) (fs : List Flit) : Bool := fs.any fun f => f.last.any fun t => t.pkt.follows k
/-- A packet of a pair of dies stands on a mesh link of a package. -/
def Pkg.pairOn (g : Pkg) (k : Packet) : Bool := g.links.any fun e => pairIn k e.fore.buf || pairIn k e.back.buf
/-- A packet of a pair of dies waits in a package. -/
def Pkg.pairWaits (g : Pkg) (k : Packet) : Bool := g.waits.any fun t => t.pkt.follows k

/-- A direction of a link. -/
def Link.dir (k : Link) (back : Bool) : LinkDir := if back then k.back else k.fore
def Link.updDir (k : Link) (back : Bool) (f : LinkDir → LinkDir) : Link := if back then { k with back := f k.back } else { k with fore := f k.fore }
/-- The direction of a link in which a flit goes from one place. -/
def goesBack (a b : Nat × Nat) : Bool := (linkEnds (linkOf a b)).1 != a

/-- A packet's flits are sent on a link. -/
def Pkg.sendOn (g : Pkg) (a b : Nat × Nat) (t : Transit) : Pkg :=
  g.updLink (linkOf a b) fun k => k.updDir (goesBack a b) fun d =>
    let fs := flitsOf meshBytes d.sent t
    { d with sent := (d.sent + fs.length) % 2 ^ 16, buf := d.buf ++ fs }

/-- What becomes of a packet at a place of the grid. -/
inductive Hop where
  | there
  | onto (next : Nat × Nat) (t : Transit)
  | wait
  | lost (cause : Nat)

/-- The next step of a packet towards a place (R450, R451): along X then Y, or around a link that is down; it waits for a link that pauses, and
with a detour until no packet of its pair is on the mesh any more. -/
def Pkg.nextHop (g : Pkg) (target : Nat × Nat) (t : Transit) : Hop :=
  let onto (c : Nat × Nat) (u : Transit) : Hop := if (g.links.getD (linkOf t.pos c) {}).paused then .wait else .onto c u
  match t.via with
  | c :: r => if g.linkUp t.pos c then onto c { t with pos := c, via := r } else .lost 0x301
  | [] =>
    if t.pos = target then .there
    else
      let c := xyNext t.pos target
      let d := detour t.pos c
      if g.linkUp t.pos c then onto c { t with pos := c }
      else if t.turned || !g.detourUp t.pos c then .lost 0x301
      else if g.pairOn t.pkt then .wait
      else onto d.1 { t with pos := d.1, turned := true, via := [d.2, c] }

/-- A packet waits in a package, behind those that wait there. -/
def State.waitIn (s : State) (p : Nat) (t : Transit) : State := s.updPkg p fun g => { g with waits := g.waits ++ [t] }

/-- A running commit of the peer region table covers a package (R456). -/
def Pkg.commitCovers (g : Pkg) (q : Nat) : Bool := g.prRun.any fun r => decide (r.1 ≤ q) && decide (q < r.1 + r.2)

/-- A packet leaves the green for another package (R453 to R456) through port number (source die + destination die) mod k of the k usable
ones. It waits while a commit covers its package, while the port trains or has no room for its flits among 512, and while an earlier packet of its
pair is not acknowledged on another port. -/
def State.toPort (s : State) (p : Nat) (t : Transit) : State :=
  let g := s.pkg p
  let q := pkgOf t.pkt.dst
  let us := g.portsTo q
  if g.commitCovers q then s.waitIn p t
  else if !bit (mgetD g.table q 0#64).toNat 12 then s.lostPacket t.pkt 0x303
  else
    match us[(dieOf t.pkt.src + dieOf t.pkt.dst) % us.length]? with
    | none => s.lostPacket t.pkt 0x302
    | some n =>
      let x := s.port p n
      let fs := flitsOf portBytes x.sent t
      if x.training || decide (512 < x.buf.length + fs.length) || (g.ports.zipIdx.any fun e => e.2 != n && pairIn t.pkt e.1.buf) then s.waitIn p t
      else s.updPort p n fun x => { x with seq := setField x.seq 16 16 (x.sent + fs.length), buf := x.buf ++ fs }

/-- A packet at a place of a package goes on. -/
def State.hop (s : State) (p : Nat) (t : Transit) : State :=
  let home := pkgOf t.pkt.dst = p
  if (s.pkg p).pairWaits t.pkt then s.waitIn p t
  else
    match (s.pkg p).nextHop (if home then diePos (dieOf t.pkt.dst) else (1, 1)) t with
    | .there => if home then s.updLd t.pkt.dst fun x => x.arrived t.pkt.id else s.toPort p t
    | .onto c u => s.updPkg p fun g => g.sendOn t.pos c u
    | .wait => s.waitIn p t
    | .lost c => s.lostPacket t.pkt c

/-- The packets that wait in a package try again, in their order. -/
def State.release (s : State) (p : Nat) : State :=
  match (s.pkg p).waits with
  | [] => s
  | ws => ws.foldl (fun s t => s.hop p t) (s.updPkg p fun g => { g with waits := [] })

/-- The number of the packet in which something would leave for another die now. -/
def State.ticket (s : State) (src dst : Nat) : Option Nat := if src = dst then none else some s.draw
/-- The bytes of a packet that carries some data; the manual gives the format of batches alone (log entry 131). -/
def State.packed (s : State) (data : List (BitVec 8)) : List (BitVec 8) := Config.packetBody s.draw ++ data
/-- A packet leaves for another die; what travels in it waits there under its ticket. -/
def State.post (s : State) (src dst vc : Nat) (body : List (BitVec 8)) : State :=
  if src = dst then s
  else { s with draw := s.draw + 1 }.hop (pkgOf src) { pkt := { id := s.draw, src := src, dst := dst, vc := vc, body := body }, pos := diePos (dieOf src) }

/-- A mesh flit is received (R449): the next in order with a good CRC is taken and acknowledged, another is asked for again. The packet that
it ends goes on. -/
def State.meshTake (s : State) (p link : Nat) (back : Bool) (seq : Nat) (good : Bool) : State :=
  let d := ((s.pkg p).links.getD link {}).dir back
  let upd (f : LinkDir → LinkDir) : State := s.updPkg p fun g => g.updLink link fun k => k.updDir back f
  if good && seq == (d.recv + 1) % 2 ^ 16 then
    let s := upd fun d => { d with recv := seq, nak := none, buf := d.buf.filter fun f => f.seq != seq }
    match (d.buf.find? fun f => f.seq == seq).bind (·.last) with
    | some t => (s.hop p t).release p
    | none => s.release p
  else upd fun d => { d with nak := some d.recv }

/-- A packet whose link has failed stands at the link's sending end again; one that has taken its detour meets its second failed link. -/
def Transit.back (t : Transit) (a : Nat × Nat) : Transit := if t.turned then { t with pos := a, via := t.pos :: t.via } else { t with pos := a }

/-- A link has gone down (R449, R451): the packets that it has not delivered go another way, before any later one of their pairs. -/
def State.linkFell (s : State) (p link : Nat) : State :=
  let k := (s.pkg p).links.getD link {}
  let e := linkEnds link
  let left (d : LinkDir) (a : Nat × Nat) : List Transit := d.buf.filterMap fun f => f.last.map fun t => t.back a
  let rest (d : LinkDir) : LinkDir := { sent := d.recv, recv := d.recv }
  (s.updPkg p fun g =>
    { g.updLink link fun k => { k with up := false, paused := false, fore := rest k.fore, back := rest k.back } with
      waits := left k.fore e.1 ++ left k.back e.2 ++ g.waits }).release p

/-! Ports -/

/-- The number up to which the other end of a port has received its flits; without another end, up to which they are acknowledged. -/
def State.reached (s : State) (p n : Nat) : Nat :=
  match farEnd p n with
  | some (q, m) => (s.port q m).recv
  | none => (s.port p n).acked

/-- A port has gone down (R455, R456): the packets that have not reached the other end move to other ports, before any later one of their
pairs; SENT and ACKED stand where the other end has received (log entry 132). -/
def State.portFell (s : State) (p n : Nat) : State :=
  let x := s.port p n
  let r := s.reached p n
  let left := (x.buf.drop ((r + 2 ^ 16 - x.acked) % 2 ^ 16)).filterMap (·.last)
  ((s.updPort p n fun x => { x with seq := BitVec.ofNat 64 (put r 16 16 ||| put r 0 16), buf := [] }).updPkg p fun g =>
    { g with waits := left ++ g.waits }).release p

/-- Both ends of a link that has gone down. -/
def State.linkDown (s : State) (p n : Nat) : State :=
  match farEnd p n with
  | some (q, m) => (s.portFell p n).portFell q m
  | none => s.portFell p n

/-- A flit that a port takes in its order ends a packet at most: it goes on in this package (R452). -/
def State.portTake (s : State) (p n seq : Nat) : State :=
  match farEnd p n with
  | some (q, m) =>
    match ((s.port q m).buf.find? fun f => f.seq == seq).bind (·.last) with
    | some t => s.hop p t
    | none => s
  | none => s

/-- A port receives a flit (R452, R453). Acknowledged flits make room for packets that wait. -/
def State.portReceive (s : State) (p n typ seq ack : Nat) (good : Bool) : State :=
  let taken := good && numbered typ && seq == ((s.port p n).recv + 1) % 2 ^ 16
  let s := if taken then s.portTake p n seq else s
  (s.updPort p n fun x => x.receive typ seq ack good).release p

end Sys2Proof.Machine
end

