-- ==== Sys2Proof/Machine/Belfry.lean ====
section
/-! DEFINITION. Logical time as every unit uses it: path summaries (R147 to R150), the forming of progress batches (R155 to R157),
creation checks (R144), local curfews (R154). -/

namespace Sys2Proof.Machine

/-- The closed stamp (R135). -/
def closedStamp : Nat := 2 ^ 64 - 1
/-- A stamp whose c0 is 0xFFFF (R135). -/
def isClosed (s : Nat) : Bool := bits s 48 16 == 0xFFFF
/-- Component `k` of a stamp (R133). -/
def comp (s k : Nat) : Nat := bits s (48 - 16 * k) 16
/-- A stamp from its components (R133). -/
def mkStamp (c : List Nat) : Nat := c.getD 0 0 * 2 ^ 48 + c.getD 1 0 * 2 ^ 32 + c.getD 2 0 * 2 ^ 16 + c.getD 3 0

/-- A malformed summary (R147). -/
def sumBad (σ : Nat) : Bool :=
  match bits σ 12 4 with
  | 0 => bits σ 0 12 != 0
  | 1 => false
  | 2 => bits σ 0 10 != 0
  | _ => true

/-- The stamp that a summary gives (R148). -/
def sumApply (σ s : Nat) : Nat :=
  if isClosed s then closedStamp
  else
    let op := bits σ 12 4; let k := bits σ 10 2; let d := bits σ 0 10
    let at_ (j : Nat) : Nat :=
      if op = 0 then comp s j
      else if j < k then comp s j
      else if k < j then 0
      else if op = 1 then min (comp s k + d) (if k = 0 then 0xFFFE else 0xFFFF)
      else comp s k
    mkStamp [at_ 0, at_ 1, at_ 2, at_ 3]

/-- A summary as a pair (k, d) (R149). -/
def sumPair (σ : Nat) : Nat × Nat :=
  match bits σ 12 4 with
  | 0 => (3, 0)
  | 1 => (bits σ 10 2, bits σ 0 10)
  | _ => (bits σ 10 2, 0)

/-- The order of pairs (R149). -/
def pairLe (a b : Nat × Nat) : Bool :=
  (a.1 == b.1 && decide (a.2 ≤ b.2)) || (decide (a.1 < b.1) && a.2 == 0) || (decide (b.1 < a.1) && decide (0 < b.2))

/-- The composition of pairs (R150). -/
def pairCompose (a b : Nat × Nat) : Nat × Nat :=
  if b.1 < a.1 then b else if b.1 = a.1 then (a.1, min (a.2 + b.2) 1023) else a

/-- Parish descriptor fields (R138). -/
def Parish.num (p : Parish) (lo n : Nat) : Nat := bits p.desc.toNat lo n
def Parish.home (p : Parish) : Nat := ldNo (p.num 110 10) (p.num 106 4)
def Parish.hpar (p : Parish) : Nat := p.num 82 6
def Parish.nym1 (p : Parish) : Nat := p.num 96 8
def Parish.rooty (p : Parish) : Nat := p.num 88 8
def Ld.parish (x : Ld) (p : Nat) : Parish := mgetD x.parishes p {}
def State.parish (s : State) (l p : Nat) : Parish := (s.ld l).parish p
def State.updParish (s : State) (l p : Nat) (f : Parish → Parish) : State :=
  s.updLd l fun x => { x with parishes := mput x.parishes p (f (x.parish p)) }

/-- The summary of a path from X to Y, when there is one (R151). -/
def Parish.path (p : Parish) (x y : Nat) : Option Nat := mget p.pst (256 * x + y)

/-- The dies of a parish's valid member entries (R139). -/
def memberDie (e : Word) : Nat := ldNo (bits e.toNat 54 10) (bits e.toNat 50 4)
def Parish.memberDies (p : Parish) : List Nat := (p.members.filter fun e => bit e.toNat 0).map memberDie

/-- A local curfew (R154). -/
def Parish.curfew (p : Parish) (y : Nat) : Nat := mgetD p.curfews y 0
/-- The curfew at a yard has passed a stamp (R153). -/
def Parish.passed (p : Parish) (y t : Nat) : Bool := decide (t < p.curfew y)

/-- The handle whose EXPIDX and GEN this die's traffic to another die of a parish carries (R139). -/
def Parish.authTo (p : Parish) (dst : Nat) : Option (Nat × Nat) :=
  ((p.members.zip p.auths).find? fun e => bit e.1.toNat 0 && memberDie e.1 == dst).map (·.2)

/-- A receiver's check of traffic from another die: export entry in use, generation, importer (R139). -/
def State.authOk (s : State) (dst src : Nat) (auth : Option (Nat × Nat)) : Bool :=
  if dst = src then true
  else
    match auth with
    | none => false
    | some (i, gen) =>
      let y := s.ld dst
      let ent := y.num (4096 * bits y.regs.expbase.toNat 12 40 + 32 * i) 32
      bits ent 64 192 == 0 && bits ent 17 34 == 0 && bit ent 16 && bits ent 0 16 == gen && bits ent 54 10 == pkgOf src && bits ent 51 3 == dieOf src

/-- The bytes of a batch (R157): its header and its records. -/
def Batch.image (b : Batch) : List (BitVec 8) :=
  natLe 16 (put (pkgOf b.src) 118 10 ||| put (dieOf b.src) 114 4 ||| put b.seq 64 32 ||| put b.recs.length 0 16) ++
    b.recs.flatMap fun r => natLe 16 (put r.stamp 64 64 ||| put r.parish 58 6 ||| put r.yard 50 8 ||| wrap 32 r.delta)

/-- Sends a batch to its home with the next sequence number, increments first (R155, R157). A batch that the fabric cannot deliver
is reported with 0x304 (R415). -/
def State.sendBatch (s : State) (b : Batch) : State :=
  let q := mgetD (s.ld b.src).belfry.seqOut b.home 0
  let recs := (b.recs.filter fun r => decide (0 < r.delta)) ++ b.recs.filter fun r => decide (r.delta < 0)
  let s' := s.updLd b.src fun x => { x with belfry.seqOut := mput x.belfry.seqOut b.home ((q + 1) % 2 ^ 32) }
  let c := { b with seq := q, recs := recs, way := s.ticket b.src b.home }
  (s'.updLd b.home fun x => { x with belfry.inbox := x.belfry.inbox ++ [c] }).post b.src b.home 2 c.image

/-- Two open batches are one: their records go to one home under one handle. Records of parishes with other handles travel apart, so that
each handle's revocation cuts its own parish's traffic alone (R139, R155). -/
def Batch.joins (a b : Batch) : Bool := a.home == b.home && a.auth == b.auth

/-- A batch takes the place of the die's open one that it joins, or stands last as the youngest; with 256 records it is closed and sent
(R155). The open batches stand in the order of their first records. -/
def State.openBatch (s : State) (b : Batch) : State :=
  s.updLd b.src fun x =>
    if x.belfry.openB.any b.joins then { x with belfry.openB := x.belfry.openB.map fun y => if b.joins y then b else y }
    else { x with belfry.openB := x.belfry.openB ++ [b] }

/-- The open batch that a batch joins is open no longer. -/
def State.dropBatch (s : State) (b : Batch) : State := s.updLd b.src fun x => { x with belfry.openB := x.belfry.openB.filter fun y => !b.joins y }

/-- A batch is kept open; with 256 records it is closed and sent (R155). -/
def State.keepBatch (s : State) (b : Batch) : State := if 256 ≤ b.recs.length then (s.dropBatch b).sendBatch b else s.openBatch b

/-- Adds at most 256 records of one event to the die's open batch for a home; one that has no room for them is sent first (R155, R156). -/
def State.addRecs (s : State) (l home : Nat) (auth : Option (Nat × Nat)) (rs : List Rec) : State :=
  let b : Batch := { src := l, home := home, recs := rs, at_ := s.ticks, auth := auth }
  match (s.ld l).belfry.openB.find? b.joins with
  | none => s.keepBatch b
  | some a => if a.recs.length + rs.length ≤ 256 then s.keepBatch { a with recs := a.recs ++ rs } else ((s.dropBatch a).sendBatch a).keepBatch b

/-- Records cut into batches of 256 (R157). -/
def cutRecs : Nat → List Rec → List (List Rec)
  | 0, _ => []
  | n + 1, rs => if rs.isEmpty then [] else rs.take 256 :: cutRecs n (rs.drop 256)

/-- Adds the count changes of one event to the die's open batch for the parish's home, so that they travel together (R155, R156). Those of
an event with more than 256 fill several batches, the increments in the first. -/
def State.countRecs (s : State) (l p : Nat) (recs : List (Nat × Nat × Int)) : State :=
  let pa := s.parish l p
  let rs : List Rec := (recs.filter fun r => !isClosed r.2.1).map fun r => { parish := pa.hpar, yard := r.1, stamp := r.2.1, delta := r.2.2 }
  let ordered := (rs.filter fun r => decide (0 < r.delta)) ++ rs.filter fun r => decide (r.delta ≤ 0)
  (cutRecs (rs.length + 1) (if 256 < rs.length then ordered else rs)).foldl (fun s c => s.addRecs l pa.home (pa.authTo pa.home) c) s

/-- Count changes at one stamp. -/
def State.countAt (s : State) (l p yard stamp : Nat) (d : Int) : State := s.countRecs l p [(yard, stamp, d)]

/-- The creation check (R144): some path from one of the yards carries its stamp to at most `t`. -/
def Parish.mayCreate (p : Parish) (xs : List Nat) (s y t : Nat) : Bool :=
  xs.any fun x => match p.path x y with
    | some σ => decide (sumApply σ s ≤ t)
    | none => false

/-- The checks of an instruction that names a yard of a parish (R137, R475). -/
def checkYard (slot l p yard : Nat) : M Unit := do
  let s ← getS
  let pa := s.parish l p
  check pa.enabled slot 0x245
  check (decide (yard ≤ pa.nym1)) slot 0x240

/-- Instructions that create occurrences stall while an entry of the parish waits for room in its home's spill area (R160). -/
def stallIfFull (l p : Nat) : M Unit := do
  let s ← getS
  if (s.parish (s.parish l p).home (s.parish l p).hpar).full then stall (kindWait 7) else pure ()

end Sys2Proof.Machine
end

