-- ==== Sys2Proof/Machine/End.lean ====
section
/-! DEFINITION. How things end: claims (R77, R78), rings (R202), steps killed or discarded (R425, R434), operators and regions killed
(R194), completion records (R215 to R217), machine checks (R438). -/

namespace Sys2Proof.Machine

/-! Claims -/

/-- The claim of a plane (`tile` false) or tile of a core. -/
def Core.claim (x : Core) (tile : Bool) (n : Nat) : Claim :=
  if tile then (x.tiles.getD n {}).claim else (x.planes.getD n {}).claim
def Core.setClaim (x : Core) (tile : Bool) (n : Nat) (f : Claim → Claim) : Core :=
  if tile then { x with tiles := x.tiles.modify n fun t => { t with claim := f t.claim } }
  else { x with planes := x.planes.modify n fun p => { p with claim := f p.claim } }

/-- A claim that no context holds; its waiters stay (R77, R78). -/
def Claim.drop (c : Claim) : Claim := { c with st := .free, owner := 0, readers := 0, faulted := 0, again := 0 }

/-- The object is free for the next claimant (R77): the holder itself, when a later rclaim of its has passed the access stream (R352). -/
def Claim.freed (c : Claim) : Claim := if c.again = 0 then c.drop else { c with st := .reserved, readers := 0, faulted := 0 }

/-- A release by the holder (R77): Free, or Draining while readers are not yet past translation; Held-faulted at once when one of them has
faulted already (log entry 99). -/
def Claim.released (c : Claim) : Claim :=
  if c.readers = 0 then c.freed else { c with st := if c.faulted = 0 then .draining else .faulted }

/-- A reader passes translation, or is cancelled (R77). -/
def Claim.readerDone (c : Claim) (wasFaulted : Bool) : Claim :=
  let c := { c with readers := c.readers - 1, faulted := if wasFaulted then c.faulted - 1 else c.faulted }
  match c.st with
  | .draining | .faulted => if c.readers = 0 then c.freed else { c with st := if c.faulted = 0 then .draining else .faulted }
  | _ => c

/-- A reader faults in translation (R77). -/
def Claim.readerFaults (c : Claim) : Claim :=
  { c with faulted := c.faulted + 1, st := (match c.st with | .draining => .faulted | st => st) }

/-- The contents of an object become undefined (R77): `draw` names its free contents. -/
def Core.undefine (x : Core) (tile : Bool) (n draw : Nat) : Core :=
  if tile then { x with tiles := x.tiles.modify n fun t => { t with undef := draw, zero := false, rows := [], exp := none, poison := [] } }
  else { x with planes := x.planes.modify n fun p => { p with undef := draw, courses := [], exp := none, poison := [] } }

/-- Every object of a core, as (tile, number). -/
def allObjects : List (Bool × Nat) := (List.range 4).map (fun n => (false, n)) ++ (List.range 4).map fun n => (true, n)

/-- Frees every object a step holds or has drained into, and drops its place among waiters (R77, R78, R425). -/
def Core.dropClaims (x : Core) (sid : Nat) : Core :=
  allObjects.foldl (fun x o =>
    x.setClaim o.1 o.2 fun c =>
      let c := { c with waiting := c.waiting.filter (· != sid) }
      if c.st != .free && c.owner == sid then c.drop else c) x

/-- An rclaim that the access stream has passed will not execute (R420): its reservation goes. -/
def Claim.unreserve (c : Claim) : Claim :=
  if c.st = .reserved ∧ c.again ≤ 1 then c.drop else { c with again := c.again - 1 }

/-! Rings -/

/-- An empty ring of a configuration (R60, R202). -/
def Ring.reset (r : Ring) : Ring := { cfg := r.cfg }

/-- The −1 records of the token tags in some hods (R62, R143): a landed token counts at the operator yard, another at its port. -/
def tagRecs (r : Ring) (hods : List Nat) : List (Nat × Nat × Int) :=
  hods.filterMap fun h => (mget r.tags h).map fun t => ((if t.landed then t.yard else t.port), t.stamp.toNat, (-1 : Int))

/-- The ordinal of a stamp in an operator's nest (R201); a stamp outside the nest has one too (R202). -/
def Op.ord (o : Op) (t : Nat) : Int :=
  let at_ (j : Nat) : Int := (comp t j : Int) - o.lbase j
  (at_ 0 * o.lcnt 1 + at_ 1) * (o.lcnt 2 * o.lcnt 3) + at_ 2 * o.lcnt 3 + at_ 3

/-- The slot of a stamp's rings on its core (R202). -/
def Op.slotOf (o : Op) (t : Nat) : Nat := if o.pmode = 2 then 0 else (o.ord t % o.slots).toNat

/-- The port rings that a step of an operator reads: its slot rings, or the resident rings (R202). -/
def Core.stepPorts (x : Core) (o : Op) (opid t : Nat) : List PortRing :=
  x.ports.filter fun p => p.opid == opid && p.slot == o.slotOf t

/-- Resets the port rings of a step; answers the −1 records of the tags they held (R202). -/
def Core.resetPorts (x : Core) (ps : List PortRing) : Core × List (Nat × Nat × Int) :=
  ps.foldl (fun a p =>
    let r := mgetD a.1.rings p.ring {}
    ({ a.1 with rings := mput a.1.rings p.ring r.reset }, a.2 ++ tagRecs r (List.range (ringCount r.cfg)))) (x, [])

/-! Steps killed or discarded -/

/-- A BIE changes its state (R47): STATE, OWNER and the part's own count in EPOCH are written over what stands there (R45). -/
def State.putBie (s : State) (l i st owner : Nat) : State :=
  let a := (s.ld l).bieAddr i
  (s.pokeLd l (a + 20) (natLe 4 ((s.ld l).epoch i) ++ [BitVec.ofNat 8 st])).pokeLd l (a + 27) [BitVec.ofNat 8 owner]

/-- Returns an open BIE to state 1 without an exchange; its shadow's contents are undefined (R47). -/
def State.closeBie (s : State) (l i : Nat) : State :=
  let r := (s.ld l).bie i
  let s := s.putBie l i 1 (bits r 216 8)
  { s with draw := s.draw + 1 }.updLd l fun x => { x with hbm := x.hbm.undefine (512 * bieShadow r) (512 * biePages r) s.draw }

/-- A step's allocation is to be freed on every core where it stands, and its own ring controls with it, once nothing writes there any more
(R67, R408, R425). -/
def State.leaveAlloc (s : State) (l k : Nat) (x : Ctx) : State :=
  let y := s.core l k
  let own := (x.regs.rh.filterMap id).filter fun r => !(y.ports.any fun p => p.ring == r)
  let s := s.updCore l k fun y =>
    { y with allocs := if own.isEmpty then y.allocs else y.allocs ++ [{ off := 0, len := 0, sid := x.sid, opid := x.sys.opid, rings := own }] }
  s.updLd l fun z =>
    { z with cores := z.cores.map fun (e : Nat × Core) => (e.1, { e.2 with allocs := e.2.allocs.map fun a => if a.sid = x.sid then { a with freeing := true } else a }) }

/-- Everything a step holds but its counts and its context goes (R425, R434): commands, claims, open BIEs, allocation. -/
def State.dropStep (s : State) (l k : Nat) (x : Ctx) : State :=
  let s := x.openBies.foldl (fun s b => s.closeBie l b.1) s
  let s := s.updLd l fun z => { z with cores := z.cores.map fun (e : Nat × Core) => (e.1, e.2.dropClaims x.sid) }
  (s.leaveAlloc l k x).updCore l k fun y =>
    { y with
      queue := y.queue.filter fun c => c.sid != x.sid
      active := match y.active with
        | some c => if (y.ctx c).sid == x.sid && (y.ctx c).live then none else some c
        | none => none }

/-- Empties a step's place. -/
def State.vacate (s : State) (l : Nat) (p : Place) : State :=
  match p with
  | .at_ k c => s.updCtx l k c fun _ => {}
  | .slot n => s.updLd l fun x => { x with saved := mdel x.saved n }

/-- The engine commands of a step, in its core's queue or saved with its context. -/
def State.cmdsOf (s : State) (l k sid : Nat) : List Cmd :=
  ((s.core l k).queue ++ (s.ld l).saved.flatMap fun v => v.2.cmds).filter fun c => c.sid == sid

/-- The −1 of each stamped copy of a step that is cancelled, in a later batch (R146, R387). -/
def State.cancelCopies (s : State) (l k sid : Nat) : State :=
  (s.cmdsOf l k sid).foldl (fun s c =>
    match c.stamped with
    | some (p, y, t) => s.countAt l p y t (-1)
    | none => s) s

/-- A new stamp that an mts has sent on its way is taken before the step ends: its batch has gone (R203). -/
def Ctx.landStamp (x : Ctx) : Ctx :=
  x.st.flight.foldl (fun x f => match f.dest, f.pay with
    | .sysreg 2, .scalar v => { x with sys.stamp := v }
    | _, _ => x) x

/-- A step is killed (R425): one batch settles its counts (R146), then its copies' counts follow. -/
def State.killStep (s : State) (l : Nat) (p : Place) (k : Nat) (x : Ctx) : State :=
  let x := x.landStamp
  let o := s.opOf l x.sys.opid
  let (core, tags) := (s.core l k).resetPorts ((s.core l k).stepPorts o x.sys.opid x.sys.stamp.toNat)
  let s := s.updCore l k fun _ => core
  let s := if x.priv then s else
    s.countRecs l o.parish ((o.outYards.map fun y => (y, x.sys.stamp.toNat, (-1 : Int))) ++ (x.caps.map fun c => (c.1, c.2, (-1 : Int))) ++
      (x.kept.map fun t => (t.dyard, t.stamp.toNat, (-1 : Int))) ++ tags)
  let s := s.cancelCopies l k x.sid
  let s := s.dropStep l k x
  let s := s.updOp l x.sys.opid fun o => { o with running := o.running - 1 }
  s.vacate l p

/-- The tokens of a step that have been sent and not accepted. -/
def State.sentTokens (s : State) (l sid : Nat) : List Token :=
  s.lds.flatMap fun e => (e.2.tokIn ++ e.2.tokWait).filter fun t => t.src == l && t.sid == sid

/-- A restartable step is discarded (R434): its counts pass to the re-run, its kept tokens and claims go, and so do tokens that it has sent at
its retirement and that nobody has accepted (log entry 102). Without `rerun` the re-run waits for a Resume. -/
def State.discardStep (s : State) (l : Nat) (p : Place) (k : Nat) (x : Ctx) (rerun : Bool) : State :=
  let x := x.landStamp
  let o := s.opOf l x.sys.opid
  let s := s.countRecs l o.parish ((x.kept ++ s.sentTokens l x.sid).map fun t => (t.dyard, t.stamp.toNat, (-1 : Int)))
  let mine (t : Token) : Bool := t.src == l && t.sid == x.sid
  let s := { s with lds := s.lds.map fun (e : Nat × Ld) =>
    (e.1, { e.2 with tokIn := e.2.tokIn.filter fun t => !mine t, tokWait := e.2.tokWait.filter fun t => !mine t }) }
  let s := s.cancelCopies l k x.sid
  let s := s.dropStep l k x
  let s := s.updOp l x.sys.opid fun o =>
    { o with
      running := o.running - 1
      reruns := if rerun then o.reruns ++ [(x.sys.stamp.toNat, k)] else o.reruns
      parked := if rerun then o.parked else o.parked ++ [(x.sys.stamp.toNat, k)] }
  s.vacate l p

/-! Completion -/

/-- STATUS of a refusal (R216). -/
def refusalStatus (cause : Nat) : Nat := if cause = 0x2C7 then 4 else if cause = 0x2C4 ∨ cause = 0x2C9 then 6 else 5

/-- The completion records at the head of a die's list are written and published, and their vectors signalled (R216, R217); one that cannot
be written is noted with UNIT 9 (R189), one that a commit holds waits with those behind it (R114). -/
def State.writeCrecs (s : State) (l : Nat) : List (Launch × Nat) → State
  | [] => s.updLd l fun x => { x with crecs := [] }
  | (n, r) :: rest =>
    let done (s : State) : State := if n.msie then s.msix l n.msix else s
    if n.crec = 0 then State.writeCrecs (done s) l rest
    else
      match s.translateNow l 48 0 0 2 n.crec 64 with
      | .ok p => State.writeCrecs (done ((s.afterXl l 48 0 n.crec).pokeAt p ((natLe 64 r).map fun b => (b, false)))) l rest
      | .fault c => State.writeCrecs (done (s.errLog l 2 9 c n.crec true)) l rest
      | .lost c =>
        if c = heldCode then s.updLd l fun x => { x with crecs := (n, r) :: rest } else State.writeCrecs (done (s.errLog l 2 9 c n.crec true)) l rest

/-- The completion record, when CREC is not 0, then the vector, when MSIE is 1 (R216, R217). -/
def State.complete (s : State) (l : Nat) (n : Launch) (status cause start steps faults : Nat) : State :=
  let r := put s.ns 448 64 ||| put start 384 64 ||| put n.tag 352 32 ||| put (min faults (2 ^ 32 - 1)) 320 32 ||| put steps 288 32 ||| put cause 278 10 ||| put status 0 8
  s.writeCrecs l ((s.ld l).crecs ++ [(n, r)])

/-- An operator that has ended keeps no port area: the areas' rings serve no token any more, and the bytes are freed once nothing
writes into them (R193, R202). -/
def State.dropAreas (s : State) (l opid : Nat) : State :=
  s.updLd l fun x =>
    { x with cores := x.cores.map fun e =>
      (e.1, { e.2 with
        ports := e.2.ports.filter fun p => p.opid != opid
        allocs := e.2.allocs.map fun a => if a.sid = 0 ∧ a.opid = opid then { a with freeing := true } else a }) }

/-- An operator's completion: complete, with faults, or killed (R215, R216). -/
def State.completeOp (s : State) (l opid : Nat) : State :=
  let o := s.opOf l opid
  if o.complete then s
  else
    let s := (s.updOp l opid fun o => { o with complete := true }).dropAreas l opid
    let st := if o.killed then 3 else if o.faults = 0 then 1 else 2
    s.complete l o.launch st o.cause (o.start.getD s.ns) o.steps o.faults

/-- The parent of a region (R191). -/
def Region.parent (r : Region) : Nat := bits r.rcb.toNat 0 64

/-- Whether region `a` is `r` or below it; the tree is at most 8 deep (R193), and a PARENT of 0 makes a top region (R191). -/
def Ld.under (x : Ld) (r : Nat) : Nat → Nat → Bool
  | 0, a => a == r
  | n + 1, a =>
    let up := (mgetD x.regions a {}).parent
    a == r || (up != 0 && Ld.under x r n up)

/-- Regions that are closed or killed and hold nothing incomplete are complete (R215). -/
def State.completeRegions (s : State) (l : Nat) : State :=
  (List.range 8).foldl (fun s _ =>
    (s.ld l).regions.foldl (fun s r =>
      let x := s.ld l
      if r.2.complete || !(r.2.closed || r.2.killed) then s
      else if (x.ops.any fun o => o.2.region == r.1 && !o.2.complete) || (x.regions.any fun q => r.1 != 0 && q.2.parent == r.1 && q.1 != r.1 && !q.2.complete) then s
      else
        let s := s.updRegion l r.1 fun q => { q with complete := true, reserved := 0 }
        s.complete l r.2.launch (if r.2.killed then 3 else if r.2.faults = 0 then 1 else 2) r.2.cause (r.2.start.getD s.ns) r.2.steps r.2.faults) s) s

/-- The rings that wait for a discarded step's re-run are reset, with the −1 of their tags and of the step itself (R146, R202). -/
def State.killRerun (s : State) (l opid : Nat) (o : Op) (r : Nat × Nat) : State :=
  let (core, tags) := (s.core l r.2).resetPorts ((s.core l r.2).stepPorts o opid r.1)
  (s.updCore l r.2 fun _ => core).countRecs l o.parish ((o.outYards.map fun y => (y, r.1, (-1 : Int))) ++ tags)

/-- The port rings that are left on the cores of a killed operator, bound to steps that have not been released, are reset as those of killed
steps are, with the −1 of their tags (R146, R202, log entry 120). -/
def State.killAreas (s : State) (l opid : Nat) (o : Op) : State :=
  (s.ld l).cores.foldl (fun s e =>
    match (s.core l e.1).ports.filter fun p => p.opid == opid with
    | [] => s
    | ps =>
      let (core, tags) := (s.core l e.1).resetPorts ps
      (s.updCore l e.1 fun _ => core).countRecs l o.parish tags) s

/-- Every step of an operator is killed, its frontier goes, its waiting tokens are refused (R194, R425). -/
def State.killOp (s : State) (l opid : Nat) : State :=
  let o := s.opOf l opid
  if o.killed || o.complete && o.running == 0 then s
  else
    let s := match o.next with
      | some t => s.countAt l o.parish o.yard t (-1)
      | none => s
    let s := s.updOp l opid fun o => { o with killed := true, next := none, resident := [], reruns := [], parked := [], resumed := [] }
    let s := (((s.ld l).steps.filter fun p => p.2.2.sys.opid == opid && !p.2.2.priv)).foldl (fun s p => s.killStep l p.1 p.2.1 p.2.2) s
    let s := ((o.reruns ++ o.parked).foldl (fun s r => s.killRerun l opid o r) s).killAreas l opid o
    let gone := ((s.ld l).tokWait ++ (s.ld l).tokIn).filter fun t => t.opid == opid
    let s := s.updLd l fun x => { x with tokWait := x.tokWait.filter (fun t => t.opid != opid), tokIn := x.tokIn.filter fun t => t.opid != opid }
    let s := gone.foldl State.refuseToken s
    s.completeOp l opid

/-- A region and its descendants are killed (R189, R194). -/
def State.killRegionAll (s : State) (l r : Nat) : State :=
  let x := s.ld l
  let gone := (x.regions.filter fun q => x.under r 8 q.1).map (·.1)
  let s := gone.foldl (fun s q => s.updRegion l q fun g => { g with killed := true, closed := true }) s
  let s := (x.ops.filter fun o => gone.contains o.2.region).foldl (fun s o => s.killOp l o.1) s
  s.completeRegions l

/-! Faults of a step -/

/-- A page fault: class 5, reason 0 to 3 (R422). -/
def isPageFault (cause : Nat) : Bool := cause / 64 == 5 && decide (cause % 8 ≤ 3)

/-- What happens to a step whose fault no handler takes (R194, R422): 0 pause, 1 kill the operator, 2 kill the region. -/
def Ctx.policy (x : Ctx) (cause : Nat) : Nat := if isPageFault cause then 0 else bits x.eff.toNat 232 2

/-- A fault record counts for the step's operator and for its region (R216). -/
def State.countFault (s : State) (l opid cause : Nat) : State :=
  (s.updOp l opid fun o => { o with faults := o.faults + 1, cause := if o.cause = 0 then cause else o.cause }).updRegion l (s.opOf l opid).region
    fun r => { r with faults := r.faults + 1, cause := if r.cause = 0 then cause else r.cause }

/-- A step's fault record is to be written, and the step stands paused until it is (R424, R426); `act` is what the policy says, done once
the record is written (R194). `t` is kept for the resume. -/
def State.faultStep (s : State) (l : Nat) (p : Place) (k : Nat) (x : Ctx) (kind cause act hi : Nat) (href : Bool) (trapb : Nat) (t : TrapInfo) : State :=
  let o := s.opOf l x.sys.opid
  let rst := o.restart && act == 0
  let head : RecordHead := {
    stamp := x.sys.stamp.toNat, trapb := trapb, slip := x.st.run.length, opid := x.sys.opid, core := k,
    ctx := p.ctxNo, kind := kind, act := act, href := href, rst := rst, ndisc := t.ndisc, cause := cause }
  let s := s.queueRecord l (x.sid + 1) (faultRecord s.ns (dieOf l) head hi)
  let s := if kind ≤ 3 then s.countFault l x.sys.opid cause else s
  s.updStep l x.sid fun x => { x with paused := some t }

/-- A record of a step has been written: the step's operator or region is killed, the step is discarded, or it stays paused (R194, R424,
R434). -/
def State.afterRecord (s : State) (l sid : Nat) (r : BitVec 512) : State :=
  match (s.ld l).findStep sid with
  | none => s
  | some (p, k, x) =>
    match bits r.toNat 30 2 with
    | 1 => (s.killOp l x.sys.opid).completeRegions l
    | 2 => s.killRegionAll l (s.opOf l x.sys.opid).region
    | _ => if bit r.toNat 28 then s.discardStep l p k x false else s

/-! Machine checks -/

/-- A machine check stops the whole LD (R438, R440). `record` is false for a function-level reset, which writes none (R444). -/
def State.machineStop (s : State) (l unit : Nat) (record : Bool) : State :=
  let s := ((s.ld l).steps).foldl (fun s p => s.killStep l p.1 p.2.1 p.2.2) s
  let s := s.updLd l fun x =>
    { x with
      out := true
      viral := true
      wqEn := []
      wqWork := []
      ops := x.ops.map fun o => (o.1, { o.2 with killed := true, next := none, resident := [], reruns := [], parked := [], resumed := [] })
      parishes := x.parishes.map fun p => (p.1, { p.2 with stopped := true }) }
  if record then s.notice l 7 3 unit (15 * 64 + unit) 0 else s

end Sys2Proof.Machine
end

