-- ==== Sys2Proof/Machine/Flags.lean ====
section
/-! DEFINITION. The sticky flags of VFLAGS (R233) and RFLAGS (R332). -/

namespace Sys2Proof.Machine

/-- VFLAGS bits as a number, so that flags of many elements are ORed (R233). -/
def fNone : Nat := 0
def fNV : Nat := 1
def fOF : Nat := 2
def fSAT : Nat := 4
def fNZ : Nat := 8
def fNX : Nat := 16
def fQR : Nat := 32
def fQS : Nat := 64

/-- The flag when the condition holds. -/
def flagIf (b : Bool) (f : Nat) : Nat := if b then f else 0

/-- RFLAGS bits (R332). -/
def rSAT : BitVec 4 := 1#4
def rACCOVF : BitVec 4 := 2#4
def rMRG : BitVec 4 := 4#4
def rRR : BitVec 4 := 8#4

/-- Ors flags into a context's VFLAGS (R233, R304). -/
def Ctx.orV (x : Ctx) (f : BitVec 7) : Ctx := { x with sys.vflags := x.sys.vflags ||| f }
/-- Ors flags into a context's RFLAGS (R332). -/
def Ctx.orR (x : Ctx) (f : BitVec 4) : Ctx := { x with sys.rflags := x.sys.rflags ||| f }

end Sys2Proof.Machine
end

