-- ==== Sys2Proof/Machine/Num.lean ====
section
/-! DEFINITION. Number formats and arithmetic (R219 to R239): exact values, rounding, conversion, quantisation, the tables of the
transcendentals. -/

namespace Sys2Proof.Machine

/-- An exact value: NaN (signalling or not), an infinity, or ± m × 2^e; m = 0 keeps the sign of zero. -/
inductive FV where
  | nan (signalling : Bool)
  | inf (neg : Bool)
  | fin (neg : Bool) (m : Nat) (e : Int)
  deriving DecidableEq, Repr

/-- A result: its code in the destination format and the VFLAGS it raises. -/
structure Out where
  code : Nat
  fl   : Nat := 0
  deriving DecidableEq, Repr

/-- Exponent bits, mantissa bits and bias of a floating-point format code (R220). -/
def fpDims (f : Nat) : Nat × Nat × Nat :=
  match f with
  | 0 => (8, 23, 127)
  | 1 => (8, 7, 127)
  | 2 => (5, 10, 15)
  | 3 => (4, 3, 7)
  | 4 => (5, 2, 15)
  | _ => (2, 1, 1)

/-- Whether a format code is a floating-point format (R219). -/
def isFp (f : Nat) : Bool := decide (f ≤ 4) || f == 11
/-- Whether a format code is a signed, or an unsigned, integer format (R219). -/
def isInt (f : Nat) : Bool := decide (5 ≤ f) && decide (f ≤ 10)
def isSigned (f : Nat) : Bool := decide (5 ≤ f) && decide (f ≤ 7)
/-- Element width of a format code (R219). -/
def fw (f : Nat) : Nat :=
  match f with
  | 0 | 5 | 8 | 13 => 32
  | 1 | 2 | 6 | 9 => 16
  | 3 | 4 | 7 | 10 => 8
  | _ => 4

/-- The canonical NaN code (R220). -/
def nanCode (f : Nat) : Nat :=
  match f with
  | 0 => 0x7FC00000
  | 1 => 0x7FC0
  | 2 => 0x7E00
  | 3 => 0x7F
  | 4 => 0x7E
  | _ => 0
/-- The code of the largest finite value (R220). -/
def maxCode (f : Nat) : Nat :=
  match f with
  | 0 => 0x7F7FFFFF
  | 1 => 0x7F7F
  | 2 => 0x7BFF
  | 3 => 0x7E
  | 4 => 0x7B
  | _ => 7
/-- The code of +∞ in a format that has one (R220). -/
def infCode (f : Nat) : Nat :=
  match f with
  | 0 => 0x7F800000
  | 1 => 0x7F80
  | 2 => 0x7C00
  | _ => 0x7C
/-- The sign bit of a format. -/
def signBit (f : Nat) (neg : Bool) : Nat := if neg then 2 ^ (fw f - 1) else 0

/-- The value of a floating-point code (R220 to R223). -/
def fpValue (f code : Nat) : FV :=
  let (eb, mb, bias) := fpDims f
  let neg := bit code (eb + mb)
  let ex := bits code mb eb
  let m := bits code 0 mb
  let special := match f with
    | 0 | 1 | 2 | 4 => ex == 2 ^ eb - 1
    | 3 => ex == 15 && m == 7
    | _ => false
  if special then
    if m = 0 then .inf neg else .nan (decide (f ≤ 2) && !bit m (mb - 1))
  else if ex = 0 then .fin neg m (1 - (bias : Int) - mb)
  else .fin neg (2 ^ mb + m) ((ex : Int) - bias - mb)

/-- A power of two or its reciprocal applied to an exact value. -/
def FV.scale (v : FV) (k : Int) : FV :=
  match v with
  | .fin n m e => .fin n m (e + k)
  | x => x

/-- An integer as an exact value. -/
def ofInt (x : Int) : FV := .fin (decide (x < 0)) x.natAbs 0

/-- Signed integer value of n × 2^e scaled to exponent `q ≤ e`. -/
def atExp (n : Bool) (m : Nat) (e q : Int) : Int := (if n then -1 else 1) * ((m <<< (e - q).toNat : Nat) : Int)

/-- Exact sum; `rdn` decides the sign of an exact zero sum of unlike operands (IEEE 754, R223). -/
def FV.add (a b : FV) (rdn : Bool) : FV :=
  match a, b with
  | .nan x, .nan y => .nan (x || y)
  | .nan x, _ => .nan x
  | _, .nan y => .nan y
  | .inf x, .inf y => if x = y then .inf x else .nan true
  | .inf x, _ => .inf x
  | _, .inf y => .inf y
  | .fin na ma ea, .fin nb mb eb =>
    if ma = 0 ∧ mb = 0 then .fin (if na = nb then na else rdn) 0 0
    else if ma = 0 then .fin nb mb eb
    else if mb = 0 then .fin na ma ea
    else
      let q := min ea eb
      let s := atExp na ma ea q + atExp nb mb eb q
      if s = 0 then .fin rdn 0 0 else .fin (decide (s < 0)) s.natAbs q

/-- Exact product; 0 × ∞ is invalid (R231). -/
def FV.mul (a b : FV) : FV :=
  match a, b with
  | .nan x, .nan y => .nan (x || y)
  | .nan x, _ => .nan x
  | _, .nan y => .nan y
  | .inf x, .inf y => .inf (x != y)
  | .inf x, .fin n m _ => if m = 0 then .nan true else .inf (x != n)
  | .fin n m _, .inf y => if m = 0 then .nan true else .inf (n != y)
  | .fin na ma ea, .fin nb mb eb => .fin (na != nb) (ma * mb) (ea + eb)

def FV.neg (a : FV) : FV :=
  match a with
  | .nan s => .nan s
  | .inf n => .inf (!n)
  | .fin n m e => .fin (!n) m e

def FV.abs (a : FV) : FV :=
  match a with
  | .nan s => .nan s
  | .inf _ => .inf false
  | .fin _ m e => .fin false m e

def FV.isNan (a : FV) : Bool := match a with | .nan _ => true | _ => false
def FV.isSnan (a : FV) : Bool := match a with | .nan s => s | _ => false
def FV.isInf (a : FV) : Bool := match a with | .inf _ => true | _ => false
def FV.isZero (a : FV) : Bool := match a with | .fin _ m _ => m == 0 | _ => false

/-- The order of two values that are not NaN, −0 equal to +0 (IEEE 754). -/
def FV.lt (a b : FV) : Bool :=
  match a, b with
  | .inf x, .inf y => x && !y
  | .inf x, .fin _ _ _ => x
  | .fin _ _ _, .inf y => !y
  | .fin na ma ea, .fin nb mb eb =>
    let q := min ea eb
    decide (atExp na ma ea q < atExp nb mb eb q)
  | _, _ => false
def FV.eqv (a b : FV) : Bool := !a.isNan && !b.isNan && !a.lt b && !b.lt a

/-- m / 2^r rounded by a mode, 0 RNE, 1 RTZ, 2 RDN, 3 RUP (R229), and whether that was inexact. -/
def roundShift (mode : Nat) (neg : Bool) (m r : Nat) : Nat × Bool :=
  let q := m >>> r
  let rem := m % 2 ^ r
  let half := 2 ^ r / 2
  let up := match mode with
    | 0 => decide (half < rem) || (decide (rem = half) && q % 2 == 1)
    | 1 => false
    | 2 => neg
    | _ => !neg
  if rem = 0 then (q, false) else (if up then q + 1 else q, true)

/-- An exact value rounded to an integer by a mode; huge or tiny magnitudes are cut to what rounds alike below 2^200. -/
def roundInt (mode : Nat) (neg : Bool) (m : Nat) (e : Int) : Int × Bool :=
  let (q, ix) :=
    if 0 ≤ e then (m <<< (min e 400).toNat, false)
    else if (Nat.log2 m : Int) + 2 < -e then roundShift mode neg (min m 1) 2
    else roundShift mode neg m (-e).toNat
  (if neg then -(q : Int) else q, ix)

/-- A positive exact magnitude rounded to a floating-point format: the code without sign, which passes the largest finite code on
overflow, and whether it was inexact. -/
def roundFp (f mode : Nat) (neg : Bool) (m : Nat) (e : Int) : Nat × Bool :=
  let (_, mb, bias) := fpDims f
  let lg : Int := (Nat.log2 m : Int) + e
  let emin : Int := 1 - (bias : Int)
  if 2 * (bias : Int) + 4 < lg then (2 ^ fw f, true)
  else if lg < emin - mb - 2 then roundShift mode neg 1 2
  else
    let top := max lg emin
    let q := top - mb
    let (n, ix) := if q ≤ e then (m <<< (e - q).toNat, false) else roundShift mode neg m (q - e).toNat
    (n + (top - emin).toNat * 2 ^ mb, ix)

/-- The result of floating-point arithmetic in a format, rounded once (R222, R223, R231). `nv` says that the operation is invalid or
has a signalling operand. -/
def fpArith (f mode : Nat) (nv : Bool) (v : FV) : Out :=
  match v with
  | .nan s => { code := nanCode f, fl := flagIf (nv || s) fNV }
  | .inf n => { code := signBit f n + infCode f, fl := flagIf nv fNV }
  | .fin n m e =>
    if m = 0 then { code := signBit f n, fl := flagIf nv fNV }
    else
      let (c, ix) := roundFp f mode n m e
      if maxCode f < c then
        let toMax := match mode with
          | 1 => true
          | 2 => !n
          | 3 => n
          | _ => false
        { code := signBit f n + (if toMax then maxCode f else infCode f), fl := fOF + fNX }
      else { code := signBit f n + c, fl := flagIf ix fNX }

/-- Clamps an integer to a format's range, with SAT when it changes (R232). -/
def satInt (f : Nat) (x : Int) : Out :=
  let w := fw f
  let lo : Int := if isSigned f then -(2 ^ (w - 1) : Nat) else 0
  let hi : Int := if isSigned f then (2 ^ (w - 1) : Nat) - 1 else (2 ^ w : Nat) - 1
  if x < lo then { code := wrap w lo, fl := fSAT } else if hi < x then { code := wrap w hi, fl := fSAT } else { code := wrap w x }

/-- A narrowing conversion of an exact value (R232); E2M1 codes of zero are written 0 (R223). -/
def narrow (f mode : Nat) (v : FV) : Out :=
  if isFp f then
    match v with
    | .nan _ => if f = 11 then { code := 0, fl := fNZ } else { code := nanCode f }
    | .inf n => { code := signBit f n + maxCode f, fl := fSAT }
    | .fin n m e =>
      if m = 0 then { code := if f = 11 then 0 else signBit f n }
      else
        let (c, ix) := roundFp f mode n m e
        if maxCode f < c then { code := signBit f n + maxCode f, fl := fSAT }
        else if f = 11 ∧ c = 0 then { code := 0, fl := flagIf ix fNX }
        else { code := signBit f n + c, fl := flagIf ix fNX }
  else
    match v with
    | .nan _ => { code := 0, fl := fNZ }
    | .inf n => { code := (satInt f (if n then -(2 ^ 200) else 2 ^ 200)).code, fl := fSAT }
    | .fin n m e =>
      let (x, ix) := roundInt mode n m e
      let r := satInt f x
      { r with fl := if r.fl = 0 then flagIf ix fNX else r.fl }

/-- Whether a conversion widens (R232). DEDUCED (log entry 128): one from FP32, BF16 or FP16 to the same format does, by the definition of the
rule, though its list of widening conversions does not name it. -/
def widens (s d : Nat) : Bool :=
  (s == d && !(s == 3 || s == 4 || s == 11)) || (d == 0 && (s == 1 || s == 2)) ||
  (isInt s && isInt d && decide (fw s < fw d) && (isSigned s == isSigned d || !isSigned s))

/-- A conversion of a value from format `s` to `d` (R222, R232). A signalling NaN raises NV. -/
def convert (s d mode : Nat) (v : FV) : Out :=
  let nv := flagIf v.isSnan fNV
  if widens s d && isFp d then
    match v with
    | .nan _ => { code := nanCode d, fl := nv }
    | .inf n => { code := signBit d n + infCode d }
    | .fin n m e => if m = 0 then { code := signBit d n } else { code := signBit d n + (roundFp d 0 n m e).1 }
  else
    let r := narrow d mode v
    { r with fl := r.fl ||| nv }

/-- The value of an element's code without block information: floating point, integer or BFP16 mantissa (R219, R224). -/
def codeValue (f code : Nat) : FV :=
  if isFp f then fpValue f code
  else if f = 13 then ofInt (sext code 16)
  else if isSigned f then ofInt (sext code (fw f)) else ofInt (code % 2 ^ fw f)

/-- The elements of width `w` of 2,048 bits (R226). -/
def elems (w v : Nat) : List Nat := (List.range (2048 / w)).map fun e => bits v (w * e) w
/-- Packs elements of width `w` from bit 0 upwards. -/
def packNat (w : Nat) : List Nat → Nat
  | [] => 0
  | x :: r => x % 2 ^ w + 2 ^ w * packNat w r

/-- The scale exponent of an E8M0 code (R221). -/
def e8 (s : Nat) : Int := (s : Int) - 127

/-- The exact values of a vector's elements in a format, with block scales, specials and exponents (R226 to R228). -/
def values (f data side : Nat) : List FV :=
  if f = 13 then
    (List.range 64).map fun k => (ofInt (sext (bits data (32 * k) 16) 16)).scale (sext (bits side (16 * (k / 32)) 16) 16)
  else if f = 3 ∨ f = 4 ∨ f = 11 then
    ((elems (fw f) data).zipIdx).map fun (c, e) =>
      let s := bits side (8 * (e / 32)) 8
      if s = 255 then .nan false else (fpValue f c).scale (e8 s)
  else if f = 12 then
    ((elems 4 data).zipIdx).map fun (c, e) =>
      let s := bits side (8 * (e / 32)) 8
      if s = 255 then .nan false
      else if c = 8 then (fpValue 3 (bits side (128 + 8 * (e / 32)) 8)).scale (e8 s)
      else (fpValue 11 c).scale (e8 s)
  else (elems (fw f) data).map (codeValue f)

/-- floor(log2) of a positive exact magnitude. -/
def lg2 (m : Nat) (e : Int) : Int := (Nat.log2 m : Int) + e

/-- The value of largest magnitude among the finite ones, as (m, e); none when all are zero. -/
def largest (vs : List FV) : Option (Nat × Int) :=
  vs.foldl (fun acc v =>
    match v with
    | .fin _ m e =>
      if m = 0 then acc
      else match acc with
        | none => some (m, e)
        | some (m', e') => if (FV.fin false m' e').lt (.fin false m e) then some (m, e) else acc
    | _ => acc) none

/-- The sixteen-bit mantissas and exponent of a BFP16 half from its exact values (R235), the exponent clamped to I16 with SAT (R306). -/
def bfpHalf (vs : List FV) : List Nat × Nat × Nat :=
  if vs.any FV.isNan then (vs.map fun _ => 0, 0, fNZ)
  else
    let infs := flagIf (vs.any FV.isInf) fSAT
    match largest vs with
    | none => (vs.map fun v => match v with | .inf n => wrap 16 (if n then -32767 else 32767) | _ => 0, 0, infs)
    | some (m, e) =>
      let mant (ex : Int) : List (Int × Bool) := vs.map fun v =>
        match v with
        | .fin n m e => if m = 0 then (0, false) else roundInt 0 n m (e - ex)
        | .inf n => (if n then -32767 else 32767, false)
        | .nan _ => (0, false)
      let e0 := lg2 m e - 14
      let e1 := if (mant e0).any fun p => decide (32768 ≤ p.1.natAbs) then e0 + 1 else e0
      let ec := max (-32768) (min 32767 e1)
      let clamped := ec != e1
      let ms := (mant ec).map fun p => (max (-32767) (min 32767 p.1), p.2)
      (ms.map fun p => wrap 16 p.1, wrap 16 ec,
       infs ||| flagIf clamped fSAT ||| flagIf (ms.any (·.2)) fNX)

/-- Encodes 64 exact lane values as BFP16 (R235, R306): data, side word, flags. The mantissas of a half with values outside the
exponent range saturate. -/
def bfpEncode (vs : List FV) : Nat × Nat × Nat :=
  let (m0, e0, f0) := bfpHalf (vs.take 32)
  let (m1, e1, f1) := bfpHalf (vs.drop 32)
  (packNat 32 ((m0 ++ m1).map fun m => wrap 32 (sext m 16)), e0 + 2 ^ 16 * e1, f0 ||| f1)

/-- The largest finite magnitude's exponent emax of R235. -/
def emaxOf (f : Nat) : Int := match f with | 3 => 8 | 4 => 15 | _ => 2

/-- Rounds a scaled value to nearest on a format's grid; zero in E2M1 is written 0. -/
def quantCode (f : Nat) (v : FV) : Out :=
  match v with
  | .nan _ => { code := 0 }
  | x => narrow f 0 x

/-- A block quantised into E4M3, E5M2 or E2M1 without a supplied scale (R235): codes, scale, flags. -/
def quantFree (f : Nat) (vs : List FV) : List Nat × Nat × Nat :=
  if vs.any FV.isNan then (vs.map fun _ => 0, 0xFF, fNZ)
  else
    let s : Int := match largest vs with
      | none => 0
      | some (m, e) => max 0 (min 254 (lg2 m e - emaxOf f + 127))
    let os := vs.map fun v => quantCode f (v.scale (127 - s))
    (os.map (·.code), s.toNat, os.foldl (fun a o => a ||| o.fl) 0)

/-- Whether a finite value rounds beyond the format's largest finite at a scale (R236). -/
def quantOver (f s : Nat) (v : FV) : Bool :=
  match v with
  | .fin n m e => m != 0 && decide (maxCode f < (roundFp f 0 n m (e + 127 - s)).1)
  | _ => false

/-- The loop of R236 with `fuel` raises left: scale and flags. -/
def raiseScale (f : Nat) (vs : List FV) : Nat → Nat → Nat → Nat × Nat
  | fuel, s, fl =>
    if vs.any (quantOver f s) then
      match fuel with
      | 0 => (s, fl ||| fQS)
      | fuel' + 1 => if s = 0xFE then (s, fl ||| fQS) else raiseScale f vs fuel' (s + 1) (fl ||| fQR)
    else (s, fl)

/-- A block quantised with a supplied scale (R236). -/
def quantGiven (f s0 : Nat) (vs : List FV) : List Nat × Nat × Nat :=
  if s0 = 0xFF ∨ vs.any FV.isNan then (vs.map fun _ => 0, 0xFF, flagIf (vs.any FV.isNan) fNZ)
  else
    let (s, fl) := raiseScale f vs 2 s0 0
    let os := vs.map fun v => quantCode f (v.scale (127 - s))
    (os.map (·.code), s, os.foldl (fun a o => a ||| o.fl) fl)

/-- A finite element that saturates is inexact too (R234). -/
def inexactSat (o : Out) : Out := if o.fl &&& fSAT = 0 then o else { o with fl := o.fl ||| fNX }

/-- A block quantised into E2M1X (R234): codes, scale, special, flags. -/
def quantX (vs : List FV) : List Nat × Nat × Nat × Nat :=
  let infc (v : FV) : Nat := match v with | .inf true => 15 | _ => 7
  if vs.any FV.isNan then (vs.map fun _ => 0, 0xFF, 0, fNZ)
  else
    match largest vs with
    | none => (vs.map fun v => if v.isInf then infc v else 0, 0, 0, 0)
    | some (m, e) =>
      let s := max 0 (lg2 m e - 2 + 127)
      let big := FV.fin false m e
      let low := (vs.findIdx? fun v => v.abs.eqv big && !v.isInf).getD 0
      let sp := narrow 3 0 ((vs.getD low (.inf false)).scale (127 - s))
      let one (p : FV × Nat) : Out :=
        let v := p.1.scale (127 - s)
        if p.1.isInf then { code := infc p.1, fl := fSAT }
        else if p.2 = low then { code := 8, fl := sp.fl }
        else
          let r := narrow 3 0 v
          if r.code = sp.code then { code := 8, fl := r.fl } else inexactSat (quantCode 11 v)
      let os := (vs.zipIdx).map one
      (os.map (·.code), s.toNat, sp.code, os.foldl (fun a o => a ||| o.fl) 0)

/-- The lesser or greater of two values in a format's order (R238, R307): NaN wins, −0 below +0. -/
def fpPick (wantMax : Bool) (a b : FV) : FV :=
  if a.isNan || b.isNan then .nan (a.isSnan || b.isSnan)
  else
    let aLess := a.lt b || (a.isZero && b.isZero && (match a, b with | .fin na _ _, .fin nb _ _ => na && !nb | _, _ => false))
    if aLess = wantMax then b else a

/-- (T[i] (2^16 − t) + T[i+1] t), an integer 2^40 times the interpolation of R321. -/
def interpN (tab : List Nat) (i t : Nat) : Nat := tab.getD i 0 * (65536 - t) + tab.getD (i + 1) 0 * t

/-- T of vrcp, i = 0 to 128 (R321). -/
def tabRcp : List Nat :=
  [16777216, 16647160, 16519105, 16393005, 16268816, 16146494, 16025997, 15907286, 15790321, 15675063, 15561476, 15449523, 15339169, 15230380, 15123124, 15017368] ++
  [14913081, 14810232, 14708792, 14608732, 14510025, 14412642, 14316558, 14221746, 14128182, 14035841, 13944699, 13854733, 13765921, 13678240, 13591669, 13506186] ++
  [13421773, 13338408, 13256072, 13174746, 13094412, 13015052, 12936648, 12859184, 12782641, 12707004, 12632257, 12558384, 12485370, 12413200, 12341860, 12271335] ++
  [12201612, 12132676, 12064515, 11997115, 11930465, 11864551, 11799361, 11734883, 11671107, 11608020, 11545611, 11483870, 11422785, 11362347, 11302546, 11243370] ++
  [11184811, 11126858, 11069503, 11012737, 10956549, 10900932, 10845877, 10791375, 10737418, 10683998, 10631107, 10578737, 10526881, 10475530, 10424678, 10374317] ++
  [10324441, 10275041, 10226113, 10177648, 10129640, 10082083, 10034970, 9988296, 9942054, 9896238, 9850842, 9805861, 9761289, 9717121, 9673350, 9629972] ++
  [9586981, 9544372, 9502140, 9460280, 9418788, 9377658, 9336885, 9296466, 9256395, 9216668, 9177281, 9138228, 9099507, 9061112, 9023041, 8985287] ++
  [8947849, 8910721, 8873899, 8837381, 8801162, 8765239, 8729608, 8694266, 8659208, 8624432, 8589935, 8555712, 8521761, 8488078, 8454660, 8421505] ++
  [8388608]

/-- U of vrsq (R321). -/
def tabRsqE : List Nat :=
  [16777216, 16712062, 16647660, 16583998, 16521060, 16458834, 16397305, 16336462, 16276290, 16216779, 16157916, 16099689, 16042087, 15985099, 15928714, 15872921] ++
  [15817711, 15763073, 15708997, 15655474, 15602494, 15550048, 15498128, 15446725, 15395829, 15345434, 15295530, 15246109, 15197165, 15148689, 15100674, 15053113] ++
  [15005998, 14959323, 14913081, 14867265, 14821869, 14776886, 14732310, 14688135, 14644355, 14600964, 14557957, 14515327, 14473070, 14431180, 14389651, 14348479] ++
  [14307658, 14267184, 14227051, 14187255, 14147791, 14108654, 14069841, 14031346, 13993165, 13955295, 13917730, 13880467, 13843502, 13806830, 13770448, 13734353] ++
  [13698540, 13663005, 13627746, 13592758, 13558038, 13523583, 13489389, 13455454, 13421773, 13388344, 13355163, 13322228, 13289535, 13257082, 13224866, 13192883] ++
  [13161131, 13129607, 13098309, 13067234, 13036378, 13005740, 12975318, 12945107, 12915107, 12885314, 12855727, 12826342, 12797158, 12768173, 12739383, 12710787] ++
  [12682383, 12654169, 12626142, 12598300, 12570642, 12543165, 12515868, 12488748, 12461803, 12435032, 12408433, 12382004, 12355743, 12329649, 12303719, 12277952] ++
  [12252346, 12226900, 12201612, 12176480, 12151502, 12126678, 12102005, 12077482, 12053108, 12028880, 12004799, 11980861, 11957066, 11933412, 11909897, 11886522] ++
  [11863283]

/-- V of vrsq (R321). -/
def tabRsqO : List Nat :=
  [11863283, 11817212, 11771673, 11726657, 11682154, 11638153, 11594646, 11551623, 11509075, 11466994, 11425372, 11384199, 11343468, 11303172, 11263302, 11223850] ++
  [11184811, 11146176, 11107938, 11070092, 11032629, 10995545, 10958832, 10922484, 10886495, 10850860, 10815573, 10780627, 10746018, 10711741, 10677789, 10644158] ++
  [10610843, 10577839, 10545141, 10512744, 10480644, 10448836, 10417316, 10386080, 10355123, 10324441, 10294030, 10263886, 10234006, 10204385, 10175020, 10145907] ++
  [10117042, 10088422, 10060044, 10031904, 10003999, 9976325, 9948880, 9921660, 9894662, 9867884, 9841321, 9814972, 9788834, 9762903, 9737177, 9711654] ++
  [9686330, 9661203, 9636271, 9611531, 9586981, 9562617, 9538439, 9514442, 9490627, 9466989, 9443526, 9420238, 9397121, 9374173, 9351392, 9328777] ++
  [9306325, 9284034, 9261903, 9239929, 9218111, 9196447, 9174935, 9153573, 9132360, 9111293, 9090372, 9069594, 9048957, 9028461, 9008104, 8987884] ++
  [8967799, 8947849, 8928030, 8908343, 8888786, 8869357, 8850055, 8830878, 8811826, 8792896, 8774087, 8755399, 8736830, 8718378, 8700043, 8681823] ++
  [8663717, 8645724, 8627842, 8610071, 8592410, 8574856, 8557410, 8540070, 8522834, 8505703, 8488674, 8471748, 8454922, 8438196, 8421569, 8405040] ++
  [8388608]

/-- L of vlog2 (R321). -/
def tabLog : List Nat :=
  [0, 188362, 375270, 560745, 744810, 927485, 1108793, 1288752, 1467383, 1644705, 1820738, 1995500, 2169009, 2341283, 2512340, 2682196] ++
  [2850868, 3018374, 3184728, 3349946, 3514044, 3677038, 3838941, 3999768, 4159533, 4318251, 4475935, 4632599, 4788255, 4942916, 5096595, 5249305] ++
  [5401057, 5551864, 5701737, 5850688, 5998727, 6145867, 6292118, 6437490, 6581994, 6725641, 6868440, 7010402, 7151536, 7291852, 7431359, 7570066] ++
  [7707984, 7845119, 7981483, 8117082, 8251926, 8386022, 8519380, 8652008, 8783912, 8915102, 9045584, 9175366, 9304457, 9432863, 9560591, 9687648] ++
  [9814042, 9939780, 10064867, 10189312, 10313120, 10436298, 10558852, 10680789, 10802114, 10922835, 11042956, 11162484, 11281425, 11399784, 11517568, 11634780] ++
  [11751428, 11867517, 11983051, 12098037, 12212479, 12326382, 12439752, 12552593, 12664911, 12776710, 12887994, 12998770, 13109041, 13218811, 13328087, 13436871] ++
  [13545168, 13652983, 13760320, 13867183, 13973576, 14079503, 14184969, 14289978, 14394532, 14498638, 14602297, 14705514, 14808293, 14910637, 15012551, 15114037] ++
  [15215099, 15315742, 15415967, 15515779, 15615181, 15714177, 15812769, 15910962, 16008758, 16106160, 16203172, 16299796, 16396036, 16491896, 16587377, 16682482] ++
  [16777216]

/-- X of vexp2 (R321). -/
def tabExp : List Nat :=
  [16777216, 16868315, 16959908, 17051999, 17144589, 17237683, 17331282, 17425389, 17520007, 17615139, 17710787, 17806955, 17903645, 18000860, 18098603, 18196877] ++
  [18295684, 18395028, 18494911, 18595336, 18696307, 18797826, 18899897, 19002521, 19105703, 19209445, 19313750, 19418622, 19524063, 19630077, 19736666, 19843835] ++
  [19951585, 20059920, 20168843, 20278358, 20388467, 20499175, 20610483, 20722396, 20834917, 20948048, 21061794, 21176158, 21291142, 21406751, 21522987, 21639855] ++
  [21757357, 21875498, 21994279, 22113706, 22233781, 22354509, 22475891, 22597933, 22720638, 22844009, 22968049, 23092764, 23218155, 23344227, 23470984, 23598429] ++
  [23726566, 23855399, 23984932, 24115168, 24246111, 24377765, 24510133, 24643221, 24777031, 24911568, 25046835, 25182837, 25319578, 25457060, 25595290, 25734270] ++
  [25874004, 26014497, 26155754, 26297777, 26440571, 26584141, 26728490, 26873623, 27019544, 27166258, 27313768, 27462079, 27611195, 27761121, 27911861, 28063420] ++
  [28215802, 28369011, 28523052, 28677929, 28833647, 28990211, 29147625, 29305894, 29465022, 29625014, 29785875, 29947609, 30110222, 30273717, 30438101, 30603377] ++
  [30769550, 30936625, 31104608, 31273503, 31443315, 31614049, 31785710, 31958304, 32131834, 32306307, 32481727, 32658099, 32835430, 33013723, 33192984, 33373219] ++
  [33554432]

/-- vexp2, vlog2, vrcp, vrsq (`fn` 0 to 3) of one value in format `f` (R321, R322). -/
def transcend (fn f mode : Nat) (v : FV) : Out :=
  let nan (nv : Bool) : Out := { code := nanCode f, fl := flagIf nv fNV }
  let infinity (n : Bool) : Out := { code := signBit f n + infCode f }
  match v with
  | .nan s => nan s
  | .inf n =>
    match fn with
    | 0 => if n then { code := 0 } else infinity false
    | 1 => if n then nan true else infinity false
    | 2 => { code := signBit f n }
    | _ => if n then nan true else { code := 0 }
  | .fin n m e =>
    if m = 0 then
      match fn with
      | 0 => fpArith f mode false (.fin false 1 0)
      | 1 => infinity true
      | _ => infinity n
    else
      let lg := lg2 m e
      let fr := (m <<< 23) / 2 ^ Nat.log2 m - 2 ^ 23
      let i := fr >>> 16
      let t := fr % 65536
      match fn with
      | 0 =>
        let x : Int := atExp n m (max e 0) 0
        let (whole, frac, r) : Int × Nat × Nat :=
          if 0 ≤ e then (x, 0, 0)
          else
            let r := (-e).toNat
            let y : Int := if n then -(m : Int) else m
            (y / ((2 ^ r : Nat) : Int), (y % ((2 ^ r : Nat) : Int)).toNat, r)
        let gi := (128 * frac) / 2 ^ r
        let gt := (2 ^ 23 * frac) / 2 ^ r % 65536
        fpArith f mode false (.fin false (interpN tabExp gi gt) (whole - 40))
      | 1 =>
        if n then nan true
        else
          let y : Int := lg * ((2 ^ 40 : Nat) : Int) + interpN tabLog i t
          fpArith f mode false (.fin (decide (y < 0)) y.natAbs (-40))
      | 2 => fpArith f mode false (.fin n (interpN tabRcp i t) (-40 - lg))
      | _ =>
        if n then nan true
        else if lg % 2 = 0 then fpArith f mode false (.fin false (interpN tabRsqE i t) (-40 - lg / 2))
        else fpArith f mode false (.fin false (interpN tabRsqO i t) (-40 - (lg - 1) / 2))

end Sys2Proof.Machine
end

