-- ==== Sys2Proof/Machine/Operands.lean ====
section
/-! DEFINITION. Operands and results: register reads with their validity (R253, R260, R414), the data queues (R249), landing of
results (R256 to R258), codebook selection and expansion (R80 to R92). -/

namespace Sys2Proof.Machine

/-- INDEX of a class 1 record: register file and number (R428). -/
def regIndex (file n : Nat) : Nat := 64 * file + n

/-- A register's value: class 1 when invalid, 0x1C3 when poisoned (R253, R414, R415). -/
def useReg (slot detail index : Nat) (r : Reg) : M Word :=
  if !r.valid then trapAt slot (0x40 + detail) index
  else if r.poison then trapAt slot 0x1C3
  else pure r.val

/-- A scalar source (R260): ages b0 to b15, then k0 to k15. -/
def readScalar (slot : Nat) (c : BitVec 5) : M Word := do
  let x ← getMe
  if c.toNat < 16 then useReg slot c.toNat 0 (x.regs.b.getD c.toNat {})
  else useReg slot c.toNat 0 (x.regs.k.getD (c.toNat - 16) {})

/-- Pops the scalar data queue; an empty queue, or an entry not yet filled, stalls the access stream (R249, R250, R272). -/
def popScalar (slot : Nat := 1) : M Word := do
  let x ← getMe
  match x.st.sq with
  | { id := _, val := some v, poison := bad } :: r => do
    updMe fun x => { x with st.sq := r }
    if bad then trapAt slot 0x1C3 else pure v
  | q => stall { plainWait with queue := q.isEmpty }

/-- Pops the vector data queue (R249, R278). -/
def popVector (slot : Nat) : M VReg := do
  let x ← getMe
  match x.st.vq with
  | { id := _, val := some v } :: r => do
    updMe fun x => { x with st.vq := r }
    if v.poison then trapAt slot 0x1C3 else pure v
  | q => stall { plainWait with queue := q.isEmpty }

/-- The queue operand of the E word: what it has taken at its first test when it has waited (R375), else the head of the queue. -/
def popHeld : M Word := do
  let x ← getMe
  match x.st.popped with
  | v :: r => do
    updMe fun x => { x with st.popped := r }
    pure v
  | [] => popScalar 2

/-- An access source (R260, R272): a0 to a14, or the scalar data queue for code 15. -/
def readAccess (slot : Nat) (c : BitVec 4) : M Word := do
  if c = 15#4 then (if slot = 2 then popHeld else popScalar)
  else do
    let x ← getMe
    useReg slot (32 + c.toNat) 0 (x.regs.a.getD c.toNat {})

/-- Writes an access register when its bundle issues (R272, R375). -/
def Ctx.setA (x : Ctx) (d : BitVec 4) (v : Word) : Ctx := { x with regs.a := x.regs.a.set d.toNat { val := v, valid := true } }
def writeAccess (d : BitVec 4) (v : Word) : M Unit := updMe (·.setA d v)

/-- A vector source (R260): ages v0 to v7, then w0 to w7. -/
def readVector (slot : Nat) (c : BitVec 4) : M VReg := do
  let x ← getMe
  let r := if c.toNat < 8 then x.regs.v.getD c.toNat {} else x.regs.w.getD (c.toNat - 8) {}
  if !r.valid then trapAt slot (0x40 + 48 + c.toNat)
  else if r.poison then trapAt slot 0x1C3
  else pure r

/-- An engine geometry register (R378): class 1 with INDEX when invalid. -/
def readEg (slot n : Nat) : M Word := do
  let x ← getMe
  useReg slot 47 (regIndex 2 n) (x.regs.eg.getD n {})

/-- A delay configuration register (R330). -/
def readDc (slot n : Nat) : M Word := do
  let x ← getMe
  useReg slot 47 (regIndex 3 n) (x.regs.dc.getD n {})

/-- The ring control that a handle of the context names (R59); an invalid handle is class 1, a poisoned one 0x1C3 (R415). -/
def readRing (slot n : Nat) : M (Nat × Ring) := do
  let x ← getMe
  match x.regs.rh.getD n none with
  | none => trapAt slot (0x40 + 47) (regIndex 1 n)
  | some id => do
    let y ← getCore
    let r := mgetD y.rings id {}
    if r.poison then trapAt slot 0x1C3 else pure (id, r)

/-- Changes a ring control of the current core. -/
def updRing (id : Nat) (f : Ring → Ring) : M Unit :=
  updCore fun y => { y with rings := mput y.rings id (f (mgetD y.rings id {})) }

/-! Results -/

/-- Sends a result on its way: it lands `lat` cc after this one (R256). Slots are 0 X, 1 V, 2 D. -/
def sendResult (slot lat : Nat) (dest : Dest) (pay : Payload) (fl : Nat := 0) : M Unit :=
  updMe fun x => { x with st.flight := x.st.flight ++ [{ land := x.st.cc + lat, slot := slot, seq := x.st.cc, dest := dest, pay := pay, flags := BitVec.ofNat 7 fl }] }

/-- Reserves an entry of the scalar data queue at issue; a full queue traps with 0x214 (R249). -/
def reserveScalar (slot : Nat) : M Nat := do
  let x ← getMe
  if 32 ≤ x.st.sq.length then trapAt slot 0x214
  else do
    updMe fun x => { x with st.sq := x.st.sq ++ [{ id := x.st.nextId }], st.nextId := x.st.nextId + 1 }
    pure x.st.nextId

/-- Reserves an entry of the vector data queue at issue (R249, R324). -/
def reserveVector (slot : Nat) : M Nat := do
  let x ← getMe
  if 8 ≤ x.st.vq.length then trapAt slot 0x214
  else do
    updMe fun x => { x with st.vq := x.st.vq ++ [{ id := x.st.nextId }], st.nextId := x.st.nextId + 1 }
    pure x.st.nextId

/-- Where an X result goes (R260). -/
def scalarDestOf (d : BitVec 5) : M Dest :=
  if d = 0#5 then pure .age
  else if d = 1#5 then do let id ← reserveScalar 3; pure (.queue id)
  else pure (.reg (d.toNat - 16))

/-- Sends an X result (R256, R287). -/
def sendScalar (d : BitVec 5) (lat : Nat) (v : Word) (fl : Nat := 0) : M Unit := do
  let dest ← scalarDestOf d
  sendResult 0 lat dest (.scalar v) fl

/-- Sends a V result (R260, R300, R304). -/
def sendVector (d : BitVec 4) (lat : Nat) (data side fl : Nat) : M Unit :=
  if d = 1#4 then sendResult 1 lat .none .flags fl
  else sendResult 1 lat (if d = 0#4 then .age else .reg (d.toNat - 8)) (.vec (BitVec.ofNat 2048 data) (BitVec.ofNat 256 side)) fl

/-- Writes one landed result (R256 to R258, R233). -/
def Ctx.landOne (x : Ctx) (f : Fly) : Ctx :=
  let y := match f.dest, f.pay with
    | .age, .scalar v => { x with regs.b := { val := v, valid := true, poison := f.poison } :: x.regs.b.take 15 }
    | .age, .vec d s => { x with regs.v := { data := d, side := s, valid := true, poison := f.poison } :: x.regs.v.take 7 }
    | .reg n, .scalar v => { x with regs.k := x.regs.k.set n { val := v, valid := true, poison := f.poison } }
    | .reg n, .vec d s => { x with regs.w := x.regs.w.set n { data := d, side := s, valid := true, poison := f.poison } }
    | .queue id, .scalar v => { x with st.sq := x.st.sq.map fun (e : SEntry) => if e.id = id then { e with val := some v, poison := f.poison } else e }
    | .queue id, .vec d s =>
      { x with st.vq := x.st.vq.map fun (e : VEntry) => if e.id = id then { e with val := some { data := d, side := s, valid := true, poison := f.poison } } else e }
    | .sysreg n, .scalar v =>
      let x := { x with sys.poison := x.sys.poison.upd n false }
      match n with
      | 2 => { x with sys.stamp := v }
      | 5 => { x with sys.late := BitVec.ofNat 32 v.toNat }
      | 6 => { x with sys.frz := v }
      | 7 => { x with sys.rmode := BitVec.ofNat 2 v.toNat }
      | 8 => { x with sys.vflags := BitVec.ofNat 7 v.toNat }
      | 9 => { x with sys.rflags := BitVec.ofNat 4 v.toNat }
      | 10 => { x with sys.trapc := BitVec.ofNat 10 v.toNat }
      | 11 => { x with sys.trapb := BitVec.ofNat 52 v.toNat }
      | _ => x
    | _, _ => x
  y.orV f.flags

/-- The order of results that land in one cc: system register writes first (R294), then slots X, V, D, then issue order (R257). -/
def flyRank (f : Fly) : Nat := match f.dest with | .sysreg _ => 0 | _ => f.slot + 1

/-- Lands every result due by the context's cc (R256, R257), earlier cc first. -/
def Ctx.landDue (x : Ctx) : Ctx :=
  let due := x.st.flight.filter fun f => decide (f.land ≤ x.st.cc)
  let sorted := sortBy (fun f g =>
    decide (f.land < g.land) || (f.land == g.land && (decide (flyRank f < flyRank g) || (flyRank f == flyRank g && decide (f.seq ≤ g.seq))))) due
  sorted.foldl Ctx.landOne { x with st.flight := x.st.flight.filter fun f => !decide (f.land ≤ x.st.cc) }

/-! Codebooks -/

/-- CBFMT and CBLIM fields (R81, R82). -/
def Bank.kind (b : Bank) : Nat := bits b.fmt.toNat 12 4
def Bank.elem (b : Bank) : Nat := bits b.fmt.toNat 8 4
def Bank.aexp (b : Bank) : Int := sext (bits b.fmt.toNat 32 8) 8
def Bank.entry (b : Bank) (i : Nat) : Nat := (mgetD b.entries i 0#64).toNat
/-- A valid index (R80). -/
def Bank.valid (b : Bank) (i : Nat) : Bool := decide (i < b.lim.toNat) && b.vmap.getLsbD i
/-- Values that cbval refuses (R83). -/
def cbBad (fmt lim : Nat) : Bool :=
  let kind := bits fmt 12 4; let elem := bits fmt 8 4
  decide (256 < bits lim 0 9) || lim >>> 9 != 0 || decide (4 < kind) || fmt >>> 40 != 0 || bits fmt 16 16 != 0 || bits fmt 0 8 != 0 ||
  (kind == 1 && decide (6 < elem)) || (kind == 2 && decide (4 < elem)) || ((kind == 0 || kind == 3 || kind == 4) && elem != 0)

/-- Index widths of codes 0 to 3 (R85). -/
def indexWidth (c : Nat) : Nat := 2 * c + 2

/-- The kind code of R99 of a bank: scalar, short vector, D6, A4L. -/
def Bank.kindCode (b : Bank) : Nat := b.kind - 1
/-- A class 3 cause of reasons 0 to 2 (R99). -/
def cbCause (reason bank kind : Nat) : Nat := 0xC0 + 16 * reason + 4 * bank + kind

/-- Reads the entry of an index at issue: invalid indices are reason 0, with the place of the index as the column (R428, log entry 114), a
poisoned entry 0x1C3 (R91, R100, R415). -/
def readEntry (slot bank : Nat) (b : Bank) (i col : Nat) : M Nat :=
  if !b.valid i then trapAt slot (cbCause 0 bank b.kindCode) col
  else if b.poison.has i then trapAt slot 0x1C3
  else pure (b.entry i)

/-- Reads the entries of a list of indices, the first at place `col`; the first invalid one traps. -/
def readEntries (slot bank : Nat) (b : Bank) (col : Nat := 0) : List Nat → M (List Nat)
  | [] => pure []
  | i :: r => do
    let v ← readEntry slot bank b i col
    let vs ← readEntries slot bank b (col + 1) r
    pure (v :: vs)

/-- The first `n` indices of width `w` in a number (R85). -/
def indices (w n v : Nat) : List Nat := (List.range n).map fun k => bits v (w * k) w

/-- The expansion of a vector operand through a scalar or short-vector bank (R84, R86): its data bits. -/
def expandVector (slot bank w : Nat) (b : Bank) (v : VReg) : M Nat := do
  let ew := fw b.elem
  if b.kind = 1 then do
    let es ← readEntries slot bank b 0 (indices w (2048 / ew) v.data.toNat)
    pure (packNat ew es)
  else do
    let es ← readEntries slot bank b 0 (indices w 32 v.data.toNat)
    pure (packNat 64 es)

/-- A bank of the current core. -/
def getBank (n : Nat) : M Bank := do
  let y ← getCore
  pure (y.banks.getD n {})

/-- VMAP, CBFMT and CBLIM of a bank are free of poison (R437). -/
def Bank.regsClean (b : Bank) : Bool := !([256, 257, 258].any b.poison.has)
/-- A bank that an expansion or a search reads. -/
def useBank (slot n : Nat) : M Bank := do
  let b ← getBank n
  check b.regsClean slot 0x1C3
  pure b

/-- RMODE's mode (R229); a poisoned RMODE traps at the word that uses it (R437). -/
def getRm (slot : Nat) : M Nat := do
  let x ← getMe
  check (!x.sys.poison.has 7) slot 0x1C3
  pure x.sys.rmode.toNat

end Sys2Proof.Machine
end

