-- ==== Sys2Proof/Machine/Readings.lean ====
section
/-! DEFINITION. The readings of the race array (R326 to R328, R333): what the converters and the comb accept, re-races, margin faults, and
the end of the readings of a context that leaves its core (R429). -/

namespace Sys2Proof.Machine

/-- A trap found by the array or the engine is taken at the first boundary after detection (R418), one at a boundary, the earliest found
first (R417). -/
def Ctx.later (x : Ctx) (t : TrapInfo) : Ctx := { x with st.dtraps := x.st.dtraps ++ [t] }

/-- A margin fault that is still to be taken discards an operation of its kind issued from bundle `seq` on (R328, R362): nothing more is read
for it. -/
def Ctx.doomed (x : Ctx) (cause seq : Nat) : Bool := x.st.dtraps.any fun t => t.cause == cause && decide (t.from_ ≤ seq)

/-- The columns whose sums pass the span (R326). -/
def Pass.clamped (p : Pass) : BitVec 256 :=
  BitVec.ofNat 256 ((p.sums.zipIdx).foldl (fun m s => if 2 ^ p.span - 1 < s.1.natAbs then m ||| 2 ^ s.2 else m) 0)
/-- A clamped reading (R326). -/
def clampSum (h : Nat) (s : Int) : Int := max (-(2 ^ h - 1)) (min (2 ^ h - 1) s)

def Ctx.updPass (x : Ctx) (seq : Nat) (f : Pass → Pass) : Ctx := { x with passes := x.passes.map fun p => if p.seq = seq then f p else p }
def Ctx.updComb (x : Ctx) (seq : Nat) (f : Comb → Comb) : Ctx := { x with combs := x.combs.map fun p => if p.seq = seq then f p else p }

/-- The converters' first reading (R326, R327): clamped columns set SATMASK and SAT and are exempt from the guard band. -/
def State.readClamps (s : State) (l k c : Nat) (p : Pass) : State :=
  let m := p.clamped
  let n := (List.range 256).countP m.getLsbD
  let s := s.updCtx l k c fun x =>
    let x := x.updPass p.seq fun q => { q with sums := q.sums.map (clampSum q.span), ok := m }
    if n = 0 then x else { x.orR rSAT with sys.satmask := x.sys.satmask ||| m }
  s.updCore l k fun y => { y with satcols := y.satcols + n }

/-- A refused reading races again (R327): 16 domain clocks, RERACES and RR. -/
def State.raceAgain (s : State) (l k c : Nat) (comb : Bool) (seq : Nat) : State :=
  let s := s.updCtx l k c fun x => x.orR rRR
  s.updCore l k fun y => { y with rerace := some (c, comb, seq), freeze := y.freeze + 16, reraces := y.reraces + 1 }

/-- A margin fault (R328, R362): MRG, the trap at the first boundary after the cc of the detection, a calibration request. -/
def State.marginFault (s : State) (l k c : Nat) (comb : Bool) (seq va col : Nat) : State :=
  let s := s.updCtx l k c fun x =>
    (x.orR rMRG).later { cause := if comb then 0x101 else 0x100, kind := 1, va := some va, slot := 5, index := col, after := x.st.cc + 1, from_ := seq }
  s.updCore l k fun y => { y with margins := y.margins + 1, calReq := true, rerace := none }

/-- What a margin fault discards when its trap is taken, and how many operations beside its own (R328, R362): everything of its kind
issued after it, up to and including the cc of the detection. -/
def Ctx.discardFrom (x : Ctx) (t : TrapInfo) : Ctx × TrapInfo :=
  if t.cause = 0x100 then
    ({ x with passes := x.passes.filter fun p => decide (p.seq < t.from_) }, { t with ndisc := x.passes.countP fun p => decide (t.from_ < p.seq) })
  else if t.cause = 0x101 then
    ({ x with combs := x.combs.filter fun p => decide (p.seq < t.from_) }, { t with ndisc := x.combs.countP fun p => decide (t.from_ < p.seq) })
  else (x, t)

/-- The reading of a pass with the columns that the converters refuse (R327). -/
def State.readPass (s : State) (l k c : Nat) (p : Pass) (refused : BitVec 256) : State :=
  let s := s.readClamps l k c p
  let bad := refused &&& ~~~p.clamped
  let s := s.updCtx l k c fun x => x.updPass p.seq fun q => { q with ok := ~~~bad, done := bad == 0#256, races := if bad == 0#256 then 0 else 1 }
  if bad = 0#256 then s else s.raceAgain l k c false p.seq

/-- The reading of a comb operation (R333). -/
def State.readComb (s : State) (l k c : Nat) (p : Comb) (refused : Bool) : State :=
  let s := s.updCtx l k c fun x => x.updComb p.seq fun q => { q with done := !refused, races := if refused then 1 else 0 }
  if refused then s.raceAgain l k c true p.seq else s

/-- The end of a re-race (R327): refused columns take the new reading; a third refusal is a margin fault. -/
def State.endRerace (s : State) (l k : Nat) (refused : BitVec 256) : State :=
  match (s.core l k).rerace with
  | none => s
  | some (c, comb, seq) =>
    let x := s.ctx l k c
    let s := s.updCore l k fun y => { y with rerace := none }
    if comb then
      match x.combs.find? fun p => p.seq == seq with
      | none => s
      | some p =>
        if refused = 0#256 then s.updCtx l k c fun x => x.updComb seq fun q => { q with done := true }
        else if 2 ≤ p.races then s.marginFault l k c true seq p.va 0
        else (s.updCtx l k c fun x => x.updComb seq fun q => { q with races := 2 }).raceAgain l k c true seq
    else
      match x.passes.find? fun p => p.seq == seq with
      | none => s
      | some p =>
        let bad := refused &&& ~~~p.ok
        if bad = 0#256 then s.updCtx l k c fun x => x.updPass seq fun q => { q with ok := BitVec.allOnes 256, done := true }
        else if 2 ≤ p.races then s.marginFault l k c false seq p.va (((List.range 256).find? bad.getLsbD).getD 0)
        else (s.updCtx l k c fun x => x.updPass seq fun q => { q with ok := ~~~bad, races := 2 }).raceAgain l k c false seq

/-- A re-race that is under way for a context ends, and with it what it leads to (R327): at most two. -/
def State.finishRace (s : State) (l k c : Nat) : Nat → State
  | 0 => s
  | n + 1 =>
    match (s.core l k).rerace with
    | some (d, _, _) => if d = c then State.finishRace ({ s with draw := s.draw + 1 }.endRerace l k (Config.refused s.draw)) l k c n else s
    | none => s


/-- The array finishes measuring everything of a context that leaves its core (R429); the columns refused, if any, are free. The re-races take
the array's time, and no context's. -/
def State.finishReads (s : State) (l k c : Nat) : State :=
  let y := s.core l k
  let freeze := if y.rerace.any fun r => r.1 == c then y.eccHold else y.freeze
  let s := s.finishRace l k c 2
  let s := (s.ctx l k c).passes.foldl (fun s p =>
    if !p.done && p.races == 0 && !(s.ctx l k c).doomed 0x100 p.seq then ({ s with draw := s.draw + 1 }.readPass l k c p (Config.refused s.draw)).finishRace l k c 2 else s) s
  let s := (s.ctx l k c).combs.foldl (fun s p =>
    if !p.done && p.races == 0 && !(s.ctx l k c).doomed 0x101 p.seq then ({ s with draw := s.draw + 1 }.readComb l k c p (Config.refused s.draw != 0#256)).finishRace l k c 2 else s) s
  (s.updCore l k fun y => { y with freeze := freeze }).updCtx l k c fun x =>
    { x with st.dtraps := x.st.dtraps.map fun t => { t with after := min t.after x.st.cc } }

end Sys2Proof.Machine
end

