-- ==== Sys2Proof/Machine/Ops.lean ====
section
/-! DEFINITION. Taking a trap and returning from one (R416 to R421), waits and their charge (R205, R210), code addresses (R244, R265),
loop levels (R266 to R268), and the running of one slot word. -/

namespace Sys2Proof.Machine

/-! Waits -/

/-- A wait that R205 names and R210 charges; a plain stall is none. -/
def Wait.counts (w : Wait) : Bool := w.budget && w.kind != 0#8

/-- When a wait began: a stream that goes on waiting keeps the time of its first failed test, but a plain stall before it is no part
of it (R205, R210). -/
def sinceOf (old : Option Wait) (w : Wait) (now : Nat) : Nat :=
  match old with
  | some v => if v.counts = w.counts then v.since else now
  | none => now

/-- The step's charge runs: one of its streams waits, or one of its tokens waits for a ring bound to another ordinal (R202, R210). -/
def Ctx.charging (x : Ctx) : Bool := x.st.aWait.any Wait.counts || x.st.xWait.any Wait.counts || x.tokWaits != 0

/-- The interval that is charged begins with the first wait and ends with the last (R210): waits that overlap are charged once. -/
def Ctx.settle (x : Ctx) (now : Nat) : Ctx :=
  match x.waitFrom, x.charging with
  | none, true => { x with waitFrom := some now }
  | some t, false => { x with charge := x.charge + (now - t), waitFrom := none }
  | _, _ => x

/-- A stream waits: the interval runs from the first failed test (R210). -/
def Ctx.waitA (x : Ctx) (w : Wait) (now : Nat) : Ctx := { x with st.aWait := some { w with since := sinceOf x.st.aWait w now } }.settle now
/-- A freeze at a hod that is not full stands behind all checks of its rpassr (R349). -/
def Ctx.waitX (x : Ctx) (w : Wait) (now : Nat) : Ctx :=
  { x with st.xWait := some { w with since := sinceOf x.st.xWait w now }, st.checked := x.st.checked || w.rhmask != 0#16 }.settle now

/-- The wait of a stream ends (R210). -/
def Ctx.endWaitA (x : Ctx) (now : Nat) : Ctx := { x with st.aWait := none }.settle now
def Ctx.endWaitX (x : Ctx) (now : Nat) : Ctx := { x with st.xWait := none }.settle now
/-- Both streams wait no more. -/
def Ctx.endWaits (x : Ctx) (now : Nat) : Ctx := { x with st.aWait := none, st.xWait := none }.settle now

/-- The waiting charge in rt as it stands, 32 bits wide (R210, R254). -/
def Ctx.waitb (x : Ctx) (now : Nat) : Nat := (x.charge + ((x.waitFrom.map fun t => now - t).getD 0)) / 70 % 2 ^ 32

/-- A request or a store of a step is held by an interleave commit of a home: from when on (R114). -/
def State.heldFrom (s : State) (l : Nat) (x : Ctx) : Option Nat :=
  let held := s.lds.filter fun e => e.2.commit.isSome &&
    ((e.2.homeQ.any fun r => r.src == l && r.sid == x.sid && s.commitHolds r.home r.addr r.n) ||
     (mgetD x.own e.1 []).any fun o => !o.2.pub && s.commitHolds e.1 o.1 1)
  (held.map fun e => e.2.commitAt).min?

/-- The tick up to which a wait of a context is charged: the time of a calibration that stops its core (`cal`, from when on) and of a hold by
an interleave commit is charged to no waiting budget (R114, R344). -/
def State.chargeTo (s : State) (l : Nat) (x : Ctx) (cal : Option Nat) : Nat :=
  min (min s.ticks (cal.getD s.ticks)) ((s.heldFrom l x).getD s.ticks)

/-- When the calibration that holds a core began. -/
def Core.calFrom (y : Core) : Option Nat := if y.calRun = 0 then none else some (7 * (y.calRun - 1))

/-- The number at which a context that has left its core stands there for the length of an operation: 5 when the calibration that put it
out still runs (R209), else 4. No core has a context of this number. -/
def Saved.seat (v : Saved) : Nat := if v.cal then 5 else 4

/-- The tick up to which the wait of a context is charged. -/
def State.chargeTick (s : State) (l k c : Nat) : Nat := s.chargeTo l (s.ctx l k c) (if c = 4 then none else (s.core l k).calFrom)

/-- The tick up to which the wait of a step is charged, wherever it is. -/
def State.chargeAt (s : State) (l sid : Nat) : Nat :=
  match (s.ld l).findStep sid with
  | some (.at_ k c, _, _) => s.chargeTick l k c
  | some (.slot n, k, x) => s.chargeTo l x (if (mget (s.ld l).saved n).any (·.cal) then (s.core l k).calFrom else none)
  | none => s.ticks

/-- The context of a save slot stands on the core that it left; then it goes back. -/
def State.seated (s : State) (l : Nat) (v : Saved) : State := s.updCtx l v.core v.seat fun _ => v.ctx
def State.unseated (s : State) (l n : Nat) (v : Saved) : State :=
  let x := s.ctx l v.core v.seat
  (s.updCore l v.core fun y => { y with ctxs := mdel y.ctxs v.seat }).updLd l fun z =>
    { z with saved := z.saved.map fun (w : Nat × Saved) => if w.1 = n then (n, { w.2 with ctx := x }) else w }

/-- An event of a context: 0 to 3 is one of core `k`, from 4 up the context of save slot c − 4, which has left core `k` (R208). -/
def onCtx (l k c : Nat) (m : Nat → M Unit) : M Unit := fun s =>
  if c < 4 then m c s
  else
    match mget (s.ld l).saved (c - 4) with
    | none => .error .idle
    | some v =>
      if v.core ≠ k then .error .idle
      else
        match m v.seat (s.seated l v) with
        | .ok (_, t) => .ok ((), t.unseated l (c - 4) v)
        | .error e => .error e

/-- A context is waiting in the sense of R205. -/
def Ctx.waiting (x : Ctx) : Bool :=
  (x.st.aWait.any fun w => w.counts && x.st.run.isEmpty) || x.st.xWait.any Wait.counts

/-- A context may issue (R205); one whose retire waits for its end (R408) has nothing more to issue. -/
def Ctx.ready (x : Ctx) : Bool := x.live && !x.priv && x.paused.isNone && decide (x.retiring ≤ 1) && !x.waiting

/-- A context is ready from now on: what it has been ready for counts anew (R205, R206). -/
def Ctx.nowReady (x : Ctx) (now : Nat) : Ctx := { x with readyAt := now, agedAt := now }

/-- Fields of the region under which a step was released (R191). -/
def Ctx.pri (x : Ctx) : Nat := bits x.eff.toNat 224 4
def Ctx.maxPri (x : Ctx) : Nat := bits x.eff.toNat 228 4
/-- Effective priority (R206). -/
def Ctx.effPri (x : Ctx) : Nat := max x.pri (min x.maxPri (x.pri + x.ageing))

/-- The OPB under which a step was released. -/
def Ctx.op (x : Ctx) : Op := { opb := x.opb }
/-- The set that a step needs: its operator's, or its own (R103, R107). -/
def Ctx.setKey (x : Ctx) : Nat × Nat := (x.sys.opid, if x.op.privcb then x.sid + 1 else 0)

/-! Traps -/

/-- The HCLS bit of a class that a user handler may take (R195, R419). -/
def handlerBit (cls : Nat) : Option Nat :=
  match cls with
  | 2 => some 0
  | 3 => some 1
  | 8 => some 2
  | 13 => some 3
  | _ => none

/-- The last words as a stream sees them that reaches the place where the execute stream stands, after the bundles of `run` (R245). -/
def Streams.viewAfter (x : Streams) (run : List RunB) : List (Option (BitVec 32)) :=
  let latest (f : RunB → Option (BitVec 32)) (d : Option (BitVec 32)) : Option (BitVec 32) :=
    run.foldl (fun (w : Option (BitVec 32)) b => if (f b).isSome then f b else w) d
  [x.seen.getD 0 none, x.seen.getD 1 none, latest (·.x) (x.last.getD 2 none), latest (·.v) (x.last.getD 3 none), latest (·.d) (x.last.getD 4 none)]

/-- The VA of the bundle that a trap names (R254, R416). -/
def Ctx.trapVa (x : Ctx) (t : TrapInfo) : Nat :=
  match t.va with
  | some v => v
  | none => if t.access then x.st.pc else ((x.st.run.head?).map (·.va)).getD x.st.pc

/-- An access-side fault that pends is dropped when another trap is taken (R417); a sysc that has issued still pauses its step (R410). -/
def Streams.keepSysc (x : Streams) : Option TrapInfo := x.atrap.filter fun t => t.kind == 4


/-- Entry of the user handler (R419): TRAPC and TRAPB are set, one return-stack entry keeps the boundary and the loop stacks, and both
streams continue at HANDLER with a slip of 0. What follows bundle j is kept, because its halves are skipped on return (R420). -/
def Ctx.enterHandler (x : Ctx) (t : TrapInfo) (handler : Nat) : Ctx :=
  let rest := if t.access then [] else x.st.run.tail
  let own := rest.isEmpty && (t.access || x.st.await)
  let entry : RetEntry := {
    trap := true, va := if own then x.st.skipTo else x.st.pc, depth := x.st.loops.length,
    loops := if own then x.st.skipLoops else x.st.loops, run := rest, await := x.st.await && !rest.isEmpty, done := x.pubDone && !own,
    waitc := if own then none else x.waitc, half := if own then none else x.st.half,
    retiring := if t.access then 0 else x.retiring, passOver := !t.access && x.st.run.isEmpty }
  { x with
    sys.trapc := BitVec.ofNat 10 t.cause
    sys.trapb := BitVec.ofNat 52 (x.trapVa t)
    st.rstack := entry :: x.st.rstack
    st.pc := handler
    st.run := []
    st.await := false
    st.handler := true
    st.atrap := x.st.keepSysc
    st.checked := false
    st.passOver := false
    st.aWait := none
    st.xWait := none
    st.half := none
    st.goto := .fall
    st.seen := x.st.viewAfter []
    retiring := 0
    xlAsk := none
    xlFault := none
    waitc := none
    pubReq := none
    pubDone := false
    fence := none
    shWait := none }

/-- Whether a trap enters the step's user handler (R419). -/
def handlerTakes (x : Ctx) (o : Op) (t : TrapInfo) : Bool :=
  let running := if t.access then x.st.handler else ((x.st.run.head?).map (·.inH)).getD x.st.handler
  match handlerBit (t.cause / 64) with
  | some b => bit o.hcls b && !running && decide (x.st.rstack.length < 8) && !x.priv
  | none => false

/-- The object whose rclaim stands in the execute half that a handler's return skips (R420). -/
def Ctx.skippedClaim (x : Ctx) : List (Bool × Nat) :=
  match x.st.run.head? with
  | none => []
  | some b =>
    match (if b.hold.getLsbD 4 then x.st.last.getD 4 none else b.d) with
    | none => []
    | some w => match decodeSlot 4 w with
      | .ok (.rclaim o n) => [(o == 1#1, n.toNat)]
      | _ => []

/-- What a step that stops at a boundary has begun and not done (R416, R417): an access-side fault that pends behind the boundary is dropped,
and an access-side trap ends what its own access words had begun, so that they are tested anew if they issue again. -/
def Ctx.stopAt (x : Ctx) (t : TrapInfo) : Ctx :=
  let x := { x with st.atrap := if t.kind = 4 then none else x.st.keepSysc, st.checked := false, xlAsk := none, xlFault := none }
  if t.access && t.kind != 4 then { x with waitc := none, fence := none, pubReq := none, pubDone := false, shWait := none } else x

/-- Taking a trap (R416 to R419, R194): the step's user handler takes it, or its fault record is written and the region's policy
decides. A page fault always pauses (R422). The fault record of a step that is out of its core names context 0 (log entry 116). -/
def takeTrap (l k c : Nat) (t : TrapInfo) (s : State) : State :=
  let x := s.ctx l k c
  let o : Op := { opb := x.opb }
  let s := s.updCtx l k c fun y => y.endWaits (s.chargeTick l k c)
  if handlerTakes x o t then
    let s := if t.access then s else s.updCore l k fun y => (x.skippedClaim).foldl (fun y b => y.setClaim b.1 b.2 Claim.unreserve) y
    s.updCtx l k c fun x => x.enterHandler t o.handler
  else
    let named := match handlerBit (t.cause / 64) with
      | some b => bit o.hcls b
      | none => false
    let s := (s.updCtx l k c fun x => x.stopAt t).finishReads l k c
    s.faultStep l (if c < 4 then .at_ k c else .slot 0) k (s.ctx l k c) t.kind t.cause
      (if t.kind = 4 then 0 else x.policy t.cause) (if t.kind = 4 then syscHalf t.args.1 t.args.2.1 t.args.2.2 else trapHalf t) named (x.trapVa t) t

/-- The current context's trap is taken. -/
def takeMine (t : TrapInfo) (s : State) : State := takeTrap s.cur.l s.cur.k s.cur.c t s

/-- The return from a trap (R420): what follows bundle j issues next in the execute stream, the access stream continues at the
boundary's access position, and the slip and the loop stacks are restored. -/
def Ctx.leaveHandler (x : Ctx) (e : RetEntry) : Ctx :=
  { x with
    st.rstack := x.st.rstack.tail
    st.handler := false
    st.loops := e.loops
    st.seen := x.st.viewAfter e.run
    st.goto := .back e.va e.run e.await
    st.half := if e.passOver then none else e.half
    st.passOver := e.passOver
    pubDone := e.done
    waitc := e.waitc
    retiring := e.retiring }

/-! One slot word -/

/-- A slot word issued alone in the current context: its effect, its trap taken, or its stall or freeze noted. -/
def runSlot (m : M Unit) (s : State) : Res :=
  match m s with
  | .ok (_, t) => .next t
  | .error (.trap t) => .next (takeMine t s)
  | .error (.wait w ask) => .next ((ask s).updMe fun x => x.waitA w s.ticks)
  | .error (.frozen w _) => .next (s.updMe fun x => x.waitX w s.ticks)
  | .error .idle => .next s

/-! Code addresses and loops -/

/-- An instruction word as fetched (R23, R25): kind 0 needs R. -/
def State.codeWord (s : State) (l k c va : Nat) : Except Nat (BitVec 32) :=
  match s.translateFor l k (s.ctx l k c) 0 0 va 4 with
  | .ok p => .ok (BitVec.ofNat 32 (leNat (s.homeBytes p.home p.addr 4)))
  | .fault e => .error e
  | .lost e => .error e

/-- A word that carries MARK (R244). -/
def isMark (w : BitVec 32) : Bool := w.extractLsb' 26 6 == 0b101101#6
/-- A bundle's length in bytes, from its header (R244). -/
def bundleSize (w : BitVec 32) : Nat := 4 * (1 + (setBits (w.extractLsb' 21 5).toNat 5).length)

/-- The address `n` bundles further on, stepping off headers (R265). A word without MARK where a header must stand is 0x000. -/
def State.forward (s : State) (l k c : Nat) : Nat → Nat → Except Nat Nat
  | 0, va => .ok va
  | n + 1, va =>
    match s.codeWord l k c va with
    | .error e => .error e
    | .ok w => if isMark w then State.forward s l k c n (va + bundleSize w) else .error 0

/-- The header before an address: the nearest earlier word with MARK, at most 6 words back (R244). -/
def State.headerBefore (s : State) (l k c : Nat) : Nat → Nat → Except Nat Nat
  | 0, _ => .error 0
  | n + 1, va =>
    if va < 4 then .error 0
    else
      match s.codeWord l k c (va - 4) with
      | .error e => .error e
      | .ok w => if isMark w then .ok (va - 4) else State.headerBefore s l k c n (va - 4)

/-- The address `n` bundles back (R265). -/
def State.backward (s : State) (l k c : Nat) : Nat → Nat → Except Nat Nat
  | 0, va => .ok va
  | n + 1, va =>
    match s.headerBefore l k c 6 va with
    | .error e => .error e
    | .ok v => State.backward s l k c n v

/-- The target of a signed bundle offset from the bundle at `va` (R265). -/
def State.target (s : State) (l k c va : Nat) (off : Int) : Except Nat Nat :=
  if 0 ≤ off then s.forward l k c off.toNat va else s.backward l k c (-off).toNat va

/-- Gives a code address or traps at the bundle; it waits while a commit holds the code (R114). -/
def orTrap (slot : Nat) (r : Except Nat Nat) : M Nat :=
  match r with
  | .ok v => pure v
  | .error e => if e ≠ heldCode then trapAt slot e else if slot ≤ 2 then stall plainWait else freezeX plainWait

/-- The code words of a range have been read through the TLBs and the die caches (R27, R109). -/
def State.codeRead (s : State) (l k c lo hi : Nat) : State :=
  (List.range (hi / 65536 - lo / 65536 + 1)).foldl (fun s i =>
    let a := max lo (65536 * (lo / 65536 + i))
    let e := min (hi + 4) (65536 * (lo / 65536 + i + 1))
    match s.translateFor l k (s.ctx l k c) 0 0 a 4 with
    | .ok p => (s.afterXl l k 0 a).readThrough p.ca [(p.home, p.addr, e - a)]
    | _ => s) s

/-- A code address found from the bundle at `va`, by the headers on the way there. -/
def reached (slot va : Nat) (r : Except Nat Nat) : M Nat := do
  let v ← orTrap slot r
  updS fun s => s.codeRead s.cur.l s.cur.k s.cur.c (min va v) (max va v)
  pure v

/-- The end tests at a boundary (R267): levels of the frame whose body's last bundle is `last`, innermost first. -/
def endTests (frame last exit : Nat) : List Level → Nat × List Level
  | [] => (exit, [])
  | v :: r =>
    if v.frame = frame ∧ v.last = last then
      if 1 < v.count then (v.first, { v with count := v.count - 1 } :: r) else endTests frame last exit r
    else (exit, v :: r)

/-- A taken transfer against the open levels of its frame (R268): levels whose body does not hold the target close. -/
def closeLevels (frame va : Nat) : List Level → List Level
  | [] => []
  | v :: r =>
    if v.frame = frame ∧ ¬ (v.first ≤ va ∧ va ≤ v.last) then closeLevels frame va r else v :: r

/-- The counters lc0 to lc3: the open levels counted from the outermost (R252). -/
def loopCounter (loops : List Level) (d : Nat) : Nat := ((loops.reverse[d]?).map (·.count)).getD 0

end Sys2Proof.Machine
end

