-- ==== Sys2Proof/Machine/Access.lean ====
section
/-! DEFINITION. The A slot (R272 to R286): address arithmetic, loads, stores and atomics with the services that complete them at a
neighbour's bank (R56, R57) and at a home (R173, R176), rings, loops, transfers and fences. -/

namespace Sys2Proof.Machine

/-! Address arithmetic (R273) -/

def opLda (d : BitVec 4) (i : BitVec 16) : M Unit := writeAccess d (i.signExtend 64)
def opLdah (d s : BitVec 4) (i : BitVec 16) : M Unit := do
  let v ← readAccess 1 s
  writeAccess d (v + (i.signExtend 64 <<< 16))
def opMova (d s : BitVec 4) : M Unit := do
  let v ← readAccess 1 s
  writeAccess d v
/-- The two-source forms: s is read before t (R272). -/
def addr2 (d s t : BitVec 4) (f : Word → Word → Word) : M Unit := do
  let x ← readAccess 1 s
  let y ← readAccess 1 t
  writeAccess d (f x y)
def opAdda (d s t : BitVec 4) : M Unit := addr2 d s t fun x y => x + y
def opAddai (d s : BitVec 4) (i : BitVec 16) : M Unit := do
  let v ← readAccess 1 s
  writeAccess d (v + i.signExtend 64)
def opSuba (d s t : BitVec 4) : M Unit := addr2 d s t fun x y => x - y
def opShla (d s : BitVec 4) (n : BitVec 6) : M Unit := do
  let v ← readAccess 1 s
  writeAccess d (v <<< n.toNat)
def opMada (d s t : BitVec 4) : M Unit := do
  let x ← readAccess 1 s
  let y ← readAccess 1 t
  let z ← readAccess 1 d
  writeAccess d (z + x * y)
def opAnda (d s t : BitVec 4) : M Unit := addr2 d s t fun x y => x &&& y
def opPopq (d : BitVec 4) : M Unit := do
  let v ← popScalar
  writeAccess d v

/-! Forms of accesses -/

/-- Arrivals in bundles (R68). -/
def arrivalOf (code : BitVec 4) : Nat := [1, 2, 3, 4, 6, 8, 12, 16, 24, 32, 48, 64, 96, 128, 192, 256].getD code.toNat 0

/-- The width in bytes of a width code (R274). -/
def widthBytes (w : BitVec 3) : Nat := 2 ^ (w.toNat / 2)
/-- A width code that sign-extends (R276). -/
def widthSigned (w : BitVec 3) : Bool := w.toNat % 2 == 0
/-- A loaded value of `n` bytes extended to 64 bits (R276). -/
def extendVal (sx : Bool) (n v : Nat) : Nat := if sx then wrap 64 (sext v (8 * n)) else v

/-- The effective address (R275). -/
def effective (b : BitVec 4) (disp : Int) (unit : Nat) : M Nat := do
  let v ← readAccess 1 b
  pure (wrap 64 (v.toNat + disp * unit))

/-- A restartable step may not do this (R433, R436). -/
def barRestart (slot : Nat) : M Unit := do
  let s ← getS
  check (s.me.priv || !(s.opOf s.cur.l s.me.sys.opid).restart) slot 0x2CC

/-- An access slot that is not Free stalls the load that names it (R69, R280). -/
def needSlot (ls : Nat) : M Unit := do
  let x ← getMe
  if (x.regs.ls.getD ls {}).st = .free then pure ()
  else stall { plainWait with lsmask := BitVec.ofNat 32 (2 ^ ls) }

/-- The load's slot becomes Pending, visible from the bundle that its arrival code gives (R68, R69, R247). -/
def makePending (ls : Nat) (p : BitVec 4) (sl : LSlot) : M Unit :=
  updMe fun x => { x with regs.ls := x.regs.ls.set ls { sl with st := .pending, visible := x.st.cc + x.st.run.length + arrivalOf p } }

/-- The slot's data is at hand; it arrives no sooner than `due` plus `add` (R70). -/
def Ctx.fillSlot (x : Ctx) (ls data side mark add : Nat) : Ctx :=
  { x with
    regs.ls := x.regs.ls.modify ls fun sl =>
      { sl with here := true, data := BitVec.ofNat 2048 data, side := BitVec.ofNat 256 side, mark := mark, due := sl.due + add } }

/-- Format, limit and alignment of an OWN or NBR access (R13, R275): its core and offset. -/
def localPlace (nbr : Bool) (ea span align : Nat) : M (Nat × Nat) := do
  let s ← getS
  let off := if nbr then ea % 2 ^ 22 else ea
  if nbr && decide (2 ^ 28 ≤ ea) then trapAt 1 0x200 0 ea
  else if nbr && decide (47 < ea / 2 ^ 22) then trapAt 1 0x201 0 ea
  else if spadEnd ≤ off then trapAt 1 0x200 0 ea
  else if ea % align ≠ 0 then trapAt 1 0x202 0 ea
  else if spadEnd < off + span then trapAt 1 0x200 0 ea
  else pure (if nbr then ea / 2 ^ 22 else s.cur.k, off)

/-- Format, limit and alignment of a GLB (0), HOST (1) or PEER (2) access (R13, R275). -/
def globalForm (slot sp kind ea align : Nat) : M Unit := do
  let lim := if sp = 2 then 2 ^ 44 else 2 ^ 52
  check (decide (ea < lim)) slot (if sp = 1 then xlCause 6 kind 2 else xlCause 5 kind 4) ea
  check (ea % align == 0) slot 0x204 ea

/-- The pieces of a global range that lie in one 64 KiB page each. -/
def pagePieces (sp ea n : Nat) : List (Nat × Nat) :=
  let m := 65536 - ea % 65536
  if sp = 1 ∨ n ≤ m then [(ea, n)] else [(ea, m), (ea + m, n - m)]

/-! Granules of vector accesses (R277) -/

/-- The row length of a transposed access (R277); without T the granules follow one another. -/
def rowLength (z : BitVec 2) (t : BitVec 1) : Nat :=
  if t = 0#1 then 4 else match z.toNat with | 2 => 256 | 3 => 64 | _ => 128
/-- The offsets of the granules of a vector access. -/
def vecOffsets (rl off : Nat) (side : Bool) : List Nat :=
  (List.range 64).map (fun k => off + rl * k) ++ if side then (List.range 8).map fun m => off + 256 + 4 * m else []
/-- The bytes that a vector access spans. -/
def vecSpan (rl : Nat) (side : Bool) : Nat := if side then 288 else 63 * rl + 4

/-- What a vector access of a scratchpad reads: data, side word, poison. -/
def Core.readVec (x : Core) (mode rl off : Nat) (side : Bool) : Nat × Nat × Bool :=
  let os := vecOffsets rl off side
  let bs := os.flatMap fun o => x.spRead mode o 4
  (leNat (bs.take 256), leNat (bs.drop 256), os.any fun o => x.spBad mode o 4)
/-- The bank time of a vector access (R53). -/
def vecTime (mode rl off : Nat) (side : Bool) : Nat := bankTime ((vecOffsets rl off side).map fun o => granulePlace mode (o / 4))
/-- A vector store into a scratchpad (R278). -/
def Core.writeVec (x : Core) (mode rl off : Nat) (side : Bool) (v : VReg) : Core :=
  ((vecOffsets rl off side).zip (List.range 72)).foldl (fun x p =>
    let w := if p.2 < 64 then bits v.data.toNat (32 * p.2) 32 else bits v.side.toNat (32 * (p.2 - 64)) 32
    x.spWrite mode p.1 (natLe 4 w)) x

/-! Loads and stores of the scratchpad (R276 to R278) -/

/-- Sends a request to another core's bank (R15, R57). -/
def sendNbr (k : Nat) (r : NbrReq) : M Unit := do
  let s ← getS
  let r := { r with src := s.cur.k, ctx := s.cur.c, sid := s.me.sid }
  updLd fun x => x.updCore k fun y => { y with nbrQ := y.nbrQ ++ [r] }

def opLds (l : BitVec 5) (b y : BitVec 4) (w : BitVec 3) (p : BitVec 1) (x : BitVec 7) : M Unit := do
  let n := widthBytes w
  let ea ← effective b x.toInt n
  needSlot l.toNat
  let (k, off) ← localPlace (p == 1#1) ea n n
  let c ← getCore
  if p = 1#1 then do
    makePending l.toNat y { due := c.clk + 23 }
    sendNbr k { src := 0, ctx := 0, sid := 0, kind := 0, off := off, n := n, slot := l.toNat, sx := widthSigned w }
  else do
    let v := extendVal (widthSigned w) n (leNat (c.spRead 0 off n))
    makePending l.toNat y { due := c.clk + 6, here := true, data := BitVec.ofNat 2048 v, mark := if c.spBad 0 off n then 0x1C0 else 0 }

def opLdv (l : BitVec 5) (b y : BitVec 4) (z : BitVec 2) (r p s : BitVec 1) (x : BitVec 6) : M Unit := do
  let rl := rowLength z r
  let side := s == 1#1
  let ea ← effective b x.toInt 256
  needSlot l.toNat
  let (k, off) ← localPlace (p == 1#1) ea (vecSpan rl side) 4
  let c ← getCore
  if p = 1#1 then do
    makePending l.toNat y { vec := true, due := c.clk + 23 }
    sendNbr k { src := 0, ctx := 0, sid := 0, kind := 1, off := off, slot := l.toNat, swz := z.toNat, rl := rl, side := side }
  else do
    let (d, sd, bad) := c.readVec z.toNat rl off side
    makePending l.toNat y {
      vec := true, due := c.clk + 5 + vecTime z.toNat rl off side, here := true, data := BitVec.ofNat 2048 d,
      side := BitVec.ofNat 256 sd, mark := if bad then 0x1C0 else 0 }

def opSts (b : BitVec 4) (w : BitVec 3) (p : BitVec 1) (x : BitVec 7) : M Unit := do
  let n := widthBytes w
  if p = 1#1 then barRestart 1 else pure ()
  let ea ← effective b x.toInt n
  let (k, off) ← localPlace (p == 1#1) ea n n
  let v ← popScalar
  let bs := natLe n v.toNat
  if p = 1#1 then sendNbr k { src := 0, ctx := 0, sid := 0, kind := 2, off := off, n := n, data := bs }
  else updCore fun y => y.spWrite 0 off bs

def opStv (b : BitVec 4) (z : BitVec 2) (r p s : BitVec 1) (x : BitVec 6) : M Unit := do
  let rl := rowLength z r
  let side := s == 1#1
  if p = 1#1 then barRestart 1 else pure ()
  let ea ← effective b x.toInt 256
  let (k, off) ← localPlace (p == 1#1) ea (vecSpan rl side) 4
  let v ← popVector 1
  if p = 1#1 then
    sendNbr k {
      src := 0, ctx := 0, sid := 0, kind := 3, off := off, swz := z.toNat, rl := rl, side := side,
      data := natLe 256 v.data.toNat ++ natLe 32 v.side.toNat }
  else updCore fun y => y.writeVec z.toNat rl off side v

/-! What a home does (R173, R176, R282) -/

/-- A request belongs to a step of a die. -/
def HomeReq.ofStep (r : HomeReq) (l sid : Nat) : Bool := r.src == l && r.sid == sid
/-- A load, whose slot waits for bytes. -/
def HomeReq.isLoad (r : HomeReq) : Bool := r.atom.isNone && !r.pref

/-- The step that a request serves, as it stands now. -/
def State.stepOf (s : State) (l sid : Nat) : Option Ctx := ((s.ld l).findStep sid).map (·.2.2)

/-- The die at which requests to a home queue: the green keeps host memory (R163). -/
def homeDie (l home : Nat) : Nat := if home = hostKey then ldNo (pkgOf l) 8 else home

/-- The image of a home that a step's read uses is fixed now, if it is not (R172): what the step had published there before gives way to
it, also for the step's other loads under way. -/
def State.fixImage (s : State) (l sid home a n : Nat) : State :=
  match s.stepOf l sid with
  | none => s
  | some x =>
    let s' := s.updStep l sid fun _ => s.fixSnap x home a n
    if x.imageFixed home then s'
    else
      s'.updLd (homeDie l home) fun d =>
        { d with homeQ := d.homeQ.map fun r => if r.ofStep l sid && r.home == home then { r with mine := r.mine.filter fun o => !o.2.pub } else r }

/-- What a load reads under the images of its step: its own writes as they stood at its issue, else the image (R163, R173). -/
def State.loadValue (s : State) (x : Ctx) (r : HomeReq) : List (BitVec 8) × Nat :=
  seenBytes ((List.range r.n).map fun i => s.overImage x r.home (r.addr + i) (mget r.mine (r.addr + i)))

/-- The cause for which the fabric loses a home's answer (R415). -/
def State.answerCause (s : State) (r : HomeReq) : Option Nat :=
  if homeDie r.src r.home = r.src then none else s.route (homeDie r.src r.home) r.src

/-- A home's answer crosses the fabric (R450, R452); what it brings stands in its slot already (log entry 131). -/
def State.answered (s : State) (r : HomeReq) (bs : List (BitVec 8)) : State := s.post (homeDie r.src r.home) r.src 1 (s.packed bs)

/-- A load that stands first among a step's requests is served: its bytes go to its slot, with poison (R124), or marked failed (R415). -/
def State.serveLoad (s : State) (r : HomeReq) (x : Ctx) : State :=
  let got := r.fixed.getD (s.loadValue x r)
  let mark := (s.answerCause r).getD (if got.2 = 0 then (if r.poison then 0x1C0 else 0) else got.2)
  let v := if r.vec then leNat got.1 else extendVal r.sx r.n (leNat got.1)
  ((s.updStep r.src r.sid fun x => x.fillPart r.slot r.part v mark).readThrough r.ca [(r.home, r.addr, r.n)] x).answered r got.1

/-- The step's loads of some bytes that wait behind one of its atomics see what it wrote there (R163). -/
def HomeReq.after (r : HomeReq) (a : HomeReq) (bs : List (BitVec 8)) : HomeReq :=
  if r.ofStep a.src a.sid && r.isLoad && r.home == a.home && decide (a.seq ≤ r.seq) then
    { r with mine := (bs.zipIdx).foldl (fun (m : Smap Own) b =>
        let o : Own := { val := b.1, seq := a.seq, pub := true }
        if decide (r.addr ≤ a.addr + b.2) && decide (a.addr + b.2 < r.addr + r.n) then
          (match laterOwn (mget m (a.addr + b.2)) (some o) with
           | some w => mput m (a.addr + b.2) w
           | none => m)
        else m) r.mine }
  else r

/-- An atomic performed at its home (R176, R282): it acts on the published value and is published as it is performed; a poisoned
operand is left as it is (R124); a cas that fails writes nothing. -/
def State.serveAtomic (s : State) (r : HomeReq) (op : Nat) : State :=
  let old := leNat (s.homeBytes r.home r.addr r.n)
  let bad := if r.home = hostKey then 0 else (s.ld r.home).hbm.badRange r.addr r.n
  let mark := if bad = 0 then (if r.poison then 0x1C0 else 0) else bad
  let v := r.v.toNat % 2 ^ (8 * r.n)
  let w := r.w.toNat % 2 ^ (8 * r.n)
  let bs := natLe r.n (atomNew op (8 * r.n) old v w)
  let writes := mark == 0 && !(op == 9 && old != v)
  let s := s.readThrough r.ca [(r.home, r.addr, r.n)]
  let s := if writes then
      let s := if r.home = hostKey then { s with host := Mem.setBytes s.host r.addr bs }
        else s.updLd r.home fun x => { x with hbm := x.hbm.write r.addr bs r.comp }.touch r.addr r.n r.ca true
      s.updLd (homeDie r.src r.home) fun d => { d with homeQ := d.homeQ.map fun q => q.after r bs }
    else s
  (s.updStep r.src r.sid fun x => (if writes then x.storeAtomic r.home r.addr r.seq bs else x).fillPart r.slot 0 old ((s.answerCause r).getD mark)).answered r
    (natLe r.n old)

/-- A request performed at its home. -/
def State.serveHome (s : State) (r : HomeReq) : State :=
  match r.atom with
  | some op => s.serveAtomic r op
  | none =>
    if r.pref then s.readThrough r.ca [(r.home, r.addr, r.n)]
    else
      match s.stepOf r.src r.sid with
      | some x => s.serveLoad r x
      | none => s

/-- A request held at its home: by a commit (R114), or not there yet because its walk has not ended (R29) or its packet has not arrived. -/
def State.held (s : State) (r : HomeReq) : Bool := s.commitHolds r.home r.addr r.n || r.page.any (s.ld r.src).walking || r.way.isSome

/-- No request to the lines of a range has reached the cache before (R111). -/
def State.linesFree (s : State) (home a n : Nat) : Bool :=
  home == hostKey || !((s.ld home).homeQ.any fun r => r.home == home && !s.held r && decide (r.addr / 128 ≤ (a + n - 1) / 128) && decide (a / 128 ≤ (r.addr + r.n - 1) / 128))

/-- The requests that a die may serve, in their order: none that follows a held one of its step. -/
def State.servable (s : State) : List (Nat × Nat) → List HomeReq → List HomeReq
  | _, [] => []
  | stuck, r :: q =>
    if s.held r || stuck.contains (r.src, r.sid) then State.servable s ((r.src, r.sid) :: stuck) q else r :: State.servable s stuck q

/-- The loads of a step that are still on their way, and are not settled. -/
def State.loadsDue (s : State) (l sid : Nat) : List HomeReq :=
  s.lds.flatMap fun e => e.2.homeQ.filter fun r => r.ofStep l sid && r.isLoad && r.fixed.isNone

/-- A step's acquire interval ends: the loads still on their way read what the interval gives (R163, R173). -/
def State.settleLoads (s : State) (l sid : Nat) : State :=
  match s.loadsDue l sid with
  | [] => s
  | due =>
    let s := due.foldl (fun s r => s.fixImage l sid r.home r.addr r.n) s
    match s.stepOf l sid with
    | none => s
    | some x =>
      { s with lds := s.lds.map fun (e : Nat × Ld) => (e.1, { e.2 with
          homeQ := e.2.homeQ.map fun r => if r.ofStep l sid && r.isLoad && r.fixed.isNone then { r with fixed := some (s.loadValue x r) } else r }) }

/-- The images of a step's loads under way are fixed before the step itself publishes at their homes (R163). -/
def State.fixBefore (s : State) (l sid : Nat) (homes : List Nat) : State :=
  ((s.loadsDue l sid).filter fun r => homes.contains r.home).foldl (fun s r => s.fixImage l sid r.home r.addr r.n) s

/-- Publishes the own stores of a context that `sel home store` picks (R166, R168). -/
def State.publish (s : State) (l k c : Nat) (sel : Nat → Own → Bool) : State :=
  let s := s.fixBefore l (s.ctx l k c).sid ((s.ctx l k c).own.map (·.1))
  let s' := (s.ctx l k c).own.foldl (fun s p => s.publishHome p.1 (p.2.filter fun e => !e.2.pub && sel p.1 e.2)) s
  s'.updCtx l k c fun x =>
    { x with own := x.own.map fun p => (p.1, p.2.map fun e => if sel p.1 e.2 then (e.1, { e.2 with pub := true }) else e) }

/-- A step still has loads or atomics at some home that `sel` picks. -/
def State.hasRequests (s : State) (l sid : Nat) (sel : HomeReq → Bool) : Bool :=
  s.lds.any fun e => e.2.homeQ.any fun r => r.ofStep l sid && !r.pref && sel r

/-- The step acquires at every home (R170, R173); loads still on their way belong to the interval that ends. -/
def acquireNow : M Unit := do
  updS fun s => s.settleLoads s.cur.l s.me.sid
  updMe Ctx.acquire

/-! Global loads, stores and atomics -/

/-- A load or atomic whose request the fabric loses lands marked failed (R415). -/
def lostSlot (ls : Nat) (y : BitVec 4) (vec : Bool) (cause : Nat) : M Unit := do
  let c ← getCore
  makePending ls y { vec := vec, glob := true, here := true, due := c.clk + 1, mark := cause }

/-- A request with nothing filled in yet. -/
def blankReq : HomeReq := { src := 0, core := 0, ctx := 0, sid := 0, slot := 0, addr := 0, n := 0 }

/-- Queues a request at its home, through the package's ports. -/
def State.sendReq (s : State) (r : HomeReq) : State :=
  let dst := homeDie r.src r.home
  (s.updLd dst fun x => { x with homeQ := x.homeQ ++ [{ r with way := s.ticket r.src dst }] }).post r.src dst 0 (s.packed [])

/-- The step's own writes of some bytes. -/
def Ctx.ownOf (x : Ctx) (home a n : Nat) : Smap Own :=
  (List.range n).filterMap fun i => (x.mine home (a + i)).map fun o => (a + i, o)

/-- The requests of an access, one for each piece: what they have in common, the pieces, the byte at which the next one starts. -/
def reqsOf (x : Ctx) (r : HomeReq) : Nat → List (Phys × Nat) → List HomeReq
  | _, [] => []
  | part, (p, n) :: ps =>
    { r with home := p.home, addr := p.addr, n := n, ca := p.ca, comp := p.comp, poison := p.pr, page := p.page, part := part
             mine := if r.isLoad then x.ownOf p.home p.addr n else [] } :: reqsOf x r (part + n) ps

/-- Sends a load's or atomic's requests to their homes. -/
def sendHome (ls : Nat) (y : BitVec 4) (ps : List (Phys × Nat)) (r : HomeReq) : M Unit := do
  let s ← getS
  match ps.findSome? fun q => q.1.lost with
  | some c => lostSlot ls y r.vec c
  | none => do
    makePending ls y { vec := r.vec, glob := true, due := 0, parts := ps.length }
    let x := s.me
    let seq := if r.atom.isSome then x.stores + 1 else x.stores
    updMe fun x => { x with stores := seq }
    let rs := reqsOf x { r with src := s.cur.l, core := s.cur.k, ctx := s.cur.c, sid := x.sid, slot := ls, seq := seq } 0 ps
    updS fun s => rs.foldl State.sendReq s

def opLdg (l : BitVec 5) (b y : BitVec 4) (w : BitVec 3) (p : BitVec 2) (x : BitVec 6) : M Unit := do
  let n := widthBytes w
  let ea ← effective b x.toInt n
  needSlot l.toNat
  globalForm 1 p.toNat 1 ea n
  let ps ← placesOf 1 p.toNat 1 ea [(ea, n)]
  sendHome l.toNat y ps { blankReq with sx := widthSigned w }

def opLdvg (l : BitVec 5) (b y : BitVec 4) (s : BitVec 1) (p : BitVec 2) (x : BitVec 6) : M Unit := do
  let n := if s = 1#1 then 288 else 256
  let ea ← effective b x.toInt 256
  needSlot l.toNat
  globalForm 1 p.toNat 1 ea 32
  let ps ← placesOf 1 p.toNat 1 ea (pagePieces p.toNat ea n)
  sendHome l.toNat y ps { blankReq with vec := true }

/-- A global store's data reaches its home, unpublished (R165, R278): own stores of bytes at the places of the access, in order. -/
def storeGlobal : List (Phys × Nat) → List (BitVec 8) → M Unit
  | [], _ => pure ()
  | (p, n) :: r, bs => do
    updMe fun x => x.storeOwn p.home p.addr (bs.take n) p.comp p.ca p.page
    storeGlobal r (bs.drop n)

def opStg (b : BitVec 4) (w : BitVec 3) (p : BitVec 2) (x : BitVec 6) : M Unit := do
  let n := widthBytes w
  let ea ← effective b x.toInt n
  globalForm 1 p.toNat 2 ea n
  let ps ← placesOf 1 p.toNat 2 ea [(ea, n)]
  let v ← popScalar
  storeGlobal ps (natLe n v.toNat)

def opStvg (b : BitVec 4) (s : BitVec 1) (p : BitVec 2) (x : BitVec 6) : M Unit := do
  let n := if s = 1#1 then 288 else 256
  let ea ← effective b x.toInt 256
  globalForm 1 p.toNat 2 ea 32
  let ps ← placesOf 1 p.toNat 2 ea (pagePieces p.toNat ea n)
  let v ← popVector 1
  storeGlobal ps ((natLe 256 v.data.toNat ++ natLe 32 v.side.toNat).take n)

/-- pref (R279): when the translation succeeds, a request brings the line into its home die cache, and nothing else happens. -/
def opPref (b : BitVec 4) (p : BitVec 2) (x : BitVec 6) : M Unit := do
  let ea ← effective b x.toInt 128
  let s ← getS
  match s.translateNow s.cur.l s.cur.k s.cur.c p.toNat 1 ea 1 with
  | .lost e => if e = heldCode then stall plainWait else pure ()
  | _ => pure ()
  updS fun s =>
    if p = 1#2 then s
    else
      match s.translateNow s.cur.l s.cur.k s.cur.c p.toNat 1 ea 1 with
      | .ok q =>
        let s := s.afterXl s.cur.l s.cur.k p.toNat ea
        if q.home = hostKey then s
        else s.sendReq { blankReq with src := s.cur.l, core := s.cur.k, ctx := s.cur.c, sid := s.me.sid, home := q.home, addr := q.addr / 128 * 128, n := 128, ca := q.ca, pref := true }
      | _ => s

/-- The slot that an atomic names (R281). -/
def atomSlot (d : BitVec 4) (h : BitVec 1) : Nat := 16 * h.toNat + d.toNat

def opAmos (d s t o : BitVec 4) (w : BitVec 1) (p : BitVec 2) (y : BitVec 4) (h : BitVec 1) : M Unit := do
  let n := if w = 1#1 then 8 else 4
  let ls := atomSlot d h
  if p = 1#2 then barRestart 1 else pure ()
  let ea ← readAccess 1 s
  let v ← readAccess 1 t
  needSlot ls
  let (k, off) ← localPlace (p == 1#2) ea.toNat n n
  let u ← if o = 9#4 then popScalar else pure 0#64
  let c ← getCore
  if p = 1#2 then do
    makePending ls y { due := c.clk + 23 }
    sendNbr k { src := 0, ctx := 0, sid := 0, kind := 4, off := off, n := n, opn := o.toNat, v := v, w := u, slot := ls }
  else do
    let old := leNat (c.spRead 0 off n)
    let bad := c.spBad 0 off n
    let v' := v.toNat % 2 ^ (8 * n)
    makePending ls y { due := c.clk + 8, here := true, data := BitVec.ofNat 2048 old, mark := if bad then 0x1C0 else 0 }
    if bad || (o == 9#4 && old != v') then pure ()
    else updCore fun z => z.spWrite 0 off (natLe n (atomNew o.toNat (8 * n) old v' (u.toNat % 2 ^ (8 * n))))

def opAmog (d s t o : BitVec 4) (w : BitVec 1) (p : BitVec 2) (y : BitVec 4) (h : BitVec 1) : M Unit := do
  let n := if w = 1#1 then 8 else 4
  let ls := atomSlot d h
  barRestart 1
  let ea ← readAccess 1 s
  let v ← readAccess 1 t
  needSlot ls
  globalForm 1 p.toNat 3 ea.toNat n
  let ps ← placesOf 1 p.toNat 3 ea.toNat [(ea.toNat, n)]
  let u ← if o = 9#4 then popScalar else pure 0#64
  sendHome ls y ps { blankReq with atom := some o.toNat, v := v, w := u }

/-! What a neighbour's bank does (R56 to R58, R177) -/

/-- The answer to a request goes to its step's slot, wherever the step now is; its bank time adds to the arrival (R276). -/
def State.answerNbr (s : State) (l : Nat) (r : NbrReq) (data side : Nat) (bad : Bool) (time : Nat) : State :=
  s.updStep l r.sid fun x => x.fillSlot r.slot data side (if bad then 0x1C0 else 0) time

/-- A request performed at core `k`'s banks, exactly once (R57). -/
def State.serveNbr (s : State) (l k : Nat) (r : NbrReq) : State :=
  let y := s.core l k
  match r.kind with
  | 0 => s.answerNbr l r (extendVal r.sx r.n (leNat (y.spRead 0 r.off r.n))) 0 (y.spBad 0 r.off r.n) 1
  | 1 =>
    let (d, sd, bad) := y.readVec r.swz r.rl r.off r.side
    s.answerNbr l r d sd bad (vecTime r.swz r.rl r.off r.side)
  | 2 => s.updCore l k fun y => y.spWrite 0 r.off r.data
  | 3 =>
    let v : VReg := { data := BitVec.ofNat 2048 (leNat (r.data.take 256)), side := BitVec.ofNat 256 (leNat (r.data.drop 256)) }
    s.updCore l k fun y => y.writeVec r.swz r.rl r.off r.side v
  | _ =>
    let old := leNat (y.spRead 0 r.off r.n)
    let bad := y.spBad 0 r.off r.n
    let v := r.v.toNat % 2 ^ (8 * r.n)
    let s := if bad || (r.opn == 9 && old != v) then s
      else s.updCore l k fun y => y.spWrite 0 r.off (natLe r.n (atomNew r.opn (8 * r.n) old v (r.w.toNat % 2 ^ (8 * r.n))))
    s.answerNbr l r old 0 bad 1

/-- The step has scratchpad stores or atomics under way to other cores (R178, R179). -/
def Ld.nbrBusy (x : Ld) (sid : Nat) : Bool := x.cores.any fun k => k.2.nbrQ.any fun r => r.sid == sid && decide (2 ≤ r.kind)

/-! Rings (R283, R62) -/

/-- FREE (R61). -/
def Ring.free (r : Ring) : Nat := ringCount r.cfg - r.used
/-- A hod counted from RP or WP. -/
def Ring.hod (r : Ring) (from_ i : Nat) : Nat := (from_ + i) % ringCount r.cfg
/-- The first `n` hods from RP. -/
def Ring.oldest (r : Ring) (n : Nat) : List Nat := (List.range n).map (r.hod r.rp)
/-- A reserved hod whose sectors have all landed (R61). -/
def Ring.fullHod (r : Ring) (h : Nat) : Bool := mgetD r.counts h 0 == ringSectors r.cfg
/-- The test of rget n (R62). -/
def Ring.getReady (r : Ring) (n : Nat) : Bool := decide (n ≤ r.used) && (r.oldest n).all r.fullHod
/-- The offset of a hod (R59). -/
def Ring.offset (r : Ring) (h : Nat) : Nat := ringBase r.cfg + h * ringStage r.cfg

/-- The move of RP over `n` hods (R62): counts to zero, what a sector has had of its bytes with them (R64), tags consumed, the record cursor
back to 0 (R359). -/
def Ring.advance (r : Ring) (n : Nat) : Ring :=
  let hs := r.oldest n
  { r with
    rp := r.hod r.rp n, used := r.used - n, rcur := 0,
    counts := hs.foldl (fun m h => mdel m h) r.counts, tags := hs.foldl (fun m h => mdel m h) r.tags
    landed := r.landed.filter fun e => !hs.contains (e.1 / 1024) }

/-- Reads of hods that hold fresh tokens are acquires (R170); the tags are fresh no more. -/
def acquireTags (id : Nat) (r : Ring) (hods : List Nat) : M Unit :=
  if hods.any fun h => (mget r.tags h).any (·.fresh) then do
    updRing id fun r => { r with tags := r.tags.map fun t => if hods.contains t.1 then (t.1, { t.2 with fresh := false }) else t }
    acquireNow
  else pure ()

/-- Consumes the tokens of the first `n` hods and moves RP (R62, R143). -/
def consume (id : Nat) (r : Ring) (n : Nat) : M Unit := do
  let s ← getS
  let o := s.opOf s.cur.l s.me.sys.opid
  updRing id fun r => r.advance n
  updS fun s => s.countRecs s.cur.l o.parish (tagRecs r (r.oldest n))

/-- The hod count of a ring instruction (R283): an immediate or a register; 0x209 outside 1 to the stage count. -/
def ringN (s : BitVec 4) (c : BitVec 1) (n : BitVec 7) (r : Ring) : M Nat := do
  let k ← if c = 0#1 then pure n.toNat else do let v ← readAccess 1 s; pure v.toNat
  check (decide (1 ≤ k) && decide (k ≤ ringCount r.cfg)) 1 0x209
  pure k

/-- A ring wait (R65). -/
def ringWait (t : Nat) : Wait := { kindWait 2 with rhmask := BitVec.ofNat 16 (2 ^ t) }

def opRget (d s t : BitVec 4) (c : BitVec 1) (n : BitVec 7) : M Unit := do
  let (id, r) ← readRing 1 t.toNat
  let k ← ringN s c n r
  check (!r.ovf) 1 0x20C
  if r.getReady k then do
    acquireTags id r (r.oldest k)
    writeAccess d (BitVec.ofNat 64 (r.offset r.rp))
  else stall (ringWait t.toNat)

def opRput (d s t : BitVec 4) (c : BitVec 1) (n : BitVec 7) : M Unit := do
  let (_, r) ← readRing 1 t.toNat
  let k ← ringN s c n r
  if k ≤ r.free then writeAccess d (BitVec.ofNat 64 (r.offset r.wp)) else stall (ringWait t.toNat)

def opRadvR (s t : BitVec 4) (c : BitVec 1) (n : BitVec 7) : M Unit := do
  let (id, r) ← readRing 1 t.toNat
  let k ← ringN s c n r
  check (!r.ovf) 1 0x20C
  check (r.getReady k) 1 0x20A
  consume id r k

def opRadvW (s t : BitVec 4) (c : BitVec 1) (n : BitVec 7) : M Unit := do
  let (id, r) ← readRing 1 t.toNat
  let k ← ringN s c n r
  check (decide (k ≤ r.free)) 1 0x20B
  updRing id fun r =>
    { r with
      wp := r.hod r.wp k, used := r.used + k,
      counts := ((List.range k).map (r.hod r.wp)).foldl (fun m h => mput m h (ringSectors r.cfg)) r.counts }

/-- A ring control that no handle of the core has used. -/
def Core.newRing (x : Core) : Nat := x.rings.foldl (fun m r => max m (r.1 + 1)) 0

def opRset (s t : BitVec 4) : M Unit := do
  let v ← readAccess 1 s
  check (ringOk v.toNat) 1 0x208
  let x ← getMe
  let y ← getCore
  let id := (x.regs.rh.getD t.toNat none).getD y.newRing
  updMe fun x => { x with regs.rh := x.regs.rh.set t.toNat (some id) }
  updRing id fun r => { r with cfg := v, poison := false, ovf := false, rp := 0, wp := 0, used := 0, counts := [], landed := [], rcur := 0 }

/-! Loops, branches and calls (R284, R285) -/

/-- The cond codes of R261. -/
def condHolds (c : BitVec 3) (x y : Word) : Bool :=
  match c.toNat with
  | 0 => x == y
  | 1 => x != y
  | 2 => BitVec.slt x y
  | 3 => BitVec.sle x y
  | 4 => BitVec.ult x y
  | _ => BitVec.ule x y

/-- Opens a level over the `len` bundles that follow, or skips them (R266). -/
def openLoop (count len : Nat) : M Unit := do
  let s ← getS
  let x := s.me
  let fwd (n : Nat) : M Nat := reached 1 x.st.pc (s.forward s.cur.l s.cur.k s.cur.c n x.st.pc)
  let first ← fwd 1
  let last ← fwd len
  let exit ← fwd (len + 1)
  let frame := x.st.rstack.length
  check (!(x.st.loops.any fun v => v.frame == frame && decide (v.last < last))) 1 0x031
  if count = 0 then updMe fun x => { x with st.goto := .skip last exit }
  else do
    check (decide (x.st.loops.length < 4)) 1 0x031
    updMe fun x => { x with st.loops := { first := first, last := last, exit := exit, count := count, frame := frame } :: x.st.loops }

def opLoop (c l : BitVec 12) : M Unit := openLoop c.toNat (l.toNat + 1)
def opLoopa (s : BitVec 4) (l : BitVec 12) : M Unit := do
  let v ← readAccess 1 s
  check (decide (v.toNat < 2 ^ 32)) 1 0x035
  openLoop v.toNat (l.toNat + 1)

/-- The target of an off field of the bundle at the access position (R265). -/
def offTarget (o : BitVec 11) : M Nat := do
  let s ← getS
  reached 1 s.me.st.pc (s.target s.cur.l s.cur.k s.cur.c s.me.st.pc o.toInt)

def opBa (o : BitVec 11) : M Unit := do
  let va ← offTarget o
  updMe fun x => { x with st.goto := .taken va }
def opBca (c : BitVec 3) (s t : BitVec 4) (o : BitVec 11) : M Unit := do
  let x ← readAccess 1 s
  let y ← readAccess 1 t
  if condHolds c x y then opBa o else pure ()
def opCall (o : BitVec 11) : M Unit := do
  let s ← getS
  let x := s.me
  let va ← offTarget o
  let after ← reached 1 x.st.pc (s.forward s.cur.l s.cur.k s.cur.c 1 x.st.pc)
  check (!(x.st.loops.any fun v => v.frame == x.st.rstack.length && v.last == x.st.pc)) 1 0x031
  check (decide (x.st.rstack.length < 8)) 1 0x032
  updMe fun x => { x with st.rstack := { va := after, depth := x.st.loops.length } :: x.st.rstack, st.goto := .back va [] false }
def opRet : M Unit := do
  let x ← getMe
  match x.st.rstack with
  | [] => trapAt 1 0x033
  | e :: r => do
    check (!(x.st.loops.any fun v => v.frame == x.st.rstack.length)) 1 0x034
    if e.trap then updMe (·.leaveHandler e)
    else updMe fun x => { x with st.rstack := r, st.goto := .back e.va [] false }

/-! Fences (R178, R286) -/

/-- A store of the step to a home and address that `sel` picks is not performed yet (R166, R178): a commit holds it (R114), or the walk of
its page has not ended (R29). -/
def State.storesDue (s : State) (l k c : Nat) (sel : Nat → Nat → Bool) : Bool :=
  (s.ctx l k c).own.any fun p => p.2.any fun e => !e.2.pub && sel p.1 e.1 && (s.commitHolds p.1 e.1 1 || e.2.page.any (s.ld l).walking)

/-- What a fence waits for: 0 scratchpad, 1 engine, 2 global. -/
def State.fenceMet (s : State) (l k c kind : Nat) : Bool :=
  let x := s.ctx l k c
  match kind with
  | 0 => !(s.ld l).nbrBusy x.sid
  | 1 => x.st.run.isEmpty && x.loads.isEmpty && !((s.core l k).queue.any fun q => q.sid == x.sid)
  | _ => !s.storesDue l k c (fun _ _ => true) && !s.hasRequests l x.sid (fun _ => true) && x.regs.ls.all fun sl => !(sl.glob && sl.st == .pending)

/-- A fence stalls the access stream until its condition holds (R178). -/
def fenceOp (kind : Nat) : M Unit := do
  let s ← getS
  if s.fenceMet s.cur.l s.cur.k s.cur.c kind then updMe fun x => { x with fence := none }
  else stall (kindWait 7) fun s => s.updMe fun x => { x with fence := some kind }

def opFenceS : M Unit := fenceOp 0
def opFenceE : M Unit := fenceOp 1
def opFenceG : M Unit := fenceOp 2

end Sys2Proof.Machine
end

