-- ==== Sys2Proof/Machine/Scalar.lean ====
section
/-! DEFINITION. The X slot (R287 to R297): integer arithmetic, take and push, system registers, branches, scalar FP32. -/

namespace Sys2Proof.Machine

/-- A two-source form: sa is read before sb, and the result lands after `lat` cc (R287, R288). -/
def int2 (lat : Nat) (d a b : BitVec 5) (f : Word → Word → Word) : M Unit := do
  let x ← readScalar 3 a
  let y ← readScalar 3 b
  sendScalar d lat (f x y)
/-- A one-source form. -/
def int1 (d a : BitVec 5) (f : Word → Word) : M Unit := do
  let x ← readScalar 3 a
  sendScalar d 1 (f x)

def opAdd (d a b : BitVec 5) : M Unit := int2 1 d a b fun x y => x + y
def opSub (d a b : BitVec 5) : M Unit := int2 1 d a b fun x y => x - y
def opMul (d a b : BitVec 5) : M Unit := int2 3 d a b fun x y => x * y
def opMulh (d a b : BitVec 5) : M Unit := int2 3 d a b fun x y => ((x.signExtend 128 * y.signExtend 128).extractLsb' 64 64)
def opMulhn (d a b : BitVec 5) : M Unit := int2 3 d a b fun x y => ((x.zeroExtend 128 * y.zeroExtend 128).extractLsb' 64 64)

/-- Division of I64 or N64 with its borderline cases (R289): quotient and remainder. -/
def divRem (signed : Bool) (x y : Word) : Word × Word :=
  if y = 0#64 then (BitVec.allOnes 64, x)
  else if signed then (BitVec.ofInt 64 (x.toInt.tdiv y.toInt), BitVec.ofInt 64 (x.toInt.tmod y.toInt))
  else (BitVec.ofNat 64 (x.toNat / y.toNat), BitVec.ofNat 64 (x.toNat % y.toNat))

/-- The four divisions; Z asks for traps (R289). -/
def divide (signed wantRem : Bool) (d a b : BitVec 5) (z : BitVec 1) : M Unit := do
  let x ← readScalar 3 a
  let y ← readScalar 3 b
  check (!(z == 1#1 && y == 0#64)) 3 0x080
  check (!(z == 1#1 && signed && x == 0x8000000000000000#64 && y == BitVec.allOnes 64)) 3 0x081
  let r := divRem signed x y
  sendScalar d 24 (if wantRem then r.2 else r.1)
def opDiv (d a b : BitVec 5) (z : BitVec 1) : M Unit := divide true false d a b z
def opDivn (d a b : BitVec 5) (z : BitVec 1) : M Unit := divide false false d a b z
def opRem (d a b : BitVec 5) (z : BitVec 1) : M Unit := divide true true d a b z
def opRemn (d a b : BitVec 5) (z : BitVec 1) : M Unit := divide false true d a b z

def opAnd (d a b : BitVec 5) : M Unit := int2 1 d a b fun x y => x &&& y
def opOr (d a b : BitVec 5) : M Unit := int2 1 d a b fun x y => x ||| y
def opXor (d a b : BitVec 5) : M Unit := int2 1 d a b fun x y => x ^^^ y
def opAndn (d a b : BitVec 5) : M Unit := int2 1 d a b fun x y => x &&& ~~~y
def opShl (d a b : BitVec 5) : M Unit := int2 1 d a b fun x y => x <<< (y.toNat % 64)
def opShr (d a b : BitVec 5) : M Unit := int2 1 d a b fun x y => x >>> (y.toNat % 64)
def opSar (d a b : BitVec 5) : M Unit := int2 1 d a b fun x y => x.sshiftRight (y.toNat % 64)
def opRol (d a b : BitVec 5) : M Unit := int2 1 d a b fun x y => x.rotateLeft (y.toNat % 64)

/-- Leading zeros, trailing zeros and set bits of a word (R288). -/
def leadingZeros (x : Word) : Nat := ((List.range 64).find? fun i => x.getMsbD i).getD 64
def trailingZeros (x : Word) : Nat := ((List.range 64).find? fun i => x.getLsbD i).getD 64
def setCount (x : Word) : Nat := (List.range 64).countP fun i => x.getLsbD i
def opClz (d a : BitVec 5) : M Unit := int1 d a fun x => BitVec.ofNat 64 (leadingZeros x)
def opCtz (d a : BitVec 5) : M Unit := int1 d a fun x => BitVec.ofNat 64 (trailingZeros x)
def opPopc (d a : BitVec 5) : M Unit := int1 d a fun x => BitVec.ofNat 64 (setCount x)

def opMin (d a b : BitVec 5) : M Unit := int2 1 d a b fun x y => if x.sle y then x else y
def opMax (d a b : BitVec 5) : M Unit := int2 1 d a b fun x y => if x.sle y then y else x
def opMinn (d a b : BitVec 5) : M Unit := int2 1 d a b fun x y => if x.ule y then x else y
def opMaxn (d a b : BitVec 5) : M Unit := int2 1 d a b fun x y => if x.ule y then y else x
def opCmp (d a b : BitVec 5) (c : BitVec 3) : M Unit := int2 1 d a b fun x y => if condHolds c x y then 1#64 else 0#64
def opSel (d a b c : BitVec 5) : M Unit := do
  let x ← readScalar 3 a
  let y ← readScalar 3 b
  let z ← readScalar 3 c
  sendScalar d 1 (if z = 0#64 then y else x)

def opAddi (d a : BitVec 5) (i : BitVec 14) : M Unit := int1 d a fun x => x + i.signExtend 64
def opAndi (d a : BitVec 5) (i : BitVec 14) : M Unit := int1 d a fun x => x &&& i.signExtend 64
def opOri (d a : BitVec 5) (i : BitVec 14) : M Unit := int1 d a fun x => x ||| i.signExtend 64
def opXori (d a : BitVec 5) (i : BitVec 14) : M Unit := int1 d a fun x => x ^^^ i.signExtend 64
def opShli (d a : BitVec 5) (n : BitVec 6) : M Unit := int1 d a fun x => x <<< n.toNat
def opShri (d a : BitVec 5) (n : BitVec 6) : M Unit := int1 d a fun x => x >>> n.toNat
def opSari (d a : BitVec 5) (n : BitVec 6) : M Unit := int1 d a fun x => x.sshiftRight n.toNat
def opLi (d : BitVec 5) (i : BitVec 19) : M Unit := sendScalar d 1 (i.signExtend 64)
/-- lih extends the register that dst names, or b0 (R292). -/
def opLih (d : BitVec 5) (i : BitVec 19) : M Unit := do
  let base ← readScalar 3 d
  sendScalar d 1 ((base &&& 0x7FFFF#64) + (i.signExtend 64 <<< 19))

/-! Landing slots, queues (R69 to R71, R293) -/

/-- The take of a slot at the current execute bundle (R69): a Free slot is invalid, the wrong kind is tested before the bundle, late
data freezes (R70), marks trap (R124, R415); the slot is then Free. -/
def takeSlot (slot ls : Nat) (vec : Bool) : M LSlot := do
  let x ← getMe
  let sl := x.regs.ls.getD ls {}
  if sl.st = .free then trapAt slot (0x40 + 47) (regIndex 0 ls)
  else if sl.vec ≠ vec then trapAt slot 0x211
  else if x.st.cc < sl.visible then trapAt slot 0x210
  else if sl.st = .pending then freezeX { kindWait 1 with lsmask := BitVec.ofNat 32 (2 ^ ls) } true
  else if sl.mark ≠ 0 then trapAt slot sl.mark
  else do
    updMe fun x => { x with regs.ls := x.regs.ls.set ls {} }
    pure sl

def opTake (d l : BitVec 5) : M Unit := do
  let sl ← takeSlot 3 l.toNat false
  sendScalar d 1 (BitVec.ofNat 64 sl.data.toNat)
def opPush (a : BitVec 5) : M Unit := do
  let x ← readScalar 3 a
  sendScalar 1#5 1 x

/-! System registers (R254, R294) -/

/-- The execute bundle's own address and its view of the loop levels: the bundle at the head of `run`. -/
def Ctx.exBundle (x : Ctx) : Nat × List Level :=
  match x.st.run with
  | b :: _ => (b.va, b.loops)
  | [] => (x.st.pc, x.st.loops)

/-- The value that mfs reads (R254). -/
def Ctx.sysValue (x : Ctx) (n now : Nat) : Nat :=
  match n with
  | 0 => x.sys.stepId.toNat
  | 1 => x.sys.opid
  | 2 => x.sys.stamp.toNat
  | 3 => x.sys.core.toNat
  | 4 => x.st.cc
  | 5 => x.sys.late.toNat
  | 6 => x.sys.frz.toNat
  | 7 => x.sys.rmode.toNat
  | 8 => x.sys.vflags.toNat
  | 9 => x.sys.rflags.toNat
  | 10 => x.sys.trapc.toNat
  | 11 => x.sys.trapb.toNat
  | 12 => x.waitb now
  | _ => loopCounter x.exBundle.2 (n - 13)

def opMfs (d : BitVec 5) (n : BitVec 14) : M Unit := do
  let s ← getS
  check (!s.me.sys.poison.has n.toNat) 3 0x1C3
  sendScalar d 1 (BitVec.ofNat 64 (s.me.sysValue n.toNat s.ticks))

/-- A resident step moves its stamp (R203): one batch, +1 at each output port yard at the new stamp, −1 at the old one. -/
def moveStamp (v : Word) : M Unit := do
  let s ← getS
  let o := s.opOf s.cur.l s.me.sys.opid
  let old := s.me.sys.stamp.toNat
  check (!s.me.priv && o.pmode == 2) 3 0x2CA
  check (!isClosed v.toNat) 3 0x241
  check (decide (old ≤ v.toNat)) 3 0x242
  updS fun s => s.countRecs s.cur.l o.parish
    ((o.outYards.map fun y => (y, v.toNat, (1 : Int))) ++ o.outYards.map fun y => (y, old, (-1 : Int)))

/-- mts (R254, R255, R294): the write lands in the next cc, before the flags that land there. -/
def opMts (a : BitVec 5) (n : BitVec 14) : M Unit := do
  let x ← readScalar 3 a
  let c ← getMe
  check (c.priv || !(n == 5#14 || n == 6#14 || n == 10#14 || n == 11#14)) 3 0x01E
  if n = 2#14 then moveStamp x else pure ()
  sendResult 0 1 (.sysreg n.toNat) (.scalar x)

/-! Branches (R265, R295) -/

/-- The outcome of bx or jx reaches the access stream: the target, or what follows the bundle. A taken transfer meets the levels as the
bundle left them, with no end test (R265, R268). -/
def Ctx.resolve (x : Ctx) (dst : Option Nat) : Ctx :=
  match dst with
  | some va =>
    let open_ := ((x.st.run.head?).map (·.opened)).getD x.st.loops
    { x with st.pc := va, st.loops := closeLevels x.st.rstack.length va open_, st.await := false }
  | none => { x with st.pc := x.st.skipTo, st.loops := x.st.skipLoops, st.await := false }

def opBx (c : BitVec 3) (a b : BitVec 5) (o : BitVec 11) : M Unit := do
  let x ← readScalar 3 a
  let y ← readScalar 3 b
  if condHolds c x y then do
    let s ← getS
    let va ← reached 3 s.me.exBundle.1 (s.target s.cur.l s.cur.k s.cur.c s.me.exBundle.1 o.toInt)
    updMe (·.resolve (some va))
  else updMe (·.resolve none)

/-- jx (R295): a target that is misaligned or no header is 0x036; a fetch that faults is the target's own trap. -/
def opJx (a : BitVec 5) : M Unit := do
  let x ← readScalar 3 a
  let s ← getS
  check (x.toNat % 4 == 0) 3 0x036 x.toNat
  match s.codeWord s.cur.l s.cur.k s.cur.c x.toNat with
  | .ok w => do
    check (isMark w) 3 0x036 x.toNat
    updS fun s => s.codeRead s.cur.l s.cur.k s.cur.c x.toNat x.toNat
  | .error e => if e = heldCode then freezeX plainWait else pure ()
  updMe (·.resolve (some x.toNat))

/-! Scalar FP32 (R296, R297) -/

/-- The rounding mode of an fn[7:5] field (R296). -/
def scalarMode (r : BitVec 3) : M Nat := if r = 4#3 then getRm 3 else pure r.toNat

/-- A scalar's low half as FP32. -/
def asF32 (x : Word) : FV := fpValue 0 (x.toNat % 2 ^ 32)

/-- Sends a floating-point result: NV, OF and NX land with it (R296). -/
def sendFp (d : BitVec 5) (lat : Nat) (o : Out) : M Unit := sendScalar d lat (BitVec.ofNat 64 o.code) o.fl

/-- A two-source FP32 form. -/
def fp2 (d a b : BitVec 5) (r : BitVec 3) (f : Bool → FV → FV → FV) : M Unit := do
  let x ← readScalar 3 a
  let y ← readScalar 3 b
  let m ← scalarMode r
  sendFp d 4 (fpArith 0 m ((asF32 x).isSnan || (asF32 y).isSnan) (f (m == 2) (asF32 x) (asF32 y)))
def opFaddS (d a b : BitVec 5) (r : BitVec 3) : M Unit := fp2 d a b r fun dn x y => x.add y dn
def opFsubS (d a b : BitVec 5) (r : BitVec 3) : M Unit := fp2 d a b r fun dn x y => x.add y.neg dn
def opFmulS (d a b : BitVec 5) (r : BitVec 3) : M Unit := fp2 d a b r fun _ x y => x.mul y
def opFmaS (d a b : BitVec 5) (r : BitVec 3) (c : BitVec 5) : M Unit := do
  let x ← readScalar 3 a
  let y ← readScalar 3 b
  let z ← readScalar 3 c
  let m ← scalarMode r
  let nv := (asF32 x).isSnan || (asF32 y).isSnan || (asF32 z).isSnan
  sendFp d 4 (fpArith 0 m nv (((asF32 x).mul (asF32 y)).add (asF32 z) (m == 2)))

/-- A value converted to a 64-bit integer (R232, R297). -/
def toInt64 (signed : Bool) (mode : Nat) (v : FV) : Out :=
  let lo : Int := if signed then -(2 ^ 63) else 0
  let hi : Int := if signed then 2 ^ 63 - 1 else 2 ^ 64 - 1
  match v with
  | .nan sn => { code := 0, fl := fNZ ||| flagIf sn fNV }
  | .inf n => { code := wrap 64 (if n then lo else hi), fl := fSAT }
  | .fin n m e =>
    let (q, ix) := roundInt mode n m e
    if q < lo then { code := wrap 64 lo, fl := fSAT } else if hi < q then { code := wrap 64 hi, fl := fSAT }
    else { code := wrap 64 q, fl := flagIf ix fNX }

/-- The conversions of R297. -/
def fcvtOf (cv mode : Nat) (x : Word) : Out :=
  match cv with
  | 0 => toInt64 true mode (asF32 x)
  | 1 => toInt64 false mode (asF32 x)
  | 2 => narrow 0 mode (ofInt x.toInt)
  | 3 => narrow 0 mode (ofInt x.toNat)
  | 4 => convert 0 2 mode (asF32 x)
  | 5 => convert 2 0 mode (fpValue 2 (x.toNat % 2 ^ 16))
  | 6 => convert 0 1 mode (asF32 x)
  | 7 => convert 1 0 mode (fpValue 1 (x.toNat % 2 ^ 16))
  | 8 => let o := convert 0 5 mode (asF32 x); { o with code := wrap 64 (sext o.code 32) }
  | _ => convert 0 8 mode (asF32 x)

def opFcvt (d a : BitVec 5) (r : BitVec 3) (v : BitVec 4) : M Unit := do
  let x ← readScalar 3 a
  let m ← scalarMode r
  sendFp d 3 (fcvtOf v.toNat m x)

end Sys2Proof.Machine
end

