-- ==== Sys2Proof/Machine/Vector.lean ====
section
/-! DEFINITION. The V slot (R299 to R324). -/

namespace Sys2Proof.Machine

/-- A vector result before it is sent: data, side word, VFLAGS. -/
structure VOut where
  data : Nat
  side : Nat := 0
  fl   : Nat := 0

/-- Sends a vector result (R304). -/
def sendV (d : BitVec 4) (lat : Nat) (o : VOut) : M Unit := sendVector d lat o.data o.side o.fl

/-- Every block scale at 0x7F, so that elements carry their plain values (R227, R302). -/
def plainScales (blocks : Nat) : Nat := packNat 8 (List.replicate blocks 0x7F)

/-- An operand that fmt = 0xF expands (R88, R302): the working format, the operand's data and side word, the added latency. A bank
that does not suit is class 3 reason 1. -/
def expanded (f x : BitVec 4) (suits : Bank → Bool) (v : VReg) : M (Nat × Nat × Nat × Nat) :=
  if f ≠ 15#4 then pure (f.toNat, v.data.toNat, v.side.toNat, 0)
  else do
    let n := x.toNat / 4
    let b ← useBank 4 n
    check (suits b) 4 (cbCause 1 n 0)
    let d ← expandVector 4 n (indexWidth (x.toNat % 4)) b v
    pure (b.elem, d, plainScales 32, 1)
/-- Banks that suit conversion; arithmetic, comparison and reduction; quantisation and the transcendentals (R302). -/
def Bank.forCvt (b : Bank) : Bool := b.kind == 1 || b.kind == 2
def Bank.forArith (b : Bank) : Bool := b.forCvt && b.elem != 3 && b.elem != 4
def Bank.forFloat (b : Bank) : Bool := b.forCvt && decide (b.elem ≤ 2)

/-- The integers of a vector's elements (R224). -/
def ints (f data : Nat) : List Int := (elems (fw f) data).map fun c => if isSigned f then sext c (fw f) else (c : Int)

/-- Elements' results packed, their flags ORed. -/
def packOuts (f : Nat) (os : List Out) : VOut := { data := packNat (fw f) (os.map (·.code)), fl := os.foldl (fun a o => a ||| o.fl) 0 }

/-- BFP16 lanes encoded from exact values (R306). -/
def packBfp (vs : List FV) : VOut := let (d, s, fl) := bfpEncode vs; { data := d, side := s, fl := fl }

/-! Lane arithmetic (R306) -/

/-- fit of R306 over three operands; two-operand forms pass B twice. -/
def lane3 (f mode : Nat) (sat : Bool) (gF : FV → FV → FV → FV) (gI : Int → Int → Int → Int)
    (a b c : Nat × Nat) : VOut :=
  if isInt f then
    packOuts f (((ints f a.1).zip ((ints f b.1).zip (ints f c.1))).map fun p =>
      let x := gI p.1 p.2.1 p.2.2
      if sat then satInt f x else { code := wrap (fw f) x })
  else
    let ts := (values f a.1 a.2).zip ((values f b.1 b.2).zip (values f c.1 c.2))
    if f = 13 then packBfp (ts.map fun p => gF p.1 p.2.1 p.2.2)
    else packOuts f (ts.map fun p => fpArith f mode (p.1.isSnan || p.2.1.isSnan || p.2.2.isSnan) (gF p.1 p.2.1 p.2.2))

/-- A two-source lane form with an expandable vb. -/
def lane2 (lat : Nat) (d a b : BitVec 4) (f x : BitVec 4) (g : Nat → Nat → Nat × Nat → Nat × Nat → VOut) : M Unit := do
  let va ← readVector 4 a
  let vb ← readVector 4 b
  let (f', bd, bs, more) ← expanded f x Bank.forArith vb
  let m ← getRm 4
  sendV d (lat + more) (g f' m (va.data.toNat, va.side.toNat) (bd, bs))

def opVadd (d a b : BitVec 4) (s : BitVec 1) (f x : BitVec 4) : M Unit :=
  lane2 4 d a b f x fun f m va vb => lane3 f m (s == 1#1) (fun p q _ => p.add q (m == 2)) (fun p q _ => p + q) va vb vb
def opVsub (d a b : BitVec 4) (s : BitVec 1) (f x : BitVec 4) : M Unit :=
  lane2 4 d a b f x fun f m va vb => lane3 f m (s == 1#1) (fun p q _ => p.add q.neg (m == 2)) (fun p q _ => p - q) va vb vb
def opVmul (d a b : BitVec 4) (s : BitVec 1) (f x : BitVec 4) : M Unit :=
  lane2 4 d a b f x fun f m va vb => lane3 f m (s == 1#1) (fun p q _ => p.mul q) (fun p q _ => p * q) va vb vb

/-- vfma and vfms: exact, rounded once (R239). -/
def fusedV (neg : Bool) (d a b c f x : BitVec 4) : M Unit := do
  let va ← readVector 4 a
  let vb ← readVector 4 b
  let vc ← readVector 4 c
  let (f', bd, bs, more) ← expanded f x Bank.forArith vb
  let m ← getRm 4
  sendV d (4 + more) (lane3 f' m false (fun p q r => (p.mul q).add (if neg then r.neg else r) (m == 2))
    (fun p q r => if neg then p * q - r else p * q + r) (va.data.toNat, va.side.toNat) (bd, bs) (vc.data.toNat, vc.side.toNat))
def opVfma (d a b c f x : BitVec 4) : M Unit := fusedV false d a b c f x
def opVfms (d a b c f x : BitVec 4) : M Unit := fusedV true d a b c f x

/-- vmin and vmax (R307). -/
def pickV (wantMax : Bool) (f : Nat) (va vb : Nat × Nat) : VOut :=
  if isInt f then packOuts f (((ints f va.1).zip (ints f vb.1)).map fun p => { code := wrap (fw f) (if wantMax then max p.1 p.2 else min p.1 p.2) })
  else
    let vs := ((values f va.1 va.2).zip (values f vb.1 vb.2)).map fun p => fpPick wantMax p.1 p.2
    if f = 13 then packBfp vs else packOuts f (vs.map (fpArith f 0 false))
def opVmin (d a b f x : BitVec 4) : M Unit := lane2 2 d a b f x fun f _ va vb => pickV false f va vb
def opVmax (d a b f x : BitVec 4) : M Unit := lane2 2 d a b f x fun f _ va vb => pickV true f va vb

/-- vabs and vneg (R308). -/
def unaryV (d a : BitVec 4) (s : BitVec 1) (f x : BitVec 4) (gF : FV → FV) (gI : Int → Int) : M Unit := do
  let va ← readVector 4 a
  let (f', ad, as_, more) ← expanded f x Bank.forArith va
  sendV d (2 + more) (lane3 f' 0 (s == 1#1) (fun p _ _ => gF p) (fun p _ _ => gI p) (ad, as_) (ad, as_) (ad, as_))
def opVabs (d a : BitVec 4) (s : BitVec 1) (f x : BitVec 4) : M Unit := unaryV d a s f x FV.abs fun p => (p.natAbs : Int)
def opVneg (d a : BitVec 4) (s : BitVec 1) (f x : BitVec 4) : M Unit := unaryV d a s f x FV.neg fun p => -p

/-! Comparison, selection, logic, shifts (R309 to R312) -/

/-- One comparison of vcmp (R309). -/
def cmpV (c : Nat) (p q : FV) : Bool :=
  match c with
  | 0 => p.eqv q
  | 1 => !p.eqv q
  | 2 => !p.isNan && !q.isNan && p.lt q
  | _ => !p.isNan && !q.isNan && !q.lt p
def opVcmp (d a b : BitVec 4) (c : BitVec 2) (f x : BitVec 4) : M Unit :=
  lane2 2 d a b f x fun f _ va vb =>
    packOuts f (((values f va.1 va.2).zip (values f vb.1 vb.2)).map fun p =>
      { code := if cmpV c.toNat p.1 p.2 then 2 ^ fw f - 1 else 0, fl := flagIf (p.1.isSnan || p.2.isSnan) fNV })

def opVsel (d a b c f : BitVec 4) : M Unit := do
  let va ← readVector 4 a
  let vb ← readVector 4 b
  let vc ← readVector 4 c
  let w := fw f.toNat
  let es := ((elems w va.data.toNat).zip ((elems w vb.data.toNat).zip (elems w vc.data.toNat)))
  sendV d 2 { data := packNat w (es.map fun p => if p.2.2 ≠ 0 then p.1 else p.2.1) }

/-- The bitwise forms act on data bits and side word together (R311). -/
def logicV (d a b : BitVec 4) (g : {n : Nat} → BitVec n → BitVec n → BitVec n) : M Unit := do
  let va ← readVector 4 a
  let vb ← readVector 4 b
  sendV d 2 { data := (g va.data vb.data).toNat, side := (g va.side vb.side).toNat }
def opVand (d a b : BitVec 4) : M Unit := logicV d a b fun p q => p &&& q
def opVor (d a b : BitVec 4) : M Unit := logicV d a b fun p q => p ||| q
def opVxor (d a b : BitVec 4) : M Unit := logicV d a b fun p q => p ^^^ q
def opVnot (d a : BitVec 4) : M Unit := logicV d a a fun p _ => ~~~p

/-- Shifts of elements of width `w` by naturals (R312). -/
def shiftV (d a b f : BitVec 4) (g : Nat → Nat → Nat → Nat) : M Unit := do
  let va ← readVector 4 a
  let vb ← readVector 4 b
  let w := fw f.toNat
  sendV d 2 { data := packNat w (((elems w va.data.toNat).zip (elems w vb.data.toNat)).map fun p => g w p.1 p.2) }
def opVshl (d a b f : BitVec 4) : M Unit := shiftV d a b f fun w p k => if w ≤ k then 0 else p <<< k
def opVshr (d a b f : BitVec 4) : M Unit := shiftV d a b f fun w p k => if w ≤ k then 0 else p >>> k
def opVsar (d a b f : BitVec 4) : M Unit := shiftV d a b f fun w p k => wrap w (sext p w >>> min k w)

/-! Conversion and quantisation (R313 to R315) -/

/-- Elements of a format in a vector (R299). -/
def countOf (f : Nat) : Nat := if f = 13 then 64 else 2048 / fw f

/-- A conversion's elements (R313): the part, or zero fill. -/
def convertPart (s c mode p : Nat) (vs : List FV) : List Out :=
  let ns := countOf s
  let nd := countOf c
  if nd ≤ ns then ((vs.drop (p * nd)).take nd).map (convert s c mode)
  else vs.map (convert s c mode) ++ List.replicate (nd - ns) { code := 0 }

/-- The side word of a conversion's destination (R227, R313). -/
def cvtSide (c : Nat) : Nat := if c = 3 ∨ c = 4 then plainScales 8 else if c = 11 then plainScales 16 else 0

def opVcvt (d a : BitVec 4) (p : BitVec 3) (c f x : BitVec 4) : M Unit := do
  let va ← readVector 4 a
  let (s, ad, as_, more) ← expanded f x Bank.forCvt va
  let ns := countOf s
  let nd := countOf c.toNat
  check (if nd ≤ ns then decide (p.toNat < ns / nd) else p == 0#3) 4 0x024
  let m ← getRm 4
  let o := packOuts c.toNat (convertPart s c.toNat m p.toNat (values s ad as_))
  sendV d (3 + more) { o with side := cvtSide c.toNat }

/-- Blocks of 32 values. -/
def blocksOf (n : Nat) (vs : List FV) : List (List FV) := (List.range n).map fun b => (vs.drop (32 * b)).take 32

/-- vqnt of values into format `c`; `given` is the side word that supplies scales (R314). -/
def quantise (c : Nat) (given : Option Nat) (vs : List FV) : VOut :=
  if c = 13 then packBfp (vs.take 64)
  else
    let nb := min vs.length (countOf c) / 32
    let blocks := blocksOf nb vs
    if c = 12 then
      let qs := blocks.map quantX
      { data := packNat 4 (qs.flatMap (·.1))
        side := packNat 8 (qs.map (·.2.1)) ||| (packNat 8 (qs.map (·.2.2.1)) <<< 128)
        fl := qs.foldl (fun a q => a ||| q.2.2.2) 0 }
    else
      let qs := (blocks.zip (List.range nb)).map fun p =>
        match given with
        | some sd => quantGiven c (bits sd (8 * p.2) 8) p.1
        | none => quantFree c p.1
      { data := packNat (fw c) (qs.flatMap (·.1)), side := packNat 8 (qs.map (·.2.1)), fl := qs.foldl (fun a q => a ||| q.2.2) 0 }

def opVqnt (d a s c f x : BitVec 4) : M Unit := do
  let va ← readVector 4 a
  let given ← if s = 0#4 then pure none else do let w ← readVector 4 s; pure (some w.side.toNat)
  let (sf, ad, as_, more) ← expanded f x Bank.forFloat va
  sendV d (6 + more) (quantise c.toNat given (values sf ad as_))

def opVdqt (d a : BitVec 4) (p : BitVec 3) (c f : BitVec 4) : M Unit := do
  let va ← readVector 4 a
  let m ← getRm 4
  sendV d 4 (packOuts c.toNat (convertPart f.toNat c.toNat m p.toNat (values f.toNat va.data.toNat va.side.toNat)))

/-! Codebook expansion and search (R316, R317) -/

/-- vcbx (R316). The expansion has a side word of zero (R86), also through a bank of E4M3 or E5M2 elements, where R227 has writers of these formats
write 0x7F: DEDUCED (log entry 127). -/
def opVcbx (d a x : BitVec 4) : M Unit := do
  let va ← readVector 4 a
  let n := x.toNat / 4
  let w := indexWidth (x.toNat % 4)
  let b ← useBank 4 n
  check (b.kind != 0) 4 (cbCause 1 n 0)
  let data ← if b.kind ≤ 2 then expandVector 4 n w b va
    else do
      let es ← readEntries 4 n b 0 (indices w 256 va.data.toNat)
      let k := if b.kind = 3 then 6 else 5
      pure (packNat 8 (es.map fun e => wrap 8 (sext e k)))
  sendV d 2 { data := data }

/-- The better of two candidates for a value (R317): nearer, and at equal distance the lower index, which comes first. -/
def nearer (a : FV) (best : Nat × FV) (c : Nat × FV) : Bool :=
  match a, best.2, c.2 with
  | .inf n, v, w => if n then w.lt v else v.lt w
  | _, .inf _, .fin _ _ _ => true
  | .fin n m e, .fin n1 m1 e1, .fin n2 m2 e2 =>
    (((FV.fin n m e).add (FV.fin (!n2) m2 e2) false).abs).lt (((FV.fin n m e).add (FV.fin (!n1) m1 e1) false).abs)
  | _, _, _ => false

/-- The index of the nearest candidate. -/
def nearest (a : FV) : List (Nat × FV) → Option Nat
  | [] => none
  | c :: r => some (r.foldl (fun best x => if nearer a best x then x else best) c).1

def opVcbi (d a x : BitVec 4) : M Unit := do
  let va ← readVector 4 a
  let n := x.toNat / 4
  let w := indexWidth (x.toNat % 4)
  let b ← useBank 4 n
  check (b.kind == 1) 4 (cbCause 1 n 0)
  let f := b.elem
  let valid := (List.range (2 ^ w)).filter b.valid
  check (!(valid.any b.poison.has)) 4 0x1C3
  let es := valid.map fun i => (i, codeValue f (b.entry i % 2 ^ fw f))
  let cands := es.filter fun e => !e.2.isNan
  let nan := es.find? fun e => e.2.isNan
  let vs := values f va.data.toNat va.side.toNat
  check (!(cands.isEmpty && vs.any fun v => !v.isNan)) 4 (cbCause 0 n 0)
  let idx := vs.map fun v => if v.isNan then ((nan.map (·.1)).getD 0) else (nearest v cands).getD 0
  sendV d 7 { data := packNat w idx, fl := flagIf (nan.isNone && vs.any FV.isNan) fNV }

/-! Reduction (R238, R318) -/

/-- One node of the tree in the destination format. -/
def redNode (o f mode a b : Nat) : Out :=
  if isInt f then
    let v (c : Nat) : Int := if isSigned f then sext c (fw f) else c
    if o = 0 then satInt f (v a + v b) else { code := wrap (fw f) (if o = 1 then max (v a) (v b) else min (v a) (v b)) }
  else
    let x := fpValue f a
    let y := fpValue f b
    if o = 0 then fpArith f mode false (x.add y (mode == 2)) else fpArith f 0 false (fpPick (o == 1) x y)

/-- The tree of R238 with `fuel` halvings. -/
def redTree (o f mode : Nat) : Nat → List Nat → Nat → Out
  | 0, ps, fl => { code := ps.headD 0, fl := fl }
  | n + 1, ps, fl =>
    let h := 2 ^ n
    let qs := ((ps.take h).zip (ps.drop h)).map fun p => redNode o f mode p.1 p.2
    redTree o f mode n (qs.map (·.code)) (qs.foldl (fun a q => a ||| q.fl) fl)

def opVred (d a b : BitVec 4) (o : BitVec 2) (f x : BitVec 4) : M Unit := do
  let va ← readVector 4 a
  let (s, ad, as_, more) ← expanded f x Bank.forArith va
  check (vredDest o.toNat s b.toNat) 4 0x024
  let m ← getRm 4
  let ps := (values s ad as_).map (convert s b.toNat m)
  let r := redTree o.toNat b.toNat m (Nat.log2 (countOf s)) (ps.map (·.code)) (ps.foldl (fun a q => a ||| q.fl) 0)
  sendV d (6 + more) { data := r.code, fl := r.fl }

/-! Permutation, broadcast, slides and zips (R319, R320) -/

/-- A rearrangement of elements of fmt's width. -/
def moveV (d a b f : BitVec 4) (g : List Nat → List Nat → List Nat) : M Unit := do
  let va ← readVector 4 a
  let vb ← readVector 4 b
  let w := fw f.toNat
  sendV d 2 { data := packNat w (g (elems w va.data.toNat) (elems w vb.data.toNat)) }
def opVperm (d a b f : BitVec 4) : M Unit := moveV d a b f fun p q => q.map fun i => p.getD (i % p.length) 0
def opVbcast (d a : BitVec 4) (k : BitVec 8) (f : BitVec 4) : M Unit := do
  let va ← readVector 4 a
  let w := fw f.toNat
  sendV d 2 { data := packNat w (List.replicate (2048 / w) (bits va.data.toNat (w * k.toNat) w)) }
def opVsplat (d : BitVec 4) (i : BitVec 12) (f : BitVec 4) : M Unit := do
  let m ← getRm 4
  let o := if isInt f.toNat then satInt f.toNat i.toInt else narrow f.toNat m (ofInt i.toInt)
  sendV d 2 { data := packNat (fw f.toNat) (List.replicate (2048 / fw f.toNat) o.code), fl := o.fl }

/-- Units moved by K places (R320). -/
def slideUnits (up : Bool) (k : Nat) (us : List Nat) : List Nat :=
  (List.range us.length).map fun u => if up then (if k ≤ u then us.getD (u - k) 0 else 0) else us.getD (u + k) 0
def opVslide (d a b : BitVec 4) (r : BitVec 1) (f : BitVec 4) : M Unit := do
  let va ← readVector 4 a
  let vb ← readVector 4 b
  let k := bits vb.data.toNat 0 32
  let up := r == 1#1
  let blocky := f == 3#4 || f == 4#4 || f == 11#4 || f == 12#4
  let w := if blocky then 32 * fw f.toNat else fw f.toNat
  let n := 2048 / w
  let data := packNat w (slideUnits up k (elems w va.data.toNat))
  let bytesAt (lo : Nat) : List Nat := (List.range n).map fun u => bits va.side.toNat (lo + 8 * u) 8
  let side := if !blocky then 0
    else packNat 8 (slideUnits up k (bytesAt 0)) ||| (if f = 12#4 then packNat 8 (slideUnits up k (bytesAt 128)) <<< 128 else 0)
  sendV d 2 { data := data, side := side }
def opVzip (d a b : BitVec 4) (h : BitVec 1) (f : BitVec 4) : M Unit :=
  moveV d a b f fun p q =>
    let n := p.length / 2
    (List.range n).flatMap fun e => [p.getD (h.toNat * n + e) 0, q.getD (h.toNat * n + e) 0]
def opVunzip (d a b : BitVec 4) (h : BitVec 1) (f : BitVec 4) : M Unit :=
  moveV d a b f fun p q => ((List.range (p.length / 2)).map fun e => p.getD (2 * e + h.toNat) 0) ++
    (List.range (p.length / 2)).map fun e => q.getD (2 * e + h.toNat) 0

/-! Transcendentals (R321, R322) -/

/-- One of the four functions on every element. -/
def transV (fn : Nat) (d a f x : BitVec 4) : M Unit := do
  let va ← readVector 4 a
  let (f', ad, as_, more) ← expanded f x Bank.forFloat va
  let m ← getRm 4
  sendV d (8 + more) (packOuts f' ((values f' ad as_).map (transcend fn f' m)))
def opVexp2 (d a f x : BitVec 4) : M Unit := transV 0 d a f x
def opVlog2 (d a f x : BitVec 4) : M Unit := transV 1 d a f x
def opVrcp (d a f x : BitVec 4) : M Unit := transV 2 d a f x
def opVrsq (d a f x : BitVec 4) : M Unit := transV 3 d a f x

/-! Landing and the vector data queue (R323, R324) -/

def opVtake (d l : BitVec 4) (h : BitVec 1) : M Unit := do
  let sl ← takeSlot 4 (16 * h.toNat + l.toNat) true
  sendV d 1 { data := sl.data.toNat, side := sl.side.toNat }
def opVpush (a : BitVec 4) : M Unit := do
  let va ← readVector 4 a
  let id ← reserveVector 4
  sendResult 1 1 (.queue id) (.vec va.data va.side)

end Sys2Proof.Machine
end

