-- ==== Sys2Proof/Machine/Race.lean ====
section
/-! DEFINITION. The race array (R325 to R346) and the D slot (R347 to R373): claims, plane loads, passes, the comb, accumulator tiles,
trims and counters, and the events of passes, comb operations and loads in flight. -/

namespace Sys2Proof.Machine

/-! Planes and tiles -/

/-- A course of a plane: 256 D6 codes (R75); undefined contents are free. -/
def Plane.course (p : Plane) (i : Nat) : Nat := ((mget p.courses i).getD (Config.freeCourse p.undef i)).toNat
/-- A plane's exponent. -/
def Plane.expo (p : Plane) : Int := (p.exp.map (·.toInt)).getD ((Config.freeExponent p.undef).setWidth 8).toInt
/-- A weight (R325). -/
def weight (course c : Nat) : Int := sext (bits course (6 * c) 6) 6
/-- A row of a tile (R73); undefined contents are free. -/
def Tile.row (t : Tile) (r : Nat) : List Int :=
  (mget t.rows r).getD (if t.zero then List.replicate 256 0 else (List.range 256).map fun c => (Config.freeMantissa t.undef (256 * r + c)).toInt)
/-- A tile's exponent. -/
def Tile.expo (t : Tile) : Int := t.exp.getD (Config.freeExponent t.undef).toInt
/-- Every mantissa changed by one function. -/
def Tile.mapRows (t : Tile) (f : Int → Int) : Tile := { t with rows := (List.range 64).map fun r => (r, (t.row r).map f) }
/-- Whether some elements from one on are poisoned. -/
def Tile.badAt (t : Tile) (i n : Nat) : Bool := t.poison.any fun e => decide (i ≤ e.1) && decide (e.1 < i + n)

/-- x / 2^k rounded to nearest, ties to even (R230, R240). -/
def rneShift (x : Int) (k : Nat) : Int :=
  let (q, _) := roundShift 0 (decide (x < 0)) x.natAbs k
  if x < 0 then -(q : Int) else q
/-- rne(S × 2^d); shifts past what 48 bits can hold are cut. -/
def alignSum (s d : Int) : Int := if 0 ≤ d then s * ((2 ^ (min d 100).toNat : Nat) : Int) else rneShift s (min (-d) 100).toNat

/-- A core's retirement (R342). -/
def Core.retired (x : Core) : Bool := bit x.calstat.toNat 0

/-- The execute stream's current bundle number and its address. -/
def dHere : M (Nat × Nat) := do
  let x ← getMe
  pure (x.st.cc, x.exBundle.1)

/-- A scalar result of a D word (R347). -/
def sendD (lat : Nat) (v : Word) : M Unit := sendResult 2 lat .age (.scalar v)

/-- The context holds the object (R349). -/
def needHeld (tile : Bool) (n : Nat) : M Unit := do
  let x ← getMe
  let y ← getCore
  let c := y.claim tile n
  check (c.st == .held && c.owner == x.sid) 5 (if tile then 0x109 else 0x108)
/-- The array is in service (R342, R349). -/
def needArray : M Unit := do
  let y ← getCore
  check (!y.retired) 5 0x103

/-- The bank and width of a purpose in the selection (R89): 0 activations, 1 weights, 2 comb values. -/
def selected (purpose : Nat) : M (Nat × Nat × Bank) := do
  let x ← getMe
  let n := bits x.sys.sel.toNat (4 * purpose) 2
  let b ← getBank n
  pure (n, indexWidth (bits x.sys.sel.toNat (4 * purpose + 2) 2), b)

/-- A word that expands through the selected bank uses the selection and the bank's registers (R415, R437). -/
def needBank (x : BitVec 1) (b : Bank) : M Unit := do
  let c ← getMe
  check (x == 0#1 || (!c.sys.poison.has 32 && b.regsClean)) 5 0x1C3

/-! Delay configuration (R330, R351) -/

/-- Fields of a delay configuration register. -/
def dcSpan (v : Nat) : Nat := bits v 24 4
def dcStep (v : Nat) : Nat := bits v 16 6
def dcRow (v : Nat) : Nat := bits v 8 6
def dcNrow (v : Nat) : Nat := bits v 0 7
/-- A legal value (R330). -/
def dcOk (v : Nat) : Bool :=
  bits v 28 28 == 0 && bits v 22 2 == 0 && bits v 14 2 == 0 && bits v 7 1 == 0 &&
  decide (8 ≤ dcSpan v) && decide (dcSpan v ≤ 14) && decide (1 ≤ dcNrow v) && decide (dcNrow v ≤ 64)

def opDcw (a : BitVec 5) (n : BitVec 4) : M Unit := do
  let v ← readScalar 5 a
  check (dcOk v.toNat) 5 0x102
  updMe fun x => { x with regs.dc := x.regs.dc.set n.toNat { val := v, valid := true } }
def opDcr (n : BitVec 4) : M Unit := do
  let v ← readDc 5 n.toNat
  sendD 1 v

/-! Claims (R77, R352, R353) -/

/-- When a claimant's rclaim was first tested (R78). -/
def Ctx.claimAt (x : Ctx) (now : Nat) : Nat := (x.claimWait.map fun w => w.2.2).getD now

/-- One claimant is served before another: effective priority, then the age of the rclaim (R78). -/
def claimsBefore (now : Nat) (a b : Ctx) : Bool := decide (b.effPri < a.effPri) || (a.effPri == b.effPri && decide (a.claimAt now ≤ b.claimAt now))

/-- The claimants of an object that are on its core and wait, with their contexts. -/
def State.claimants (s : State) (l k : Nat) (c : Claim) : List (Nat × Ctx) :=
  (s.core l k).ctxs.filter fun e => decide (e.1 < 4) && e.2.live && c.waiting.contains e.2.sid

/-- The claimants of an object that have left its core. A context that is out completes no claim (R208): none on the core waits for it. -/
def State.claimantsOut (s : State) (l k : Nat) (c : Claim) : List Ctx :=
  ((s.ld l).saved.filter fun v => v.2.core == k && c.waiting.contains v.2.ctx.sid).map fun v => v.2.ctx

/-- A claimant goes before every other that waits for the object: one on the core before the others there, one that is out when none is there and
it goes before the others that are out (R78, R208). -/
def State.claimFirst (s : State) (l k seat : Nat) (c : Claim) (x : Ctx) : Bool :=
  ((s.claimants l k c).all fun e => e.2.sid == x.sid || (decide (seat < 4) && claimsBefore s.ticks x e.2)) &&
  (decide (seat < 4) || (s.claimantsOut l k c).all fun v => v.sid == x.sid || claimsBefore s.ticks x v)

/-- Reserves an object for the current context; false when it must wait (R352). -/
def reserveObject (tile : Bool) (n : Nat) : M Bool := do
  let x ← getMe
  let y ← getCore
  let s ← getS
  let c := y.claim tile n
  if c.st == .free && s.claimFirst s.cur.l s.cur.k s.cur.c c x then do
    updCore fun y => y.setClaim tile n fun c =>
      { c with st := .reserved, owner := x.sid, readers := 0, faulted := 0, again := 1, waiting := c.waiting.filter (· != x.sid) }
    pure true
  else if (c.st == .reserved || c.st == .held) && c.owner == x.sid then do
    updCore fun y => y.setClaim tile n fun c => { c with again := c.again + 1 }
    pure true
  else pure false

/-- A claim wait (R211). -/
def claimWait (tile : Bool) (n : Nat) : Wait :=
  if tile then { kindWait 3 with accwait := BitVec.ofNat 4 (2 ^ n) } else { kindWait 3 with plwait := BitVec.ofNat 4 (2 ^ n) }

/-- The object becomes the context's (R77, R352): its contents are undefined until written. -/
def takeObject (tile : Bool) (n : Nat) : M Unit := do
  let d ← fresh
  updCore fun y => (y.undefine tile n d).setClaim tile n fun c => { c with st := .held, gen := c.gen + 1, again := c.again - 1 }

/-- rclaim in the execute stream (R352): the reserved object is held from here on; one that is held already stays as it is (R77). -/
def opRclaim (o : BitVec 1) (n : BitVec 2) : M Unit := do
  let x ← getMe
  let y ← getCore
  let s ← getS
  let tile := o == 1#1
  let c := y.claim tile n.toNat
  if c.owner == x.sid && c.st == .held then updCore fun y => y.setClaim tile n.toNat fun c => { c with again := c.again - 1 }
  else if c.owner == x.sid && c.st == .reserved then takeObject tile n.toNat
  else if c.st == .free && s.claimFirst s.cur.l s.cur.k s.cur.c c x then do
    let _ ← reserveObject tile n.toNat
    takeObject tile n.toNat
  else freezeX (claimWait tile n.toNat)

/-- A release (R77, R353): a plane's loads end, its contents are undefined. -/
def releaseObject (tile : Bool) (n : Nat) : M Unit := do
  let x ← getMe
  let d ← fresh
  updCore fun y => y.setClaim tile n Claim.released
  if !tile && x.loads.any fun v => v.plane == n then do
    updMe fun x => { x with loads := x.loads.filter fun v => v.plane != n }
    updCore fun y => y.undefine false n d
  else pure ()

def opRrel (o : BitVec 1) (n : BitVec 2) : M Unit := do
  let x ← getMe
  let y ← getCore
  let tile := o == 1#1
  let c := y.claim tile n.toNat
  check (c.st == .held && c.owner == x.sid) 5 (if tile then 0x10B else 0x10A)
  releaseObject tile n.toNat

/-! Plane loads (R354 to R357) -/

def opRldw (a b : BitVec 5) (x : BitVec 1) (p : BitVec 2) : M Unit := do
  let sa ← readScalar 5 a
  let sb ← readScalar 5 b
  needHeld false p.toNat
  needArray
  let (n, w, bk) ← selected 1
  needBank x bk
  check (x == 0#1 || bk.kind == 3) 5 (cbCause 1 n 2)
  let count := bits sb.toNat 16 6 + 1
  let size := if x = 1#1 then 32 * w else 192
  check (sa.toNat % 4 == 0) 5 0x202 sa.toNat
  check (decide (sa.toNat + count * size ≤ spadEnd)) 5 0x200 sa.toNat
  let (seq, va) ← dHere
  let y ← getCore
  updMe fun c =>
    { c with loads := c.loads ++ [{ seq := seq, va := va, plane := p.toNat, claim := (y.claim false p.toNat).gen, first := bits sb.toNat 8 6,
                                    count := count, off := sa.toNat, exp := sb.setWidth 8, bank := if x = 1#1 then some n else none, book := bk, width := w }] }

/-- A bank that an rldw in flight reads through is locked (R97). -/
def Core.locked (x : Core) (bank : Nat) : Bool := x.ctxs.any fun c => c.2.live && c.2.loads.any fun v => v.bank == some bank

/-- The bits that a course gives each column. -/
def Load.colBits (v : Load) : Nat := if v.bank.isSome then v.width else 6

/-- The code of a column in a course under way: its 6 bits, or the cause of poisoned data or of a bad index (R354, R357). -/
def Load.code (v : Load) (bad : Nat → Bool) (bs : Nat) (c : Nat) : Except Nat Nat :=
  if bad c then .error 0x1C2 else
  match v.bank with
  | none => .ok (bits bs (6 * c) 6)
  | some n =>
    let i := bits bs (v.width * c) v.width
    if !v.book.valid i then .error (cbCause 0 n 2)
    else if v.book.poison.has i then .error 0x1C3
    else .ok (bits (v.book.entry i) 0 6)

/-- The cause of a reserved code (R357). -/
def Load.reservedCause (v : Load) : Nat := match v.bank with | none => 0x0E2 | some n => cbCause 2 n 2

/-- The course image: codes packed, or the column and cause of the first bad one. -/
def Load.course (v : Load) (bad : Nat → Bool) (bs : Nat) : Except (Nat × Nat) Nat :=
  (List.range 256).reverse.foldl (fun (acc : Except (Nat × Nat) Nat) c =>
    match v.code bad bs c with
    | .error e => .error (c, e)
    | .ok k =>
      if k = 32 then .error (c, v.reservedCause)
      else acc.map fun rest => k + 64 * rest) (.ok 0)

/-- The next course of a load commits (R355), or its fault ends the load (R357). -/
def State.commitCourse (s : State) (l k c : Nat) (v : Load) : State :=
  let y := s.core l k
  let size := if v.bank.isSome then 32 * v.width else 192
  let off := v.off + v.next * size
  let ci := (v.first + v.next) % 64
  let same (u : Load) : Bool := u.seq == v.seq && u.plane == v.plane
  let drop (s : State) : State := s.updCtx l k c fun x => { x with loads := x.loads.filter fun u => !same u }
  let fault (cause col : Nat) : State :=
    let s := drop s
    let s := { s with draw := s.draw + 1 }
    let s := s.updCore l k fun y => y.undefine false v.plane s.draw
    s.updCtx l k c fun x => x.later { cause := cause, kind := 1, va := some v.va, slot := 5, index := col, course := ci }
  let w := v.colBits
  match v.course (fun col => y.spBad 0 (off + w * col / 8) ((w * col % 8 + w + 7) / 8)) (leNat (y.spRead 0 off size)) with
  | .error (col, e) => fault e col
  | .ok img =>
    let s := s.updCore l k fun y =>
      { y with planes := y.planes.modify v.plane fun p =>
        { p with courses := mput p.courses ci (BitVec.ofNat 1536 img), poison := p.poison.filter fun w => w.1 / 24 != ci && !(w.1 == 1536 && v.next == 0), exp := if v.next = 0 then some v.exp else p.exp } }
    if v.next + 1 = v.count then drop s
    else s.updCtx l k c fun x => { x with loads := x.loads.map fun u => if same u then { u with next := u.next + 1 } else u }

/-- The floor of a load's next course (R355): the bundle that must have issued. -/
def Load.floor (v : Load) : Nat := v.seq + 4 + v.next + (if v.bank.isSome then 1 else 0)

/-- The first load of a context that may commit a course: loads of one plane in issue order. -/
def Ctx.readyLoad (x : Ctx) : Option Load :=
  x.loads.find? fun v => decide (v.floor < x.st.cc) && !(x.loads.any fun u => u.plane == v.plane && decide (u.seq < v.seq))

/-! Passes (R325 to R329, R358 to R360) -/

/-- Column sums (R325) over the first `nrow` rows. -/
def columnSums (p : Plane) (nrow : Nat) (a : List Int) : List Int :=
  let rows := (List.range nrow).map fun i => (a.getD i 0, p.course i)
  (List.range 256).map fun c => rows.foldl (fun acc r => acc + r.1 * weight r.2 c) 0

/-- Activations read through an A4L bank (R87): their codes. -/
def activations (n w : Nat) (bk : Bank) (v : Nat) : M (List Int) := do
  let es ← readEntries 5 n bk 0 (indices w 64 v)
  pure (es.map fun e => sext e 5)

/-- What rpass and rpassr share (R360): the pass is issued and ROWPTR moves (R331). -/
def startPass (tile plane dcn : Nat) (x : BitVec 1) (d : Nat) (a : List Int) (n : Nat) (bk : Bank) : M Unit := do
  check (!(a.any (· == -16))) 5 (if x = 1#1 then cbCause 2 n 3 else 0x0E3)
  let y ← getCore
  let p := y.planes.getD plane {}
  check (!(p.poison.any fun w => decide (w.1 / 24 < dcNrow d) || w.1 == 1536)) 5 0x1C3
  let (seq, va) ← dHere
  let e := if x = 1#1 then 1 else 0
  let ex : Int := (if x = 1#1 then bk.aexp else sext (bits d 56 8) 8) + p.expo
  updMe fun c =>
    { c with
      passes := c.passes ++ [{ seq := seq, va := va, read := seq + 56 + e, land := seq + 64 + e, sums := columnSums p (dcNrow d) a, span := dcSpan d,
                               tile := tile, row := dcRow d, exp := ex, claim := (y.claim true tile).gen }]
      regs.dc := c.regs.dc.modify dcn fun r => { r with val := BitVec.ofNat 64 (setBitsAt d 8 6 ((dcRow d + dcStep d) % 64)) } }
  updCore fun y => { y with passes := y.passes + 1 }
where
  /-- A number with the field of `n` bits at `lo` replaced. -/
  setBitsAt (v lo n f : Nat) : Nat := v - (bits v lo n <<< lo) + (f <<< lo)

/-- The checks that passes share (R349): plane, tile, retirement, bank. -/
def passChecks (tile plane : Nat) (x : BitVec 1) : M (Nat × Nat × Bank) := do
  needHeld false plane
  needHeld true tile
  needArray
  let (n, w, bk) ← selected 0
  needBank x bk
  check (x == 0#1 || bk.kind == 4) 5 (cbCause 1 n 3)
  pure (n, w, bk)

def opRpass (v c : BitVec 4) (t p : BitVec 2) (x : BitVec 1) : M Unit := do
  let va ← readVector 5 v
  let d ← readDc 5 c.toNat
  let (n, w, bk) ← passChecks t.toNat p.toNat x
  let a ← if x = 1#1 then activations n w bk va.data.toNat else pure ((List.range 64).map fun k => sext (bits va.data.toNat (8 * k) 5) 5)
  startPass t.toNat p.toNat c.toNat x d.toNat a n bk


def opRpassr (h c : BitVec 4) (t p : BitVec 2) (x v : BitVec 1) : M Unit := do
  let m ← getMe
  let made := m.st.checked
  let (id, r) ← readRing 5 h.toNat
  let d ← readDc 5 c.toNat
  let (n, w, bk) ← if made then selected 0 else passChecks t.toNat p.toNat x
  check (made || !r.ovf) 5 0x20C
  let q := if x = 1#1 then 8 * w else 40
  check (made || r.rcur % q == 0) 5 0x20D
  if r.used = 0 ∨ !r.fullHod r.rp then freezeX (ringWait h.toNat)
  else do
    let y ← getCore
    let off := r.offset r.rp + r.rcur
    check (!y.spBad 0 off q) 5 0x1C0
    let rec_ := leNat (y.spRead 0 off q)
    let a ← if x = 1#1 then activations n w bk rec_ else pure ((List.range 64).map fun k => sext (bits rec_ (5 * k) 5) 5)
    startPass t.toNat p.toNat c.toNat x d.toNat a n bk
    acquireTags id r [r.rp]
    let cur := r.rcur + q
    if ringStage r.cfg < cur + q then do
      updRing id fun r => { r with rcur := 0 }
      if v = 1#1 then consume id r 1 else pure ()
    else updRing id fun r => { r with rcur := cur }

def opRsat (c : BitVec 1) (q : BitVec 2) : M Unit := do
  let x ← getMe
  let v := bits x.sys.satmask.toNat (64 * q.toNat) 64
  check (!x.sys.poison.has (64 + q.toNat)) 5 0x1C3
  if c = 1#1 then updMe fun x => { x with sys.satmask := x.sys.satmask &&& ~~~((BitVec.ofNat 256 (2 ^ 64 - 1)) <<< (64 * q.toNat)) } else pure ()
  sendD 1 (BitVec.ofNat 64 v)

/-! The comb (R333, R362) -/

/-- Lanes in order of key and then number. -/
def combOrder (desc : Bool) (vs : List Nat) : List (Nat × Nat) :=
  sortBy (fun a b => decide ((if desc then 255 - a.1 else a.1) ≤ (if desc then 255 - b.1 else b.1))) vs.zipIdx
/-- enc of R362. -/
def combEnc (p : Nat × Nat) : Nat := p.2 * 256 + p.1

/-- A comb operation: `res` gives its payload from the ordered lanes. -/
def combOp (v : BitVec 4) (x : BitVec 1) (desc : Bool) (res : List (Nat × Nat) → Payload) : M Unit := do
  let va ← readVector 5 v
  needArray
  let (n, w, bk) ← selected 2
  needBank x bk
  check (x == 0#1 || (bk.kind == 1 && (bk.elem == 5 || bk.elem == 6))) 5 (cbCause 1 n 0)
  let vs ← if x = 1#1 then do
      let es ← readEntries 5 n bk 0 (indices w 64 va.data.toNat)
      pure (es.map fun e => (max 0 (min 255 (sext e (fw bk.elem)))).toNat)
    else pure ((List.range 64).map fun l => bits va.data.toNat (8 * l) 8)
  let (seq, vaddr) ← dHere
  let e := if x = 1#1 then 1 else 0
  updMe fun c => { c with combs := c.combs ++ [{ seq := seq, va := vaddr, read := seq + 32 + e, land := seq + 40 + e, pay := res (combOrder desc vs) }] }

/-- A vector payload of 64 lanes. -/
def lanesPay (ls : List Nat) : Payload := .vec (BitVec.ofNat 2048 (packNat 32 ls)) 0#256

def opRmin (v : BitVec 4) (x : BitVec 1) : M Unit := combOp v x false fun o => .scalar (BitVec.ofNat 64 (combEnc (o.headD (0, 0))))
def opRmax (v : BitVec 4) (x : BitVec 1) : M Unit := combOp v x true fun o => .scalar (BitVec.ofNat 64 (combEnc (o.headD (0, 0))))
def opRsort (v : BitVec 4) (x d : BitVec 1) : M Unit := combOp v x (d == 1#1) fun o => lanesPay (o.map combEnc)
def opRtopk (v : BitVec 4) (k : BitVec 6) (x d : BitVec 1) : M Unit :=
  combOp v x (d == 1#1) fun o => lanesPay ((o.take (k.toNat + 1)).map combEnc ++ List.replicate (63 - k.toNat) 0xFFFFFFFF)
def opRrank (v : BitVec 4) (x d : BitVec 1) : M Unit :=
  combOp v x (d == 1#1) fun o => lanesPay ((List.range 64).map fun l => (o.findIdx? fun p => p.2 == l).getD 0)

/-! Accumulator tiles (R363 to R368) -/

def updTile (t : Nat) (f : Tile → Tile) : M Unit := updCore fun y => { y with tiles := y.tiles.modify t f }
/-- A held tile. -/
def heldTile (t : BitVec 2) : M Tile := do
  needHeld true t.toNat
  let y ← getCore
  pure (y.tiles.getD t.toNat {})

def opAccz (a : BitVec 5) (t : BitVec 2) : M Unit := do
  let e ← readScalar 5 a
  let _ ← heldTile t
  updTile t.toNat fun x => { x with zero := true, rows := [], exp := some (sext e.toNat 16), poison := [] }

/-- The exact value of a tile's element (R73). -/
def tileValue (e m : Int) : FV := (ofInt m).scale e

def opAccrd (a : BitVec 5) (f g t : BitVec 2) : M Unit := do
  let v ← readScalar 5 a
  let x ← heldTile t
  let r := v.toNat % 64
  check (!(x.badAt (256 * r + 64 * g.toNat) 64 || x.poison.has 16384)) 5 0x1C3
  let m ← getRm 5
  let vs := (((x.row r).drop (64 * g.toNat)).take 64).map (tileValue x.expo)
  let o := match f.toNat with
    | 0 => packOuts 0 (vs.map (narrow 0 m))
    | 1 => packBfp vs
    | _ => packOuts 5 (vs.map (narrow 5 m))
  sendResult 2 8 .age (.vec (BitVec.ofNat 2048 o.data) (BitVec.ofNat 256 o.side)) o.fl

/-- Row lengths of accst formats (R368). -/
def accRow (f : Nat) : Nat := if f = 1 ∨ f = 2 then 512 else 1024

/-- A fresh command number of the die. -/
def newCmd : M Nat := do
  let x ← getLd
  updLd fun x => { x with nextCmd := x.nextCmd + 1 }
  pure x.nextCmd

/-- Places a command at the tail of the core's queue (R377); commands know where the step's stream stood. -/
def enqueue (c : Cmd) : M Unit := do
  let x ← getMe
  let s ← getS
  let id ← newCmd
  updCore fun y =>
    { y with queue := y.queue ++ [{
        c with id := id, ctx := s.cur.c, sid := x.sid, opid := x.sys.opid, stamp := x.sys.stamp.toNat
               va := if c.kind = .accst then x.exBundle.1 else x.st.pc }] }

def opAccst (a b : BitVec 5) (r p : BitVec 1) (f t : BitVec 2) : M Unit := do
  let sa ← readScalar 5 a
  let sb ← readScalar 5 b
  let x ← heldTile t
  let len := accRow f.toNat
  check (sa.toNat % 256 == 0 && sb.toNat % 256 == 0 && decide (len ≤ sb.toNat)) 5 (if p = 1#1 then 0x204 else 0x202) sa.toNat
  check (p == 1#1 || decide (sa.toNat + 63 * sb.toNat + len ≤ spadEnd)) 5 0x200 sa.toNat
  check (x.poison.isEmpty) 5 0x1C3
  let y ← getCore
  if 16 ≤ y.queue.length then freezeX plainWait
  else do
    let m ← getRm 5
    enqueue { id := 0, ctx := 0, sid := 0, kind := .accst, dst := sa, arg := sb, sp := p.toNat, tile := some x, tileNo := t.toNat, tileFmt := f.toNat, reading := true, rm := m }
    updCore fun y => y.setClaim true t.toNat fun c => { c with readers := c.readers + 1 }
    if r = 1#1 then releaseObject true t.toNat else pure ()

/-- accnorm's shift (R365). -/
def normShift (top : Nat) (e : Int) : Nat :=
  ((List.range 47).reverse.find? fun (s : Nat) => decide (top * 2 ^ s < 2 ^ 46) && decide ((-32768 : Int) ≤ e - (s : Int))).getD 0

def opAccnorm (t : BitVec 2) : M Unit := do
  let x ← heldTile t
  check (x.poison.isEmpty) 5 0x1C3
  let top := (List.range 64).foldl (fun m r => (x.row r).foldl (fun m v => max m v.natAbs) m) 0
  if top = 0 then pure ()
  else
    let s := normShift top x.expo
    updTile t.toNat fun x => { x.mapRows fun m => m * ((2 ^ s : Nat) : Int) with exp := some (x.expo - s) }

def opAccexp (a : BitVec 5) (e : BitVec 1) (t : BitVec 2) : M Unit := do
  let v ← if e = 1#1 then readScalar 5 a else pure 0#64
  let x ← heldTile t
  check (!x.poison.has 16384) 5 0x1C3
  if e = 1#1 then do
    let n := x.expo + sext v.toNat 16
    updTile t.toNat fun y => { y with exp := some (max (-32768) (min 32767 n)) }
    if n < -32768 ∨ 32767 < n then updMe fun c => c.orR rACCOVF else pure ()
  else pure ()
  sendD 1 (BitVec.ofInt 64 x.expo)

/-! Calibration registers (R335 to R345, R369 to R371) -/

/-- A privileged instruction of the D slot (R255). -/
def needPriv : M Unit := do
  let x ← getMe
  check x.priv 5 0x02E

/-- The trim that stands at a chain (R340). -/
def Core.trimOf (x : Core) (chain : Nat) : Nat :=
  (if chain < 256 then x.trim.getD (chain / 16) 0#64 else x.strim.getD (chain - 256) 0#64).toNat % 256

/-- The unit delay of a chain in 2^-64 oscillator periods: free, and never shorter under a higher trim code (R336). -/
def unitDelay (k chain trim d : Nat) : Nat :=
  (List.range trim).foldl (fun u i => u + Config.delayStep k chain i d) (Config.delayBase k chain d)

/-- 2^RPLOG ring periods, each two traversals of 64 cells at 15 × CODE unit delays, in 2^-64 oscillator periods (R340). -/
def Core.rcalSpan (y : Core) (k chain d : Nat) : Nat :=
  let c := y.calctl.toNat
  2 ^ bits c 48 4 * 2 * 64 * 15 * bits c 0 5 * unitDelay k chain (y.trimOf chain) d

/-- The whole oscillator periods in them (R340). -/
def Core.rcalCount (y : Core) (k chain d : Nat) : BitVec 32 := BitVec.ofNat 32 (y.rcalSpan k chain d / 2 ^ 64)

/-- The time that they take, in sevenths of a nanosecond, rounded up: the oscillator runs at 3.2 GHz (R340). -/
def Core.rcalTicks (y : Core) (k chain d : Nat) : Nat := (35 * y.rcalSpan k chain d + 2 ^ 68 - 1) / 2 ^ 68

/-- The latency of an rcal in cc (R369). -/
def Core.rcalLatency (y : Core) : Nat := 64 + 128 * 2 ^ bits y.calctl.toNat 48 4

def opRcal (a : BitVec 5) : M Unit := do
  let v ← readScalar 5 a
  needPriv
  let x ← getMe
  let s ← getS
  let y ← getCore
  check (decide (v.toNat ≤ 263) && !(x.rcals.any fun r => r.chain == v.toNat)) 5 0x104
  let d ← fresh
  let lat := y.rcalLatency
  updMe fun x => { x with rcals := x.rcals ++ [{
    chain := v.toNat, land := x.st.cc + lat, seq := x.st.cc, val := y.rcalCount s.cur.k v.toNat d, ends := s.ticks + y.rcalTicks s.cur.k v.toNat d }] }

/-- A trim or configuration register (R335). -/
def Core.trimReg (x : Core) (n : Nat) : Word :=
  if n < 16 then x.trim.getD n 0#64 else if n < 24 then x.strim.getD (n - 16) 0#64
  else if n < 32 then x.smap.getD (n - 24) 0#64 else if n = 32 then x.calctl else x.calstat

/-- Whether a register accepts a value (R337, R338). -/
def Core.trimAccepts (x : Core) (n v : Nat) : Bool :=
  if 24 ≤ n ∧ n < 32 then
    !(bit v 8 && (List.range 8).any fun j => j != n - 24 && bit (x.smap.getD j 0#64).toNat 8 && bits (x.smap.getD j 0#64).toNat 0 8 == bits v 0 8)
  else if n = 32 then decide (2 ≤ bits v 48 4) && decide (bits v 48 4 ≤ 8) && bits v 0 5 != 0
  else true

/-- The write; reserved bits drop what is written (R7). -/
def Core.setTrim (x : Core) (n : Nat) (v : Word) : Core :=
  if n < 16 then { x with trim := x.trim.set n (v &&& 0xFF#64) }
  else if n < 24 then { x with strim := x.strim.set (n - 16) (v &&& 0xFF#64) }
  else if n < 32 then { x with smap := x.smap.set (n - 24) (v &&& 0x1FF#64) }
  else { x with calctl := v &&& 0x000FFFFFFFFFFF1F#64 }

def opRtrimr (n : BitVec 6) : M Unit := do
  check (decide (n.toNat ≤ 33)) 5 0x104
  let y ← getCore
  sendD 1 (y.trimReg n.toNat)
def opRtrimw (a : BitVec 5) (n : BitVec 6) : M Unit := do
  let v ← readScalar 5 a
  needPriv
  let y ← getCore
  check (decide (n.toNat ≤ 32) && y.trimAccepts n.toNat v.toNat) 5 0x104
  updCore fun y => y.setTrim n.toNat v

/-- A status counter (R345). -/
def Core.counter (x : Core) (n : Nat) : Word :=
  match n with
  | 0 => BitVec.ofNat 64 x.passes
  | 1 => BitVec.ofNat 64 x.reraces
  | 2 => BitVec.ofNat 64 x.margins
  | 3 => BitVec.ofNat 64 x.cals
  | 4 => BitVec.ofNat 64 x.caltime
  | 5 => x.caltemp.signExtend 64
  | _ => BitVec.ofNat 64 x.satcols
def opRstat (n : BitVec 6) : M Unit := do
  check (decide (n.toNat ≤ 6)) 5 0x104
  let y ← getCore
  sendD 1 (y.counter n.toNat)

/-! What the array does with passes and comb operations in flight -/

/-- A landing attempt (R240): the pass is added, or the tile must be renormalised first, or it saturates. A tile that has become Free since
the pass issued, be it reserved again, takes nothing (R353). -/
def State.landPass (s : State) (l k c : Nat) (p : Pass) : State :=
  let y := s.core l k
  let t := y.tiles.getD p.tile {}
  let gone (s : State) : State := s.updCtx l k c fun x => { x with passes := x.passes.filter fun q => q.seq != p.seq }
  if t.claim.gen ≠ p.claim ∨ t.claim.st = .free ∨ t.claim.st = .reserved then gone s
  else
    let e := t.expo
    let ts := ((t.row p.row).zip p.sums).map fun m => m.1 + alignSum m.2 (p.exp - e)
    let put (s : State) (vs : List Int) : State :=
      s.updCore l k fun y => { y with tiles := y.tiles.modify p.tile fun t =>
        { t with rows := mput t.rows p.row vs, exp := some e
                 poison := if p.poison then (List.range 256).foldl (fun (m : Nset) c => m.upd (256 * p.row + c) true) t.poison else t.poison } }
    if ts.all fun v => decide (v.natAbs < 2 ^ 46) then gone (put s ts)
    else if p.steps = 16 ∨ e = 32767 then
      (gone (put s (ts.map fun v => if v.natAbs < 2 ^ 46 then v else if v < 0 then -(2 ^ 47 - 1) else 2 ^ 47 - 1))).updCtx l k c fun x => x.orR rACCOVF
    else s.updCore l k fun y => { y with renorm := some p.tile }

/-- A renormalisation step (R240, R241): every mantissa halved, the exponent raised, a freeze of 64 domain clocks. -/
def State.renormStep (s : State) (l k c t : Nat) : State :=
  let s := s.updCore l k fun y =>
    { y with
      renorm := none, freeze := y.freeze + 64,
      tiles := y.tiles.modify t fun x => { x.mapRows fun m => rneShift m 1 with exp := some (x.expo + 1) } }
  s.updCtx l k c fun x => { x with passes := (match x.passes.find? fun p => p.tile == t && p.done && decide (p.land ≤ x.st.cc) with
    | some p => x.passes.map fun q => if q.seq = p.seq then { q with steps := q.steps + 1 } else q
    | none => x.passes) }

/-- A tile that a pass renormalises and has not landed in yet (R240, R241). -/
def Core.renorming (y : Core) (tile : Nat) : Bool :=
  y.renorm == some tile || y.ctxs.any fun e => e.2.passes.any fun p => p.tile == tile && p.steps != 0

/-- The pass that lands next: the earliest that is measured and due. -/
def Ctx.duePass (x : Ctx) : Option Pass := x.passes.find? fun p => p.done && decide (p.land ≤ x.st.cc)
/-- The pass and the comb operation whose reading is due. -/
def Ctx.dueRead (x : Ctx) : Option Pass := x.passes.find? fun p => !p.done && p.races == 0 && decide (p.read ≤ x.st.cc) && !x.doomed 0x100 p.seq
def Ctx.dueComb (x : Ctx) : Option Comb := x.combs.find? fun p => !p.done && p.races == 0 && decide (p.read ≤ x.st.cc) && !x.doomed 0x101 p.seq

/-- What an rcal gives at its landing cc (R369): its count, or all ones when its ring periods have not ended. -/
def Rcal.result (r : Rcal) (now : Nat) : BitVec 32 := if r.ends ≤ now then r.val else BitVec.allOnes 32

/-- Comb operations and rcal measurements that are due join the results that land (R256, R257). -/
def Ctx.landAll (x : Ctx) (now : Nat) : Ctx :=
  let cs := x.combs.filter fun p => p.done && decide (p.land ≤ x.st.cc)
  let rs := x.rcals.filter fun r => decide (r.land ≤ x.st.cc)
  let fs : List Fly := cs.map fun p => { land := p.land, slot := 2, seq := p.seq, dest := .age, pay := p.pay, poison := p.poison }
  let gs : List Fly := rs.map fun r => { land := r.land, slot := 2, seq := r.seq, dest := .age, pay := .scalar ((r.result now).setWidth 64) }
  ({ x with
    combs := x.combs.filter fun p => !(p.done && decide (p.land ≤ x.st.cc))
    rcals := x.rcals.filter fun r => !decide (r.land ≤ x.st.cc)
    st.flight := x.st.flight ++ fs ++ gs }).landDue

end Sys2Proof.Machine
end

