-- ==== Sys2Proof/Machine/Engine.lean ====
section
/-! DEFINITION. The E slot (R374 to R411): geometry registers, engine commands at issue, tokens at issue, curfew waits, capabilities,
publication, shadow buffers, system instructions. -/

namespace Sys2Proof.Machine

/-! Geometry registers (R378) -/

def opMte (a : BitVec 4) (n : BitVec 6) : M Unit := do
  let v ← readAccess 2 a
  updMe fun x => { x with regs.eg := x.regs.eg.set n.toNat { val := v, valid := true } }
def opMfe (b : BitVec 4) (n : BitVec 6) : M Unit := do
  let v ← readEg 2 n.toNat
  writeAccess b v

/-! Descriptors (R379, R380, R382) -/

/-- The eight words of a descriptor group. -/
def readGroup (g : Nat) : Nat → M (List Word)
  | 0 => pure []
  | n + 1 => do
    let v ← readEg 2 g
    let vs ← readGroup (g + 1) n
    pure (v :: vs)

/-- Fields of D0. -/
def dSsp (d : Nat) : Nat := bits d 57 3
def dDsp (d : Nat) : Nat := bits d 54 3
def dSswz (d : Nat) : Nat := bits d 52 2
def dDswz (d : Nat) : Nat := bits d 50 2
def dStmp (d : Nat) : Bool := bit d 49
def dRing (d : Nat) : Bool := bit d 48
def dRh (d : Nat) : Nat := bits d 44 4
def dXfn (d : Nat) : Nat := bits d 38 6
def dShp (d : Nat) : Bool := bit d 37
def dEsz (d : Nat) : Nat := 2 ^ bits d 34 2
def dIdx32 (d : Nat) : Bool := bit d 32
def dYard (d : Nat) : Nat := bits d 24 8

/-- A pair of spaces that R16 allows. -/
def pairOk (src dst : Nat) : Bool :=
  match src with
  | 0 | 1 => dst == 0 || dst == 1 || dst == 2 || dst == 4 || dst == 5
  | 2 | 3 | 4 | 5 => dst == 0 || dst == 1
  | _ => false

/-- The fields that R379 and R380 require to be zero are zero. -/
def descOk (kind : CmdKind) (w : List Word) : Bool :=
  let g (i : Nat) : Nat := (w.getD i 0#64).toNat
  let d := g 0
  let local_ (sp : Nat) : Bool := sp == 1 || sp == 2
  bits d 60 4 == 0 && !bit d 36 && !bit d 33 && bits d 0 24 == 0 &&
  (local_ (dSsp d) || dSswz d == 0) && (local_ (dDsp d) || dDswz d == 0) && (!dRing d || local_ (dDsp d)) &&
  ((dRing d && dDsp d == 1) || dRh d == 0) && (kind == .cpyx || dXfn d == 0) && (kind == .cpyg || !dIdx32 d) &&
  (dStmp d || (dYard d == 0 && g 1 == 0)) && (dSsp d != 3 || dEsz d == 8) &&
  (if dShp d then g 2 == 0 && g 3 == 0 && g 4 == 0 && g 5 == 0 && g 6 % 64 == 0 && decide (g 6 < 2 ^ 52) else g 6 == 0) &&
  (match kind with
   | .cpyg => decide (g 7 < 2 ^ 22)
   | .cpyx => bits (g 7) 0 32 == 0
   | _ => g 7 == 0)

/-- The misalignment cause of a space (R382). -/
def alignCause (sp : Nat) : Nat := if sp = 1 ∨ sp = 2 ∨ sp = 3 then 0x202 else 0x204

/-- Strides of a descriptor whose shape it holds itself: source, then destination. -/
def descStrides (w : List Word) : List Int × List Int :=
  let g (i lo : Nat) : Int := sext (bits (w.getD i 0#64).toNat lo 32) 32
  ([g 3 0, g 3 32, g 4 0], [g 5 0, g 5 32, g 4 32])

/-- The checks that the three copies share (R382), in its order. -/
def checkCopy (kind : CmdKind) (w : List Word) (src dst : Word) : M Unit := do
  let d := (w.getD 0 0#64).toNat
  let es := dEsz d
  check (dSsp d != 7 && dDsp d != 7) 2 0x282
  check (pairOk (dSsp d) (dDsp d)) 2 0x281
  check (descOk kind w) 2 0x280
  let (ss, ds) := descStrides w
  check (dSsp d == 3 || src.toNat % es == 0) 2 (alignCause (dSsp d)) src.toNat
  check (dShp d || ss.all fun v => v % (es : Int) == 0) 2 (alignCause (dSsp d))
  check ((dRing d && dDsp d == 1) || dst.toNat % es == 0) 2 (alignCause (dDsp d)) dst.toNat
  check (dShp d || ds.all fun v => v % (es : Int) == 0) 2 (alignCause (dDsp d))
  if dRing d && dDsp d == 1 then do
    let _ ← readRing 2 (dRh d)
    pure ()
  else pure ()
  if kind = .cpyg then check ((w.getD 7 0#64).toNat % (if dIdx32 d then 4 else 2) == 0) 2 0x202 else pure ()

/-- The engine's queue holds 16 commands (R377); a full one stalls the access stream. -/
def needEntry : M Unit := do
  let y ← getCore
  if 16 ≤ y.queue.length then stall plainWait else pure ()

/-- The creation checks of a yard and stamp that a step names in its own parish (R387, R403): closed, yard, creation. -/
def checkCreate (yard stamp : Nat) : M Nat := do
  let s ← getS
  let o := s.opOf s.cur.l s.me.sys.opid
  let p := o.parish
  let pa := s.parish s.cur.l p
  check (!isClosed stamp) 2 0x241
  checkYard 2 s.cur.l p yard
  check (pa.mayCreate o.outYards s.me.sys.stamp.toNat yard stamp) 2 0x242
  pure p

/-- Counts one occurrence that the step creates (R143). -/
def countCreate (p yard stamp : Nat) : M Unit := do
  let s ← getS
  stallIfFull s.cur.l p
  updS fun s => s.countAt s.cur.l p yard stamp 1

/-- A copy at issue (R382, R387, R433). -/
def copyOp (kind : CmdKind) (a b : BitVec 4) (g : BitVec 3) (scat : Bool) : M Unit := do
  let src ← readAccess 2 a
  let w ← readGroup (8 * g.toNat) 8
  let d := (w.getD 0 0#64).toNat
  let dst ← if dRing d && dDsp d == 1 then pure 0#64 else readAccess 2 b
  if dStmp d || dDsp d == 2 then barRestart 2 else pure ()
  checkCopy kind w src dst
  let d1 := (w.getD 1 0#64).toNat
  let p ← if dStmp d then checkCreate (dYard d) d1 else pure 0
  needEntry
  if dStmp d then countCreate p (dYard d) d1 else pure ()
  let x ← getMe
  let y ← getCore
  let s ← getS
  let t := bits src.toNat 14 2
  let ring := if dRing d && dDsp d == 1 then (x.regs.rh.getD (dRh d) none).map fun r => (s.cur.k, r) else none
  let held := dSsp d == 3 && (y.claim true t).st == .held && (y.claim true t).owner == x.sid
  enqueue {
    id := 0, ctx := 0, sid := 0, kind := kind, d := w, src := src, dst := dst, scat := scat, tileNo := t, reading := held, ring := ring,
    xstamp := if dStmp d then d1 else 0, stamped := if dStmp d then some (p, dYard d, d1) else none }
  if held then updCore fun y => y.setClaim true t fun c => { c with readers := c.readers + 1 } else pure ()

def opCpy (a b : BitVec 4) (g : BitVec 3) : M Unit := copyOp .cpy a b g false
def opCpyg (a b : BitVec 4) (s : BitVec 1) (g : BitVec 3) : M Unit := copyOp .cpyg a b g (s == 1#1)
def opCpyx (a b : BitVec 4) (g : BitVec 3) : M Unit := copyOp .cpyx a b g false

/-! Codebook commands (R390 to R393) -/

/-- The LIMIT that the context's latest cbval of a bank gives, committed or not (R390). -/
def limitOf (bank : Nat) : M Nat := do
  let x ← getMe
  let b ← getBank bank
  check ((mget x.cblims bank).isSome || !b.poison.has 258) 2 0x1C3
  pure ((mget x.cblims bank).getD b.lim.toNat)

/-- The bundle number that the access stream stands at (R247). -/
def accessSeq : M Nat := do
  let x ← getMe
  pure (x.st.cc + x.st.run.length)

/-- A locked bank stalls the access stream at the command (R97). -/
def needUnlocked (bank : Nat) : M Unit := do
  let y ← getCore
  if y.locked bank then stall { kindWait 4 with cbwait := BitVec.ofNat 4 (2 ^ bank) } else pure ()

/-- The checks on the range of a cbld or a cbsave (R390, R393). -/
def checkEntries (bank e n : Nat) (lim : Option Nat) (addr sp len : Nat) : M Unit := do
  check (n != 0) 2 (0xF3 + 4 * bank)
  check (decide (e + n ≤ 256)) 2 (0xF1 + 4 * bank)
  check (lim.all fun m => decide (e + n ≤ m)) 2 (0xF0 + 4 * bank)
  check (addr % 8 == 0) 2 (if sp = 1 then 0x204 else 0x202) addr
  check (sp == 1 || decide (addr + len ≤ spadEnd)) 2 0x200 addr

def opCbld (a b : BitVec 4) (e : BitVec 8) (p : BitVec 1) (k : BitVec 2) : M Unit := do
  let src ← readAccess 2 a
  let n ← readAccess 2 b
  let lim ← limitOf k.toNat
  checkEntries k.toNat e.toNat n.toNat (some lim) src.toNat p.toNat (8 * n.toNat)
  needUnlocked k.toNat
  needEntry
  let seq ← accessSeq
  enqueue { id := 0, ctx := 0, sid := 0, kind := .cbld, src := src, bank := k.toNat, sp := p.toNat, first := e.toNat, count := n.toNat, floor := seq + 8 }

/-- VMAP from four geometry registers (R391). -/
def readMap (j : Nat) : M (BitVec 256) := do
  let ws ← readGroup (4 * j) 4
  pure (BitVec.ofNat 256 (packNat 64 (ws.map (·.toNat))))

def opCbval (a b j : BitVec 4) (v : BitVec 1) (k : BitVec 2) : M Unit := do
  let fmt ← readAccess 2 a
  let lim ← readAccess 2 b
  let vm ← if v = 1#1 then readMap j.toNat else pure (BitVec.allOnes 256)
  check (!cbBad fmt.toNat lim.toNat) 2 (0xF2 + 4 * k.toNat)
  needUnlocked k.toNat
  needEntry
  let seq ← accessSeq
  enqueue { id := 0, ctx := 0, sid := 0, kind := .cbval, bank := k.toNat, fmt := fmt, lim := lim, vm := some vm, floor := seq + 8 }
  updMe fun x => { x with cblims := mput x.cblims k.toNat lim.toNat }

/-- cbsel (R392): the selection reaches the D words of the bundles after this one. -/
def opCbsel (a : BitVec 4) : M Unit := do
  let v ← readAccess 2 a
  updMe fun x => { x with st.selNext := some (v.setWidth 12) }

def opCbsave (a b : BitVec 4) (r : BitVec 1) (e : BitVec 8) (p : BitVec 1) (k : BitVec 2) : M Unit := do
  let dst ← readAccess 2 a
  let n ← readAccess 2 b
  check (!(r == 1#1 && !(e == 0#8 && n == 256#64))) 2 0x014
  checkEntries k.toNat e.toNat n.toNat none dst.toNat p.toNat (if r = 1#1 then 2112 else 8 * n.toNat)
  needEntry
  enqueue { id := 0, ctx := 0, sid := 0, kind := .cbsave, dst := dst, bank := k.toNat, sp := p.toNat, first := e.toNat, count := n.toNat, regOut := r == 1#1 }

/-! Tokens at issue (R394, R395, R399) -/

/-- A token goes to its consumer's die (R395); one that the fabric loses is refused, with a notice of 0x304 (R398, R415). -/
def State.sendToken (s : State) (l : Nat) (t : Token) : State :=
  let s := s.updStep l t.sid fun x => { x with pending := x.pending + 1 }
  let dst := ldNo t.pkg t.die
  (s.updLd dst fun x => { x with tokIn := x.tokIn ++ [{ t with way := s.ticket l dst }] }).post l dst 2 (s.packed t.payload)

/-- The fields of a route (R394). -/
def rtPkg (r : Nat) : Nat := bits r 54 10
def rtDie (r : Nat) : Nat := bits r 50 4
def rtOpid (r : Nat) : Nat := bits r 40 10
def rtPort (r : Nat) : Nat := bits r 38 2
def rtYard (r : Nat) : Nat := bits r 30 8

def opTsend (a b : BitVec 4) (l : BitVec 8) (m : BitVec 2) (g : BitVec 6) : M Unit := do
  let stamp ← readAccess 2 a
  let off ← readAccess 2 b
  let rt ← readEg 2 g.toNat
  let s ← getS
  let x := s.me
  let o := s.opOf s.cur.l x.sys.opid
  let pa := s.parish s.cur.l o.parish
  let r := rt.toNat
  let len := 64 * l.toNat
  check (decide (rtDie r ≤ 7) && bits r 0 30 == 0) 2 0x014
  check (portV (o.oport m.toNat)) 2 0x287
  check (!isClosed stamp.toNat) 2 0x241
  checkYard 2 s.cur.l o.parish (rtYard r)
  check (pa.mayCreate [portYard (o.oport m.toNat)] x.sys.stamp.toNat (rtYard r) stamp.toNat) 2 0x242
  check (off.toNat % 64 == 0) 2 0x202 off.toNat
  check (decide (off.toNat + len ≤ spadEnd)) 2 0x200 off.toNat
  check (!(o.restart && decide (16 ≤ x.kept.length))) 2 0x286
  if (s.ld s.cur.l).nbrBusy x.sid then stall plainWait else pure ()
  if !o.restart && decide (4 ≤ x.pending) then stall (kindWait 7) else pure ()
  countCreate o.parish (rtYard r) stamp.toNat
  let y ← getCore
  let id ← newCmd
  let auth := pa.authTo (ldNo (rtPkg r) (rtDie r))
  let t : Token := {
    id := id, src := s.cur.l, core := s.cur.k, sid := x.sid, pkg := rtPkg r, die := rtDie r, opid := rtOpid r, port := rtPort r, dyard := rtYard r,
    stamp := stamp, parish := o.parish, home := pa.home, hpar := pa.hpar, expidx := (auth.map (·.1)).getD 0, gen := (auth.map (·.2)).getD 0,
    local_ := auth.isNone, route := rt, payload := y.spRead 0 off.toNat len,
    bad := (List.range (len / 4)).filter fun i => y.spBad 0 (off.toNat + 4 * i) 4 }
  if o.restart then updMe fun x => { x with kept := x.kept ++ [t] } else updS fun s => s.sendToken s.cur.l t

/-! Curfew waits and capabilities (R400 to R403) -/

/-- The checks of a wait on a yard (R400). -/
def checkCurfew (p yard stamp : Nat) : M Unit := do
  let s ← getS
  checkYard 2 s.cur.l p yard
  check (!isClosed stamp) 2 0x241

def opCfw (a : BitVec 4) (p : BitVec 6) (y : BitVec 8) : M Unit := do
  let t ← readAccess 2 a
  checkCurfew p.toNat y.toNat t.toNat
  let s ← getS
  if (s.parish s.cur.l p.toNat).passed y.toNat t.toNat then acquireNow
  else stall { kindWait 0 with stamp := t, yard := y.toNat, parish := p.toNat }

def opCft (a b : BitVec 4) (p : BitVec 6) (y : BitVec 8) : M Unit := do
  let t ← readAccess 2 a
  checkCurfew p.toNat y.toNat t.toNat
  let s ← getS
  if (s.parish s.cur.l p.toNat).passed y.toNat t.toNat then do
    acquireNow
    writeAccess b 1#64
  else writeAccess b 0#64

/-- Fields of a condition's control word (R401). -/
def cKind (w : Nat) : Nat := bits w 60 4
def cN (w : Nat) : Nat := bits w 16 7
def cParish (w : Nat) : Nat := bits w 8 6
def cSel (w : Nat) : Nat := bits w 0 8

/-- A control word whose KIND is listed and whose reserved and unused bits are zero (R401). -/
def condOk (w : Nat) : Bool :=
  bits w 23 37 == 0 && bits w 14 2 == 0 &&
  (match cKind w with
   | 0 => bits w 0 23 == 0
   | 1 => cN w == 0
   | 2 | 3 => cParish w == 0 && decide (cSel w < 16)
   | 4 => cN w == 0 && cParish w == 0 && decide (cSel w < 32)
   | _ => false)

/-- The checks of one present condition at issue (R401). -/
def checkCond (w : Nat) (stamp : Nat) : M Unit := do
  match cKind w with
  | 1 => checkCurfew (cParish w) (cSel w) stamp
  | 2 => do
    let (_, r) ← readRing 2 (cSel w)
    check (decide (1 ≤ cN w) && decide (cN w ≤ ringCount r.cfg)) 2 0x209
    check (!r.ovf) 2 0x20C
  | 3 => do
    let (_, r) ← readRing 2 (cSel w)
    check (decide (1 ≤ cN w) && decide (cN w ≤ ringCount r.cfg)) 2 0x209
  | 4 => do
    let x ← getMe
    check ((x.regs.ls.getD (cSel w) {}).st != .free) 2 0x215
  | _ => pure ()

/-- Whether one condition holds now (R401). -/
def State.condNow (s : State) (w : Nat) (stamp : Nat) : Bool :=
  let ring : Ring := mgetD (s.core s.cur.l s.cur.k).rings ((s.me.regs.rh.getD (cSel w) none).getD 0) {}
  match cKind w with
  | 1 => (s.parish s.cur.l (cParish w)).passed (cSel w) stamp
  | 2 => ring.getReady (cN w)
  | 3 => decide (cN w ≤ ring.free)
  | 4 => (s.me.regs.ls.getD (cSel w) {}).st == .arrived
  | _ => false

/-- The acquire that a satisfied condition brings (R170, R402). -/
def condAcquire (w : Nat) : M Unit :=
  match cKind w with
  | 1 => acquireNow
  | 2 => do
    let (id, r) ← readRing 2 (cSel w)
    acquireTags id r (r.oldest (cN w))
  | _ => pure ()

/-- A condition of a waitc: its control word and its stamp. -/
def readCond (i : Nat) : M (Nat × Nat) := do
  let w ← readEg 2 i
  let t ← if cKind w.toNat = 1 then readEg 2 (i + 1) else pure 0#64
  pure (w.toNat, t.toNat)

/-- The conditions of a waitc, read at its issue and kept while it waits (R378). -/
def waitcConds (i : Nat) : M (List (Nat × Nat)) := do
  let x ← getMe
  match x.waitc with
  | some w => pure w.conds
  | none => do
    let c0 ← readCond i
    let c1 ← readCond (i + 2)
    let c2 ← readCond (i + 4)
    let c3 ← readCond (i + 6)
    pure [c0, c1, c2, c3]

/-- What a waitc waits for (R211): its first curfew that has not passed, and its rings and landing slots that are not ready. -/
def waitcWait (cs : List ((Nat × Nat) × Bool)) : Wait :=
  let mask (p : Nat → Bool) : Nat := cs.foldl (fun (m : Nat) c => if p (cKind c.1.1) && !c.2 then m ||| 2 ^ cSel c.1.1 else m) 0
  let w : Wait := { kindWait 6 with
    lsmask := BitVec.ofNat 32 (mask fun k => k == 4), rhmask := BitVec.ofNat 16 (mask fun k => k == 2 || k == 3) }
  match cs.find? fun c => cKind c.1.1 == 1 && !c.2 with
  | some c => { w with stamp := BitVec.ofNat 64 c.1.2, yard := cSel c.1.1, parish := cParish c.1.1 }
  | none => w

def opWaitc (a b : BitVec 4) (l : BitVec 1) (g : BitVec 3) : M Unit := do
  let timeout ← readAccess 2 a
  let s ← getS
  let cs ← waitcConds (8 * g.toNat)
  if s.me.waitc.isNone then do
    check (cs.all fun c => condOk c.1) 2 0x014
    check (cs.any fun c => cKind c.1 != 0) 2 0x014
    forEach (fun (c : Nat × Nat) => checkCond c.1 c.2) cs
  else forEach (fun (c : Nat × Nat) => if cKind c.1 = 1 then checkCurfew (cParish c.1) (cSel c.1) c.2 else pure ()) cs
  let now := cs.map fun c => s.condNow c.1 c.2
  let start := (s.me.waitc.map (·.since)).getD s.ticks
  let late := decide (timeout.toNat * 70 ≤ s.ticks - start)
  let done := if l = 1#1 then (cs.zip now).all fun c => cKind c.1.1 == 0 || c.2 else now.any id
  if done || late then do
    forEach (fun (c : (Nat × Nat) × Bool) => if c.2 then condAcquire c.1.1 else pure ()) (cs.zip now)
    updMe fun x => { x with waitc := none }
    writeAccess b (BitVec.ofNat 64 (packNat 1 (now.map Bool.toNat) + 16 * late.toNat))
  else
    let w := waitcWait (cs.zip now)
    stall w fun s => s.updMe fun x => { x with waitc := some { since := start, ends := start + 70 * timeout.toNat, conds := cs } }

def opCaph (a : BitVec 4) (y : BitVec 8) : M Unit := do
  let t ← readAccess 2 a
  barRestart 2
  let p ← checkCreate y.toNat t.toNat
  let x ← getMe
  check (decide (x.caps.length < 8)) 2 0x247
  countCreate p y.toNat t.toNat
  updMe fun x => { x with caps := x.caps ++ [(y.toNat, t.toNat)] }

/-- capd (R403): a yard above NYM1 is 0x240 first (R137), one at which the step holds no capability 0x243 (R145). After Disable at a member a
capability that is held is still given up (R475, log entry 121). -/
def opCapd (a : BitVec 4) (y : BitVec 8) : M Unit := do
  let t ← readAccess 2 a
  let s ← getS
  let x := s.me
  check (decide (y.toNat ≤ (s.parish s.cur.l (s.opOf s.cur.l x.sys.opid).parish).nym1)) 2 0x240
  check (x.caps.contains (y.toNat, t.toNat)) 2 0x243
  updMe fun x => { x with caps := x.caps.erase (y.toNat, t.toNat) }
  updS fun s => s.countAt s.cur.l (s.opOf s.cur.l x.sys.opid).parish y.toNat t.toNat (-1)

/-! Acquires (R170, R404) -/

def opAcq (sc : BitVec 3) : M Unit := do
  let s ← getS
  let l := s.cur.l
  if s.fenceMet l s.cur.k s.cur.c 2 then updMe fun x => x.acquireAt (scopeReach l sc.toNat)
  else stall (kindWait 7)

/-! Shadow buffers (R45 to R47, R405, R406) -/

/-- Some step, or a copy under way, holds a resolution of an epoch older than the BIE's (R46, R47). -/
def State.oldReader (s : State) (l i : Nat) : Bool :=
  let old (x : Ctx) : Bool := (mget x.bies (bieKey l i)).any fun v => decide (v.2 < (s.ld l).epoch i)
  s.lds.any fun e =>
    (e.2.steps.any fun p => old p.2.2) || (e.2.cores.any fun k => k.2.queue.any fun q => old q.view) ||
    e.2.saved.any fun v => v.2.cmds.any fun q => old q.view

/-- The BIE opens for the context, which resolves SHADOW from its next access on (R47, R405). -/
def State.openBie (s : State) (l k c i : Nat) : State :=
  (s.putBie l i 2 (k + 64 * c)).updCtx l k c fun x => { x with openBies := x.openBies.upd i true, bies := mdel x.bies (bieKey l i), shWait := none }

def opShopen (a : BitVec 4) : M Unit := do
  let v ← readAccess 2 a
  let i := v.toNat % 2 ^ 17
  let s ← getS
  let (l, k, c) := (s.cur.l, s.cur.k, s.cur.c)
  let r := (s.ld l).bie i
  if s.commitHolds l ((s.ld l).bieAddr i) 32 then stall plainWait else pure ()
  updS fun s => s.readThrough 0 [(l, (s.ld l).bieAddr i, 32)]
  (match bieCause (s.ld l) i with
  | some e => trapAt 2 e
  | none => pure ())
  if bieOwned r k c && s.me.openBies.has i then pure ()
  else if bieState r == 2 || s.oldReader l i then
    stall { kindWait 5 with bie := i } fun s => s.updMe fun x => { x with shWait := some i }
  else updS fun s => s.openBie l k c i

def opShpub (a : BitVec 4) : M Unit := do
  let v ← readAccess 2 a
  let i := v.toNat % 2 ^ 17
  let s ← getS
  let x := s.me
  if x.pubDone then updMe fun x => { x with pubReq := none, pubDone := false }
  else do
    let y := s.ld s.cur.l
    check (decide (i < bits y.regs.bielim.toNat 0 17) && bieOwned (y.bie i) s.cur.k s.cur.c && x.openBies.has i) 2 0x218
    stall (kindWait 7) fun s => s.updMe fun x => { x with pubReq := some (8 + i) }

/-! System instructions (R407 to R411) -/

def opYield : M Unit := updCore fun y => { y with yieldReq := true }

/-- retire (R408): the access stream stalls at its bundle until the execute stream reaches it. -/
def opRetire : M Unit := do
  let x ← getMe
  if x.st.run.isEmpty then updMe fun x => { x with retiring := 1 } else stall plainWait

def opTrap (n : BitVec 6) : M Unit := trapAt 2 (0x340 + n.toNat)
def opBrk (n : BitVec 6) : M Unit := trapAt 2 (0x380 + n.toNat)

/-- sysc (R410): the bundle issues whole, and the step pauses at the boundary after it. -/
def opSysc (a b : BitVec 4) (sv : BitVec 8) : M Unit := do
  let x ← readAccess 2 a
  let y ← readAccess 2 b
  updMe fun c => { c with st.atrap := some { cause := 0x3BF, access := true, kind := 4, slot := 2, va := some c.st.pc, args := (x.toNat, y.toNat, sv.toNat) } }

def opRdtime (b : BitVec 4) (u : BitVec 1) : M Unit := do
  let s ← getS
  writeAccess b (BitVec.ofNat 64 (if u = 1#1 then s.rt else s.ns))

end Sys2Proof.Machine
end

