-- ==== Sys2Proof/Machine/Routine.lean ====
section
/-! DEFINITION. A run of a transform routine on one chunk (R126, R128, R129): its memory, its registers at the start, its limits and its ends.
What an instruction of its set does is free (log entry 16). -/

namespace Sys2Proof.Machine

open Config (RvState RvPlan)

/-- How a chunk ends: 0 ecall, 1 an access outside the routine's memory, 2 an exception of the profile, 3 too many clocks (R129); a0 and the
OUT area. -/
structure ChunkEnd where
  ending : Nat
  a0     : BitVec 64 := 0#64
  out    : List (BitVec 8) := []
  deriving DecidableEq, Repr

/-- The areas of a routine's memory (R126): code, IN, OUT with WORK behind it. -/
def rvCode (a n : Nat) : Bool := decide (a + n ≤ 0x4000)
def rvIn (a n : Nat) : Bool := decide (0x10000 ≤ a) && decide (a + n ≤ 0x11000)
def rvOut (a n : Nat) : Bool := decide (0x11000 ≤ a) && decide (a + n ≤ 0x14000)
/-- A range that a routine may read lies in its memory, where IN, OUT and WORK follow each other; one that it may write, in OUT and WORK. -/
def rvMayRead (r : Nat × Nat) : Bool := rvCode r.1 r.2 || (decide (0x10000 ≤ r.1) && decide (r.1 + r.2 ≤ 0x14000))
def rvMayWrite (r : Nat × Nat) : Bool := rvOut r.1 r.2

/-- A routine at work: its image, the chunk in IN, the chunk's index, and what it has written. -/
structure RvMem where
  image : List (BitVec 8)
  input : List (BitVec 8)
  chunk : Nat
  done  : Smap (BitVec 8) := []

/-- A byte of a routine's memory; one that holds nothing is free (R126). -/
def RvMem.byte (m : RvMem) (a : Nat) : BitVec 8 :=
  match mget m.done a with
  | some b => b
  | none =>
    ((if a < 0x4000 then m.image[a]? else if a < 0x11000 then m.input[a - 0x10000]? else none).getD (Config.rvByte m.chunk a))
def RvMem.bytes (m : RvMem) (r : Nat × Nat) : List (BitVec 8) := (List.range r.2).map fun i => m.byte (r.1 + i)

/-- The registers at a chunk's start (R128): a0 IN, a1 OUT, a2 the chunk index, a3 ARG, a4 the input length, all others zero, vtype illegal. -/
def rvStart (entry chunk len : Nat) (arg : BitVec 64) : RvState :=
  { pc := entry
    x := List.replicate 10 0#64 ++ [0x10000#64, 0x11000#64, BitVec.ofNat 64 chunk, arg, BitVec.ofNat 64 len] ++ List.replicate 17 0#64
    f := List.replicate 32 0#64, v := List.replicate 32 0#512 }

/-- Instructions until the chunk ends; `left` bounds their number, which the clocks bound too (R129). -/
def rvRun : Nat → Nat → RvState → RvMem → ChunkEnd
  | 0, _, _, _ => { ending := 3 }
  | left + 1, clocks, r, m =>
    let w : BitVec 32 := BitVec.ofNat 32 (leNat (m.bytes (r.pc, 4)))
    let p := Config.rvPlan r w
    let clocks := clocks + max 1 p.clocks
    if !rvCode r.pc (if w.toNat % 4 = 3 then 4 else 2) then { ending := 1 }
    else if 65536 < clocks then { ending := 3 }
    else if p.ends = 0 then { ending := 0, a0 := r.x.getD 10 0#64, out := m.bytes (0x11000, 0x1000) }
    else if p.ends = 1 then { ending := 2 }
    else if !(p.reads.all rvMayRead && p.writes.all rvMayWrite) then { ending := 1 }
    else
      let got := p.reads.flatMap m.bytes
      let places := p.writes.flatMap fun e => (List.range e.2).map fun i => e.1 + i
      rvRun left clocks (Config.rvNext r w got)
        { m with done := (places.zipIdx).foldl (fun (d : Smap (BitVec 8)) e => mput d e.1 (Config.rvWrites r w got e.2)) m.done }

/-- A routine runs on a chunk; nothing of an earlier chunk is left (R126, R128). -/
def runChunk (image : List (BitVec 8)) (entry : Nat) (input : List (BitVec 8)) (chunk : Nat) (arg : BitVec 64) : ChunkEnd :=
  rvRun 65537 0 (rvStart entry chunk input.length arg) { image := image, input := input, chunk := chunk }

end Sys2Proof.Machine
end

