-- ==== Sys2Proof/Machine/Copies.lean ====
section
/-! DEFINITION. What the copy engine and the transform core do with accepted commands (R126 to R132, R377 to R393, R424): acceptance,
chunks, blocks, completion, faults, codebook commits, sector landings. -/

namespace Sys2Proof.Machine

/-! Commands of a queue -/

/-- The command of a context that the engine works on: its oldest (R388). -/
def Core.cmdOf (x : Core) (c : Nat) : Option Cmd := x.queue.find? fun q => q.ctx == c
/-- Changes one command. -/
def State.updCmd (s : State) (l k id : Nat) (f : Cmd → Cmd) : State :=
  s.updCore l k fun y => { y with queue := y.queue.map fun q => if q.id = id then f q else q }
/-- Takes a command out of the queue. -/
def State.dropCmd (s : State) (l k id : Nat) : State := s.updCore l k fun y => { y with queue := y.queue.filter fun q => q.id != id }
/-- The step of a command still has its context here. -/
def State.cmdAlive (s : State) (l k : Nat) (q : Cmd) : Bool := (s.ctx l k q.ctx).live && (s.ctx l k q.ctx).sid == q.sid

/-- D0 of a copy. -/
def Cmd.d0 (q : Cmd) : Nat := (q.d.headD 0#64).toNat
/-- A copy of R383. -/
def Cmd.isCopy (q : Cmd) : Bool := q.kind == .cpy || q.kind == .cpyg || q.kind == .cpyx
/-- A copy, or an accst, which proceeds in chunks like one (R368). -/
def Cmd.chunked (q : Cmd) : Bool := q.isCopy || q.kind == .accst

/-- A reader is past translation, or is cancelled (R77). -/
def State.readerPast (s : State) (l k : Nat) (q : Cmd) : State :=
  if !q.reading then s
  else (s.updCore l (q.readAt.getD k) fun y => y.setClaim true q.tileNo fun c => c.readerDone q.heldF).updCmd l k q.id fun q => { q with reading := false, heldF := false }

/-- The command stops in a fault, to be reported (R131, R389). SMASK keeps the blocks that were written before a swap, also when the chunk's
new translation faults (log entry 107). -/
def State.stopCmd (s : State) (l k : Nat) (q : Cmd) (cause addr : Nat) (refused : Bool := false) : State :=
  let s := if q.reading && !q.heldF && !refused then s.updCore l (q.readAt.getD k) fun y => y.setClaim true q.tileNo Claim.readerFaults else s
  s.updCmd l k q.id fun q => { q with st := .stopped, fault := some (cause, addr), refused := refused, heldF := q.reading && !refused, chunk := none, issued := 0, input := none, started := false }

/-! Places -/

/-- The engine's space code of a copy's space, for translation: 0 GLB, 1 HOST, 2 PEER. -/
def xlSpace (sp : Nat) : Nat := if sp = 4 then 1 else if sp = 5 then 2 else 0

/-- The core and offset of an OWN (1) or NBR (2) address of `n` bytes, or its fault (R13, R383). -/
def spadPlace (k sp a n : Nat) : Except (Nat × Nat) (Nat × Nat) :=
  if sp = 1 then (if spadEnd < a + n then .error (0x200, a) else .ok (k, a))
  else if 2 ^ 28 ≤ a then .error (0x200, a)
  else if 48 ≤ a / 2 ^ 22 then .error (0x201, a)
  else if spadEnd < a % 2 ^ 22 + n then .error (0x200, a)
  else .ok (a / 2 ^ 22, a % 2 ^ 22)

/-- The context under which a command's accesses resolve BIEs (R46): its step's, in the acquire interval of its acceptance. -/
def State.cmdCtx (s : State) (l k : Nat) (q : Cmd) : Ctx :=
  let x := s.ctx l k q.ctx
  if !s.cmdAlive l k q then q.view
  else
    { q.view with
      openBies := x.openBies
      bies := if q.view.acquires = x.acquires then x.bies.foldl (fun m e => mput m e.1 e.2) q.view.bies else q.view.bies }

/-- A translation for a command (R26). -/
def State.cmdXl (s : State) (l k : Nat) (q : Cmd) (sp kind a n : Nat) : Except (Nat × Nat) Phys :=
  match s.translateFor l k (s.cmdCtx l k q) sp kind a n with
  | .ok p => .ok p
  | .fault e => .error (e, a)
  | .lost e => .error (e, a)

/-- A range added to those read, joined to the one before it where they meet. -/
def addRead (r : Nat × Nat × Nat) : List (Nat × Nat × Nat) → List (Nat × Nat × Nat)
  | (h, a, n) :: rs => if h = r.1 ∧ a + n = r.2.1 then (h, a, n + r.2.2) :: rs else r :: (h, a, n) :: rs
  | [] => [r]

def addPage (p : Option Nat) (ps : List Nat) : List Nat :=
  match p with
  | some v => if ps.contains v then ps else v :: ps
  | none => ps

/-- What a command reads of global memory: bytes, their poison cause (R22, R124), and the view it then has (R173, R181). -/
def State.cmdSees (s : State) (q : Cmd) (p : Phys) (n : Nat) : List (BitVec 8) × Nat × Ctx :=
  let v := s.fixSnap q.view p.home p.addr n
  let (bs, bad) := s.sees v p.home p.addr n
  (bs, if bad = 0 ∧ p.pr then 0x1C0 else bad, { v.keepBie p with reads := addRead (p.home, p.addr, n) v.reads, pages := addPage p.vpage v.pages })

/-! Acceptance (R377, R381, R382, R384, R386, R387) -/

/-- The other dies at which some homes stand. -/
def farDies (l : Nat) (hs : List Nat) : List Nat := ((hs.map (homeDie l)).filter (· != l)).eraseDups

/-- A packet to one of some dies waits: the engine holds what would follow it (R451, R455, R456). -/
def State.wayHeld (s : State) (l : Nat) (ds : List Nat) : Bool :=
  ds.any fun d =>
    let k : Packet := { id := 0, src := l, dst := d }
    (s.pkg (pkgOf l)).pairWaits k || (s.pkg (pkgOf d)).pairWaits k

/-- A command's request to another die crosses the fabric, and the answer to it (R450, R452); what they bring is done as the request leaves
(log entry 131). -/
def State.exchange (s : State) (l d : Nat) (out back : List (BitVec 8)) : State :=
  let t := s.post l d 0 (s.packed out)
  t.post d l 1 (t.packed back)

/-- The images of every home as they stand for a context (R172, R173). -/
def State.fixAll (s : State) (x : Ctx) : Ctx := s.lds.foldl (fun x e => s.fixHome x e.1) (s.fixHome x hostKey)

/-- The images as the issuing step sees them now (R173, R181), which are fixed for the step too (R172). -/
def State.fixView (s : State) (l k : Nat) (q : Cmd) : State :=
  if s.cmdAlive l k q then
    let s := (hostKey :: s.lds.map (·.1)).foldl (fun s h => s.fixImage l q.sid h 0 0) s
    let x := s.ctx l k q.ctx
    s.updCmd l k q.id fun q =>
      { q with view := { snap := x.snap, hostImg := x.hostImg, hostSnap := x.hostSnap, own := x.own, atoms := x.atoms, bies := x.bies
                         oldBies := x.oldBies, acquires := x.acquires, sid := q.sid } }
  else s.updCmd l k q.id fun q => { q with view := s.fixAll { own := q.left, sid := q.sid } }

/-- Pages that the engine has translated enter the TLBs (R27). -/
def State.learnPages (s : State) (l k : Nat) (ps : List Nat) : State := ps.foldl (fun s p => s.afterXl l k 0 (65536 * p)) s

/-- A command's view after some accesses: the resolutions, and the host lines read first, are its step's too while the step is in the same
acquire interval (R46, R174); what was read has passed through the die caches. -/
def State.keepView (s : State) (l k : Nat) (q : Cmd) (v : Ctx) : State :=
  let far := v.reads.filter fun r => homeDie l r.1 != l
  let s := far.foldl (fun s r => s.exchange l (homeDie l r.1) [] (s.homeBytes r.1 r.2.1 r.2.2)) s
  let s := ((s.readThrough 0 v.reads v).learnPages l k v.pages).updCmd l k q.id fun q => { q with view := { v with reads := [], pages := [] } }
  let newer {α : Type} (m n : Smap α) : Smap α := m.foldl (fun n e => if (mget n e.1).isSome then n else mput n e.1 e.2) n
  if s.cmdAlive l k q && (s.ctx l k q.ctx).acquires == v.acquires then
    s.updCtx l k q.ctx fun x => { x with hostSnap := newer v.hostSnap x.hostSnap, bies := newer v.bies x.bies }
  else s

/-- The shape of a copy: element counts and strides, or the cause that refuses it (R380, R381). A record of a page that does not
translate stops the command instead. -/
def State.shapeOf (s : State) (l k : Nat) (q : Cmd) : Except (Nat × Nat × Bool) (List Nat × List Int × List Int) :=
  let w (i lo : Nat) : Nat := bits (q.d.getD i 0#64).toNat lo 16
  if !dShp q.d0 then
    let (ss, ds) := descStrides q.d
    .ok ([w 2 0, w 2 16, w 2 32, w 2 48], ss, ds)
  else
    let a := (q.d.getD 6 0#64).toNat
    match s.cmdXl l k q 0 4 a 64 with
    | .error (c, a) => .error (c, a, false)
    | .ok p =>
      let r := leNat (s.cmdSees q p 64).1
      let n := (List.range 4).map fun i => bits r (32 * i) 32
      let ss := (List.range 3).map fun i => sext (bits r (128 + 64 * i) 64) 64
      let ds := (List.range 3).map fun i => sext (bits r (320 + 64 * i) 64) 64
      let es := dEsz q.d0
      if (ss ++ ds).any fun v => v % (es : Int) != 0 then .error (0x280, a, true)
      else if 2 ^ 44 < n.foldl (· * ·) es then .error (0x280, a, true)
      else .ok (n, ss, ds)

/-- The ring that a RING copy writes: core and ring control (R384); an OWN ring is the one that its handle named at issue. -/
def State.ringOf (s : State) (l : Nat) (q : Cmd) : Option (Nat × Nat) :=
  if dDsp q.d0 = 1 then q.ring
  else
    let a := q.dst.toNat
    let k' := bits a 22 6
    let y := s.core l k'
    let hits := (y.ctxs.filter fun x => x.2.live).flatMap fun x => (x.2.regs.rh.filterMap id).filter fun r => ringBase (mgetD y.rings r {}).cfg == a % 2 ^ 22
    if 48 ≤ a / 2 ^ 22 then none else hits.head?.map fun r => (k', r)

/-- Where a copy's routine has its table entry (R127). -/
def Ld.routineAt (x : Ld) (q : Cmd) : Nat := 4096 * bits x.regs.trtbase.toNat 12 40 + 32 * dXfn q.d0
/-- A routine's table entry, as the command sees it. -/
def State.routineEntry (s : State) (l : Nat) (q : Cmd) : Nat := leNat (s.cmdSees q { home := l, addr := (s.ld l).routineAt q } 32).1
/-- CODE as a byte address, and LEN in bytes. -/
def routineCode (e : Nat) : Nat := 64 * bits e 134 46
def routineLen (e : Nat) : Nat := 64 * bits e 112 16

/-- A routine's image, entry offset and ARG (R127), or the cause that refuses the copy (R129). An image that does not lie in the stack is
malformed (log entry 97). -/
def State.routineOf (s : State) (l : Nat) (q : Cmd) : Except Nat (List (BitVec 8) × Nat × Word) :=
  let e := s.routineEntry l q
  let len := routineLen e; let ent := bits e 96 16; let code := routineCode e
  if !bit e 0 then .error 0x288
  else if bits e 180 12 != 0 || bits e 128 6 != 0 || bits e 1 95 != 0 || len == 0 || decide (16384 < len) || ent % 2 != 0 || decide (len ≤ ent) || !dpaOk (code + len - 1) then
    .error 0x28D
  else .ok ((s.cmdSees q { home := l, addr := code } len).1, ent, BitVec.ofNat 64 (bits e 192 64))

/-- What the acceptance of a copy reads: its shape record (R381), its routine's entry and image (R127). -/
def State.acceptReads (s : State) (l k : Nat) (q : Cmd) : List (Nat × Nat × Nat) :=
  (if dShp q.d0 then match s.cmdXl l k q 0 4 (q.d.getD 6 0#64).toNat 64 with
    | .ok p => [(p.home, p.addr, 64)]
    | .error _ => []
   else []) ++
  (if q.kind = .cpyx then
    let e := s.routineEntry l q
    (l, (s.ld l).routineAt q, 32) :: if dpaOk (routineCode e + routineLen e - 1) then [(l, routineCode e, routineLen e)] else []
   else [])

/-- The −1 of a stamped copy that will not write (R146, R387). -/
def State.uncount (s : State) (l : Nat) (q : Cmd) : State :=
  match q.stamped with
  | some (p, y, t) => s.countAt l p y t (-1)
  | none => s

/-- The command is refused (R382, R387): a stamped copy sends its −1 at the refusal. -/
def State.refuseCmd (s : State) (l k : Nat) (q : Cmd) (cause addr : Nat) : State :=
  let s := (s.uncount l q).readerPast l k q
  (s.updCmd l k q.id fun q => { q with stamped := none }).stopCmd l k { q with reading := false } cause addr q.stamped.isSome

/-- The hods that a copy into a ring needs (R384): the ring and their number, none when it is refused. -/
def State.ringNeed (s : State) (l : Nat) (q : Cmd) (t : Nat) : Option ((Nat × Nat) × Ring × Nat) :=
  match s.ringOf l q with
  | none => none
  | some (k', r) =>
    let g := mgetD (s.core l k').rings r {}
    let z := ringStage g.cfg
    if t % z != 0 || decide (ringCount g.cfg < t / z) || (q.kind == .cpyx && t == 0) then none else some ((k', r), g, t / z)

/-- The copy becomes a reader of its tile, if it is not one (R77). -/
def State.beginReading (s : State) (l k : Nat) (q : Cmd) : State :=
  if q.reading then s
  else (s.updCore l k fun y => y.setClaim true q.tileNo fun c => { c with readers := c.readers + 1 }).updCmd l k q.id fun q => { q with reading := true }

/-- Acceptance of a copy (R381 to R387). -/
def State.acceptCopy (s : State) (l k : Nat) (q : Cmd) : State :=
  let s₀ := s
  let s := s.fixView l k q
  let q := ((s.core l k).queue.find? fun r => r.id == q.id).getD q
  let acc := dSsp q.d0 == 3
  let claim := (s.core l k).claim true q.tileNo
  let reads := s.acceptReads l k q
  let s := if dShp q.d0 then (s.readThrough 0 reads).afterXl l k 0 (q.d.getD 6 0#64).toNat else s.readThrough 0 reads
  match s.shapeOf l k q with
  | .error (c, a, true) => s.refuseCmd l k q c a
  | .error (c, a, false) => if c = heldCode then s₀ else s.stopCmd l k q c a
  | .ok (n, ss, ds) =>
    let src := n.foldl (· * ·) (dEsz q.d0)
    let t := if q.kind = .cpyx then bits (q.d.getD 7 0#64).toNat 32 32 else src
    if s.anyHeld reads then s₀
    else
      match (if q.kind = .cpyx then s.routineOf l q else .ok ([], 0, 0#64)) with
      | .error c => s.refuseCmd l k q c 0
      | .ok (image, entry, arg) =>
        if acc && !(q.reading || (claim.st == .held && claim.owner == q.sid)) then s.refuseCmd l k q 0x109 q.src.toNat
        else
          let s := if acc then s.beginReading l k q else s
          let fill (q : Cmd) : Cmd :=
            { q with
              n := n, ss := ss, ds := ds, total := src, image := image, entry := entry, arg := arg, accepted := true, st := .running
              tile := if acc then some ((s.core l (q.readAt.getD k)).tiles.getD q.tileNo {}) else none }
          if !dRing q.d0 then s.updCmd l k q.id fill
          else
            match s.ringNeed l q t with
            | none => s.refuseCmd l k { q with reading := acc } 0x283 q.dst.toNat
            | some ((k', r), g, m) =>
              if src = 0 then s.updCmd l k q.id fun q => { fill q with ring := some (k', r), rcfg := g.cfg }
              else if g.free < m then s
              else
                let s := s.updCore l k' fun y => { y with rings := mput y.rings r { g with wp := g.hod g.wp m, used := g.used + m } }
                s.updCmd l k q.id fun q => { fill q with ring := some (k', r), rcfg := g.cfg, w0 := g.wp }

/-- engineCommandAccept: the oldest command of a context is accepted (R377), unless the limiter holds acceptances (R458); a tile is read
after the pass that renormalises it has landed (R74, R241). -/
def evEngineCommandAccept (l k c : Nat) : M Unit := do
  let s ← getS
  match (s.core l k).cmdOf c with
  | none => idle
  | some q => do
    need (q.st == .waiting && (s.core l k).eccHold == 0 && !((s.pkg (pkgOf l)).holding && !bit (s.regionOf l (s.ctx l k c).sys.opid).rcb.toNat 234) &&
      !(dSsp q.d0 == 3 && q.isCopy && (s.core l k).renorming q.tileNo))
    if q.isCopy then updS fun s => s.acceptCopy l k q
    else updS fun s =>
      (s.fixView l k q).updCmd l k q.id fun q => { q with accepted := true, st := .running, total := if q.kind = .accst then 64 * accRow q.tileFmt else q.total }

/-! Chunks (R130, R383) -/

/-- The coordinates of element `e` of a copy. -/
def Cmd.coords (q : Cmd) (e : Nat) : Nat × Nat × Nat × Nat :=
  let n (i : Nat) : Nat := max 1 (q.n.getD i 1)
  (e % n 0, e / n 0 % n 1, e / n 0 / n 1 % n 2, e / n 0 / n 1 / n 2)

/-- The row that a cpyg's index list gives (R385). -/
def Core.rowIndex (x : Core) (q : Cmd) (i1 : Nat) : Except (Nat × Nat) Nat :=
  let w := if dIdx32 q.d0 then 4 else 2
  let a := bits (q.d.getD 7 0#64).toNat 0 22 + w * i1
  if q.kind ≠ .cpyg then .ok i1
  else if spadEnd < a + w then .error (0x200, a)
  else .ok (leNat (x.spRead 0 a w))

/-- The address of element `e` on one side of a copy (R383); `side` is true for the destination. -/
def Core.elemAddr (x : Core) (q : Cmd) (dest : Bool) (e : Nat) : Except (Nat × Nat) Nat :=
  let (i0, i1, i2, i3) := q.coords e
  let st := if dest then q.ds else q.ss
  let base := if dest then q.dst.toNat else if dSsp q.d0 = 3 then 8 * (q.src.toNat % 16384) else q.src.toNat
  let row := if dest == q.scat then x.rowIndex q i1 else .ok i1
  row.map fun r =>
    wrap 64 ((base : Int) + i0 * dEsz q.d0 + r * st.getD 0 0 + i2 * st.getD 1 0 + i3 * st.getD 2 0)

/-! Bytes that one copy writes twice, or reads after writing them (R383) -/

/-- The number of a place in the list of those written. -/
def placeKey (core : Option Nat) (home addr : Nat) : Nat :=
  match core with
  | some k => 2 ^ 60 * (k + 1) + addr
  | none => 2 ^ 70 * (home + 1) + addr
def DstB.key (d : DstB) : Nat := placeKey d.core d.home d.addr
/-- What stood at a place before the copy, and what the copy has given it. -/
def wroteAt : List (Nat × (BitVec 8 × Bool) × (BitVec 8 × Bool)) → Nat → Option ((BitVec 8 × Bool) × (BitVec 8 × Bool))
  | [], _ => none
  | e :: r, n => if e.1 = n then some e.2 else if e.1 < n then none else wroteAt r n
def wroteSet (n : Nat) (v : (BitVec 8 × Bool) × (BitVec 8 × Bool)) :
    List (Nat × (BitVec 8 × Bool) × (BitVec 8 × Bool)) → List (Nat × (BitVec 8 × Bool) × (BitVec 8 × Bool))
  | [] => [(n, v)]
  | e :: r => if e.1 = n then (n, v) :: r else if e.1 < n then (n, v) :: e :: r else e :: wroteSet n v r

/-- Whether the aligned 8-byte word (R164) of a place takes the later of two values, at this draw. -/
def State.picks (s : State) (key : Nat) : Bool := Config.freePick (2 ^ 100 * s.draw + key / 8)

/-- Bytes of a source element; a word that an earlier chunk of the copy has written is seen as before or as after it. -/
def State.eitherRead (s : State) (q : Cmd) (places : List Nat) (bs : List (BitVec 8)) (bad : Bool) : List (BitVec 8) × Bool :=
  if q.wrote.isEmpty then (bs, bad)
  else
    let cs := (places.zip bs).map fun e => match wroteAt q.wrote e.1 with
      | some (o, v) => if s.picks e.1 then o else v
      | none => (e.2, false)
    (cs.map (·.1), bad || cs.any (·.2))

/-- The byte that stands at a destination. -/
def State.beneath (s : State) (l : Nat) (q : Cmd) (d : DstB) : BitVec 8 × Bool :=
  match d.core with
  | some k => (Mem.get (s.core l k).spad d.addr, (s.core l k).spadPoison.has (d.addr / 4))
  | none => let (bs, bad, _) := s.cmdSees q { home := d.home, addr := d.addr } 1; (bs.headD 0#8, bad != 0)

/-- The bytes of a block as it is written; a word that the copy has written before keeps its value or takes the new one. -/
def State.eitherWrite (s : State) (l : Nat) (q : Cmd) :
    List DstB → List (Nat × (BitVec 8 × Bool) × (BitVec 8 × Bool)) → List DstB × List (Nat × (BitVec 8 × Bool) × (BitVec 8 × Bool))
  | [], w => ([], w)
  | d :: r, w =>
    match wroteAt w d.key with
    | none =>
      let (ds, w) := State.eitherWrite s l q r (wroteSet d.key (s.beneath l q d, (d.val, d.bad)) w)
      (d :: ds, w)
    | some (o, v) =>
      let c := if s.picks d.key then (d.val, d.bad) else v
      let (ds, w) := State.eitherWrite s l q r (wroteSet d.key (o, c) w)
      ({ d with val := c.1, bad := c.2 } :: ds, w)

/-- One element of the source: bytes, poison, and the images used (R383, R124). -/
def State.srcElem (s : State) (l k : Nat) (q : Cmd) (e : Nat) : Except (Nat × Nat) (List (BitVec 8) × Bool × Ctx) :=
  let es := dEsz q.d0
  match (s.core l k).elemAddr q false e with
  | .error f => .error f
  | .ok a =>
    match dSsp q.d0 with
    | 1 | 2 =>
      match spadPlace k (dSsp q.d0) a es with
      | .error f => .error f
      | .ok (k', off) =>
        let (bs, bad) := s.eitherRead q ((List.range es).map fun i => placeKey (some k') 0 (bytePlace (dSswz q.d0) (off + i)))
          ((s.core l k').spRead (dSswz q.d0) off es) ((s.core l k').spBad (dSswz q.d0) off es)
        .ok (bs, bad, q.view)
    | 3 =>
      if 0x20000 < a + es ∨ 65536 ≤ q.src.toNat then .error (0x203, a)
      else
        let t := q.tile.getD {}
        let m := wrap 48 ((t.row (a / 2048)).getD (a / 8 % 256) 0)
        .ok (natLe 8 (m + 2 ^ 48 * wrap 16 t.expo), t.poison.has (a / 8), q.view)
    | sp =>
      match s.cmdXl l k q (xlSpace sp) 4 a es with
      | .error f => .error f
      | .ok p =>
        let (bs, bad, v) := s.cmdSees q p es
        let (bs, bad) := s.eitherRead q ((List.range es).map fun i => placeKey none p.home (p.addr + i)) bs (bad != 0)
        .ok (bs, bad, v)

/-- The elements of a chunk in order: bytes with poison, and the images used. -/
def State.srcElems (s : State) (l k : Nat) (q : Cmd) : Nat → Nat → Except (Nat × Nat) (List (BitVec 8 × Bool) × Ctx)
  | _, 0 => .ok ([], q.view)
  | e, n + 1 =>
    match s.srcElem l k q e with
    | .error f => .error f
    | .ok (bs, bad, v) =>
      match State.srcElems s l k { q with view := v } (e + 1) n with
      | .error f => .error f
      | .ok (rest, v) => .ok ((bs.map fun b => (b, bad)) ++ rest, v)

/-- The image that an accst writes (R368): row images in row order. -/
def Cmd.accImage (q : Cmd) : List (BitVec 8 × Bool) :=
  let t := q.tile.getD {}
  let f := if q.tileFmt = 3 then 5 else q.tileFmt
  let w := accRow q.tileFmt / 256
  (List.range 64).flatMap fun r => (t.row r).flatMap fun m => (natLe w (narrow f q.rm (tileValue t.expo m)).code).map fun b => (b, false)

/-- A byte's place in the hods that a ring copy reserved (R384). -/
def ringByte (q : Cmd) (pos : Nat) (b : BitVec 8) (bad : Bool) : DstB :=
  let (k', r) := q.ring.getD (0, 0)
  let g : Ring := { cfg := q.rcfg }
  let z := ringStage g.cfg
  let hod := g.hod q.w0 (pos / z)
  { core := some k', addr := bytePlace (dDswz q.d0) (g.offset hod + pos % z), val := b, bad := bad, sec := some (r, hod, pos % z / 32) }

/-- One byte at a destination address of a space (R383, R386). -/
def State.dstByte (s : State) (l k : Nat) (q : Cmd) (sp mode a : Nat) (b : BitVec 8) (bad : Bool) : Except (Nat × Nat) DstB :=
  if sp = 1 ∨ sp = 2 then
    (spadPlace k sp a 1).map fun p => { core := some p.1, addr := bytePlace mode p.2, val := b, bad := bad }
  else
    (s.cmdXl l k q (xlSpace sp) 5 a 1).map fun p => { home := p.home, addr := p.addr, val := b, bad := bad, comp := p.comp, ca := p.ca, page := p.vpage }

/-- The destination of the byte at a position of the stream (R383). -/
def State.dstPos (s : State) (l k : Nat) (q : Cmd) (pos : Nat) (b : BitVec 8 × Bool) : Except (Nat × Nat) DstB :=
  let es := dEsz q.d0
  if q.kind = .accst then
    let len := accRow q.tileFmt
    s.dstByte l k q (if q.sp = 1 then 0 else 1) 0 (wrap 64 ((q.dst.toNat : Int) + (pos / len) * q.arg.toNat + (pos % len : Nat))) b.1 b.2
  else if dRing q.d0 then .ok (ringByte q pos b.1 b.2)
  else if q.kind = .cpyx then s.dstByte l k q (dDsp q.d0) (dDswz q.d0) (wrap 64 ((q.dst.toNat : Int) + pos)) b.1 b.2
  else
    match (s.core l k).elemAddr q true (pos / es) with
    | .error f => .error f
    | .ok a => s.dstByte l k q (dDsp q.d0) (dDswz q.d0) (a + pos % es) b.1 b.2

/-- The destinations of a run of bytes from a position. -/
def State.dstRun (s : State) (l k : Nat) (q : Cmd) : Nat → List (BitVec 8 × Bool) → Except (Nat × Nat) (List DstB)
  | _, [] => .ok []
  | pos, b :: r =>
    match s.dstPos l k q pos b with
    | .error f => .error f
    | .ok d => (State.dstRun s l k q (pos + 1) r).map fun ds => d :: ds

/-- Bytes cut into blocks of 256 (R130). -/
def cutBlocks : Nat → List DstB → List (List DstB)
  | 0, _ => []
  | _, [] => []
  | n + 1, ds => ds.take 256 :: cutBlocks n (ds.drop 256)

/-- The aligned 8-byte word of a place (R164). -/
def DstB.word (d : DstB) : Nat := d.key / 8
/-- Blocks with every aligned word that goes on from one into the next written whole with the first (R164); `k` bytes of the first block have
gone to the one before it. -/
def joinWords : Nat → List (List DstB) → List (List DstB)
  | _, [] => []
  | k, b :: r =>
    let next := r.headD []
    let more := next.takeWhile fun d => (b.getLast?.map DstB.word) == some d.word
    (b.drop k ++ more) :: joinWords more.length r

/-- A command stops in a fault, unless it only waits for a commit (R114). -/
def State.stopOr (s : State) (l k : Nat) (q : Cmd) (e : Nat × Nat) : State := if e.1 = heldCode then s else s.stopCmd l k q e.1 e.2

/-- The chunk that stands next has its last block written and counted: progress moves on (R130). -/
def State.nextChunk (s : State) (l k : Nat) (q : Cmd) : State :=
  let s := s.updCmd l k q.id fun q =>
    { q with chix := q.chix + 1, smask := 0, issued := 0, chunk := none, input := none, started := false, outPos := q.outPos + q.outLen, outLen := 0, beyond := false }
  if q.beyond then s.stopCmd l k { q with reading := false } 0x284 0 else s

/-- The bytes at the end of a chunk whose aligned word goes on in the next chunk, from stream position `next` (R164). -/
def State.tailOf (s : State) (l k : Nat) (q : Cmd) (next : Nat) (ds : List DstB) : List DstB :=
  if q.isCopy && dRing q.d0 || q.total ≤ 4096 * (q.chix + 1) then []
  else
    match s.dstPos l k q next (0#8, false) with
    | .ok d => (ds.reverse.takeWhile fun e => e.word == d.word).reverse
    | .error _ => []

/-- Both halves of a chunk are translated; after the last one the command no longer reads its tile (R77). Blocks that were written before a
stop are not issued again (R132). A word that the chunk shares with the one before it is written with its first block, one that it shares
with the chunk after it waits for that (R164). -/
def State.chunkReady (s : State) (l k : Nat) (q : Cmd) (next : Nat) (ds : List DstB) : State :=
  let tail := s.tailOf l k q next ds
  let blocks := cutBlocks 16 (ds.take (ds.length - tail.length))
  let blocks := if q.isCopy && dRing q.d0 then blocks else joinWords 0 blocks
  let blocks := if q.tail.isEmpty then blocks else (q.tail ++ blocks.headD []) :: blocks.tail
  let s := { s.learnPages l k ((ds.filterMap fun (d : DstB) => d.page).eraseDups) with draw := s.draw + 1 }.updCmd l k q.id fun q =>
    { q with chunk := some blocks, issued := q.smask, tail := tail }
  let s := if q.total ≤ 4096 * (q.chix + 1) then s.readerPast l k q else s
  if (List.range blocks.length).all (bit q.smask) then s.nextChunk l k q else s

/-- The command that is running, of a kind; a corrected error's freeze holds the engine (R122). -/
def runningCmd (l k c : Nat) (ok : Cmd → Bool) : M Cmd := do
  let s ← getS
  match (s.core l k).cmdOf c with
  | none => idle
  | some q => do
    need (q.st == .running && ok q && (s.core l k).eccHold == 0)
    pure q

/-- The elements from `e` on that lie in the aligned word of the element before (R164). -/
def Core.sameWord (x : Core) (q : Cmd) : Nat → Nat → Nat
  | 0, _ => 0
  | n + 1, e =>
    match x.elemAddr q false e, x.elemAddr q false (e - 1) with
    | .ok a, .ok b => if e ≠ 0 ∧ a / 8 = (b + dEsz q.d0 - 1) / 8 then Core.sameWord x q n (e + 1) + 1 else 0
    | _, _ => 0

/-- The chunk's bytes of the source stream, and those of the next chunk that lie in the aligned word of its last ones, which is read once
(R164). -/
def State.chunkSrc (s : State) (l k : Nat) (q : Cmd) : Except (Nat × Nat) (List (BitVec 8 × Bool) × List (BitVec 8 × Bool) × Ctx) :=
  let start := 4096 * q.chix
  let n := min 4096 (q.total - start)
  let es := dEsz q.d0
  if q.kind = .accst then .ok ((q.accImage.drop start).take n, [], q.view)
  else
    let have_ := q.ahead.length
    let more := if start + n < q.total then (s.core l k).sameWord q 7 ((start + n) / es) else 0
    (s.srcElems l k q ((start + have_) / es) ((n - have_) / es + more)).map fun r => ((q.ahead ++ r.1).take n, (q.ahead ++ r.1).drop n, r.2)

/-- copyChunkTranslate (R130): the next chunk is read and both its halves are translated; a cpyx's destination follows its routine. -/
def evCopyChunkTranslate (l k c : Nat) : M Unit := do
  let q ← runningCmd l k c fun q => q.chunked && q.chunk.isNone && q.input.isNone && decide (4096 * q.chix < q.total)
  updS fun s =>
    match s.chunkSrc l k q with
    | .error e => s.stopOr l k q e
    | .ok (bs, ahead, v) =>
      let s₀ := s
      if s.wayHeld l (farDies l (v.reads.map (·.1))) then s else
      let s := (s.keepView l k q v).updCmd l k q.id fun q => { q with ahead := ahead }
      let q := { q with view := v }
      if q.kind = .cpyx then s.updCmd l k q.id fun q => { q with input := some (bs.map (·.1), bs.any (·.2)) }
      else
        match s.dstRun l k q (4096 * q.chix) bs with
        | .error e => s₀.stopOr l k q e
        | .ok ds => s.chunkReady l k q (4096 * (q.chix + 1)) ds

/-! Transforms (R126 to R129, R386) -/

/-- transformChunkStart: the routine starts on the chunk in IN; poisoned input is 0x1C2 (R124). -/
def evTransformChunkStart (l k c : Nat) : M Unit := do
  let q ← runningCmd l k c fun q => q.kind == .cpyx && q.input.isSome && !q.started && q.chunk.isNone
  updS fun s =>
    match q.input with
    | some (_, true) => s.stopCmd l k q 0x1C2 0
    | _ => s.updCmd l k q.id fun q => { q with started := true }

/-- What the routine makes of the chunk (R126, R128, R129). -/
def Cmd.outcome (q : Cmd) : ChunkEnd := runChunk q.image q.entry ((q.input.map (·.1)).getD []) q.chix q.arg

/-- A routine at work, whose chunk ends as `ending` says. -/
def transforming (l k c ending : Nat) : M Cmd := runningCmd l k c fun q => q.started && q.outcome.ending == ending

/-- transformEcall: the output length is a0, the output joins the stream (R128), bytes beyond OLEN are not written (R386). -/
def evTransformEcall (l k c : Nat) : M Unit := do
  let q ← transforming l k c 0
  updS fun s =>
    let o := q.outcome
    let len := o.a0.toNat
    let olen := bits (q.d.getD 7 0#64).toNat 32 32
    if 4096 < len then s.stopCmd l k q 0x28C 0
    else
      let out := (List.range len).map fun i => (o.out.getD i 0#8, false)
      let fit := if olen = 0 then out else out.take (olen - q.outPos)
      match s.dstRun l k q q.outPos fit with
      | .error e => s.stopOr l k q e
      | .ok ds =>
        let q := { q with outLen := fit.length, beyond := decide (fit.length < len) }
        (s.updCmd l k q.id fun r => { r with outLen := q.outLen, beyond := q.beyond }).chunkReady l k q (q.outPos + q.outLen) ds

/-- transformTimeout (R129). -/
def evTransformTimeout (l k c : Nat) : M Unit := do
  let q ← transforming l k c 3
  updS fun s => s.stopCmd l k q 0x28A 0

/-- transformException (R129): an access outside the routine's memory, or ebreak and the like. -/
def evTransformException (l k c : Nat) (access : Bool) : M Unit := do
  let q ← transforming l k c (if access then 1 else 2)
  updS fun s => s.stopCmd l k q (if access then 0x289 else 0x28B) 0

/-! Blocks and sectors (R64, R130) -/

/-- Byte places of a scratchpad written: a granule with a poisoned byte is poisoned, one written whole is not (R123, R124). -/
def Core.writePlaces (x : Core) (ds : List DstB) : Core :=
  let gs := (ds.map fun d => d.addr / 4).eraseDups
  { x with
    spad := ds.foldl (fun (m : Mem) d => Mem.set m d.addr d.val) x.spad
    spadPoison := gs.foldl (fun (p : Nset) g =>
      let mine := ds.filter fun d => d.addr / 4 == g
      if mine.any (·.bad) then p.upd g true else if 4 ≤ mine.length then p.upd g false else p) x.spadPoison }

/-- A full hod whose token has not landed: the token moves to the consumer's operator yard in one batch (R143, R396). -/
def State.landToken (s : State) (l k r hod : Nat) : State :=
  let g := mgetD (s.core l k).rings r {}
  match mget g.tags hod with
  | some t =>
    if g.fullHod hod && !t.landed then
      let s := s.updCore l k fun y => { y with rings := mput y.rings r { g with tags := mput g.tags hod { t with landed := true } } }
      s.countRecs l t.parish [(t.yard, t.stamp.toNat, 1), (t.port, t.stamp.toNat, -1)]
    else s
  | none => s

/-- A sector of a reserved hod is counted after its bytes are written (R62, R64, R66). DESIGN CHOICE (log entry 119): one that lands in a hod that
an rset has freed meanwhile is counted there as in a reserved one; the manual gives the landing of a reserved hod's sectors alone. -/
def State.countSector (s : State) (l k r hod : Nat) : State :=
  let s := s.updCore l k fun y =>
    let g := mgetD y.rings r {}
    let n := mgetD g.counts hod 0
    { y with rings := mput y.rings r (if n = ringSectors g.cfg then { g with ovf := true } else { g with counts := mput g.counts hod (n + 1) }) }
  s.landToken l k r hod

/-- A block of a command is written and counted: its bit of SMASK is set, and after the last one the next chunk stands (R130). -/
def State.blockDone (s : State) (l k id b : Nat) : State :=
  match (s.core l k).queue.find? fun q => q.id == id with
  | none => s
  | some q =>
    let q := { q with smask := q.smask ||| 2 ^ b }
    let s := s.updCmd l k id fun r => { r with smask := q.smask }
    if q.chunk.isSome && (List.range (q.chunk.getD []).length).all (bit q.smask) then s.nextChunk l k q else s

/-- Bytes of a sector have been written (R64): the sector is counted when all 32 have. -/
def State.sectorBytes (s : State) (l k r hod sector n : Nat) : State :=
  let g := mgetD (s.core l k).rings r {}
  let key := 1024 * hod + sector
  let got := mgetD g.landed key 0 + n
  if 32 ≤ got then (s.updCore l k fun y => { y with rings := mput y.rings r { g with landed := mdel g.landed key } }).countSector l k r hod
  else s.updCore l k fun y => { y with rings := mput y.rings r { g with landed := mput g.landed key got } }

/-- A landing performed; the last of its block completes it. -/
def State.landSector (s : State) (l : Nat) (w : Landing) : State :=
  let s := s.updCore l w.core fun y => y.writePlaces w.bytes
  let s := if (mget (s.core l w.core).rings w.ring).isSome then s.sectorBytes l w.core w.ring w.hod w.sector w.bytes.length else s
  match w.cmd with
  | none => s
  | some (id, b) =>
    if (s.ld l).landing.any fun v => v.cmd == some (id, b) then s
    else
      match (s.ld l).cores.find? fun e => e.2.queue.any fun q => q.id == id with
      | some e => s.blockDone l e.1 id b
      | none => s

/-- sectorLanding (R64): the bytes on their way to the sector land; with none on their way, `data` comes from a producer outside. -/
def evSectorLanding (l k r hod sector : Nat) (data : BitVec 256) : M Unit := do
  let s ← getS
  let g := mgetD (s.core l k).rings r {}
  match (s.ld l).landing.find? fun w => w.core == k && w.ring == r && w.hod == hod && w.sector == sector with
  | some w => updS fun s => (s.updLd l fun x => { x with landing := x.landing.erase w }).landSector l w
  | none => do
    need ((mget (s.core l k).rings r).isSome && g.cfg != 0#64 && decide (sector < ringSectors g.cfg) && (g.oldest g.used).contains hod)
    updS fun s => s.landSector l {
      core := k, ring := r, hod := hod, sector := sector,
      bytes := (natLe 32 data.toNat).zipIdx.map fun b => { core := some k, addr := bytePlace 0 (g.offset hod + 32 * sector + b.2), val := b.1 } }

/-- The landings of a block of a ring: one for each sector that it has bytes of. -/
def landingsOf (cmd block core : Nat) : List DstB → List Landing
  | [] => []
  | d :: r =>
    match landingsOf cmd block core r with
    | [] => [{ core := core, ring := (d.sec.getD (0, 0, 0)).1, hod := (d.sec.getD (0, 0, 0)).2.1, sector := (d.sec.getD (0, 0, 0)).2.2, cmd := some (cmd, block), bytes := [d] }]
    | w :: ws =>
      if d.sec = some (w.ring, w.hod, w.sector) then { w with bytes := d :: w.bytes } :: ws
      else { core := core, ring := (d.sec.getD (0, 0, 0)).1, hod := (d.sec.getD (0, 0, 0)).2.1, sector := (d.sec.getD (0, 0, 0)).2.2, cmd := some (cmd, block), bytes := [d] } :: w :: ws

/-- Global bytes of a copy reach their homes, unpublished (R165); a step that has retired keeps them with the command (R167). -/
def State.copyStores (s : State) (l k : Nat) (q : Cmd) (ds : List DstB) : State :=
  let put (seq : Nat) (m : Smap (Smap Own)) : Smap (Smap Own) :=
    ds.foldl (fun (m : Smap (Smap Own)) d =>
      mput m d.home (mput (mgetD m d.home []) d.addr { val := d.val, seq := seq, comp := d.comp, poison := d.bad, copy := some q.id })) m
  if s.cmdAlive l k q then s.updCtx l k q.ctx fun x => { x with stores := x.stores + 1, own := put (x.stores + 1) x.own }
  else s.updCmd l k q.id fun q => { q with left := put 0 q.left }

/-- Bytes that are written at once: byte places of scratchpads, then global bytes. -/
def State.writeBytes (s : State) (l k : Nat) (q : Cmd) (ds : List DstB) : State :=
  let s := ((ds.filterMap (·.core)).eraseDups).foldl (fun s k' => s.updCore l k' fun y => y.writePlaces (ds.filter fun d => d.core == some k')) s
  let glob := ds.filter fun d => d.core.isNone
  if glob.isEmpty then s
  else
    (farDies l (glob.map (·.home))).foldl (fun s d => s.exchange l d ((glob.filter fun e => homeDie l e.home == d).map (·.val)) [])
      (s.copyStores l k q glob)

/-- The bytes that wait for the rest of their word are written without it: the command stops, or nothing follows them. -/
def State.flushTail (s : State) (l k : Nat) (q : Cmd) : State :=
  if q.tail.isEmpty then s else (s.writeBytes l k q q.tail).updCmd l k q.id fun q => { q with tail := [] }

/-- A block's writes (R130): a ring's sectors go on their way, other bytes are written. -/
def State.writeBlock (s : State) (l k : Nat) (q : Cmd) (b : Nat) (ds : List DstB) : State :=
  if q.isCopy && dRing q.d0 then s.updLd l fun x => { x with landing := x.landing ++ landingsOf q.id b (q.ring.getD (0, 0)).1 ds }
  else (s.writeBytes l k q ds).blockDone l k q.id b

/-- The other dies at which a block is written. -/
def blockDies (l : Nat) (ds : List DstB) : List Nat := farDies l ((ds.filter fun d => d.core.isNone).map (·.home))

/-- copyBlockWrite (R130): the next block that has not been issued is issued, behind the packets that wait on its way. One that the fabric
cannot carry stops the command (R415). -/
def evCopyBlockWrite (l k c : Nat) : M Unit := do
  let q ← runningCmd l k c fun q => q.chunk.isSome
  let bs := q.chunk.getD []
  match (List.range bs.length).find? fun b => !bit q.issued b with
  | none => idle
  | some b => do
    let s ← getS
    let far := blockDies l (bs.getD b [])
    need (!s.wayHeld l far)
    updS fun s =>
      match far.findSome? (s.roundTrip l) with
      | some e => s.stopCmd l k q e q.dst.toNat
      | none =>
        let (ds, w) := s.eitherWrite l q (bs.getD b []) q.wrote
        let s := { s with draw := s.draw + 1 }.updCmd l k q.id fun q => { q with issued := q.issued ||| 2 ^ b, wrote := w }
        s.writeBlock l k q b ds

/-- No write of a command is on its way. -/
def Ld.settled (x : Ld) (id : Nat) : Bool := !(x.landing.any fun w => w.cmd.any fun c => c.1 == id)

/-- A copy publishes what it wrote (R167, R387): every store of it that is still unpublished. -/
def State.publishCopy (s : State) (l k : Nat) (q : Cmd) : State :=
  if s.cmdAlive l k q then s.publish l k q.ctx fun _ o => o.copy == some q.id
  else q.left.foldl (fun s p => s.publishHome p.1 p.2) s

/-- copyComplete (R386, R387, R167): the last sector is at its home. A cpyx that wrote fewer than OLEN bytes stops with 0x284. -/
def evCopyComplete (l k c : Nat) : M Unit := do
  let q ← runningCmd l k c fun q => q.chunked && decide (q.total ≤ 4096 * q.chix) && q.chunk.isNone
  let s ← getS
  need ((s.ld l).settled q.id)
  updS fun s =>
    let s := s.flushTail l k q
    if q.kind = .cpyx ∧ q.total ≠ 0 ∧ q.outPos < bits (q.d.getD 7 0#64).toNat 32 32 then s.stopCmd l k q 0x284 0
    else
      let s := if q.stamped.isSome || !s.cmdAlive l k q then s.publishCopy l k q else s
      let s := match q.stamped with
        | some (p, y, t) => s.updLd l fun x => { x with acksDue := x.acksDue ++ [(p, y, t, k)] }
        | none => s
      (s.readerPast l k q).dropCmd l k q.id

/-- stampedCopyAck (R143): the issuing die forms the copy's −1. -/
def evStampedCopyAck (l : Nat) : M Unit := do
  let x ← getS
  match (x.ld l).acksDue with
  | [] => idle
  | (p, y, t, _) :: r => updS fun s => (s.updLd l fun x => { x with acksDue := r }).countAt l p y t (-1)

/-! Engine faults (R131, R389, R424) -/

/-- CMD of a record (R428). -/
def CmdKind.code : CmdKind → Nat
  | .cpy => 0 | .cpyg => 1 | .cpyx => 2 | .cbld => 3 | .cbval => 4 | .cbsave => 5 | .accst => 6

/-- An engine fault of a step reported (R424): the record, then the pause or the kill. The step pauses as at an execute-side trap (R418): a fault
that its access stream has pending is dropped (R417), and the array finishes what it measures (R429). -/
def State.engineFault (s : State) (l sid cause hi : Nat) : State :=
  match (s.ld l).findStep sid with
  | none => s
  | some (p, k, x) =>
    let va := ((x.st.run.head?).map (·.va)).getD x.st.pc
    let t : TrapInfo := { cause := cause, kind := 2, va := some va }
    let charged := s.chargeAt l sid
    let s := s.updStep l sid fun y => (y.endWaits charged).stopAt t
    let s := match p with
      | .at_ k c => s.finishReads l k c
      | .slot _ => s
    s.faultStep l p k ((s.stepOf l sid).getD x) 2 cause (x.policy cause) hi false va t

/-- engineFaultReport: enabled while the step is not paused already; a refused stamped copy leaves the queue. A command whose step has
ended is reported for it and cancelled (log entry 98). -/
def evEngineFaultReport (l k c : Nat) : M Unit := do
  let s ← getS
  match (s.core l k).cmdOf c with
  | none => idle
  | some q =>
    match q.fault with
    | none => idle
    | some (cause, addr) => do
      need ((s.ld l).settled q.id)
      let tile := if q.heldF && ((s.core l (q.readAt.getD k)).claim true q.tileNo).st == .faulted then 2 ^ q.tileNo else 0
      let hi := engineHalf addr q.smask q.chix q.kind.code tile q.xstamp
      updS fun s => s.flushTail l k q
      if s.cmdAlive l k q then do
        need (s.ctx l k q.ctx).paused.isNone
        updS fun s => (if q.refused then s.dropCmd l k q.id else s.updCmd l k q.id fun q => { q with fault := none }).engineFault l q.sid cause hi
      else
        updS fun s =>
          let s := ((s.uncount l q).readerPast l k q).dropCmd l k q.id
          let head : RecordHead := { stamp := q.stamp, trapb := q.va, opid := q.opid, core := k, ctx := q.ctx, kind := 2, act := 3, cause := cause }
          (s.queueRecord l 0 (faultRecord s.ns (dieOf l) head hi)).countFault l q.opid cause

/-- A stopped command goes on (R132, R423 RACT 0), or is cancelled (RACT 1). -/
def State.resumeCmds (s : State) (l k sid : Nat) (cancel : Bool) : State :=
  ((s.core l k).queue.filter fun q => q.sid == sid && q.st == .stopped && q.fault.isNone).foldl (fun s q =>
    if cancel then ((s.uncount l q).readerPast l k q).dropCmd l k q.id
    else s.updCmd l k q.id fun q => { q with st := if q.accepted then .running else .waiting, fault := none }) s

/-! Codebook commands (R93 to R98, R390 to R393) -/

/-- The floor of a commit has issued (R93), and the bank set is the command's own (R105). A step that has retired holds nothing back; a
fence.e at which both streams stand lets a cbval commit (R95, log entry 39). -/
def State.floorMet (s : State) (l k : Nat) (q : Cmd) (m : Nat) : Bool :=
  let x := s.ctx l k q.ctx
  !s.cmdAlive l k q ||
  ((s.core l k).cbOwner == some x.setKey &&
    (decide (q.floor + m / 4 < x.st.cc) || (q.kind == .cbval && x.fence == some 1 && x.st.run.isEmpty && x.st.atrap.isNone)))

/-- A bank changed. -/
def Core.updBank (x : Core) (n : Nat) (f : Bank → Bank) : Core := { x with banks := x.banks.modify n fun b => { f b with changed := true } }

/-- Eight bytes of a codebook command's memory side: value and poison (R390). -/
def State.cbRead (s : State) (l k : Nat) (q : Cmd) (a : Nat) : Except (Nat × Nat) (Nat × Bool × Ctx) :=
  if q.sp = 0 then .ok (leNat ((s.core l k).spRead 0 a 8), (s.core l k).spBad 0 a 8, q.view)
  else
    match s.cmdXl l k q 0 4 a 8 with
    | .error f => .error f
    | .ok p =>
      let (bs, bad, v) := s.cmdSees q p 8
      .ok (leNat bs, bad != 0, v)

/-- cbldEntryCommit (R93): the next entry, in ascending order. -/
def evCbldEntryCommit (l k c : Nat) : M Unit := do
  let q ← runningCmd l k c fun q => q.kind == .cbld
  let s ← getS
  need (s.floorMet l k q q.next)
  let a := wrap 64 ((q.src.toNat : Int) + 8 * q.next)
  updS fun s =>
    match s.cbRead l k q a with
    | .error e => s.stopOr l k q e
    | .ok (_, true, view) => (s.keepView l k q view).stopCmd l k q 0x1C2 a
    | .ok (v, false, view) =>
      let s := (s.keepView l k q view).updCore l k fun y =>
        y.updBank q.bank fun b => { b with entries := mset b.entries (q.first + q.next) (BitVec.ofNat 64 v) 0#64, poison := b.poison.upd (q.first + q.next) false }
      if q.next + 1 = q.count then s.dropCmd l k q.id else s.updCmd l k q.id fun q => { q with next := q.next + 1 }

/-- cbvalCommit (R94). -/
def evCbvalCommit (l k c : Nat) : M Unit := do
  let q ← runningCmd l k c fun q => q.kind == .cbval
  let s ← getS
  need (s.floorMet l k q 0)
  updS fun s => (s.updCore l k fun y => y.updBank q.bank fun b => { b with vmap := q.vm.getD (BitVec.allOnes 256), fmt := q.fmt, lim := q.lim, poison := b.poison.filter fun e => decide (e.1 < 256) }).dropCmd l k q.id

/-- The bytes of a word of a bank, each with the word's poison mark (R437). -/
def Bank.wordBytes (b : Bank) (i n v : Nat) : List (BitVec 8 × Bool) := (natLe n v).map fun x => (x, b.poison.has i)
/-- The bytes of a bank's registers in a bank image (R104). -/
def Bank.regBytes (b : Bank) : List (BitVec 8 × Bool) :=
  b.wordBytes 256 32 b.vmap.toNat ++ b.wordBytes 257 8 b.fmt.toNat ++ b.wordBytes 258 8 b.lim.toNat ++ List.replicate 16 (0#8, false)
/-- A bank image (R104). -/
def Bank.image (b : Bank) : List (BitVec 8 × Bool) := ((List.range 256).flatMap fun i => b.wordBytes i 8 (b.entry i)) ++ b.regBytes

/-- cbsaveComplete (R96, R393). -/
def evCbsaveComplete (l k c : Nat) : M Unit := do
  let q ← runningCmd l k c fun q => q.kind == .cbsave
  let s ← getS
  need (!s.cmdAlive l k q || (s.core l k).cbOwner == some (s.ctx l k q.ctx).setKey)
  updS fun s =>
    let b := (s.core l k).banks.getD q.bank {}
    let es := (List.range q.count).map fun i => q.first + i
    let bytes := (es.flatMap fun i => b.wordBytes i 8 (b.entry i)) ++ if q.regOut then b.regBytes else []
    let rec_ := bytes.zipIdx.foldl (fun (acc : Except (Nat × Nat) (List DstB)) v =>
      match acc with
      | .error f => .error f
      | .ok ds => (s.dstByte l k q (if q.sp = 1 then 0 else 1) 0 (wrap 64 ((q.dst.toNat : Int) + v.2)) v.1.1 v.1.2).map fun d => d :: ds) (.ok [])
    match rec_ with
    | .error e => s.stopOr l k q e
    | .ok ds =>
      let s := s.writeBytes l k q ds.reverse
      let s := if s.cmdAlive l k q then s else s.publishCopy l k (((s.core l k).queue.find? fun r => r.id == q.id).getD q)
      s.dropCmd l k q.id

/-! Publication (R404, R166, R171) -/

/-- The space in which a command writes global memory, as R22 and R13 give it: 0 GLB, 4 HOST, 5 PEER (R166). -/
def Cmd.globalSpace (q : Cmd) : Option Nat :=
  match q.kind with
  | .cpy | .cpyg | .cpyx => if dDsp q.d0 == 0 || dDsp q.d0 == 4 || dDsp q.d0 == 5 then some (dDsp q.d0) else none
  | .cbsave | .accst => if q.sp = 1 then some 0 else none
  | _ => none

/-- The rows that a command writes, as their first address and length: of a strided copy the runs of its inner dimension (R368, R383, R386). -/
def Core.dstRows (x : Core) (q : Cmd) : List (Nat × Nat) :=
  match q.kind with
  | .accst => (List.range 64).map fun r => (q.dst.toNat + r * q.arg.toNat, accRow q.tileFmt)
  | .cbsave => [(q.dst.toNat, 8 * q.count + 64)]
  | .cpyx => [(q.dst.toNat, max 1 (bits (q.d.getD 7 0#64).toNat 32 32))]
  | _ =>
    let n := max 1 (q.n.getD 0 1)
    (List.range (q.total / dEsz q.d0 / n)).filterMap fun r =>
      match x.elemAddr q true (n * r) with
      | .ok a => some (a, n * dEsz q.d0)
      | .error _ => none

/-- A command may write at a home and address that `sel` picks: at a place of one of the pages that it writes, or, before it is accepted, at any
home that its space can name. -/
def State.mayWrite (s : State) (l k : Nat) (q : Cmd) (sel : Nat → Nat → Bool) : Bool :=
  match q.globalSpace with
  | none => false
  | some sp =>
    if !q.accepted && q.isCopy then sp == 0 || (if sp = 4 then sel hostKey 0 else s.lds.any fun e => sel e.1 0)
    else
      let pages (r : Nat × Nat) : List Nat :=
        (List.range ((r.1 + r.2 - 1) / 65536 - r.1 / 65536 + 1)).map fun i => if i = 0 then r.1 else 65536 * (r.1 / 65536 + i)
      ((q.tail ++ (q.chunk.getD []).flatten).any fun d => d.core.isNone && sel d.home d.addr) ||
      ((s.core l k).dstRows q).any fun r => (pages r).any fun a =>
        match s.cmdXl l k q (xlSpace sp) 5 a 1 with
        | .ok p => sel p.home p.addr
        | .error e => e.1 == heldCode

/-- The step has a copy under way to a place that `sel` picks (R166, R169). -/
def State.copying (s : State) (l k sid : Nat) (sel : Nat → Nat → Bool) : Bool := (s.cmdsOf l k sid).any fun q => s.mayWrite l k q sel

/-- Something of the step is not yet published or performed at the homes of a scope (R166): a store, an amog, a copy under way. -/
def State.pubWork (s : State) (l k c sc : Nat) : Bool :=
  let x := s.ctx l k c
  x.hasUnpub (fun h _ => scopeReach l sc h) || s.hasRequests l x.sid (fun r => r.atom.isSome && scopeReach l sc r.home) ||
  s.copying l k x.sid fun h _ => scopeReach l sc h

/-- pub (R166): with nothing to publish it completes in its own bundle. -/
def opPub (sc : BitVec 3) : M Unit := do
  barRestart 2
  let s ← getS
  let x := s.me
  let l := s.cur.l
  if x.pubDone then updMe fun x => { x with pubReq := none, pubDone := false }
  else if s.pubWork l s.cur.k s.cur.c sc.toNat then
    stall (kindWait 7) fun s => s.updMe fun x => { x with pubReq := some sc.toNat }
  else pure ()

end Sys2Proof.Machine
end

