-- ==== Sys2Proof/Machine/Sched.lean ====
section
/-! DEFINITION. The core scheduler (R205 to R209): priorities, switches, codebook sets (R103 to R107); the start of a retirement (R408). -/

namespace Sys2Proof.Machine

/-- Fields of the region under which a step was released (R191). -/
def Ctx.waitBudget (x : Ctx) : Nat := bits x.eff.toNat 144 32
def Ctx.slice (x : Ctx) : Nat := bits x.eff.toNat 176 16
def Ctx.swth (x : Ctx) : Nat := let v := bits x.eff.toNat 192 16; if v = 0 then 512 else v
def Ctx.swapth (x : Ctx) : Nat := let v := bits x.eff.toNat 208 16; if v = 0 then 4000 else v


/-- Whether one ready context goes before another (R205): priority, then the longer ready, then the lower number. -/
def issuesBefore (a b : Nat × Ctx) : Bool :=
  decide (b.2.effPri < a.2.effPri) || (a.2.effPri == b.2.effPri && (decide (a.2.readyAt < b.2.readyAt) || (a.2.readyAt == b.2.readyAt && decide (a.1 ≤ b.1))))

/-- The ready context of a core that issues before every other among some. -/
def Core.bestReady (x : Core) (ok : Nat × Ctx → Bool) : Option (Nat × Ctx) :=
  (x.ctxs.filter fun e => e.2.ready && ok e).foldl (fun (b : Option (Nat × Ctx)) e =>
    match b with
    | none => some e
    | some a => if issuesBefore a e then some a else some e) none

/-- The earliest tick from which a context has been waiting in the sense of R205. -/
def Ctx.waitSince (x : Ctx) : Option Nat :=
  (([x.st.aWait, x.st.xWait].filterMap id).filter Wait.counts).map (·.since) |>.min?

/-! Placement (R201) -/

/-- The core mask of a region: its reserved cores when timed (R212), else effective CORES. -/
def Region.mask (r : Region) : Nat := if bit r.rcb.toNat 234 then r.reserved else bits r.eff.toNat 64 48
/-- The index of the (n+1)-th set bit of a mask. -/
def nthBit (m n : Nat) : Nat := (setBits m 48).getD n 0
/-- λ of a stamp (R201). -/
def Op.lam (o : Op) (t : Nat) : Nat :=
  let s : Int := (List.range 4).foldl (fun (a : Int) j => a + sext (o.fld (704 + 16 * j) 16) 16 * (comp t j : Nat)) o.cbase
  (s % (o.cmod : Int)).toNat
/-- The core of a stamp. -/
def Op.coreOf (o : Op) (r : Region) (t : Nat) : Nat := nthBit r.mask (o.lam t)
/-- The packed tile coordinate of a stamp. -/
def Op.tileOf (o : Op) (t : Nat) : Nat :=
  (List.range 4).foldl (fun (acc : Nat) m =>
    let v : Int := (List.range 4).foldl (fun (a : Int) j => a + sext (o.fld (448 + 64 * m + 16 * j) 16) 16 * (comp t j : Nat)) (o.fld (384 + 16 * m) 16 : Nat)
    acc + wrap 16 v * 2 ^ (16 * m)) 0
/-- The first stamp. -/
def Op.firstStamp (o : Op) : Nat := mkStamp ((List.range 4).map o.lbase)
/-- The stamp after `t` in the nest, when there is one (R197, R199). -/
def Op.nextStamp (o : Op) (t : Nat) : Option Nat :=
  let step (j : Nat) : Option Nat :=
    if comp t j + 1 < o.lbase j + o.lcnt j then
      some (mkStamp ((List.range 4).map fun i => if i < j then comp t i else if i = j then comp t j + 1 else o.lbase i))
    else none
  [3, 2, 1, 0].findSome? step

/-! Tokens that wait for a ring (R202) -/

/-- The ring that a token goes to (R202): core and ring control. -/
def State.tokenRing (s : State) (l : Nat) (t : Token) : Option (Nat × Nat) :=
  let o := s.opOf l t.opid
  let k := o.coreOf (s.regionOf l t.opid) t.stamp.toNat
  (((s.core l k).ports.find? fun p => p.opid == t.opid && p.port == t.port && p.slot == o.slotOf t.stamp.toNat).map fun p => (k, p.ring))

/-- A token waits for a ring that is bound to another ordinal: its sender is charged (R202). -/
def State.misbound (s : State) (l : Nat) (t : Token) : Bool :=
  let o := s.opOf l t.opid
  o.pmode != 2 && (s.tokenRing l t).any fun r => (mgetD (s.core l r.1).rings r.2 {}).bound.any (· != o.ord t.stamp.toNat)

/-- The tokens of a step that wait so are counted, and its charge begins or ends with them (R202, R210). -/
def State.testTokens (s : State) (l sid : Nat) : State :=
  let n := s.lds.foldl (fun n e => n + e.2.tokWait.countP fun t => t.src == l && t.sid == sid && s.misbound e.1 t) 0
  let charged := s.chargeAt l sid
  s.updStep l sid fun x => { x with tokWaits := n }.settle charged

/-! Codebook sets -/

/-- A bank image as loaded: refused when a reserved field is set or cbval would refuse it (R104). -/
def bankOfImage (bs : List (BitVec 8)) : Option Bank :=
  let n (o k : Nat) : Nat := leNat ((bs.drop o).take k)
  let fmt := n 2080 8; let lim := n 2088 8
  if n 2096 16 ≠ 0 ∨ cbBad fmt lim then none
  else some {
    entries := (List.range 256).foldl (fun (m : Smap (BitVec 64)) i => mset m i (BitVec.ofNat 64 (n (8 * i) 8)) 0#64) []
    vmap := BitVec.ofNat 256 (n 2048 32), lim := BitVec.ofNat 64 lim, fmt := BitVec.ofNat 64 fmt }

/-- The words of a bank image that are poisoned: entries by number, VMAP 256, CBFMT 257, CBLIM 258 (R104, R437). -/
def bankPoison (bad : List Bool) : Nset :=
  let any (o n : Nat) : Bool := ((bad.drop o).take n).any id
  let p := (List.range 256).foldl (fun (p : Nset) i => p.upd i (any (8 * i) 8)) []
  ((p.upd 256 (any 2048 32)).upd 257 (any 2080 8)).upd 258 (any 2088 8)

/-- The places of a range that the part itself reads or writes, each page translated (R35): a cause when one is refused, `heldCode` while the
access must wait (R29, R114). -/
def State.vaPlaces (s : State) (l k c kind a n : Nat) : Except Nat (List (Phys × Nat)) :=
  (pagePieces 0 a n).foldl (fun (acc : Except Nat (List (Phys × Nat))) p =>
    match acc with
    | .error e => .error e
    | .ok ps =>
      match s.translateNow l k c 0 kind p.1 p.2 with
      | .ok q => .ok (ps ++ [(q, p.2)])
      | .fault e => .error e
      | .lost e => .error e) (.ok [])

/-- What a read or write of a range leaves behind: its translations in the TLBs, what was read in the die caches (R27, R109, R125). -/
def State.vaDone (s : State) (l k a n : Nat) (read : Bool) (ps : List (Phys × Nat)) : State :=
  let s := (pagePieces 0 a n).foldl (fun s p => s.afterXl l k 0 p.1) s
  if read then ps.foldl (fun s p => s.readThrough p.1.ca [(p.1.home, p.1.addr, p.2)]) s else s

/-- Published bytes at a virtual address for the part's own reads, each with the cause that consuming it raises. -/
def State.readVa (s : State) (l k c kind a n : Nat) : Except Nat (List (BitVec 8 × Nat)) :=
  (s.vaPlaces l k c kind a n).map fun ps => ps.flatMap fun p => s.peekAt p.1 p.2
/-- The state after such a read. -/
def State.readVaDone (s : State) (l k c kind a n : Nat) : State :=
  match s.vaPlaces l k c kind a n with
  | .ok ps => s.vaDone l k a n true ps
  | .error _ => s

/-- Bytes written by the part itself at a virtual address, published at once; a fault leaves them unwritten. -/
def State.writeVa (s : State) (l k c kind a : Nat) (bs : List (BitVec 8 × Bool)) : Except Nat State :=
  (s.vaPlaces l k c kind a bs.length).map fun ps =>
    (ps.foldl (fun (r : State × List (BitVec 8 × Bool)) p => (r.1.pokeAt p.1 (r.2.take p.2), r.2.drop p.2)) (s.vaDone l k a bs.length false ps, bs)).1

/-- Where a bank image that an operator's step loads lies (R103, R105): in the save area where this core saved the bank, else in the initial
image. -/
def Op.bankVa (o : Op) (k i : Nat) : Nat := (if o.savedOn.has (4 * k + i) then o.cbsave + 8448 * k else o.cbimg) + 2112 * i

/-- A bank image that an operator's step loads; what is poisoned in it is poisoned in the bank (R123, R437). -/
def State.loadBank (s : State) (l k c : Nat) (o : Op) (i : Nat) : Except Nat Bank :=
  match s.readVa l k c 4 (o.bankVa k i) 2112 with
  | .error e => .error e
  | .ok bs => match bankOfImage (bs.map (·.1)) with
    | some b => .ok { b with poison := bankPoison (bs.map fun v => v.2 != 0) }
    | none => .error 0x28E

/-- The banks of a set, or the cause that refuses it. -/
def State.loadSet (s : State) (l k c : Nat) (o : Op) : Except Nat (List Bank) :=
  (List.range 4).foldl (fun (acc : Except Nat (List Bank)) i =>
    match acc with
    | .error e => .error e
    | .ok bs => (s.loadBank l k c o i).map fun b => bs ++ [b]) (.ok [])

/-- The loaded set leaves the core (R105, R107): changed banks of an operator's set go to its save area, a private set to its context. A save
area that cannot be written leaves an entry in the error bank, and the changes are lost (log entry 100). -/
def State.storeSet (s : State) (l k : Nat) : State :=
  let y := s.core l k
  match y.cbOwner with
  | none => s
  | some (opid, 0) =>
    let o := s.opOf l opid
    let s := (List.range 4).foldl (fun s i =>
      let b := y.banks.getD i {}
      if b.changed then
        match s.writeVa l k 0 5 (o.cbsave + 8448 * k + 2112 * i) b.image with
        | .ok t => t.updOp l opid fun o => { o with savedOn := o.savedOn.upd (4 * k + i) true }
        | .error e => s.errLog l 2 0 e (o.cbsave + 8448 * k + 2112 * i) true
      else s) s
    s.updCore l k fun y => { y with cbOwner := none }
  | some (_, n + 1) =>
    s.updCore l k fun y =>
      { y with cbOwner := none, ctxs := y.ctxs.map fun e => if e.2.live && e.2.sid == n then (e.1, { e.2 with banks := some y.banks }) else e }

/-- What loading a set leaves behind in the TLBs and the die caches. -/
def State.loadSetDone (s : State) (l k c : Nat) (o : Op) : State :=
  (List.range 4).foldl (fun s i => s.readVaDone l k c 4 (o.bankVa k i) 2112) s

/-- The operator as a step of a context loads its set: under its own OPB, and a private set always from the initial image (R107). -/
def State.setOp (s : State) (l : Nat) (x : Ctx) : Op :=
  let o := s.opOf l x.sys.opid
  { o with opb := x.opb, savedOn := if x.op.privcb then [] else o.savedOn }

/-- A commit, or the want of a walker, holds an access of an exchange for a context (R27, R114). -/
def State.exchangeHeld (s : State) (l k c : Nat) : Bool :=
  let y := s.core l k
  let x := y.ctx c
  let o := s.setOp l x
  let held (kind ctx a : Nat) : Bool := (match s.vaPlaces l k ctx kind a 2112 with | .error e => e == heldCode | .ok _ => false)
  (match y.cbOwner with
   | some (opid, 0) => (List.range 4).any fun i => (y.banks.getD i {}).changed && held 5 0 ((s.opOf l opid).cbsave + 8448 * k + 2112 * i)
   | _ => false) ||
  (!x.badBanks && x.banks.isNone && (List.range 4).any fun i => held 4 c (o.bankVa k i))

/-- Whether the core's loaded set is the one that a context needs. -/
def Core.hasSet (x : Core) (c : Ctx) : Bool := c.priv || x.cbOwner == some c.setKey

/-- A codebook command that is to complete; one that a fault has stopped waits for its Resume and holds up nothing. -/
def Cmd.onSet (q : Cmd) : Bool := (q.kind == .cbld || q.kind == .cbval || q.kind == .cbsave) && q.st != .stopped && q.fault.isNone

/-- An exchange waits for the rldw locks and for the codebook commands of every step of the outgoing set (R105), and for none of the
incoming one. -/
def Core.exchangeFree (x : Core) : Bool :=
  !(x.ctxs.any fun c => c.2.live && x.cbOwner == some c.2.setKey && c.2.loads.any fun v => v.bank.isSome) &&
  !(x.queue.any fun q => q.onSet && (!((x.ctx q.ctx).live && (x.ctx q.ctx).sid == q.sid) || x.cbOwner == some (x.ctx q.ctx).setKey))

/-- A core may switch to a context: one that needs another set comes only when the exchange may take place (R93, R105). -/
def Core.mayTake (x : Core) (c : Ctx) : Bool := x.hasSet c || x.exchangeFree

/-- codebookExchange (R105): the set of the active context comes in. A refused image faults its step at the boundary (R104), and so does
one whose read fails in translation, with that cause (log entry 100). -/
def evCodebookExchange (l k c : Nat) : M Unit := do
  let s ← getS
  let y := s.core l k
  let x := y.ctx c
  need (x.live && !x.priv && x.paused.isNone && y.active == some c && !y.hasSet x && y.exchangeFree && !s.exchangeHeld l k c)
  updS fun s =>
    let s := s.storeSet l k
    let x := (s.core l k).ctx c
    let refused (e : Nat) : State :=
      let s := s.finishReads l k c
      let x := s.ctx l k c
      let va := ((x.st.run.head?).map (·.va)).getD x.st.pc
      let t : TrapInfo := { cause := e, va := some va }
      s.faultStep l (.at_ k c) k x 0 e (x.policy e) (trapHalf t) false va t
    if x.badBanks then refused 0x28E else
    match x.banks with
    | some bs => (s.updCore l k fun y => { y with banks := bs, cbOwner := some x.setKey, switching := y.switching + 1200 }).updCtx l k c fun x => { x with banks := none }
    | none =>
      match s.loadSet l k c (s.setOp l x) with
      | .ok bs => (s.loadSetDone l k c (s.setOp l x)).updCore l k fun y => { y with banks := bs, cbOwner := some x.setKey, switching := y.switching + 1200 }
      | .error e => refused e

/-! Switching (R207) -/

/-- The privileged context of an architected routine: a calibration or filler races (R255, R344, R459). -/
def routineCtx (l k c : Nat) : Ctx :=
  { live := true, priv := true, sys.core := BitVec.ofNat 16 (put (dieOf l) 12 4 ||| put c 8 2 ||| put k 0 6) }

/-- Filler races give way (R459). -/
def Core.stopFiller (x : Core) : Core :=
  if x.filler then { x with filler := false, ctxs := x.ctxs.filter fun e => !e.2.priv } else x

/-- The array finishes what the outgoing context has in flight (R429), and another context is active after the switch. -/
def State.switchTo (s : State) (l k c : Nat) : State :=
  let s := match (s.core l k).active with
    | some b => if b = c then s else s.finishReads l k b
    | none => s
  let cost := if (s.core l k).active = some c then 0 else if (s.core l k).active.isSome then 24 else 0
  s.updCore l k fun y => { y.stopFiller with active := some c, switching := y.switching + cost, issuing := 0, yieldReq := false }

/-- A core with no active context that may issue takes the best ready one; a higher effective priority displaces the active one
(R205, R207). DESIGN CHOICE (log entry 126): an active step whose retire waits for its tokens (R408) is neither ready nor waiting, and gives its core
up to a higher effective priority alone. -/
def State.reschedule (s : State) (l k : Nat) : State :=
  let y := s.core l k
  if y.calRun ≠ 0 then s
  else
    match y.active with
    | none =>
      match y.bestReady fun e => y.mayTake e.2 with
      | some b => s.switchTo l k b.1
      | none => s
    | some c =>
      let x := y.ctx c
      if !x.live || x.paused.isSome then
        match y.bestReady fun e => y.mayTake e.2 with
        | some b => (s.updCore l k fun y => { y with active := if x.live then some c else none }).switchTo l k b.1
        | none => s.updCore l k fun y => { y with active := none }
      else
        match y.bestReady fun e => e.1 != c && decide (x.effPri < e.2.effPri) && y.mayTake e.2 with
        | some b => s.switchTo l k b.1
        | none =>
          if y.yieldReq then
            match y.bestReady fun e => e.1 != c && decide (x.effPri ≤ e.2.effPri) && y.mayTake e.2 with
            | some b => s.switchTo l k b.1
            | none => s.updCore l k fun y => { y with yieldReq := false }
          else s

/-- switchThresholdExpiry (R207): the active context's wait passes SWTH while another is ready. -/
def evSwitchThresholdExpiry (l k : Nat) : M Unit := do
  let s ← getS
  let y := s.core l k
  match y.active with
  | none => idle
  | some c =>
    let x := y.ctx c
    match x.waitSince, y.bestReady fun e => e.1 != c && y.mayTake e.2 with
    | some t, some b => do
      need (x.live && x.waiting)
      updS fun s => { s with ticks := max s.ticks (t + 4 * x.swth + 1) }.switchTo l k b.1
    | _, _ => idle

/-- sliceExpiry (R207): a whole SLICE of issue while an equal priority is ready. -/
def evSliceExpiry (l k : Nat) : M Unit := do
  let s ← getS
  let y := s.core l k
  match y.active with
  | none => idle
  | some c =>
    let x := y.ctx c
    match y.bestReady fun e => e.1 != c && e.2.effPri == x.effPri && y.mayTake e.2 with
    | some b => do
      need (x.live && x.slice != 0 && decide (1750 * x.slice ≤ y.issuing))
      updS fun s => s.switchTo l k b.1
    | none => idle

/-- priorityAgeing (R206): another whole millisecond of a ready context without issue, active, inactive or swapped out. -/
def evPriorityAgeing (l k c : Nat) : M Unit := do
  let s ← getS
  let next (x : Ctx) : Nat := x.agedAt + 7000000
  let older (x : Ctx) : Ctx := { x with ageing := x.ageing + 1, agedAt := next x }
  if c < 4 then
    let x := s.ctx l k c
    need (x.ready && decide (x.effPri < x.maxPri))
    updS fun s => { s with ticks := max s.ticks (next x) }.updCtx l k c older
  else
    match mget (s.ld l).saved (c - 4) with
    | none => idle
    | some v => do
      need (v.core == k && v.ctx.ready && decide (v.ctx.effPri < v.ctx.maxPri))
      updS fun s => { s with ticks := max s.ticks (next v.ctx) }.updLd l fun z => { z with saved := mput z.saved (c - 4) { v with ctx := older v.ctx } }

/-! The start of a retirement (R408) -/


/-- The retire bundle's execute halves have issued: what is in flight is dropped, kept tokens are sent. -/
def State.beginRetire (s : State) (l k c : Nat) : State :=
  let x := s.ctx l k c
  let s := { s with lds := s.lds.map fun (e : Nat × Ld) => (e.1, { e.2 with homeQ := e.2.homeQ.filter fun r => !(r.ofStep l x.sid && r.isLoad) }) }
  let s := s.updCtx l k c fun x =>
    { x.landStamp with
      retiring := 2, kept := [], passes := [], combs := [], loads := [], rcals := [], st.flight := [], st.atrap := none, st.dtraps := []
      regs.ls := x.regs.ls.map fun sl => if sl.st = .pending then {} else sl }
  x.kept.foldl (fun s t => s.sendToken l t) s

end Sys2Proof.Machine
end

