-- ==== Sys2Proof/Machine/Image.lean ====
section
/-! DEFINITION. The image of a context in its save slot (R430 to R432): what a swap writes there and what a restore reads back. -/

namespace Sys2Proof.Machine

/-! Whole lines of device memory -/

/-- The runs of undefined lines without `n` lines from `line` on. -/
def undefOutside (u : List (Nat × Nat × Nat)) (line n : Nat) : List (Nat × Nat × Nat) :=
  u.flatMap fun r =>
    [(r.1, min (r.1 + r.2.1) line - r.1, r.2.2), (max r.1 (line + n), r.1 + r.2.1 - max r.1 (line + n), r.2.2)].filter (fun q => q.2.1 != 0)

/-- A raw write of whole lines (R116, R118); poison leaves them (R123). -/
def Hbm.putLines (h : Hbm) (a : Nat) (bs : List (BitVec 8)) : Hbm :=
  { slots := h.slots.putBlock a bs, tags := outside h.tags (a / 128) (bs.length / 128), poison := outside h.poison (a / 32) (bs.length / 32)
    undef := undefOutside h.undef (a / 128) (bs.length / 128) }

/-- Whole lines are written with contents that no rule gives. -/
def Hbm.freeLines (h : Hbm) (a n draw : Nat) : Hbm :=
  ({ h with tags := outside h.tags (a / 128) n, poison := outside h.poison (a / 32) (4 * n) }).undefine (a / 128) n draw

/-- The part of a stack that `n` bytes from `a` lie in. -/
def Hbm.window (h : Hbm) (a n : Nat) : Hbm :=
  { h with slots := h.slots.window (128 * (a / 128)) (n + 256), tags := within h.tags (a / 128) (n / 128 + 2), poison := within h.poison (a / 32) (n / 32 + 2) }

/-! The image -/

/-- Where save slot `n` lies (R185, R430). -/
def Ld.slotAt (x : Ld) (n : Nat) : Nat := 65536 * bits x.regs.ctxbase.toNat 16 36 + 2 ^ 20 * n

/-- The 128 bits of a ring handle (R59). -/
def Ring.word (r : Ring) : Nat :=
  r.cfg.toNat ||| put r.used 101 7 ||| put r.wp 108 6 ||| put r.rp 114 6 ||| put (if r.ovf then 1 else 0) 127 1

def Reg.bytes (r : Reg) : List (BitVec 8) := natLe 8 r.val.toNat
/-- The 288 bytes of a vector with its side word. -/
def vecBytes (d : BitVec 2048) (s : BitVec 256) : List (BitVec 8) := natLe 256 d.toNat ++ natLe 32 s.toNat

/-- Bytes that no rule gives, at an address of a draw (log entry 19). -/
def freeBytes (draw a n : Nat) : List (BitVec 8) := (List.range n).map fun i => Config.freeByte (2 ^ 36 * (draw + 1) + a + i)

/-- A block without a bit layout: `n` bytes that hold `contents` (R430, log entry 105). -/
def laidOut (block : Nat) (contents : List Nat) (n : Nat) : List (BitVec 8) := (List.range n).map (Config.imageByte block contents)

def boolNat (b : Bool) : Nat := if b then 1 else 0
/-- A set of numbers below `n` as a mask. -/
def maskOf (l : List Nat) : Nat := l.foldl (fun m i => m ||| 2 ^ i) 0

def Level.nums (v : Level) : List Nat := [v.first, v.last, v.exit, v.count, v.frame]
def optNums (o : Option Nat) : List Nat :=
  match o with
  | some n => [1, n]
  | none => [0]
def RunB.nums (b : RunB) : List Nat := b.va :: b.loops.length :: b.loops.flatMap Level.nums
def RetEntry.nums (e : RetEntry) : List Nat :=
  [boolNat e.trap, e.va, e.depth, e.loops.length] ++ e.loops.flatMap Level.nums ++ (e.run.length :: e.run.flatMap RunB.nums)

/-- The control block: boundary pair, SLIP, CYC, LATE, FRZ, the charge, RMODE, VFLAGS, RFLAGS, TRAPC, TRAPB, the selection, a running
handler, masks of valid planes, tiles and private banks (R430). -/
def Saved.control (v : Saved) : List Nat :=
  let x := v.ctx
  [((x.st.run.head?).map (·.va)).getD x.st.pc, x.st.pc, x.st.run.length, x.st.cc, x.sys.late.toNat, x.sys.frz.toNat, x.charge, x.sys.rmode.toNat,
   x.sys.vflags.toNat, x.sys.rflags.toNat, x.sys.trapc.toNat, x.sys.trapb.toNat, x.sys.sel.toNat, boolNat x.st.handler,
   maskOf ((v.planes.filter fun p => p.2.claim.st == .held).map (·.1)), maskOf ((v.tiles.filter fun t => t.2.claim.st == .held).map (·.1)), boolNat x.banks.isSome]

/-- The valid bits of registers, age files, slots and handles, and the stale words of holds (R430). -/
def Ctx.validBits (x : Ctx) : List Nat :=
  let regs (l : List Reg) : Nat := maskOf ((List.range l.length).filter fun i => (l.getD i {}).valid)
  let vregs (l : List VReg) : Nat := maskOf ((List.range l.length).filter fun i => (l.getD i {}).valid)
  [regs x.regs.a, regs x.regs.b, regs x.regs.k, vregs x.regs.v, vregs x.regs.w, regs x.regs.eg, regs x.regs.dc,
   maskOf ((List.range 32).filter fun i => (x.regs.ls.getD i {}).st != .free), maskOf ((List.range 16).filter fun i => (x.regs.rh.getD i none).isSome),
   maskOf ((List.range 5).filter fun i => (x.st.last.getD i none).isNone), maskOf ((List.range 5).filter fun i => (x.st.seen.getD i none).isNone)]

/-- Both streams' loop stacks and return stacks (R430). -/
def Ctx.stacks (x : Ctx) : List Nat :=
  x.st.loops.length :: x.st.loops.flatMap Level.nums ++ (((x.st.run.head?).map RunB.nums).getD []) ++ (x.st.rstack.length :: x.st.rstack.flatMap RetEntry.nums)

/-- The last word of each slot as each stream stands, and what waits between the streams (R245, R430). -/
def Ctx.lastWords (x : Ctx) : List Nat :=
  (x.st.last ++ x.st.seen).flatMap (fun w => optNums (w.map (·.toNat))) ++ (boolNat x.st.await :: x.st.run.map (·.va))

/-- The state, kind, remaining bundles and marks of a landing slot (R430). -/
def LSlot.nums (l : LSlot) (cc : Nat) : List Nat :=
  [(match l.st with | .free => 0 | .pending => 1 | .arrived => 2), boolNat l.vec, l.visible - cc, l.mark, boolNat l.glob, l.parts]

/-- A command that has not been accepted, with its descriptor, or one that stopped, with CHIX and SMASK (R430). -/
def Cmd.nums (q : Cmd) : List Nat :=
  [q.id, (match q.kind with | .cpy => 0 | .cpyg => 1 | .cpyx => 2 | .cbld => 3 | .cbval => 4 | .cbsave => 5 | .accst => 6), boolNat q.accepted,
   q.src.toNat, q.dst.toNat, q.bank, q.first, q.count, q.next, q.chix, q.smask] ++ (q.d.length :: q.d.map (·.toNat))

/-! Results in flight (R431) -/

/-- A result's destination. -/
def Dest.nums (d : Dest) : List Nat :=
  match d with
  | .age => [0]
  | .none => [1]
  | .reg n => [2, n]
  | .queue i => [3, i]
  | .sysreg n => [4, n]
/-- Its payload: 8 bytes, 288, or none. -/
def Payload.bytes (p : Payload) : List (BitVec 8) :=
  match p with
  | .scalar v => natLe 8 v.toNat
  | .vec d s => vecBytes d s
  | .flags => []
/-- Its kind: scalar 0, vector 1, flags 3, queue entry 4; 2 is a pass. -/
def entryKind (d : Dest) (p : Payload) : Nat :=
  match d, p with
  | .queue _, _ => 4
  | _, .scalar _ => 0
  | _, .vec _ _ => 1
  | _, .flags => 3

/-- An entry: landing cc, rank and number that order it; which list of the context it comes from (0 results, 1 passes, 2 comb
operations) and its place there; its header's contents and its payload. -/
structure ImageEntry where
  land : Nat
  rank : Nat
  seq  : Nat
  which : Nat
  at_  : Nat
  head : List Nat
  pay  : List (BitVec 8)
  deriving DecidableEq, Repr

/-- The header and the payload. -/
def ImageEntry.bytes (e : ImageEntry) : List (BitVec 8) := laidOut 5 e.head 8 ++ e.pay
def ImageEntry.before (a b : ImageEntry) : Bool :=
  decide (a.land < b.land) || (a.land == b.land && (decide (a.rank < b.rank) || (a.rank == b.rank && decide (a.seq ≤ b.seq))))

/-- The results in flight of a context, by landing cc and then by entry rank (R431): a pass as 256 readings of 16 bits, then its tile,
row and exponent. -/
def Ctx.entries (x : Ctx) : List ImageEntry :=
  let left (land : Nat) : Nat := land - x.st.cc
  let flies : List ImageEntry := x.st.flight.zipIdx.map fun f =>
    { land := f.1.land, rank := flyRank f.1, seq := f.1.seq, which := 0, at_ := f.2, pay := f.1.pay.bytes
      head := [entryKind f.1.dest f.1.pay, left f.1.land, flyRank f.1, f.1.flags.toNat] ++ f.1.dest.nums }
  let passes : List ImageEntry := x.passes.zipIdx.map fun p =>
    { land := p.1.land, rank := 3, seq := p.1.seq, which := 1, at_ := p.2, head := [2, left p.1.land, 3, p.1.claim, p.1.span]
      pay := ((List.range 256).flatMap fun c => natLe 2 (wrap 16 (p.1.sums.getD c 0))) ++ laidOut 6 [p.1.tile, p.1.row, wrap 16 p.1.exp] 8 }
  let combs : List ImageEntry := x.combs.zipIdx.map fun p =>
    { land := p.1.land, rank := 3, seq := p.1.seq, which := 2, at_ := p.2, pay := p.1.pay.bytes, head := [entryKind .age p.1.pay, left p.1.land, 3] }
  sortBy ImageEntry.before (flies ++ passes ++ combs)

/-- Entries with their places in the area of results in flight, one after another from `off`. -/
def entriesAt : Nat → List ImageEntry → List (Nat × ImageEntry)
  | _, [] => []
  | off, e :: r => (off, e) :: entriesAt (off + 8 + e.pay.length) r

/-- Where an entry of a context's list lies in its slot. -/
def Ctx.entryPlace (x : Ctx) (which i : Nat) : Option (Nat × ImageEntry) :=
  (entriesAt 0x5800 x.entries).find? fun e => e.2.which == which && e.2.at_ == i

/-- Bytes brought to a multiple of 128 with free ones. -/
def toLines (draw a : Nat) (bs : List (BitVec 8)) : List (BitVec 8) := bs ++ freeBytes draw (a + bs.length) ((128 - bs.length % 128) % 128)

/-! What is written -/

/-- The ring controls of a context's handles, the reset one for a handle that is not valid. -/
def Ctx.handleRings (x : Ctx) (rings : Smap Ring) : List Ring := x.regs.rh.map fun r => (r.map fun i => mgetD rings i {}).getD {}

/-- What a save writes into the blocks without a bit layout. -/
def Saved.textOf (v : Saved) (rings : Smap Ring) : SaveText :=
  let x := v.ctx
  { control := v.control, valid := x.validBits, frames := x.stacks, last := x.lastWords
    slots := (List.range 32).map fun i => (x.regs.ls.getD i {}).nums x.st.cc
    cmds := (v.cmds.filter fun q => !q.accepted || q.st == .stopped).flatMap Cmd.nums
    handles := (x.handleRings rings).map fun r => (r.word, r.rcur)
    here := maskOf ((List.range 32).filter fun i => (x.regs.ls.getD i {}).here) }

/-- The blocks of a slot at address `at_`, as (address, bytes). An entry that holds no value yet is free. -/
def Saved.imageBlocks (v : Saved) (draw at_ : Nat) : List (Nat × List (BitVec 8)) :=
  let x := v.ctx
  let free (off n : Nat) := freeBytes draw (at_ + off) n
  let scalar (i : Nat) : List (BitVec 8) := (((x.st.sq[i]?).bind (·.val)).map fun v => natLe 8 v.toNat).getD (free (0x900 + 8 * i) 8)
  let vector (i : Nat) : List (BitVec 8) := (((x.st.vq[i]?).bind (·.val)).map fun v => vecBytes v.data v.side).getD (free (0x2400 + 288 * i) 288)
  let landing (i : Nat) : List (BitVec 8) :=
    let l := x.regs.ls.getD i {}
    (if l.here then vecBytes l.data l.side else free (0x3000 + 320 * i) 288) ++ laidOut 4 (v.text.slots.getD i []) 32
  [(at_, laidOut 0 v.text.control 256),
   (at_ + 0x100, x.regs.b.flatMap Reg.bytes ++ x.regs.k.flatMap Reg.bytes ++ x.regs.a.flatMap Reg.bytes ++ natLe 8 0),
   (at_ + 0x280, laidOut 1 v.text.valid 128),
   (at_ + 0x300, laidOut 2 v.text.frames 512),
   (at_ + 0x500, v.text.handles.flatMap (fun r => natLe 16 r.1) ++ x.regs.eg.flatMap Reg.bytes ++ x.regs.dc.flatMap Reg.bytes ++
     natLe 32 x.sys.satmask.toNat ++ v.text.handles.flatMap (fun r => natLe 2 r.2) ++ laidOut 3 v.text.last 64 ++ (List.range 32).flatMap scalar),
   (at_ + 0x1000, x.regs.v.flatMap (fun r => vecBytes r.data r.side) ++ x.regs.w.flatMap fun r => vecBytes r.data r.side),
   (at_ + 0x2400, (List.range 8).flatMap vector),
   (at_ + 0x3000, (List.range 32).flatMap landing),
   (at_ + 0x5800, toLines draw (at_ + 0x5800) (x.entries.flatMap ImageEntry.bytes)),
   (at_ + 0xF800, laidOut 7 v.text.cmds 2048)] ++
  ((x.banks.map fun bs => [(at_ + 0x10000, bs.flatMap fun b => b.image.map (·.1))]).getD [])

/-- A plane's image: its courses (R76), then its exponent in the first of 64 bytes. -/
def Plane.image (p : Plane) (draw a : Nat) : List (BitVec 8) :=
  ((List.range 64).flatMap fun i => natLe 192 (p.course i)) ++ natLe 1 (wrap 8 p.expo) ++ freeBytes draw (a + 12289) 63

/-- A tile's ACC image (R74). -/
def Tile.image (t : Tile) : List (BitVec 8) :=
  let e := wrap 16 t.expo
  (List.range 64).flatMap fun r => (t.row r).flatMap fun m => natLe 8 (wrap 48 m ||| put e 48 16)

/-- Whole lines pass through the die cache (R109, R110). -/
def Ld.touchLines (x : Ld) (a n : Nat) (dirty : Bool) : Ld := x.touch a n 0 dirty

/-- A context and what it holds are written into save slot `n` (R430); planes, tiles and private banks that are not held are not. The image is
written raw, with tag 0 (log entry 113). -/
def State.saveImage (s : State) (l n : Nat) (v : Saved) : State :=
  let at_ := (s.ld l).slotAt n
  let blocks := v.imageBlocks s.draw at_ ++
    ((v.tiles.filter fun t => t.2.claim.st == .held).map fun t => (at_ + 0x20000 + 131072 * t.1, t.2.image)) ++ [(at_ + 0xA0000, List.replicate 393216 0#8)]
  let s := s.updLd l fun x =>
    { x with hbm := blocks.foldl (fun (h : Hbm) (b : Nat × List (BitVec 8)) => h.putLines b.1 b.2) x.hbm }
  let s := s.updLd l fun x => blocks.foldl (fun (x : Ld) (b : Nat × List (BitVec 8)) => x.touchLines b.1 b.2.length true) x
  let s := (v.planes.filter fun p => p.2.claim.st == .held).foldl (fun (s : State) (p : Nat × Plane) =>
    let a := at_ + 0x13000 + 12352 * p.1
    s.pokeLd l a (p.2.image s.draw a)) s
  { s with draw := s.draw + 1 }

/-! The restore -/

/-- Registers from their image; a poisoned sector poisons the words it holds (R432). -/
def Hbm.regsAt (h : Hbm) (a : Nat) (rs : List Reg) : List Reg :=
  (rs.zipIdx).map fun r =>
    { r.1 with val := BitVec.ofNat 64 (leNat (h.read (a + 8 * r.2) 8)), poison := r.1.poison || h.badRange (a + 8 * r.2) 8 != 0 }
/-- Vector registers from their image. -/
def Hbm.vregsAt (h : Hbm) (a : Nat) (rs : List VReg) : List VReg :=
  (rs.zipIdx).map fun r =>
    let p := a + 288 * r.2
    { r.1 with
      data := BitVec.ofNat 2048 (leNat (h.read p 256)), side := BitVec.ofNat 256 (leNat (h.read (p + 256) 32))
      poison := r.1.poison || h.badRange p 288 != 0 }
/-- A private bank from its image, or nothing when the image is refused (R104). -/
def Hbm.bankAt (h : Hbm) (a : Nat) (b : Bank) : Option Bank :=
  (bankOfImage (h.read a 2112)).map fun n =>
    { n with
      changed := b.changed
      poison := (bankPoison ((List.range 2112).map fun i => h.bad (a + i) != 0)).foldl (fun p e => p.upd e.1 true) b.poison }
/-- A plane from its image; its claim is the held one. -/
def Hbm.planeAt (h : Hbm) (a : Nat) (p : Plane) : Plane :=
  { p with
    courses := (List.range 64).map fun i => (i, BitVec.ofNat 1536 (leNat (h.read (a + 192 * i) 192)))
    exp := some (BitVec.ofNat 8 (leNat (h.read (a + 12288) 1)))
    poison := (List.range 1537).foldl (fun q i => if h.badRange (a + 8 * i) 8 != 0 then q.upd i true else q) p.poison }
/-- A tile from its image; its claim is the held one. -/
def Hbm.tileAt (h : Hbm) (a : Nat) (t : Tile) : Tile :=
  let rows := (List.range 64).map fun r => (r, h.window (a + 2048 * r) 2048)
  { t with
    rows := rows.map fun w => (w.1, (List.range 256).map fun c => sext (leNat (w.2.read (a + 2048 * w.1 + 8 * c) 6)) 48)
    exp := some (sext (leNat (h.read (a + 6) 2)) 16)
    poison := rows.foldl (fun q w => (List.range 256).foldl (fun q c => if w.2.badRange (a + 2048 * w.1 + 8 * c) 8 != 0 then q.upd (256 * w.1 + c) true else q) q) t.poison }

/-- A payload from its place in an image. -/
def Payload.fromImage (p : Payload) (h : Hbm) (a : Nat) : Payload :=
  match p with
  | .scalar _ => .scalar (BitVec.ofNat 64 (leNat (h.read a 8)))
  | .vec _ _ => .vec (BitVec.ofNat 2048 (leNat (h.read a 256))) (BitVec.ofNat 256 (leNat (h.read (a + 256) 32)))
  | .flags => .flags

/-- The entry of an image, when it lies there: the place of its payload, and whether a sector of it is poisoned. -/
def Ctx.entryIn (x : Ctx) (h : Hbm) (a which i : Nat) : Option (Nat × Bool) :=
  (x.entryPlace which i).map fun e => (a + e.1 + 8, h.badRange (a + e.1) (8 + e.2.pay.length) != 0)

/-- The results in flight from their entries (R431). -/
def Ctx.flightFrom (x : Ctx) (h : Hbm) (a : Nat) : Ctx :=
  { x with
    st.flight := x.st.flight.zipIdx.map fun f =>
      (match x.entryIn h a 0 f.2 with
       | some e => { f.1 with pay := f.1.pay.fromImage h e.1, poison := f.1.poison || e.2 }
       | none => f.1)
    passes := x.passes.zipIdx.map fun p =>
      (match x.entryIn h a 1 p.2 with
       | some e => { p.1 with sums := (List.range 256).map (fun c => sext (leNat (h.read (e.1 + 2 * c) 2)) 16), poison := p.1.poison || e.2 }
       | none => p.1)
    combs := x.combs.zipIdx.map fun p =>
      (match x.entryIn h a 2 p.2 with
       | some e => { p.1 with pay := p.1.pay.fromImage h e.1, poison := p.1.poison || e.2 }
       | none => p.1) }

/-! Blocks without a bit layout (R430, R432, log entry 15) -/

/-- What such a block gives back: nothing new while its bytes are as the save wrote them, else a number for each that stood there. -/
def Hbm.blockAt (h : Hbm) (block a n : Nat) (wrote : List Nat) : Option (List Nat) :=
  let bs := h.read a n
  if bs = laidOut block wrote n then none else some ((List.range wrote.length).map (Config.imageNum block bs))

/-- The control block read back. -/
def Ctx.withControl (x : Ctx) (w : List Nat) : Ctx :=
  let n (i : Nat) : Nat := w.getD i 0
  { x with
    st := { x.st with
      run := (match x.st.run with | [] => [] | b :: r => { b with va := n 0 } :: r)
      pc := n 1, cc := n 3, handler := bit (n 13) 0 }
    charge := n 6
    sys := { x.sys with
      late := BitVec.ofNat 32 (n 4), frz := BitVec.ofNat 64 (n 5), rmode := BitVec.ofNat 2 (n 7), vflags := BitVec.ofNat 7 (n 8), rflags := BitVec.ofNat 4 (n 9)
      trapc := BitVec.ofNat 10 (n 10), trapb := BitVec.ofNat 52 (n 11), sel := BitVec.ofNat 12 (n 12) } }

/-- The valid bits read back. -/
def Ctx.withValid (x : Ctx) (w : List Nat) : Ctx :=
  let n (i : Nat) : Nat := w.getD i 0
  let regs (i : Nat) (l : List Reg) : List Reg := l.zipIdx.map fun r => { r.1 with valid := bit (n i) r.2 }
  let vregs (i : Nat) (l : List VReg) : List VReg := l.zipIdx.map fun r => { r.1 with valid := bit (n i) r.2 }
  let words (i : Nat) (l : List (Option (BitVec 32))) : List (Option (BitVec 32)) := l.zipIdx.map fun r => if bit (n i) r.2 then none else r.1
  { x with
    regs := { x.regs with
      a := regs 0 x.regs.a, b := regs 1 x.regs.b, k := regs 2 x.regs.k, v := vregs 3 x.regs.v, w := vregs 4 x.regs.w, eg := regs 5 x.regs.eg, dc := regs 6 x.regs.dc
      ls := x.regs.ls.zipIdx.map fun r => if bit (n 7) r.2 then r.1 else {}
      rh := x.regs.rh.zipIdx.map fun r => if bit (n 8) r.2 then r.1 else none }
    st := { x.st with last := words 9 x.st.last, seen := words 10 x.st.seen } }

/-- Open levels from numbers, and the numbers left. -/
def levelsFrom : List Level → List Nat → List Level × List Nat
  | [], w => ([], w)
  | _ :: r, w =>
    let t := levelsFrom r (w.drop 5)
    ({ first := w.getD 0 0, last := w.getD 1 0, exit := w.getD 2 0, count := w.getD 3 0, frame := w.getD 4 0 } :: t.1, t.2)
/-- Return entries from numbers: of each its address, its depth and its levels. -/
def entriesFrom : List RetEntry → List Nat → List RetEntry
  | [], _ => []
  | e :: r, w =>
    let t := levelsFrom e.loops (w.drop 4)
    { e with va := w.getD 1 0, depth := w.getD 2 0, loops := t.1 } :: entriesFrom r (t.2.drop (1 + (e.run.flatMap RunB.nums).length))
/-- The stacks read back: as many entries as were written. -/
def Ctx.withStacks (x : Ctx) (w : List Nat) : Ctx :=
  let t := levelsFrom x.st.loops (w.drop 1)
  let head := (((x.st.run.head?).map RunB.nums).getD []).length
  { x with st := { x.st with loops := t.1, rstack := entriesFrom x.st.rstack (t.2.drop (head + 1)) } }

/-- Last words from numbers, and the numbers left. -/
def wordsFrom : List (Option (BitVec 32)) → List Nat → List (Option (BitVec 32)) × List Nat
  | [], w => ([], w)
  | o :: r, w =>
    let t := wordsFrom r (w.drop (if o.isSome then 2 else 1))
    ((o.map fun _ => BitVec.ofNat 32 (w.getD 1 0)) :: t.1, t.2)
/-- The last words read back. -/
def Ctx.withLast (x : Ctx) (w : List Nat) : Ctx :=
  let t := wordsFrom x.st.last w
  { x with st := { x.st with last := t.1, seen := (wordsFrom x.st.seen t.2).1 } }

/-- A landing slot's kind, remaining bundles and marks read back; one that the save did not find free stays as it is in use. -/
def LSlot.withNums (l : LSlot) (cc : Nat) (w : List Nat) : LSlot :=
  { l with vec := bit (w.getD 1 0) 0, visible := cc + w.getD 2 0, mark := w.getD 3 0 % 1024, glob := bit (w.getD 4 0) 0 }

/-- Commands read back: operands, entries, CHIX, SMASK and descriptors. -/
def cmdsFrom : List Cmd → List Nat → List Cmd
  | [], _ => []
  | q :: r, w =>
    if !q.accepted || q.st == .stopped then
      { q with
        src := BitVec.ofNat 64 (w.getD 3 0), dst := BitVec.ofNat 64 (w.getD 4 0), bank := w.getD 5 0 % 4, first := w.getD 6 0 % 256, count := w.getD 7 0
        next := w.getD 8 0, chix := w.getD 9 0, smask := w.getD 10 0 % 2 ^ 16
        d := q.d.zipIdx.map fun e => BitVec.ofNat 64 (w.getD (12 + e.2) 0) } :: cmdsFrom r (w.drop (12 + q.d.length))
    else q :: cmdsFrom r w
/-- A command of which a word is poisoned: it stops when the engine comes to it (R432). -/
def Cmd.spoilt (q : Cmd) : Cmd := if !q.accepted || q.st == .stopped then { q with st := .stopped, fault := some (0x1C3, 0) } else q
/-- The commands that a slot gives back. -/
def Hbm.cmdsAt (h : Hbm) (a : Nat) (v : Saved) : List Cmd :=
  let qs := (match h.blockAt 7 (a + 0xF800) 2048 v.text.cmds with | none => v.cmds | some w => cmdsFrom v.cmds w)
  if h.badRange (a + 0xF800) 2048 != 0 then qs.map Cmd.spoilt else qs

/-- A landing slot from its place: its data when the save found it at hand; a poisoned sector makes its take raise 0x1C3 (R415, R432). -/
def Hbm.slotAt (h : Hbm) (a : Nat) (t : SaveText) (cc i : Nat) (l : LSlot) : LSlot :=
  let p := a + 320 * i
  let l := if bit t.here i && l.here then { l with data := BitVec.ofNat 2048 (leNat (h.read p 256)), side := BitVec.ofNat 256 (leNat (h.read (p + 256) 32)) } else l
  let l := (match h.blockAt 4 (p + 288) 32 (t.slots.getD i []) with | none => l | some w => l.withNums cc w)
  if l.st != .free && l.mark == 0 && h.badRange p 320 != 0 then { l with mark := 0x1C3 } else l
/-- The scalar data queue from its image. -/
def Hbm.scalarsAt (h : Hbm) (a : Nat) (q : List SEntry) : List SEntry :=
  q.zipIdx.map fun e =>
    { e.1 with
      val := e.1.val.map fun _ => BitVec.ofNat 64 (leNat (h.read (a + 8 * e.2) 8))
      poison := e.1.poison || (e.1.val.isSome && h.badRange (a + 8 * e.2) 8 != 0) }
/-- The vector data queue from its image. -/
def Hbm.vectorsAt (h : Hbm) (a : Nat) (q : List VEntry) : List VEntry :=
  q.zipIdx.map fun e => { e.1 with val := e.1.val.map fun v => ((h.vregsAt (a + 288 * e.2) [v])[0]?).getD v }

/-- The words of a context that poisoned sectors hold (R432), where no layout says which sector holds which: the system registers and the
selection in the control block, the loop and return stacks, SATMASK; with the valid bits every register. -/
def Ctx.spoilt (x : Ctx) (h : Hbm) (a : Nat) : Ctx :=
  let bad (off n : Nat) : Bool := h.badRange (a + off) n != 0
  let marks := (if bad 0 256 then [4, 5, 6, 7, 8, 9, 10, 11, 12, 32] else []) ++ (if bad 0x300 512 then [13, 14, 15, 16, 80, 81] else []) ++
    (if bad 0x880 32 then [64, 65, 66, 67] else []) ++ (if bad 0x8C0 64 then [82] else [])
  let x := { x with sys.poison := marks.foldl (fun (p : Nset) i => p.upd i true) x.sys.poison }
  if !bad 0x280 128 then x
  else
    let regs (l : List Reg) : List Reg := l.map fun r => { r with poison := true }
    let vregs (l : List VReg) : List VReg := l.map fun r => { r with poison := true }
    { x with regs := { x.regs with
        a := regs x.regs.a, b := regs x.regs.b, k := regs x.regs.k, v := vregs x.regs.v, w := vregs x.regs.w, eg := regs x.regs.eg, dc := regs x.regs.dc
        ls := x.regs.ls.map fun l => if l.st != .free && l.mark == 0 then { l with mark := 0x1C3 } else l } }

/-- A context written back from its slot (R432): what the save wrote there, and what has been written over it since. -/
def Ctx.fromImage (x : Ctx) (t : SaveText) (h : Hbm) (a : Nat) : Ctx :=
  let banks := (x.banks.getD []).zipIdx.map fun b => h.bankAt (a + 0x10000 + 2112 * b.2) b.1
  let back (x : Ctx) (block off n : Nat) (wrote : List Nat) (f : Ctx → List Nat → Ctx) : Ctx :=
    match h.blockAt block (a + off) n wrote with
    | none => x
    | some w => f x w
  let x := x.flightFrom h a
  let x := back x 0 0 256 t.control Ctx.withControl
  let x := back x 2 0x300 512 t.frames Ctx.withStacks
  let x := back x 3 0x8C0 64 t.last Ctx.withLast
  let x := back x 1 0x280 128 t.valid Ctx.withValid
  let x := x.spoilt h a
  { x with
    regs := { x.regs with
      b := h.regsAt (a + 0x100) x.regs.b, k := h.regsAt (a + 0x180) x.regs.k, a := h.regsAt (a + 0x200) x.regs.a
      eg := h.regsAt (a + 0x600) x.regs.eg, dc := h.regsAt (a + 0x800) x.regs.dc
      v := h.vregsAt (a + 0x1000) x.regs.v, w := h.vregsAt (a + 0x1900) x.regs.w
      ls := x.regs.ls.zipIdx.map fun l => h.slotAt (a + 0x3000) t x.st.cc l.2 l.1 }
    sys.satmask := BitVec.ofNat 256 (leNat (h.read (a + 0x880) 32))
    st.sq := h.scalarsAt (a + 0x900) x.st.sq
    st.vq := h.vectorsAt (a + 0x2400) x.st.vq
    banks := x.banks.map fun bs => (banks.zip bs).map fun b => b.1.getD b.2
    badBanks := banks.any Option.isNone }

/-- What an image at address `a` gives back: the context, the planes and tiles that it held. -/
def Saved.fromImage (v : Saved) (h : Hbm) (a : Nat) : Saved :=
  { v with
    ctx := v.ctx.fromImage v.text (h.window a 0x20000) a
    cmds := (h.window (a + 0xF800) 2048).cmdsAt a v
    planes := v.planes.map fun p => if p.2.claim.st = .held then (p.1, (h.window (a + 0x13000 + 12352 * p.1) 12352).planeAt (a + 0x13000 + 12352 * p.1) p.2) else p
    tiles := v.tiles.map fun t => if t.2.claim.st = .held then (t.1, (h.window (a + 0x20000 + 131072 * t.1) 131072).tileAt (a + 0x20000 + 131072 * t.1) t.2) else t }

/-- A ring control from the 128 bits of its handle (R59). -/
def Ring.ofWord (r : Ring) (w : Nat) : Ring :=
  { r with cfg := BitVec.ofNat 64 (bits w 0 64 - put (bits w 56 8) 56 8), used := bits w 101 7, wp := bits w 108 6, rp := bits w 114 6, ovf := bit w 127 }

/-- The ring controls of a slot's handles (R432): as they stand, since tokens may have come, unless the slot's bytes have been written over; a
poisoned sector poisons the handles whose words or RCUR it holds. -/
def Hbm.ringsAt (h : Hbm) (a : Nat) (v : Saved) (rings : Smap Ring) : Smap Ring :=
  v.ctx.regs.rh.zipIdx.foldl (fun (m : Smap Ring) r =>
    match r.1 with
    | none => m
    | some id =>
      let (w, cur) := v.text.handles.getD r.2 (0, 0)
      let w' := leNat (h.read (a + 0x500 + 16 * r.2) 16)
      let cur' := leNat (h.read (a + 0x8A0 + 2 * r.2) 2)
      let g := mgetD m id {}
      let g := if w' = w then g else g.ofWord w'
      let g := if cur' = cur then g else { g with rcur := cur' }
      mput m id { g with poison := g.poison || h.badRange (a + 0x500 + 16 * r.2) 16 != 0 || h.badRange (a + 0x8A0 + 2 * r.2) 2 != 0 }) rings

/-- What a save slot gives back (R432). -/
def Ld.restored (x : Ld) (slot : Nat) (v : Saved) : Saved := v.fromImage x.hbm (x.slotAt slot)

/-- The slot is read through the die cache, and the ring controls of its handles come from it. -/
def State.readSlot (s : State) (l slot : Nat) (v : Saved) : State :=
  let a := (s.ld l).slotAt slot
  let s := s.noteBrokenRead l a 0xA0000
  let s := s.updLd l fun x => x.touchLines a 0xA0000 false
  s.updCore l v.core fun y => { y with rings := ((s.ld l).hbm.window (a + 0x500) 1024).ringsAt a v y.rings }

end Sys2Proof.Machine
end

