-- ==== Sys2Proof/Machine/Issue.lean ====
section
/-! DEFINITION. The issue of bundles: fetch (R23, R243 to R246), the two streams (R247 to R251), traps at their boundary (R416 to R418),
one domain clock of a core. -/

namespace Sys2Proof.Machine

/-- The operation of a slot word. -/
def slotOp (i : Instr) : M Unit :=
  match i with
  | .lda d i => opLda d i
  | .ldah d s i => opLdah d s i
  | .mova d s => opMova d s
  | .adda d s t => opAdda d s t
  | .addai d s i => opAddai d s i
  | .suba d s t => opSuba d s t
  | .shla d s n => opShla d s n
  | .mada d s t => opMada d s t
  | .anda d s t => opAnda d s t
  | .popq d => opPopq d
  | .ldg l b y w p x => opLdg l b y w p x
  | .lds l b y w p x => opLds l b y w p x
  | .ldv l b y z r p s x => opLdv l b y z r p s x
  | .ldvg l b y s p x => opLdvg l b y s p x
  | .amos d s t o w p y h => opAmos d s t o w p y h
  | .amog d s t o w p y h => opAmog d s t o w p y h
  | .pref b p x => opPref b p x
  | .stg b w p x => opStg b w p x
  | .sts b w p x => opSts b w p x
  | .stv b z r p s x => opStv b z r p s x
  | .stvg b s p x => opStvg b s p x
  | .rget d s t c n => opRget d s t c n
  | .rput d s t c n => opRput d s t c n
  | .radvR s t c n => opRadvR s t c n
  | .radvW s t c n => opRadvW s t c n
  | .rset s t => opRset s t
  | .loop c l => opLoop c l
  | .loopa s l => opLoopa s l
  | .ba o => opBa o
  | .bca c s t o => opBca c s t o
  | .call o => opCall o
  | .ret => opRet
  | .fenceS => opFenceS
  | .fenceE => opFenceE
  | .fenceG => opFenceG
  | .mte a n => opMte a n
  | .mfe b n => opMfe b n
  | .cpy a b g => opCpy a b g
  | .cpyg a b s g => opCpyg a b s g
  | .cpyx a b g => opCpyx a b g
  | .cbld a b e p k => opCbld a b e p k
  | .cbval a b j v k => opCbval a b j v k
  | .cbsel a => opCbsel a
  | .cbsave a b r e p k => opCbsave a b r e p k
  | .tsend a b l m g => opTsend a b l m g
  | .cfw a p y => opCfw a p y
  | .cft a b p y => opCft a b p y
  | .waitc a b l g => opWaitc a b l g
  | .caph a y => opCaph a y
  | .capd a y => opCapd a y
  | .pub s => opPub s
  | .acq s => opAcq s
  | .shopen a => opShopen a
  | .shpub a => opShpub a
  | .yield => opYield
  | .retire => opRetire
  | .trap n => opTrap n
  | .brk n => opBrk n
  | .sysc a b s => opSysc a b s
  | .rdtime b u => opRdtime b u
  | .add d a b => opAdd d a b
  | .sub d a b => opSub d a b
  | .mul d a b => opMul d a b
  | .mulh d a b => opMulh d a b
  | .mulhn d a b => opMulhn d a b
  | .div d a b z => opDiv d a b z
  | .divn d a b z => opDivn d a b z
  | .rem d a b z => opRem d a b z
  | .remn d a b z => opRemn d a b z
  | .and d a b => opAnd d a b
  | .or d a b => opOr d a b
  | .xor d a b => opXor d a b
  | .andn d a b => opAndn d a b
  | .shl d a b => opShl d a b
  | .shr d a b => opShr d a b
  | .sar d a b => opSar d a b
  | .rol d a b => opRol d a b
  | .clz d a => opClz d a
  | .ctz d a => opCtz d a
  | .popc d a => opPopc d a
  | .min d a b => opMin d a b
  | .max d a b => opMax d a b
  | .minn d a b => opMinn d a b
  | .maxn d a b => opMaxn d a b
  | .cmp d a b c => opCmp d a b c
  | .sel d a b c => opSel d a b c
  | .addi d a i => opAddi d a i
  | .andi d a i => opAndi d a i
  | .ori d a i => opOri d a i
  | .xori d a i => opXori d a i
  | .shli d a n => opShli d a n
  | .shri d a n => opShri d a n
  | .sari d a n => opSari d a n
  | .li d i => opLi d i
  | .lih d i => opLih d i
  | .take d l => opTake d l
  | .push a => opPush a
  | .mfs d n => opMfs d n
  | .mts a n => opMts a n
  | .bx c a b o => opBx c a b o
  | .jx a => opJx a
  | .faddS d a b r => opFaddS d a b r
  | .fsubS d a b r => opFsubS d a b r
  | .fmulS d a b r => opFmulS d a b r
  | .fmaS d a b r c => opFmaS d a b r c
  | .fcvt d a r v => opFcvt d a r v
  | .vadd d a b s f x => opVadd d a b s f x
  | .vsub d a b s f x => opVsub d a b s f x
  | .vmul d a b s f x => opVmul d a b s f x
  | .vfma d a b c f x => opVfma d a b c f x
  | .vfms d a b c f x => opVfms d a b c f x
  | .vmin d a b f x => opVmin d a b f x
  | .vmax d a b f x => opVmax d a b f x
  | .vabs d a s f x => opVabs d a s f x
  | .vneg d a s f x => opVneg d a s f x
  | .vcmp d a b c f x => opVcmp d a b c f x
  | .vsel d a b c f => opVsel d a b c f
  | .vand d a b => opVand d a b
  | .vor d a b => opVor d a b
  | .vxor d a b => opVxor d a b
  | .vnot d a => opVnot d a
  | .vshl d a b f => opVshl d a b f
  | .vshr d a b f => opVshr d a b f
  | .vsar d a b f => opVsar d a b f
  | .vcvt d a p c f x => opVcvt d a p c f x
  | .vqnt d a s c f x => opVqnt d a s c f x
  | .vdqt d a p c f => opVdqt d a p c f
  | .vcbx d a x => opVcbx d a x
  | .vcbi d a x => opVcbi d a x
  | .vred d a b o f x => opVred d a b o f x
  | .vperm d a b f => opVperm d a b f
  | .vbcast d a k f => opVbcast d a k f
  | .vsplat d i f => opVsplat d i f
  | .vslide d a b r f => opVslide d a b r f
  | .vzip d a b h f => opVzip d a b h f
  | .vunzip d a b h f => opVunzip d a b h f
  | .vexp2 d a f x => opVexp2 d a f x
  | .vlog2 d a f x => opVlog2 d a f x
  | .vrcp d a f x => opVrcp d a f x
  | .vrsq d a f x => opVrsq d a f x
  | .vtake d l h => opVtake d l h
  | .vpush a => opVpush a
  | .dcw a n => opDcw a n
  | .dcr n => opDcr n
  | .rclaim o n => opRclaim o n
  | .rrel o n => opRrel o n
  | .rldw a b x p => opRldw a b x p
  | .rpass v c t p x => opRpass v c t p x
  | .rpassr h c t p x v => opRpassr h c t p x v
  | .rsat c q => opRsat c q
  | .rmin v x => opRmin v x
  | .rmax v x => opRmax v x
  | .rsort v x d => opRsort v x d
  | .rtopk v k x d => opRtopk v k x d
  | .rrank v x d => opRrank v x d
  | .accz a t => opAccz a t
  | .accrd a f g t => opAccrd a f g t
  | .accst a b r p f t => opAccst a b r p f t
  | .accnorm t => opAccnorm t
  | .accexp a e t => opAccexp a e t
  | .rcal a => opRcal a
  | .rtrimr n => opRtrimr n
  | .rtrimw a n => opRtrimw a n
  | .rstat n => opRstat n
  | .bundleIssue _ _ => pure ()
  | .resultLanding _ _ => pure ()
  | .landingSlotFill _ _ _ _ => pure ()
  | .sectorLanding _ _ _ _ _ _ => pure ()
  | .nbrRequestArrival _ _ => pure ()
  | .dieCacheRequest _ => pure ()
  | .lineReadExpand _ _ _ => pure ()
  | .fullLineWrite _ _ _ _ => pure ()
  | .partialLineWrite _ _ _ _ => pure ()
  | .tableWalkStart _ => pure ()
  | .tableWalkComplete _ => pure ()
  | .peerRequestCheck _ _ _ _ _ _ _ _ _ => pure ()
  | .peerResponseTimeout _ _ _ _ => pure ()
  | .xlinvPage _ _ => pure ()
  | .xlinvRange _ _ => pure ()
  | .xlinvAll _ => pure ()
  | .xlinvReject _ _ => pure ()
  | .invalidationDone _ => pure ()
  | .shopenGrant _ _ _ => pure ()
  | .shpubExchange _ _ _ => pure ()
  | .claimGrant _ _ _ _ => pure ()
  | .engineCommandAccept _ _ _ => pure ()
  | .copyChunkTranslate _ _ _ => pure ()
  | .copyBlockWrite _ _ _ => pure ()
  | .copyComplete _ _ _ => pure ()
  | .stampedCopyAck _ => pure ()
  | .transformChunkStart _ _ _ => pure ()
  | .transformEcall _ _ _ => pure ()
  | .transformTimeout _ _ _ => pure ()
  | .transformException _ _ _ _ => pure ()
  | .engineFaultReport _ _ _ => pure ()
  | .cbldEntryCommit _ _ _ => pure ()
  | .cbvalCommit _ _ _ => pure ()
  | .cbsaveComplete _ _ _ => pure ()
  | .codebookExchange _ _ _ => pure ()
  | .rldwCourseCommit _ _ => pure ()
  | .passConverterRead _ _ _ => pure ()
  | .reraceComplete _ _ _ => pure ()
  | .passLanding _ _ => pure ()
  | .renormalisationStep _ _ _ => pure ()
  | .combRead _ _ _ => pure ()
  | .combResultLand _ _ => pure ()
  | .rcalResult _ _ => pure ()
  | .eccCorrectedCore _ _ => pure ()
  | .eccFreezeEnd _ _ => pure ()
  | .eccCorrectedMemory _ _ => pure ()
  | .uncorrectableError _ _ _ _ => pure ()
  | .calibrationPeriodicTimer _ _ => pure ()
  | .temperatureSample _ _ _ => pure ()
  | .calibrationStart _ _ => pure ()
  | .calibrationRoutine _ _ => pure ()
  | .doorbellWrite _ _ _ => pure ()
  | .openRegion _ _ => pure ()
  | .placeOperator _ _ => pure ()
  | .refresh _ _ => pure ()
  | .closeRegion _ _ => pure ()
  | .killRegion _ _ => pure ()
  | .resume _ _ => pure ()
  | .launchRefused _ _ => pure ()
  | .stepRelease _ _ => pure ()
  | .switchThresholdExpiry _ _ => pure ()
  | .sliceExpiry _ _ => pure ()
  | .priorityAgeing _ _ _ => pure ()
  | .swapThresholdExpiry _ _ _ => pure ()
  | .swapOut _ _ _ => pure ()
  | .swapIn _ _ => pure ()
  | .waitingBudgetExhausted _ _ _ => pure ()
  | .stepTimeBoundOverrun _ _ _ => pure ()
  | .waitcTimeout _ _ _ => pure ()
  | .publicationComplete _ _ _ => pure ()
  | .fenceComplete _ _ _ => pure ()
  | .retirementComplete _ _ _ => pure ()
  | .scratchpadAllocationFree _ _ => pure ()
  | .tokenArrival _ => pure ()
  | .tokenAcceptance _ => pure ()
  | .tokenRefusal _ => pure ()
  | .ltEnable _ _ => pure ()
  | .ltEnableComplete _ _ => pure ()
  | .ltAdvanceRoot _ _ => pure ()
  | .ltSeal _ _ => pure ()
  | .ltDisable _ _ => pure ()
  | .ltBadCommand _ _ => pure ()
  | .rootNoticeApply _ => pure ()
  | .rootNoticeReply _ => pure ()
  | .batchCloseTimeout _ => pure ()
  | .batchApply _ => pure ()
  | .curfewNoticeApply _ => pure ()
  | .spillReadback _ => pure ()
  | .ltspszWrite _ _ => pure ()
  | .interleaveCommit _ _ => pure ()
  | .interleaveCommitDone _ => pure ()
  | .faultRecordWrite _ => pure ()
  | .fqheadWrite _ _ => pure ()
  | .fqbaseWrite _ _ => pure ()
  | .machineCheck _ _ => pure ()
  | .functionLevelReset _ => pure ()
  | .powerOnReset _ => pure ()
  | .startStageAdvance _ _ => pure ()
  | .firmwareVerify _ _ _ _ => pure ()
  | .doeImageWrite _ _ => pure ()
  | .msixUnmask _ _ => pure ()
  | .hostCxlMemAccess _ _ _ _ _ => pure ()
  | .meshFlitReceive _ _ _ _ => pure ()
  | .meshLaneFailure _ _ _ => pure ()
  | .beyvexFlitReceive _ _ _ _ _ => pure ()
  | .beyvexNakReceive _ _ _ => pure ()
  | .beyvexLaneFailure _ _ _ => pure ()
  | .beyvexRetrainDone _ _ => pure ()
  | .bxctlRetrain _ _ => pure ()
  | .peerRegionCommit _ _ => pure ()
  | .peerRegionCommitDone _ => pure ()
  | .staggerMessage _ _ _ _ _ => pure ()
  | .powerEstimateTick _ _ => pure ()
  | .quietDetection _ => pure ()
  | .floorHoldExpiry _ => pure ()
  | .stagoffExpiry _ => pure ()
  | .fillerRaceStart _ _ => pure ()
  | .powerRegisterWrite _ _ _ => pure ()
  | .registerWrite _ _ _ _ => pure ()
  | .meshLaneSpareReplay _ _ => pure ()
  | .linkPartnerRetrain _ _ => pure ()
  | .virtualHierarchyBinding _ _ => pure ()
  | .spdmRequest _ _ => pure ()

/-! Bundles as fetched -/

/-- A bundle: its address and size, its slot words A to D when present, its hold bits and SYNC (R243). -/
structure Bundle where
  va    : Nat
  size  : Nat
  words : List (Option (BitVec 32))
  hold  : BitVec 5
  sync  : BitVec 2

/-- A class 0 trap of the bundle (R264), an access-side trap (R416). -/
def illegal {α : Type} (e : DecodeError) : M α :=
  fun _ => .error (.trap { cause := 8 * e.place + e.reason.code, access := true, slot := if e.place ≤ 5 then e.place else 0 })

/-- One code word, through the TLBs and the die cache (R23, R27, R109); a commit holds it (R114). -/
def fetchWord (va : Nat) : M (BitVec 32) := do
  let p ← translate 0 0 0 va 4
  let s ← getS
  if s.commitHolds p.home p.addr 4 then stall plainWait
  else do
    updS fun s => s.readThrough p.ca [(p.home, p.addr, 4)]
    pure (BitVec.ofNat 32 (leNat (s.homeBytes p.home p.addr 4)))

/-- The slot words that follow a header (R244). -/
def fetchSlots (h : Header) (va : Nat) : List Nat → M (List (Option (BitVec 32)))
  | [] => pure []
  | i :: r =>
    if h.slots.getLsbD i then do
      let w ← fetchWord va
      let ws ← fetchSlots h (va + 4) r
      pure (some w :: ws)
    else do
      let ws ← fetchSlots h va r
      pure (none :: ws)

/-- The bundle at the access position. -/
def fetchBundle : M Bundle := do
  let x ← getMe
  let va := x.st.pc
  let w ← fetchWord va
  match decodeHeader w with
  | .error e => illegal e
  | .ok h => do
    let ws ← fetchSlots h (va + 4) [0, 1, 2, 3, 4]
    pure { va := va, size := 4 * (1 + h.words), words := ws, hold := h.hold, sync := h.sync }

/-- A control transfer (R265). -/
def isTransfer : Instr → Bool
  | .ba _ => true
  | .bca _ _ _ _ => true
  | .call _ => true
  | .ret => true
  | .bx _ _ _ _ => true
  | .jx _ => true
  | _ => false
/-- A transfer that the execute stream resolves (R265). -/
def isExTransfer : Instr → Bool
  | .bx _ _ _ _ => true
  | .jx _ => true
  | _ => false
/-- A word that only a privileged context may issue (R254, R255, R263): it makes its bundle illegal. -/
def needsPriv : Instr → Bool
  | .mts _ n => n == 5#14 || n == 6#14 || n == 10#14 || n == 11#14
  | .rcal _ => true
  | .rtrimw _ _ => true
  | _ => false
/-- The access register that an E word writes (R374). -/
def eResult : Instr → Option (BitVec 4)
  | .mfe b _ => some b
  | .cft _ b _ _ => some b
  | .waitc _ b _ _ => some b
  | .rdtime b _ => some b
  | _ => none
/-- The object that an rclaim names. -/
def claimOf : Instr → Option (Bool × Nat)
  | .rclaim o n => some (o == 1#1, n.toNat)
  | _ => none

/-- One slot of a bundle checked (R245, R263, R264): its instruction, when it has one. -/
def checkSlot (x : Ctx) (b : Bundle) (i : Nat) : M (Option Instr) :=
  match b.words.getD i none, b.hold.getLsbD i with
  | some _, true => illegal ⟨i + 1, .hold⟩
  | none, false => pure none
  | some w, false =>
    match decodeSlot i w with
    | .error e => illegal e
    | .ok ins => if needsPriv ins && !x.priv then illegal ⟨i + 1, .privileged⟩ else pure (some ins)
  | none, true =>
    match x.st.seen.getD i none with
    | none => illegal ⟨i + 1, .hold⟩
    | some w =>
      match decodeSlot i w with
      | .error e => illegal e
      | .ok ins => pure (some ins)

/-- The checks of a whole bundle, slot by slot; a second transfer is 0x030 (R265). -/
def checkBundle (b : Bundle) : M (List (Option Instr)) := do
  let x ← getMe
  let ia ← checkSlot x b 0
  let ie ← checkSlot x b 1
  let ix ← checkSlot x b 2
  let iv ← checkSlot x b 3
  let id ← checkSlot x b 4
  let all := [ia, ie, ix, iv, id]
  if 2 ≤ all.countP (fun o => o.any isTransfer) then illegal ⟨6, .opcode⟩ else pure all

/-! The access stream -/

/-- The source operands of an E word that may wait, in their order (R272, R375). -/
def eSources (x : Ctx) : Instr → List (BitVec 4)
  | .cpy a b g => ofCopy a b g
  | .cpyg a b _ g => ofCopy a b g
  | .cpyx a b g => ofCopy a b g
  | .cbld a b _ _ _ => [a, b]
  | .cbval a b _ _ _ => [a, b]
  | .cbsave a b _ _ _ _ => [a, b]
  | .tsend a b _ _ _ => [a, b]
  | .cfw a _ _ => [a]
  | .waitc a _ _ _ => [a]
  | .caph a _ => [a]
  | .shopen a => [a]
  | .shpub a => [a]
  | _ => []
where
  /-- A copy into a ring has no eb (R382). -/
  ofCopy (a b : BitVec 4) (g : BitVec 3) : List (BitVec 4) :=
    let d := (x.regs.eg.getD (8 * g.toNat) {}).val.toNat
    if dRing d && dDsp d == 1 then [a] else [a, b]

/-- Takes the operands that come from the queue; registers are only checked here. -/
def takeQueued : List (BitVec 4) → M (List Word)
  | [] => pure []
  | c :: r => do
    let v ← readAccess 2 c
    let vs ← takeQueued r
    pure (if c = 15#4 then v :: vs else vs)

/-- The numbers at which two tables differ, by their order. -/
def diffKeys {α : Type} [DecidableEq α] : Nat → Smap α → Smap α → List Nat
  | 0, _, _ => []
  | _, [], q => q.map (·.1)
  | _, p, [] => p.map (·.1)
  | n + 1, (i, v) :: p, (j, w) :: q =>
    if i < j then i :: diffKeys n p ((j, w) :: q)
    else if j < i then j :: diffKeys n ((i, v) :: p) q
    else if v = w then diffKeys n p q
    else i :: diffKeys n p q
def changes {α : Type} [DecidableEq α] (p q : Smap α) : List Nat := diffKeys (p.length + q.length) p q

/-- An A word whose effect another unit may have seen already, so that nothing takes it back (log entry 109): a request to another core's bank,
an atomic at a home, a move of a ring, the return from a handler. -/
def goesOut (x : Ctx) : Instr → Bool
  | .sts _ _ p _ => p == 1#1
  | .stv _ _ _ p _ _ => p == 1#1
  | .amos _ _ _ _ _ p _ _ => p == 1#2
  | .amog _ _ _ _ _ _ _ _ => true
  | .radvR _ _ _ _ => true
  | .radvW _ _ _ _ => true
  | .rset _ _ => true
  | .ret => (x.st.rstack.head?).any (·.trap)
  | _ => false

/-- What takes an A word back: from the state before it and the state after it. -/
def undoOf (s t : State) (i : Instr) : Option Undo :=
  let x := s.me
  let y := t.me
  let c := s.core s.cur.l s.cur.k
  let d := t.core s.cur.l s.cur.k
  if goesOut x i then none
  else some {
    slot := (List.range 32).find? fun n => (x.regs.ls.getD n {}).st != (y.regs.ls.getD n {}).st
    sq := x.st.sq.take (x.st.sq.length - y.st.sq.length)
    vq := x.st.vq.take (x.st.vq.length - y.st.vq.length)
    ret := if y.st.rstack.length < x.st.rstack.length then (x.st.rstack.head?).map fun e => (e.va, e.depth) else none
    call := decide (x.st.rstack.length < y.st.rstack.length)
    spad := (changes c.spad d.spad).map fun a => (a, Mem.get c.spad a)
    bad := (changes c.spadPoison d.spadPoison).map fun g => (g, c.spadPoison.has g)
    own := y.own.flatMap fun p => (changes (mgetD x.own p.1 []) p.2).map fun a => (p.1, a, mget (mgetD x.own p.1 []) a) }

/-- An own store taken back, unless it has been published. -/
def unstore (m : Smap (Smap Own)) (o : Nat × Nat × Option Own) : Smap (Smap Own) :=
  let b := mgetD m o.1 []
  if (mget b o.2.1).any (·.pub) then m
  else mput m o.1 (match o.2.2 with
    | some w => mput b o.2.1 w
    | none => mdel b o.2.1)

/-- The E word of a bundle has trapped after a wait: its A word is taken back, so that neither half has taken effect (R416). -/
def State.takeBack (s : State) (l k c : Nat) : State :=
  let x := s.ctx l k c
  match x.st.half with
  | none => s
  | some h =>
    match h.undo with
    | none => s
    | some u =>
      let s := s.updCore l k fun y =>
        { y with
          spad := u.spad.foldl (fun m p => Mem.set m p.1 p.2) y.spad
          spadPoison := u.bad.foldl (fun m p => m.upd p.1 p.2) y.spadPoison }
      let s := match u.slot with
        | none => s
        | some n =>
          { s with lds := s.lds.map fun (e : Nat × Ld) => (e.1, { e.2 with
              homeQ := e.2.homeQ.filter fun r => !(r.ofStep l x.sid && r.isLoad && r.slot == n)
              cores := e.2.cores.map fun (k : Nat × Core) =>
                (k.1, { k.2 with nbrQ := k.2.nbrQ.filter fun r => !(e.1 == l && r.sid == x.sid && decide (r.kind < 2) && r.slot == n) }) }) }
      s.updCtx l k c fun x =>
        { x with
          regs.a := h.regs
          regs.ls := (match u.slot with
            | some n => x.regs.ls.set n {}
            | none => x.regs.ls)
          st.sq := u.sq ++ x.st.sq
          st.vq := u.vq ++ x.st.vq
          st.rstack := (match u.ret with
            | some e => { va := e.1, depth := e.2 } :: x.st.rstack
            | none => if u.call then x.st.rstack.tail else x.st.rstack)
          st.loops := h.loops
          st.goto := .fall
          st.half := none
          st.popped := []
          own := u.own.foldl unstore x.own }

/-- The E word of a bundle whose A word has issued (R280): it reads the registers as they stood before the bundle. When it waits, the A
word's effect stays, and so do the operands that its first test has read (R375); `h` says at its first wait what takes the A word back. -/
def eWord (half : Unit → Half) (i : Instr) : M Unit := fun s =>
  let h := half ()
  let after := s.me.regs.a
  let keep (h : Half) (s : State) : State := s.updMe fun x => { x with regs.a := after, st.half := some h, st.popped := [] }
  let queue := s.me.st.sq
  let s := s.updMe fun x => { x with regs.a := h.regs }
  let first : Except Stop (List Word × State) := match h.popped with
    | some vs => .ok (vs, s)
    | none => takeQueued (eSources s.me i) s
  match first with
  | .error (.wait w _) => .error (.wait { w with slot := 2 } fun _ => keep h s)
  | .error e => .error e
  | .ok (vs, s) =>
    let taken := queue.take (queue.length - s.me.st.sq.length)
    match slotOp i (s.updMe fun x => { x with st.popped := vs }) with
    | .error (.wait w ask) =>
      .error (.wait { w with slot := 2 } fun _ =>
        ask (keep { h with popped := some vs, undo := h.undo.map fun u => { u with sq := u.sq ++ taken } } s))
    | .error e => .error e
    | .ok (_, s) =>
      .ok ((), s.updMe fun x =>
        { x with
          st.popped := []
          regs.a := (match eResult i with
            | some d => after.set d.toNat (x.regs.a.getD d.toNat {})
            | none => after) })

/-- The context asks for an object and waits its turn, by the age of its rclaim (R78). -/
def askClaim (tile : Bool) (n : Nat) (s : State) : State :=
  let sid := s.me.sid
  (s.updCore s.cur.l s.cur.k fun y => y.setClaim tile n fun c => if c.waiting.contains sid then c else { c with waiting := c.waiting ++ [sid] }).updMe fun x =>
    match x.claimWait with
    | some (t, m, _) => if t = tile ∧ m = n then x else { x with claimWait := some (tile, n, s.ticks) }
    | none => { x with claimWait := some (tile, n, s.ticks) }

/-- SYNC (R246): the bundle issues with the execute stream; SYNC 10 waits for acceptance of the earlier E-slot commands. -/
def syncWait (b : Bundle) : M Unit := do
  let x ← getMe
  let y ← getCore
  if b.sync ≠ 0#2 ∧ !x.st.run.isEmpty then stall plainWait
  else if b.sync = 2#2 ∧ (y.queue.any fun q => q.sid == x.sid && q.kind != .accst && !q.accepted) then stall plainWait
  else pure ()

/-- The A and E halves of a bundle: A pops first, both read the registers as they stood before the bundle (R375), and the claims of
its D word are reserved (R352). -/
def accessHalves (b : Bundle) (is : List (Option Instr)) : M Unit := do
  syncWait b
  let s ← getS
  let x := s.me
  let h : Unit → Half ← (match x.st.half with
    | some h => pure fun (_ : Unit) => h
    | none => do
      (match is.getD 0 none with
      | some i => slotOp i
      | none => pure ())
      let t ← getS
      let undo (_ : Unit) : Option Undo := match is.getD 0 none with
        | some i => undoOf s t i
        | none => some {}
      pure fun (_ : Unit) => ({ regs := x.regs.a, loops := x.st.loops, inH := x.st.handler, undo := undo () } : Half))
  (match is.getD 1 none with
  | some i => eWord h i
  | none => pure ())
  (match (is.getD 4 none).bind claimOf with
  | some (tile, n) => do
    let ok ← reserveObject tile n
    if ok then updMe fun z => { z with claimWait := none } else stall (claimWait tile n) (askClaim tile n)
  | none => pure ())
  updMe fun z => { z with st.half := none }

/-- The places that follow a bundle without a taken transfer (R266, R267). -/
def Ctx.fallsTo (x : Ctx) (b : Bundle) : Nat × List Level :=
  match x.st.goto with
  | .skip last exit => endTests x.st.rstack.length last exit x.st.loops
  | _ => endTests x.st.rstack.length b.va (b.va + b.size) x.st.loops

/-- The access position moves on past a bundle (R265 to R269); `x0` is the context before it. -/
def Ctx.advance (x x0 : Ctx) (b : Bundle) (is : List (Option Instr)) : Ctx :=
  let rb : RunB := {
    va := b.va, size := b.size, x := b.words.getD 2 none, v := b.words.getD 3 none, d := b.words.getD 4 none, hold := b.hold,
    loops := x0.st.loops, opened := x.st.loops, inH := x0.st.handler, sel := x.st.selNext, sync := b.sync != 0#2 }
  let seen := (List.range 5).map fun i => if (b.words.getD i none).isSome then b.words.getD i none else x.st.seen.getD i none
  let (va, loops) := x.fallsTo b
  let wait := is.any fun o => o.any isExTransfer
  let x := { x with st.run := x.st.run ++ [rb], st.selNext := none, st.skipTo := va, st.skipLoops := loops, st.await := wait }
  let x := match x.st.goto with
    | .back to_ more aw =>
      { x with st.pc := to_, st.skipTo := to_, st.skipLoops := x.st.loops, st.run := x.st.run ++ more, st.await := aw, st.seen := { x.st with seen := seen }.viewAfter (x.st.run ++ more) }
    | .taken to_ => { x with st.pc := to_, st.loops := closeLevels x.st.rstack.length to_ x.st.loops, st.seen := seen }
    | _ => { x with st.pc := va, st.loops := loops, st.seen := seen }
  { x with st.goto := .fall }

/-- How an attempt of the access stream ends. -/
inductive AccessEnd where
  | stalled | issued | trapped
  deriving DecidableEq

/-- A Skip, or a handler's return, passes over the bundle at the access position (R420, R423): what follows it is next, and the end test is
made. -/
def Ctx.skipBundle (x : Ctx) (va size : Nat) : Ctx :=
  let (to_, loops) := endTests x.st.rstack.length va (va + size) x.st.loops
  { x with st.pc := to_, st.loops := loops, st.skipTo := to_, st.skipLoops := loops, st.half := none, st.popped := [], st.passOver := false }

/-- The access stream steps off the bundle that a Skip passes over, once its header can be read (R423). -/
def passBundle : M Unit := do
  let x ← getMe
  let w ← fetchWord x.st.pc
  match decodeHeader w with
  | .error e => illegal e
  | .ok h => updMe fun x => x.skipBundle x.st.pc (4 * (1 + h.words))

/-- The access stream tries its bundle: it issues, stalls, or pends a trap (R248, R416). Without `joint` the execute stream cannot issue in this
clock, and a bundle with SYNC stays whole (R246). -/
def State.accessTry (s : State) (l k c : Nat) (joint : Bool := true) : State × AccessEnd :=
  let s := { s with cur := { l := l, k := k, c := c } }
  let pend (s : State) (t : TrapInfo) : State :=
    (s.takeBack l k c).updMe fun x => { x.endWaitA s.ticks with st.atrap := some { t with access := true, va := some x.st.pc } }
  match (if s.me.st.passOver then (fun s => do
      let (_, t) ← passBundle s
      fetchBundle t) else fetchBundle) s with
  | .error (.trap t) => (pend (s.updMe fun x => { x with st.skipTo := x.st.pc, st.skipLoops := x.st.loops }) t, .trapped)
  | .error (.wait w ask) => ((ask s).updMe fun x => x.waitA w s.ticks, .stalled)
  | .error _ => (s, .stalled)
  | .ok (b, s) =>
    if !joint && b.sync != 0#2 then (s, .stalled) else
    let s := s.updMe fun x =>
      if x.st.half.isSome then x
      else
        let f := { x with st.goto := .fall }.fallsTo b
        { x with st.goto := .fall, st.skipTo := f.1, st.skipLoops := f.2 }
    let x0 := match s.me.st.half with
      | some h => { s.me with st.loops := h.loops, st.handler := h.inH }
      | none => s.me
    match checkBundle b s with
    | .error (.trap t) => (pend s t, .trapped)
    | .error _ => (s, .stalled)
    | .ok (is, s) =>
      match accessHalves b is s with
      | .error (.trap t) => (pend s t, .trapped)
      | .error (.wait w ask) => ((ask s).updMe fun x => x.waitA w s.ticks, .stalled)
      | .error _ => (s, .stalled)
      | .ok (_, s) => (s.updMe fun x => (x.advance x0 b is).endWaitA s.ticks, .issued)

/-- The access stream may try (R248, R265, R408): no trap pends, no outcome is awaited, no retire stands. -/
def Ctx.mayAccess (x : Ctx) : Bool := x.live && x.paused.isNone && x.st.atrap.isNone && !x.st.await && x.retiring == 0

/-! The execute stream -/

/-- One execute half: a present word, or the slot's last word under a hold (R245). -/
def executeSlot (i : Nat) (w : Option (BitVec 32)) (held : Bool) : M Unit := do
  let x ← getMe
  match w with
  | some v => updMe fun x => { x with st.last := x.st.last.set i (some v) }
  | none => pure ()
  match (if w.isSome then w else if held then x.st.last.getD i none else none) with
  | some v =>
    match decodeSlot i v with
    | .ok ins => slotOp ins
    | .error e => illegal e
  | none => pure ()

/-- The X, V and D halves of a bundle, in this order (R417). -/
def executeHalves (b : RunB) : M Unit := do
  executeSlot 2 b.x (b.hold.getLsbD 2)
  executeSlot 3 b.v (b.hold.getLsbD 3)
  executeSlot 4 b.d (b.hold.getLsbD 4)

/-- The bundle has issued in the execute stream: a cc has passed (R251), its selection holds (R392), an awaited outcome has come. -/
def Ctx.issuedX (x : Ctx) (b : RunB) (now : Nat) : Ctx :=
  let x := { x.endWaitX now with st.cc := x.st.cc + 1, st.run := x.st.run.tail, st.late := false, sys.sel := b.sel.getD x.sys.sel, sys.poison := if b.sel.isSome then x.sys.poison.upd 32 false else x.sys.poison, ageing := 0, st.checked := false }.nowReady now
  if x.st.await && x.st.run.isEmpty then x.resolve none else x

/-- How an attempt of the execute stream ends. -/
inductive ExecEnd where
  | catchUp
  | issued
  | frozen (w : Wait) (late : Bool)
  | trapped (t : TrapInfo)

/-- The execute stream tries its bundle; what lands in this cc lands first (R256). -/
def State.execTry (s : State) (l k c : Nat) : State × ExecEnd :=
  let s := { s with cur := { l := l, k := k, c := c } }.updCtx l k c fun x => x.landAll s.ticks
  match s.me.st.run with
  | [] => (s, .catchUp)
  | b :: _ =>
    match executeHalves b s with
    | .ok (_, t) => (t.updMe fun x => x.issuedX b s.ticks, .issued)
    | .error (.trap t) => (s, .trapped t)
    | .error (.frozen w late) => (s, .frozen w late)
    | .error (.wait w _) => (s, .frozen w false)
    | .error .idle => (s, .frozen plainWait false)

/-! One domain clock -/

/-- A frozen domain clock counts in FRZ, a late take's freeze once in LATE (R70, R251). -/
def Ctx.countFreeze (x : Ctx) (late : Bool) : Ctx :=
  { x with
    sys.frz := x.sys.frz + 1, sys.late := if late && !x.st.late then x.sys.late + 1 else x.sys.late, st.late := late || x.st.late }

/-- Readings that are due and that no event has brought are accepted (R327). -/
def State.readDue (s : State) (l k c : Nat) : Nat → State
  | 0 => s
  | n + 1 =>
    match (s.ctx l k c).dueRead, (s.ctx l k c).dueComb with
    | some p, _ => State.readDue (s.readPass l k c p 0#256) l k c n
    | none, some q => State.readDue (s.readComb l k c q false) l k c n
    | none, none => s

/-- Passes that are due land in order; one that needs a renormalisation step starts its freeze (R240, R329). -/
def State.landPasses (s : State) (l k c : Nat) : Nat → State
  | 0 => s
  | n + 1 =>
    match (s.ctx l k c).duePass with
    | none => s
    | some p =>
      let s := s.landPass l k c p
      match (s.core l k).renorm with
      | some t => s.renormStep l k c t
      | none => State.landPasses s l k c n

/-- The array's part of a clock that no fixed freeze holds. -/
def State.arrayClock (s : State) (l k c : Nat) : State :=
  let s := if (s.core l k).rerace.isSome then s.endRerace l k 0#256 else s
  let s := s.readDue l k c 140
  if (s.core l k).freeze ≠ 0 then s else s.landPasses l k c 140

/-- The two deadlocks of a catch-up freeze (R72, R250): a slot that no take can free, a queue that nothing will fill. -/
def Ctx.deadlock (x : Ctx) : Option TrapInfo :=
  match x.st.aWait with
  | some w =>
    if !x.st.run.isEmpty || x.st.atrap.isSome then none
    else if w.lsmask ≠ 0#32 ∧ w.kind = 0#8 then some { cause := 0x212, access := true, slot := 1, va := some x.st.pc }
    else if w.queue then some { cause := 0x213, access := true, slot := w.slot, va := some x.st.pc }
    else none
  | none => none

/-- The first bundle of a step issues (R214, R216). -/
def State.noteStart (s : State) (l k c : Nat) : State :=
  let x := s.ctx l k c
  if x.started.isSome || x.priv then s
  else
    let o := s.opOf l x.sys.opid
    let s := s.updCtx l k c fun x => { x with started := some s.ns }
    let s := s.updOp l x.sys.opid fun o => { o with start := some (o.start.getD s.ns) }
    s.updRegion l o.region fun r => { r with start := some (r.start.getD s.ns) }

/-- The detected fault that is taken at the boundary where the context stands, the earliest found (R417, R418). -/
def Ctx.dueTrap (x : Ctx) : Option TrapInfo := x.st.dtraps.find? fun t => decide (t.after ≤ x.st.cc)

/-- A detected fault is taken (R418): a margin fault discards what was issued after it (R328). -/
def State.takeDetected (s : State) (l k c : Nat) (t : TrapInfo) : State :=
  let x := s.ctx l k c
  let (y, u) := x.discardFrom t
  takeTrap l k c { u with access := false } (s.updCtx l k c fun _ => { y with st.dtraps := x.st.dtraps.erase t, st.atrap := x.st.keepSysc })

/-- The active context's streams in one domain clock without a fixed freeze. What lands in this cc lands first, so that the access stream
may pop it (R249, R256); the access side acts first (R359), and at a slip of 16 it issues only when the execute stream does (R248). -/
def State.streams (s : State) (l k c : Nat) : State :=
  let x := s.ctx l k c
  match x.dueTrap with
  | some t => s.takeDetected l k c t
  | none =>
    match x.st.atrap, x.st.run.isEmpty with
    | some t, true => takeTrap l k c t s
    | _, _ =>
      let s := s.updCtx l k c fun x => x.landAll s.ticks
      let full := x.st.run.length == 16
      let (s1, a) := if x.mayAccess && decide (x.st.run.length ≤ 16) then s.accessTry l k c else (s, .stalled)
      let joint := full || (a == .issued && ((s1.ctx l k c).st.run.getLast?.map (·.sync)).getD false)
      let (s2, e) := s1.execTry l k c
      match e with
      | .issued => (s2.noteStart l k c).updCore l k fun y => { y with issuing := y.issuing + 1 }
      | .trapped t => takeTrap l k c { t with access := false } ((if full then s else s2).updCtx l k c fun x => { x with st.atrap := x.st.keepSysc })
      | .frozen w late => (if joint then s else s2).updCtx l k c fun x => (x.waitX w s.ticks).countFreeze late
      | .catchUp =>
        let s2 := s2.updCtx l k c fun x => x.countFreeze false
        match (s2.ctx l k c).deadlock with
        | some t => takeTrap l k c t s2
        | none => s2

/-- Whether a context's waits would now end, were it to try (R208, R210): the state after the test counts only the waits' ends. -/
def State.retest (s : State) (l k c : Nat) : State :=
  let x := s.ctx l k c
  let aOver := x.st.aWait.isSome && (s.accessTry l k c).2 != .stalled
  let xOver := x.st.xWait.isSome && (match (s.execTry l k c).2 with | .frozen _ _ => false | _ => true)
  let charged := s.chargeTick l k c
  s.updCtx l k c fun x =>
    let x := if aOver then (x.endWaitA charged).nowReady s.ticks else x
    if xOver then (x.endWaitX charged).nowReady s.ticks else x

/-- The waits of the contexts that are not active are tested, resident or swapped out (R205, R208), and what the tokens of all wait for
(R202). -/
def State.retestOthers (s : State) (l k : Nat) : State :=
  let sent := (((s.core l k).ctxs.map (·.2)) ++ ((s.ld l).saved.filter fun v => v.2.core == k).map fun v => v.2.ctx).filter fun x => x.live && x.pending != 0
  let s := sent.foldl (fun s x => s.testTokens l x.sid) s
  let y := s.core l k
  let s := (y.ctxs.filter fun e => e.2.live && y.active != some e.1 && (e.2.st.aWait.isSome || e.2.st.xWait.isSome)).foldl (fun s e => s.retest l k e.1) s
  ((s.ld l).saved.filter fun v => v.2.core == k && (v.2.ctx.st.aWait.isSome || v.2.ctx.st.xWait.isSome)).foldl (fun s v =>
    ((s.seated l v.2).retest l k v.2.seat).unseated l v.1 v.2) s

/-- The access stream's clock while a fixed freeze holds the execute stream: within its slip, and no bundle with SYNC (R246, R248, R251). -/
def State.accessAlone (s : State) (l k c : Nat) : State :=
  if (s.ctx l k c).mayAccess && decide ((s.ctx l k c).st.run.length ≤ 15) then (s.accessTry l k c false).1 else s

/-- What lands in the cc of a context lands before anything else that the cc brings (R256, R294). -/
def State.landNow (s : State) (l k c : Nat) : State := s.updCtx l k c fun x => x.landAll s.ticks

/-- One domain clock of a core (R251). -/
def State.clock (s : State) (l k : Nat) : State :=
  let n := max ((s.core l k).clk + 1) (s.ticks / 4)
  let s := { s with ticks := max s.ticks (4 * n) }.updCore l k fun y => { y with clk := n, eccHold := y.eccHold - 1 }
  let s := s.retestOthers l k
  let s := if (s.core l k).switching = 0 then s.reschedule l k else s
  let y := s.core l k
  if y.switching ≠ 0 then s.updCore l k fun y => { y with switching := y.switching - 1, freeze := y.freeze - 1 }
  else
    match y.active with
    | none => s.updCore l k fun y => { y with freeze := y.freeze - 1 }
    | some c =>
      if !(y.ctx c).live || (y.ctx c).paused.isSome || !y.hasSet (y.ctx c) then s.updCore l k fun y => { y with freeze := y.freeze - 1 }
      else
        let s := if y.freeze = 0 then (s.landNow l k c).arrayClock l k c else s
        let s :=
          if (s.core l k).freeze ≠ 0 then
            ((s.updCore l k fun y => { y with freeze := y.freeze - 1 }).updCtx l k c fun x => x.countFreeze false).accessAlone l k c
          else s.streams l k c
        let x := s.ctx l k c
        if x.live && x.retiring == 1 && x.st.run.isEmpty && x.paused.isNone && x.dueTrap.isNone then s.beginRetire l k c else s

/-- bundleIssue (R243): one domain clock of a core. -/
def evBundleIssue (l k : Nat) : M Unit := updS fun s => s.clock l k

/-- resultLanding (R256): what lands in the active context's next cc. -/
def evResultLanding (l k : Nat) : M Unit := do
  let s ← getS
  match (s.core l k).active with
  | none => idle
  | some c =>
    let x := s.ctx l k c
    need (x.live && x.st.flight.any fun f => decide (f.land ≤ x.st.cc))
    updS fun s => s.landNow l k c

/-- A slot's data is at hand and its time has come (R70). -/
def State.slotDue (s : State) (l k c slot : Nat) : Bool :=
  let sl := (s.ctx l k c).regs.ls.getD slot {}
  sl.st == .pending && sl.here && decide (sl.due ≤ (s.core l k).clk + 1)

/-- landingSlotFill (R70), also for a context that has left its core: no arrival is missed (R71, R208). -/
def evLandingSlotFill (l k c slot : Nat) : M Unit :=
  onCtx l k c fun c => do
    let s ← getS
    need ((s.ctx l k c).live && s.slotDue l k c slot)
    updS fun s => s.updCtx l k c fun x => { x with regs.ls := x.regs.ls.modify slot fun sl => { sl with st := .arrived } }

/-- waitcTimeout (R402): the timeout elapses, and the waitc returns with bit 4 set, where the access stream may issue alone (R246, R248). -/
def evWaitcTimeout (l k c : Nat) : M Unit := do
  let s ← getS
  let x := s.ctx l k c
  match x.waitc with
  | none => idle
  | some w => do
    let y := s.core l k
    need (x.mayAccess && y.active == some c && y.calRun == 0 && y.switching == 0)
    updS fun s => { s with ticks := max s.ticks w.ends }.accessAlone l k c

/-- fenceComplete (R178): the condition is met and the access stream passes at its next try. -/
def evFenceComplete (l k c : Nat) : M Unit := do
  let s ← getS
  let x := s.ctx l k c
  match x.fence with
  | none => idle
  | some kind => do
    need (x.live && s.fenceMet l k c kind)
    updS fun s => s.updCtx l k c fun x => { x.endWaitA (s.chargeTick l k c) with fence := none }.nowReady s.ticks

/-- The wait for a claim of each stream ends (R78, R210); a wait for something else stands. -/
def Ctx.endClaimWaits (x : Ctx) (charged : Nat) : Ctx :=
  let claims (w : Wait) : Bool := w.plwait != 0#4 || w.accwait != 0#4
  let x := if x.st.aWait.any claims then x.endWaitA charged else x
  if x.st.xWait.any claims then x.endWaitX charged else x

/-- claimGrant (R77, R78): an object that has become free is reserved for the waiting claimant of highest effective priority, then for the
earliest. -/
def evClaimGrant (l k : Nat) (tile : Bool) (n : Nat) : M Unit := do
  let s ← getS
  let c := (s.core l k).claim tile n
  match s.claimants l k c with
  | [] => idle
  | first :: others => do
    need (c.st == .free)
    let e := others.foldl (fun b q => if claimsBefore s.ticks b.2 q.2 then b else q) first
    updS fun s =>
      let s := s.updCore l k fun y => y.setClaim tile n fun c =>
        { c with st := .reserved, owner := e.2.sid, readers := 0, faulted := 0, again := 0, waiting := c.waiting.filter (· != e.2.sid) }
      s.updCtx l k e.1 fun x => { x.endClaimWaits (s.chargeTick l k e.1) with claimWait := none }.nowReady s.ticks

end Sys2Proof.Machine
end

