-- ==== Sys2Proof/Machine/Steps.lean ====
section
/-! DEFINITION. Steps from release to retirement (R143, R166 to R169, R199 to R214, R396 to R408, R429 to R434): publications, shadow
exchanges, tokens, walkers, budgets, swaps. -/

namespace Sys2Proof.Machine

/-- A wait of the access stream has its condition met: it ends and is charged (R210). -/
def Ctx.metA (x : Ctx) (charged now : Nat) : Ctx := (x.endWaitA charged).nowReady now

/-! Publications (R166, R169) -/

/-- publicationComplete (R166): the step's stores, atomics and copies to homes in reach are performed, and the homes record the publication. -/
def evPublicationComplete (l k c : Nat) : M Unit :=
  onCtx l k c fun c => do
    let s ← getS
    let x := s.ctx l k c
    match x.pubReq with
    | none => idle
    | some sc => do
      need (x.live && decide (sc < 8) && !x.pubDone && !s.copying l k x.sid (fun h _ => scopeReach l sc h) && !s.storesDue l k c (fun h _ => scopeReach l sc h) &&
        !s.hasRequests l x.sid fun r => r.atom.isSome && scopeReach l sc r.home)
      updS fun s => (s.publish l k c fun h _ => scopeReach l sc h).updCtx l k c fun x =>
        { x.metA (s.chargeTick l k c) s.ticks with pubDone := true }

/-- A BIE's record after the exchange (R47): LIVE and SHADOW change places, state 1, `epoch` over what stands in EPOCH (R45). -/
def bieExchanged (r epoch : Nat) : Nat :=
  put (bits r 80 36) 16 36 ||| put (bits r 16 36) 80 36 ||| put (bits r 128 20) 128 20 ||| put epoch 160 32 ||| put 1 192 8 ||| put (bits r 216 8) 216 8

/-- The bytes of a BIE's shadow image, at its home `l` (R45). -/
def inShadow (l r h a : Nat) : Bool :=
  h == l && decide (65536 * bieShadow r ≤ a) && decide (a < 65536 * (bieShadow r + biePages r))

/-- A BIE exchanges its images (R46, R47): the epoch counts on, the owner's resolution goes, and a step that has fixed its image of the home
and not yet resolved the BIE resolves what that image holds of it. -/
def State.exchangeBie (s : State) (l k c i : Nat) : State :=
  let r := (s.ld l).bie i
  let key := bieKey l i
  let old := (bieLive r, (s.ld l).epoch i)
  let epoch := ((s.ld l).epoch i + 1) % 2 ^ 32
  let sid := (s.ctx l k c).sid
  let s := s.mapViews fun x =>
    if (mget x.snap l).isSome && (mget x.bies key).isNone && (mget x.oldBies key).isNone then { x with oldBies := mput x.oldBies key old } else x
  let s := s.updLd l fun x => { x with epochs := mput x.epochs i epoch }
  let s := s.pokeLd l ((s.ld l).bieAddr i) (natLe 32 (bieExchanged r epoch))
  let s := s.updCore l k fun y => { y with queue := y.queue.map fun q => if q.sid = sid then { q with view := { q.view with oldBies := mdel q.view.oldBies key } } else q }
  s.updCtx l k c fun x => { x with openBies := x.openBies.upd i false, bies := mdel x.bies key, oldBies := mdel x.oldBies key }

/-- The step's stores to a shadow image are published there, and no other (R169). -/
def State.publishShadow (s : State) (l k c r : Nat) : State :=
  let s := s.fixBefore l (s.ctx l k c).sid [l]
  let mine := (mgetD (s.ctx l k c).own l []).filter fun e => !e.2.pub && inShadow l r l e.1
  (s.publishHome l mine).updCtx l k c fun x =>
    { x with own := x.own.map fun p => if p.1 = l then (p.1, p.2.map fun e => if inShadow l r l e.1 then (e.1, { e.2 with pub := true }) else e) else p }

/-- shpubExchange (R47, R169): the shadow image is published and the images exchange in one update. -/
def evShpubExchange (l k c : Nat) : M Unit :=
  onCtx l k c fun c => do
    let s ← getS
    let x := s.ctx l k c
    match x.pubReq with
    | none => idle
    | some n => do
      let i := n - 8
      let r := (s.ld l).bie i
      need (x.live && decide (8 ≤ n) && !x.pubDone && x.openBies.has i && bieState r == 2 && !s.copying l k x.sid (inShadow l r) && s.linesFree l ((s.ld l).bieAddr i) 32 && !s.commitHolds l ((s.ld l).bieAddr i) 32 && !s.storesDue l k c (inShadow l r) &&
        !s.hasRequests l x.sid fun q => q.atom.isSome && inShadow l r q.home q.addr)
      updS fun s => ((s.publishShadow l k c r).exchangeBie l k c i).updCtx l k c fun y =>
        { y.metA (s.chargeTick l k c) s.ticks with pubDone := true }

/-- shopenGrant (R47): no older-epoch reader remains and the BIE is idle. -/
def evShopenGrant (l k c : Nat) : M Unit := do
  let s ← getS
  let x := s.ctx l k c
  match x.shWait with
  | none => idle
  | some i => do
    need (x.live && bieState ((s.ld l).bie i) == 1 && !s.oldReader l i && !s.commitHolds l ((s.ld l).bieAddr i) 32 && s.linesFree l ((s.ld l).bieAddr i) 32)
    updS fun s => (s.openBie l k c i).updCtx l k c fun x => x.metA (s.chargeTick l k c) s.ticks

/-! Tokens (R396 to R399) -/

/-- A token of a step is accepted or refused: it is pending no more, and its wait has ended. -/
def State.tokenSettled (s : State) (t : Token) : State := (s.updStep t.src t.sid fun x => { x with pending := x.pending - 1 }).testTokens t.src t.sid

/-- The checks of R396 on a token at its receiving die. -/
def State.tokenOk (s : State) (l : Nat) (t : Token) : Bool :=
  let o := s.opOf l t.opid
  let e := o.inport t.port
  let pa := s.parish l o.parish
  (mget (s.ld l).ops t.opid).isSome && !o.killed && !(s.ld l).out && portV e && portYard e == t.dyard &&
  (t.src == l || (pa.memberDies.contains t.src && s.authOk l t.src (if t.local_ then none else some (t.expidx, t.gen)))) &&
  pa.home == t.home && pa.hpar == t.hpar &&
  (if portRing e then decide (t.payload.length ≤ ringStage (BitVec.ofNat 64 (o.iring t.port))) else t.payload.isEmpty)

/-- tokenArrival (R396 to R398): checked against the consumer's port; a signal lands and is consumed in one batch. -/
def evTokenArrival (l : Nat) : M Unit := do
  let s ← getS
  match (s.ld l).tokIn.find? fun t => t.way.isNone with
  | none => idle
  | some t =>
    updS fun s =>
      let s := s.updLd l fun x => { x with tokIn := x.tokIn.erase t }
      let o := s.opOf l t.opid
      if !s.tokenOk l t then s.refuseToken t
      else if portRing (o.inport t.port) then (s.updLd l fun x => { x with tokWait := x.tokWait ++ [{ t with at_ := s.ticks }] }).testTokens t.src t.sid
      else (s.countAt l o.parish t.dyard t.stamp.toNat (-1)).tokenSettled t

/-- Acceptance is possible: a free hod, a ring that is unbound or bound to the token's ordinal. -/
def State.tokenFits (s : State) (l : Nat) (t : Token) : Bool :=
  match s.tokenRing l t with
  | none => false
  | some (k, r) =>
    let g := mgetD (s.core l k).rings r {}
    let o := s.opOf l t.opid
    decide (1 ≤ g.free) && (o.pmode == 2 || g.bound.all (· == o.ord t.stamp.toNat))

/-- Two tokens of one step to one port keep their order (R399). -/
def Token.samePath (a b : Token) : Bool := a.src == b.src && a.sid == b.sid && a.opid == b.opid && a.port == b.port

/-- The first waiting token that may be accepted, with the ones before it looked at. -/
def State.nextToken (s : State) (l : Nat) : List Token → List Token → Option Token
  | _, [] => none
  | seen, t :: r => if s.tokenFits l t && !(seen.any t.samePath) then some t else State.nextToken s l (seen ++ [t]) r

/-- tokenAcceptance (R396, R202): a hod is reserved, the tag set, and the hod's sectors go on their way. -/
def evTokenAcceptance (l : Nat) : M Unit := do
  let s ← getS
  match s.nextToken l [] (s.ld l).tokWait with
  | none => idle
  | some t =>
    match s.tokenRing l t with
    | none => idle
    | some (k, r) =>
      updS fun s =>
        let o := s.opOf l t.opid
        let g := mgetD (s.core l k).rings r {}
        let tag : Tag := { parish := o.parish, yard := o.yard, stamp := t.stamp, port := t.dyard }
        let g' := { g with
          wp := g.hod g.wp 1, used := g.used + 1, tags := mput g.tags g.wp tag
          bound := if o.pmode = 2 then none else some (o.ord t.stamp.toNat) }
        let z := ringStage g.cfg
        let bytes := (List.range z).map fun i => (t.payload.getD i 0#8, t.bad.contains (i / 4) && decide (i < t.payload.length))
        let sectors : List Landing := (List.range (z / 32)).map fun q =>
          { core := k, ring := r, hod := g.wp, sector := q,
            bytes := ((bytes.drop (32 * q)).take 32).zipIdx.map fun b => { core := some k, addr := bytePlace 0 (g.offset g.wp + 32 * q + b.2), val := b.1.1, bad := b.1.2 } }
        let s := s.updCore l k fun y => { y with rings := mput y.rings r g' }
        let s := s.updLd l fun x => { x with tokWait := x.tokWait.erase t, landing := x.landing ++ sectors }
        s.tokenSettled t

/-- tokenRefusal (R398): the sender's die sends the −1, the step gets engine fault 0x285; a retiring step only has its record (R408). -/
def evTokenRefusal (l : Nat) : M Unit := do
  let s ← getS
  let paused (t : Token) : Bool := (s.stepOf l t.sid).any fun x => x.paused.isSome
  match (s.ld l).tokBack.find? fun t => !paused t with
  | none => idle
  | some t =>
    updS fun s =>
      let s := (s.updLd l fun x => { x with tokBack := x.tokBack.erase t }).countAt l t.parish t.dyard t.stamp.toNat (-1)
      let s := s.tokenSettled t
      let hi := engineHalf t.route.toNat 0 0 7 0 t.stamp.toNat
      match (s.ld l).findStep t.sid with
      | none => s
      | some (p, k, x) =>
        if x.retiring ≠ 0 then
          let s := s.countFault l x.sys.opid 0x285
          s.queueRecord l 0 (faultRecord s.ns (dieOf l) {
            stamp := x.sys.stamp.toNat, trapb := x.st.pc, opid := x.sys.opid, core := k, ctx := p.ctxNo, kind := 2, act := 3, cause := 0x285 } hi)
        else s.engineFault l t.sid 0x285 hi

/-! Retirement (R408, R167) -/

/-- No step of a package runs. -/
def State.stepsGone (s : State) (p : Nat) : Bool := (List.range 8).all fun d => (s.ld (ldNo p d)).steps.isEmpty
/-- The last step of a package is gone: the envelope starts to fall (R459). -/
def State.noteIdle (s : State) (l : Nat) : State :=
  if s.stepsGone (pkgOf l) then s.updPkg (pkgOf l) fun p => { p with idleAt := some (p.idleAt.getD s.ticks) } else s

/-- The stores of copies that are still writing stay with their commands (R167). -/
def State.leaveCopies (s : State) (l k : Nat) (x : Ctx) : State :=
  s.updCore l k fun y =>
    { y with queue := y.queue.map fun q =>
      if q.sid = x.sid then { q with left := x.own.map fun p => (p.1, p.2.filter fun e => e.2.copy == some q.id && !e.2.pub) } else q }

/-- retirementComplete (R408): every pending token settled, the stores and atomics performed and published, the retirement batch sent. -/
def evRetirementComplete (l k c : Nat) : M Unit := do
  let s ← getS
  let x := s.ctx l k c
  need (x.live && x.paused.isNone && x.retiring == 2 && x.pending == 0 && !s.storesDue l k c (fun _ _ => true) && !s.hasRequests l x.sid fun r => r.atom.isSome)
  updS fun s =>
    let writing (o : Own) : Bool := match o.copy with
      | some id => (s.core l k).queue.any fun q => q.id == id
      | none => false
    let s := s.publish l k c fun _ o => !writing o
    let x := s.ctx l k c
    let s := s.leaveCopies l k x
    let o := s.opOf l x.sys.opid
    let s := s.updCore l k fun y =>
      allObjects.foldl (fun y ob => y.setClaim ob.1 ob.2 fun q =>
        let q := { q with waiting := q.waiting.filter (· != x.sid) }
        if q.owner != x.sid then q
        else if q.st == .held then { q with again := 0 }.released
        else if q.st == .reserved then q.drop
        else { q with again := 0 }) y
    let s := x.openBies.foldl (fun s b => s.closeBie l b.1) s
    let (core, tags) := (s.core l k).resetPorts ((s.core l k).stepPorts o x.sys.opid x.sys.stamp.toNat)
    let s := (s.updCore l k fun _ => { core with active := if core.active = some c then none else core.active }).leaveAlloc l k x
    let s := s.countRecs l o.parish
      ((o.outYards.map fun y => (y, x.sys.stamp.toNat, (-1 : Int))) ++ (x.caps.map fun p => (p.1, p.2, (-1 : Int))) ++ tags)
    let s := s.updOp l x.sys.opid fun o => { o with steps := (o.steps + 1) % 2 ^ 32, running := o.running - 1 }
    let s := s.updRegion l o.region fun r => { r with steps := (r.steps + 1) % 2 ^ 32 }
    let s := if (s.core l k).cbOwner == some (x.sys.opid, x.sid + 1) then s.updCore l k fun y => { y with cbOwner := none } else s
    (s.updCtx l k c fun _ => {}).noteIdle l

/-- An allocation of a finished step that nothing writes any more (R408, R425). -/
def State.freeable (s : State) (l k : Nat) (a : Alloc) : Bool :=
  let writes (q : Cmd) : Bool := q.sid == a.sid || q.ring.any fun r => r.1 == k && a.rings.contains r.2
  a.freeing && !((s.ld l).cores.any fun y => y.2.queue.any writes) && !((s.ld l).saved.any fun v => v.2.cmds.any writes) &&
  !((s.ld l).landing.any fun w => w.core == k && a.rings.contains w.ring)

/-- scratchpadAllocationFree (R408). -/
def evScratchpadAllocationFree (l k : Nat) : M Unit := do
  let s ← getS
  match (s.core l k).allocs.find? (s.freeable l k) with
  | none => idle
  | some a => updS fun s => s.updCore l k fun y => { y with allocs := y.allocs.erase a, rings := y.rings.filter fun r => !a.rings.contains r.1 }

/-! Walkers (R199 to R204) -/

/-- The regions from `r` to the top (R193); a PARENT of 0 makes a top region (R191). -/
def Ld.chain (x : Ld) : Nat → Nat → List Nat
  | 0, _ => []
  | n + 1, r =>
    let up := (mgetD x.regions r {}).parent
    r :: if up = 0 then [] else Ld.chain x n up

/-- Bytes allocated on a core that count against a region: its own and its descendants' (R193). -/
def State.spadUsed (s : State) (l k r : Nat) : Nat :=
  (s.core l k).allocs.foldl (fun n a => if (s.ld l).under r 8 (s.opOf l a.opid).region then n + a.len else n) 0

/-- `len` more bytes on a core stay within the budgets of a region and its ancestors (R193). -/
def State.spadFits (s : State) (l k region len : Nat) : Bool :=
  ((s.ld l).chain 8 region).all fun r => decide (s.spadUsed l k r + len ≤ 1024 * (mgetD (s.ld l).regions r {}).fld 128 16)

/-- The lowest offset at which an allocation lies clear of all others (R204). -/
def Core.allocAt (x : Core) (len : Nat) : Option Nat :=
  let cands := sortBy (fun a b => decide (a ≤ b)) (0 :: x.allocs.map fun a => (a.off + a.len + 63) / 64 * 64)
  cands.find? fun o => decide (o + len ≤ spadEnd) && x.allocs.all fun a => decide (o + len ≤ a.off) || decide (a.off + a.len ≤ o)

/-- The contexts of a core that a step may take; filler races give theirs up (R209, R459). -/
def Core.freeCtxs (x : Core) : List Nat := (List.range 4).filter fun c => !(x.ctx c).live || (x.filler && (x.ctx c).priv)
def Core.hasFree (x : Core) : Bool := !x.freeCtxs.isEmpty

/-- The timed region that has reserved a core (R212). -/
def Ld.reservedBy (x : Ld) (k : Nat) : Option Nat :=
  (x.regions.find? fun r => bit r.2.rcb.toNat 234 && !r.2.complete && bit r.2.reserved k).map (·.1)

/-- A core may take a step of a region now: a free context, and its reservation allows it (R200, R212). -/
def State.coreTakes (s : State) (l k region : Nat) : Bool :=
  let y := s.core l k
  y.hasFree &&
  (match (s.ld l).reservedBy k with
   | some r => r == region && !(y.ctxs.any fun e => e.2.live && !e.2.priv)
   | none => true)

/-- Every slot ring that a static step uses is free or bound to it (R200, R202). -/
def State.ringsReady (s : State) (l k opid : Nat) (o : Op) (t : Nat) : Bool :=
  o.pmode != 0 || ((s.core l k).stepPorts o opid t).all fun p => (mgetD (s.core l k).rings p.ring {}).bound.all (· == o.ord t)

/-- The curfews at the input ports allow the stamp (R200). -/
def State.curfewsAllow (s : State) (l : Nat) (o : Op) (t : Nat) : Bool :=
  o.pmode == 2 || (List.range 4).all fun p =>
    !portV (o.inport p) || decide (sumApply (portSum (o.inport p)) t < (s.parish l o.parish).curfew (portYard (o.inport p)))

/-- The core on which a step may be released now, if any (R200, R201); a re-run waits for the calibration that a margin fault has asked for
on its core (R328). -/
def State.releaseCore (s : State) (l opid : Nat) (o : Op) (t k : Nat) (again : Bool) : Option Nat :=
  let r := s.regionOf l opid
  let fits (k : Nat) : Bool := !(again && (s.core l k).calReq) && s.coreTakes l k o.region && s.spadFits l k o.region (64 * o.spstep) && (o.spstep == 0 || ((s.core l k).allocAt (64 * o.spstep)).isSome)
  if o.pmode = 1 then
    ((setBits r.mask 48).filter fits).foldl (fun (b : Option Nat) k =>
      match b with
      | none => some k
      | some j => if (s.core l j).freeCtxs.length < (s.core l k).freeCtxs.length then some k else some j) none
  else if fits k && s.ringsReady l k opid o t then some k
  else none

/-- What an operator would release next: stamp, core it is placed on, and which of its lists it comes from (0 the nest, 1 a re-run,
2 a resident λ). -/
def State.candidate (s : State) (l opid : Nat) : Option (Nat × Nat × Nat) :=
  let o := s.opOf l opid
  let r := s.regionOf l opid
  match o.reruns, o.resident, o.next with
  | (t, k) :: _, _, _ => some (t, k, 1)
  | [], lam :: _, _ => some (o.firstStamp, nthBit r.mask lam, 2)
  | [], [], some t => some (t, o.coreOf r t, 0)
  | [], [], none => none

/-- The release that an operator is ready for (R200): stamp, core, list. -/
def State.releasable (s : State) (l opid : Nat) : Option (Nat × Nat × Nat) :=
  let o := s.opOf l opid
  let x := s.ld l
  if o.killed || x.out || !(s.parish l o.parish).enabled || (s.parish (s.parish l o.parish).home (s.parish l o.parish).hpar).full then none
  else
    match s.candidate l opid with
    | none => none
    | some (t, k, src) => if s.curfewsAllow l o t then (s.releaseCore l opid o t k (src == 1)).map fun k => (t, k, src) else none

/-- The limiter holds releases, but never those of a timed region (R458). -/
def State.heldBack (s : State) (l opid : Nat) : Bool := (s.pkg (pkgOf l)).holding && !bit (s.regionOf l opid).rcb.toNat 234

/-- The operator that a walker serves next (R199): the highest PRI, then the one served longest ago. With `limit` the holds of the
power limiter count (R458). -/
def State.walkerPick (s : State) (l w : Nat) (limit : Bool) : Option (Nat × Nat × Nat × Nat) :=
  let mine := (s.ld l).ops.filter fun o => o.1 / 256 == w && !(limit && s.heldBack l o.1)
  let prio (opid : Nat) : Nat := (s.regionOf l opid).fld 224 4
  (mine.filterMap fun o => (s.releasable l o.1).map fun r => (o.1, r)).foldl (fun (b : Option (Nat × Nat × Nat × Nat)) r =>
    match b with
    | none => some r
    | some a =>
      if prio a.1 < prio r.1 ∨ (prio a.1 = prio r.1 ∧ (s.opOf l r.1).served < (s.opOf l a.1).served) then some r else some a) none

/-- An output ring's configuration moved to the step's allocation (R196, R204). -/
def rebased (cfg a0 : Nat) : BitVec 64 := BitVec.ofNat 64 (cfg - put (bits cfg 6 16) 6 16 + put (bits cfg 6 16 + a0 / 64) 6 16)

/-- A valid register. -/
def regOf (v : Nat) : Reg := { val := BitVec.ofNat 64 v, valid := true }

/-- The context of a step at its start (R204). -/
def startCtx (l k c sid opid t a0 now : Nat) (o : Op) (r : Region) (rh : List (Option Nat)) : Ctx :=
  let k7 := put (dieOf l) 12 4 ||| put c 8 2 ||| put k 0 6
  let ks := [comp t 0, comp t 1, comp t 2, comp t 3, t, o.va, o.tileOf t, k7]
  { live := true, sid := sid, eff := r.eff, opb := o.opb, residAt := now, readyAt := now, agedAt := now
    regs := {
      k := ks.map regOf ++ List.replicate 8 {}
      a := [regOf a0, regOf o.va, regOf (o.tileOf t)] ++ List.replicate 12 {}
      rh := rh }
    sys := {
      stepId := BitVec.ofNat 64 sid, opid := opid, stamp := BitVec.ofNat 64 t, core := BitVec.ofNat 16 k7, sel := BitVec.ofNat 12 (o.fld 784 16) }
    st := { pc := o.entry % 2 ^ 64 } }

/-- A step starts on a core (R204): its allocation, its rings, its context. -/
def State.startStep (s : State) (l k opid t : Nat) : State :=
  let o := s.opOf l opid
  let y := s.core l k
  let c := y.freeCtxs.headD 0
  let sid := (s.ld l).nextSid + 1
  let len := 64 * o.spstep
  let a0 := if len = 0 then 0 else (y.allocAt len).getD 0
  let ports := y.stepPorts o opid t
  let ins := (List.range 4).map fun p => (ports.find? fun q => q.port == p).map (·.ring)
  let base := y.newRing
  let outs := (List.range 4).map fun m => if portV (o.oport m) && portRing (o.oport m) then some (base + m) else none
  let own := outs.filterMap id
  let s := s.updLd l fun x => { x with nextSid := sid }
  let s := s.updCore l k fun y =>
    let y := y.stopFiller
    let rings := ports.foldl (fun (m : Smap Ring) p => if o.pmode = 0 then mput m p.ring { mgetD m p.ring {} with bound := some (o.ord t) } else m) y.rings
    let rings := own.foldl (fun (m : Smap Ring) r => mput m r { cfg := rebased (o.oring (r - base)) a0 }) rings
    { y with rings := rings, allocs := if len = 0 then y.allocs else y.allocs ++ [{ off := a0, len := len, sid := sid, opid := opid, rings := own }] }
  let s := s.updCtx l k c fun _ => startCtx l k c sid opid t a0 s.ticks o (s.regionOf l opid) (ins ++ outs ++ List.replicate 8 none)
  let s := s.updPkg (pkgOf l) fun p => { p with idleAt := none, floorAt := none, floorDone := false }
  s.updOp l opid fun o => { o with running := o.running + 1, served := s.ticks * 2 ^ 20 + sid }

/-- The Resumes of a discarded step are done once it is released again (R189, R434). -/
def State.rerunDone (s : State) (l opid t : Nat) : State :=
  let done := (s.opOf l opid).resumed.filter fun r => r.1 == t
  let s := s.updOp l opid fun o => { o with resumed := o.resumed.filter fun r => r.1 != t }
  done.foldl (fun s r => s.complete l r.2 1 0 s.ns 0 0) s

/-- The counts and the frontier's move at a release (R143, R199, R201). -/
def State.releaseStep (s : State) (l opid t k src : Nat) : State :=
  let o := s.opOf l opid
  let plus := o.outYards.map fun y => (y, t, (1 : Int))
  let s := s.startStep l k opid t
  match src with
  | 1 => (s.updOp l opid fun o => { o with reruns := o.reruns.tail }).rerunDone l opid t
  | 2 =>
    let s := s.countRecs l o.parish (plus ++ if o.resident.length = 1 then [(o.yard, t, (-1 : Int))] else [])
    s.updOp l opid fun o => { o with resident := o.resident.tail, next := if o.resident.length = 1 then none else o.next }
  | _ =>
    let n := o.nextStamp t
    let s := s.countRecs l o.parish (plus ++ (match n with | some t' => [(o.yard, t', (1 : Int))] | none => []) ++ [(o.yard, t, (-1 : Int))])
    s.updOp l opid fun o => { o with next := n }

/-- A package is quiet after at least 100 µs with no step running (R459). -/
def Pkg.isQuiet (p : Pkg) (now : Nat) : Bool := p.quiet || p.idleAt.any fun t => decide (t + 700000 ≤ now)

/-- stepRelease (R200): a walker emits the step it serves next. After a quiet interval the first release waits for STAGOFF, and the
wait is counted from the moment at which a step could be released (R459). -/
def evStepRelease (l w : Nat) : M Unit := do
  let s ← getS
  let p := s.pkg (pkgOf l)
  if p.isQuiet s.ticks then do
    need (p.stagAt.isNone && (s.walkerPick l w false).isSome)
    updS fun s => s.updPkg (pkgOf l) fun p => { p with quiet := true, stagAt := some s.ticks }
  else
    match s.walkerPick l w true with
    | none => idle
    | some (opid, t, k, src) => updS fun s => s.releaseStep l opid t k src

/-! Budgets (R210, R214) -/

/-- What the context waits for, both streams together (R211). -/
def Ctx.waits (x : Ctx) : Wait :=
  let a := x.st.aWait.getD { budget := false }
  let b := x.st.xWait.getD { budget := false }
  { a with
    kind := a.kind ||| b.kind, lsmask := a.lsmask ||| b.lsmask, plwait := a.plwait ||| b.plwait, accwait := a.accwait ||| b.accwait
    rhmask := a.rhmask ||| b.rhmask, cbwait := a.cbwait ||| b.cbwait }

/-- The tick at which the charge passes WAITB (R210): it has passed, or runs now. -/
def Ctx.budgetEnd (x : Ctx) : Option Nat :=
  let lim := 70 * x.waitBudget + 70
  if x.waitBudget = 0 ∨ x.priv then none
  else if lim ≤ x.charge then some 0
  else x.waitFrom.map fun t => t + (lim - x.charge)

/-- The step's waiting budget is spent (R210): its waits end, and it is paused with 0x2C6 whatever the policy, with the
synchronisation snapshot of its waits (R211). WAITED is the charge with the interval that runs; no KIND bit stands for a token's wait for a ring
bound to another ordinal (log entry 117). -/
def State.spendBudget (s : State) (l k : Nat) (p : Place) (sid : Nat) (waits : Wait) : State :=
  match s.stepOf l sid with
  | none => s
  | some x =>
    let now := s.chargeAt l sid
    let waited := x.charge + (x.waitFrom.map fun t => now - t).getD 0
    let y := { x.endWaits now with st.checked := false }
    let va := ((y.st.run.head?).map (·.va)).getD y.st.pc
    (s.updStep l sid fun _ => y).faultStep l p k y 3 0x2C6 0 (waitHalf waits (waited / 70)) false va { cause := 0x2C6, kind := 3, va := some va }

/-- waitingBudgetExhausted (R210): contexts 0 to 3 of a core, or (from 4 up) the step of save slot c - 4, swapped out from core k. The
time of a calibration and of an interleave commit is charged to no budget (R114, R344). -/
def evWaitingBudgetExhausted (l k c : Nat) : M Unit := do
  let s ← getS
  if c < 4 then
    let x := s.ctx l k c
    match x.budgetEnd with
    | none => idle
    | some t => do
      need (x.live && x.paused.isNone && ((s.core l k).calFrom.all fun u => decide (t ≤ u)) && (s.heldFrom l x).all fun u => decide (t ≤ u))
      updS fun s => ({ s with ticks := max s.ticks t }.finishReads l k c).spendBudget l k (.at_ k c) x.sid x.waits
  else
    match mget (s.ld l).saved (c - 4) with
    | none => idle
    | some v =>
      match v.ctx.budgetEnd with
      | none => idle
      | some t => do
        need (v.ctx.paused.isNone && v.core == k && (!v.cal || (s.core l k).calFrom.all fun u => decide (t ≤ u)) && (s.heldFrom l v.ctx).all fun u => decide (t ≤ u))
        updS fun s => { s with ticks := max s.ticks t }.spendBudget l k (.slot (c - 4)) v.ctx.sid v.ctx.waits

/-- The tick at which a step's time reaches TBOUND (R214). -/
def Ctx.boundEnd (x : Ctx) : Option Nat :=
  if x.op.tbound = 0 ∨ x.overrun ∨ x.priv then none else x.started.map fun t => 7 * (t + x.op.tbound + x.held)

/-- stepTimeBoundOverrun (R214): 0x2C5 at the next bundle boundary, resident or swapped out. A step that is not the active one, and not paused,
stands at a boundary. -/
def evStepTimeBoundOverrun (l k c : Nat) : M Unit :=
  onCtx l k c fun c => do
    let s ← getS
    let x := s.ctx l k c
    match x.boundEnd with
    | none => idle
    | some t => do
      need (x.live && (c == 4 || (s.core l k).calRun == 0))
      updS fun s =>
        let u : TrapInfo := { cause := 0x2C5, kind := 1 }
        let s := { s with ticks := max s.ticks t }.updCtx l k c fun x => { x.later u with overrun := true }
        if x.paused.isSome || (s.core l k).active == some c then s else s.takeDetected l k c u

/-! Swaps (R208, R429 to R434) -/

/-- A save slot that is free (R430). -/
def Ld.freeSlot (x : Ld) : Option Nat := (List.range (bits x.regs.ctxn.toNat 0 16)).find? fun n => (mget x.saved n).isNone

/-- The step holds an object, or it is reserved for it (R77). -/
def Claim.heldBy (c : Claim) (sid : Nat) : Bool := c.owner == sid && (c.st == .held || c.st == .reserved)

/-- A command leaves with its context (R131, R389): what it has written counts, and the rest of its chunk is read again (R132). -/
def Cmd.leave (q : Cmd) : Cmd := { q with issued := q.smask, chunk := none, input := none, started := false }

/-- A context leaves for its save slot (R429 to R431, R78, R389): what the array measures is finished, held objects go along with what is
reserved, its place among claimants stays, accepted copies stop where they stand. -/
def State.swapOut (s : State) (l k c : Nat) : State :=
  match (s.ld l).freeSlot with
  | none => s
  | some n =>
    let s := s.finishReads l k c
    let s := ((s.core l k).queue.filter fun q => q.sid == (s.ctx l k c).sid).foldl (fun s q => s.flushTail l k q) s
    let y := s.core l k
    let x := y.ctx c
    let mine (ob : Bool × Nat) : Bool := (y.claim ob.1 ob.2).heldBy x.sid
    let planes := ((List.range 4).filter fun i => mine (false, i)).map fun i => (i, y.planes.getD i {})
    let tiles := ((List.range 4).filter fun i => mine (true, i)).map fun i => (i, y.tiles.getD i {})
    let priv := y.cbOwner == some (x.sys.opid, x.sid + 1)
    let v : Saved := {
      ctx := { x with banks := if priv then some y.banks else x.banks }, core := k, planes := planes, tiles := tiles,
      cmds := (y.queue.filter fun q => q.sid == x.sid).map Cmd.leave }
    let s := s.updCore l k fun y =>
      let y := allObjects.foldl (fun y ob => y.setClaim ob.1 ob.2 fun q => if q.heldBy x.sid then q.drop else q) y
      { y with
        queue := y.queue.filter fun q => q.sid != x.sid
        active := if y.active = some c then none else y.active
        cbOwner := if priv then none else y.cbOwner }
    let v := { v with text := v.textOf y.rings }
    let s := s.saveImage l n v
    let s := s.updLd l fun z => { z with saved := mput z.saved n v }
    s.updCtx l k c fun _ => {}

/-- A context leaves its core: a restartable step is discarded instead (R434). -/
def State.leaveCore (s : State) (l k c : Nat) : State :=
  let x := s.ctx l k c
  if x.op.restart && x.paused.isNone then s.discardStep l (.at_ k c) k x true else s.swapOut l k c

/-- A context may leave its core: a slot is free and no commit holds it (R114), or the step is discarded; the blocks that its copies have
issued are written (R131). Its codebook commands and rldw locks end first, since the exchange that may follow waits for them (R105, log
entry 115). -/
def State.mayLeave (s : State) (l k c : Nat) : Bool :=
  let x := s.ctx l k c
  x.live && !x.priv && (((s.ld l).freeSlot.any fun n => !s.commitHolds l ((s.ld l).slotAt n) (2 ^ 20)) || (x.op.restart && x.paused.isNone)) &&
  !(x.loads.any fun v => v.bank.isSome) && (s.core l k).queue.all fun q => q.sid != x.sid || ((s.ld l).settled q.id && !q.onSet)

/-- A context may come back to a core (R208): it is ready, or it only waits for the end of its retirement (R408). -/
def Ctx.mayReturn (x : Ctx) : Bool := x.ready || (x.live && x.paused.isNone && x.retiring == 2)

/-- The objects that a saved context holds are free on a core (R78). -/
def Saved.objectsFree (v : Saved) (y : Core) : Bool :=
  v.planes.all (fun p => (y.claim false p.1).st == .free) && v.tiles.all fun p => (y.claim true p.1).st == .free

/-- A saved context may return to a core (R208, R432): its own, or for a dynamic step any permitted one; with a context free there, and
what it holds. -/
def State.returnsTo (s : State) (l k : Nat) (v : Saved) : Bool :=
  let o := s.opOf l v.ctx.sys.opid
  v.ctx.mayReturn && (v.core == k || (o.pmode == 1 && bit (s.regionOf l v.ctx.sys.opid).mask k)) && s.coreTakes l k o.region && v.objectsFree (s.core l k)

/-- The core that a saved context returns to now: its own before another (R208). -/
def State.returnCore (s : State) (l : Nat) (v : Saved) : Option Nat := (v.core :: List.range 48).find? fun k => s.returnsTo l k v

/-- A core as it would be with one of its steps' contexts free. -/
def Core.oneFree (y : Core) : Core :=
  match y.ctxs.find? fun e => e.2.live && !e.2.priv with
  | some e => { y with ctxs := y.ctxs.filter fun f => f.1 != e.1 }
  | none => { y with ctxs := y.ctxs.filter fun f => f.1 != 3 }

/-- Steps that want a context of a core with none free: base priorities of what a walker would release there but for a free context, and of ready
saved contexts that may return there (R208). -/
def State.wanting (s : State) (l k : Nat) : List Nat :=
  if (s.core l k).hasFree then []
  else
    let freed := s.updCore l k Core.oneFree
    (((s.ld l).ops.filter fun o => (s.releasable l o.1).isNone).filterMap fun o => (freed.releasable l o.1).bind fun r => if r.2.1 = k then some ((s.regionOf l o.1).fld 224 4) else none) ++
    ((s.ld l).saved.filter fun v => freed.returnsTo l k v.2).map fun v => v.2.ctx.pri

/-- The victim of a displacement (R208): lowest base priority, then resident last. -/
def Core.victim (x : Core) : Option (Nat × Ctx) :=
  (x.ctxs.filter fun e => e.2.live && !e.2.priv && e.2.paused.isNone).foldl (fun (b : Option (Nat × Ctx)) e =>
    match b with
    | none => some e
    | some a => if e.2.pri < a.2.pri ∨ (e.2.pri = a.2.pri ∧ a.2.residAt ≤ e.2.residAt) then some e else some a) none

/-- A context is displaced (R208). -/
def State.displaced (s : State) (l k c : Nat) : Bool :=
  match (s.core l k).victim with
  | some v => v.1 == c && (s.wanting l k).any fun p => decide (v.2.pri < p)
  | none => false

/-- A context of another region stands on a core that a timed region has reserved (R212). -/
def State.evicted (s : State) (l k : Nat) (x : Ctx) : Bool :=
  match (s.ld l).reservedBy k with
  | some r => r != (s.opOf l x.sys.opid).region
  | none => false

/-- swapOut (R208, R212, R422, R430): a paused context, a displaced one, or one on a core that a timed region has reserved leaves when
a slot is free; a paused one stays until its fault record is written (R426). -/
def evSwapOut (l k c : Nat) : M Unit := do
  let s ← getS
  let x := s.ctx l k c
  need (s.mayLeave l k c && (x.paused.isSome || s.displaced l k c || s.evicted l k x) &&
    !((s.ld l).faultQ.any fun r => r.1 == x.sid + 1))
  updS fun s => s.leaveCore l k c

/-- swapThresholdExpiry (R208): a wait longer than SWAPTH while another step awaits the core. -/
def evSwapThresholdExpiry (l k c : Nat) : M Unit := do
  let s ← getS
  let x := s.ctx l k c
  match x.waitSince with
  | none => idle
  | some t => do
    need (s.mayLeave l k c && x.waiting && x.paused.isNone && !(s.wanting l k).isEmpty)
    updS fun s => { s with ticks := max s.ticks (t + 70 * x.swapth + 1) }.leaveCore l k c

/-- A saved context goes before another of its core (R208): effective priority, then age. -/
def savedBefore (a b : Saved) : Bool := decide (b.ctx.effPri < a.ctx.effPri) || (a.ctx.effPri == b.ctx.effPri && decide (a.ctx.readyAt ≤ b.ctx.readyAt))

/-! Another core (R208, log entry 103): the allocation and its ring controls stay behind, the handles name new controls with their state -/

/-- The step's own ring controls on a core: those that no port has. -/
def Core.ownRings (y : Core) (x : Ctx) : List Nat := (x.regs.rh.filterMap id).filter fun r => !(y.ports.any fun p => p.ring == r)

/-- A ring control under its number on the new core. -/
def movedRing (base : Nat) (own : List Nat) (r : Nat) : Nat := base + own.findIdx (· == r)

/-- What a saved context refers to on the core that it left, once it stands on core `k`. -/
def Saved.moved (v : Saved) (k base : Nat) (own : List Nat) : Saved :=
  { v with
    ctx := { v.ctx with regs := { v.ctx.regs with rh := v.ctx.regs.rh.map fun (r : Option Nat) => r.map (movedRing base own) } }
    cmds := v.cmds.map fun q =>
      { q with
        ring := q.ring.map fun r => if r.1 = v.core ∧ own.contains r.2 then (k, movedRing base own r.2) else r
        readAt := if q.reading && !(v.tiles.any fun t => t.1 == q.tileNo) then some (q.readAt.getD v.core) else none } }

/-- The context of a save slot goes over to core `k`. -/
def State.moveSaved (s : State) (l k : Nat) (v : Saved) : State × Saved :=
  if k = v.core then (s, v)
  else
    let from_ := s.core l v.core
    let own := from_.ownRings v.ctx
    let base := (s.core l k).newRing
    let s := s.updCore l v.core fun y =>
      { y with allocs := if own.isEmpty then y.allocs else y.allocs ++ [{ off := 0, len := 0, sid := v.ctx.sid, opid := v.ctx.sys.opid, rings := own }] }
    let s := s.updCore l k fun y =>
      { y with rings := own.foldl (fun (m : Smap Ring) r => mput m (movedRing base own r) (mgetD from_.rings r {})) y.rings }
    (s, v.moved k base own)

/-- A plane's or tile's claim as it stands when its holder is back (R78): the core's claimants wait on. -/
def Claim.back (c now : Claim) : Claim := { c with gen := now.gen + 1, waiting := now.waiting }

/-- A claimant waits on where its context is (R78). -/
def Core.joinWaiting (y : Core) (x : Ctx) : Core :=
  match x.claimWait with
  | some (tile, n, _) => y.setClaim tile n fun c => if c.waiting.contains x.sid then c else { c with waiting := c.waiting ++ [x.sid] }
  | none => y

/-- A context is written back from its slot into core `k` (R432, R78): its objects are held again, its commands queued again. -/
def State.restore (s : State) (l k slot : Nat) (v : Saved) : State :=
  let s := s.readSlot l slot v
  let (s, v) := s.moveSaved l k ((s.ld l).restored slot v)
  let c := (s.core l k).freeCtxs.headD 0
  let now (tile : Bool) (n : Nat) : Claim := (s.core l k).claim tile n
  let gen (tile : Bool) (n old : Nat) : Nat :=
    let held := if tile then v.tiles.map (fun t => (t.1, t.2.claim.gen)) else v.planes.map fun p => (p.1, p.2.claim.gen)
    if held.contains (n, old) then (now tile n).gen + 1 else old
  let s := s.updLd l fun x => { x with saved := mdel x.saved slot }
  let s := s.updCore l k fun y =>
    let y := y.stopFiller.joinWaiting v.ctx
    { y with
      planes := v.planes.foldl (fun ps p => ps.set p.1 { p.2 with claim := p.2.claim.back (now false p.1) }) y.planes
      tiles := v.tiles.foldl (fun ts p => ts.set p.1 { p.2 with claim := p.2.claim.back (now true p.1) }) y.tiles
      queue := y.queue ++ v.cmds.map fun q => { q with ctx := c } }
  let s := v.ctx.openBies.foldl (fun s b => s.putBie l b.1 2 (k + 64 * c)) s
  let x := v.ctx
  let s := s.updCtx l k c fun _ =>
    { x with
      residAt := s.ticks, resumed := []
      sys.core := BitVec.ofNat 16 (put (dieOf l) 12 4 ||| put c 8 2 ||| put k 0 6)
      passes := x.passes.map fun p => { p with claim := gen true p.tile p.claim }
      loads := x.loads.map fun q => { q with claim := gen false q.plane q.claim } }
  x.resumed.foldl (fun s n => s.complete l n 1 0 s.ns 0 0) s

/-- swapIn (R432, R78): the ready context that goes first returns. -/
def evSwapIn (l slot : Nat) : M Unit := do
  let s ← getS
  match mget (s.ld l).saved slot with
  | none => idle
  | some v =>
    match s.returnCore l v with
    | none => idle
    | some k => do
      need (!s.commitHolds l ((s.ld l).slotAt slot) (2 ^ 20) &&
        (s.ld l).saved.all fun w => w.1 == slot || s.returnCore l w.2 != some k || savedBefore v w.2)
      updS fun s => s.restore l k slot v

end Sys2Proof.Machine
end

