-- ==== Sys2Proof/Machine/Array.lean ====
section
/-! DEFINITION. What the race array does on its own (R325 to R334, R355, R362), errors found in a core and in memory (R121 to R125,
R437), and calibration (R340 to R345). -/

namespace Sys2Proof.Machine

/-! Plane loads (R355) -/

/-- The first load of a context in order of issue. -/
def Ctx.firstLoad (x : Ctx) : Option Load := x.loads.find? fun v => !(x.loads.any fun u => u.plane == v.plane && decide (u.seq < v.seq))

/-- Both streams stand at a cbld or cbval that waits for the lock of a load's bank: its floors hold this load back no longer, nor the ones
before it on its plane (R97, R355, log entry 39). -/
def Ctx.loadFree (x : Ctx) (v : Load) : Bool :=
  x.st.run.isEmpty && x.st.atrap.isNone && x.st.aWait.any fun w =>
    x.loads.any fun u => u.plane == v.plane && decide (v.seq ≤ u.seq) && u.bank.any fun b => w.cbwait.getLsbD b

/-- The first load of each plane, in order of issue. -/
def Ctx.firstLoads (x : Ctx) : List Load := x.loads.filter fun v => !(x.loads.any fun u => u.plane == v.plane && decide (u.seq < v.seq))

/-- The load of a context whose next course may commit. -/
def Ctx.nextLoad (x : Ctx) : Option Load :=
  match x.readyLoad with
  | some v => some v
  | none => x.firstLoads.find? x.loadFree

/-- rldwCourseCommit (R355): the next course of a load that has its floor behind it; a freeze of the core's domains holds it (R122, R251). -/
def evRldwCourseCommit (l k : Nat) : M Unit := do
  let s ← getS
  let y := s.core l k
  need (y.freeze == 0 && y.eccHold == 0)
  match (y.ctxs.filter fun e => e.2.live && e.2.paused.isNone).findSome? fun e => e.2.nextLoad.map fun v => (e.1, v) with
  | none => idle
  | some (c, v) => updS fun s => s.commitCourse l k c v

/-! Readings and landings of the active context -/

/-- The active context of a core, whose array no freeze holds. -/
def activeArray (l k : Nat) : M (Nat × Ctx) := do
  let s ← getS
  let y := s.core l k
  match y.active with
  | none => idle
  | some c => do
    need ((y.ctx c).live && y.freeze == 0 && y.calRun == 0)
    pure (c, y.ctx c)

/-- passConverterRead (R326, R327): the columns of `refused` fail the guard band. -/
def evPassConverterRead (l k : Nat) (refused : BitVec 256) : M Unit := do
  let (c, x) ← activeArray l k
  let s ← getS
  need ((s.core l k).rerace.isNone)
  match x.dueRead with
  | none => idle
  | some p => updS fun s => (s.landNow l k c).readPass l k c p refused

/-- reraceComplete (R327, R328): the reading after the freeze. -/
def evReraceComplete (l k : Nat) (refused : BitVec 256) : M Unit := do
  let s ← getS
  need ((s.core l k).rerace.isSome && (s.core l k).freeze == 0)
  updS fun s => (match (s.core l k).rerace with
    | some (c, _) => s.landNow l k c
    | none => s).endRerace l k refused

/-- passLanding (R240, R329). -/
def evPassLanding (l k : Nat) : M Unit := do
  let (c, x) ← activeArray l k
  let s ← getS
  need ((s.core l k).rerace.isNone && (s.core l k).renorm.isNone)
  match x.duePass with
  | none => idle
  | some p => updS fun s => (s.landNow l k c).landPass l k c p

/-- renormalisationStep (R240, R241). -/
def evRenormalisationStep (l k t : Nat) : M Unit := do
  let (c, _) ← activeArray l k
  let s ← getS
  need ((s.core l k).renorm == some t)
  updS fun s => s.renormStep l k c t

/-- combRead (R333). -/
def evCombRead (l k : Nat) (refused : Bool) : M Unit := do
  let (c, x) ← activeArray l k
  let s ← getS
  need ((s.core l k).rerace.isNone)
  match x.dueComb with
  | none => idle
  | some p => updS fun s => (s.landNow l k c).readComb l k c p refused

/-- combResultLand (R333, R362). -/
def evCombResultLand (l k : Nat) : M Unit := do
  let (c, x) ← activeArray l k
  need (x.combs.any fun p => p.done && decide (p.land ≤ x.st.cc))
  updS fun s => s.landNow l k c

/-- rcalResult (R340, R369). -/
def evRcalResult (l k : Nat) : M Unit := do
  let (c, x) ← activeArray l k
  need (x.rcals.any fun r => decide (r.land ≤ x.st.cc))
  updS fun s => s.landNow l k c

/-! Errors (R121 to R125, R437) -/

/-- ECCCNT counts a corrected error: `core` in [63:32], memory in [31:0] (R121, R122). -/
def State.countEcc (s : State) (l : Nat) (core : Bool) : State :=
  s.updLd l fun x =>
    let lo := bits x.regs.ecccnt.toNat 0 32
    let hi := bits x.regs.ecccnt.toNat 32 32
    { x with regs.ecccnt := BitVec.ofNat 64 (if core then put (hi + 1) 32 32 ||| lo else put hi 32 32 ||| put (lo + 1) 0 32) }

/-- eccCorrectedCore (R122): the core's domains freeze for 12 clocks; another error adds 12. The table's event names no word, so LOC of the entry
is free (log entry 118). -/
def evEccCorrectedCore (l k : Nat) : M Unit := do
  let d ← fresh
  updS fun s => ((s.countEcc l true).errCorrected l 0 (Config.eccPlace d).toNat).updCore l k fun y => { y with freeze := y.freeze + 12, eccHold := y.eccHold + 12 }

/-- `n` domain clocks of a core. -/
def State.clocks (s : State) (l k : Nat) : Nat → State
  | 0 => s
  | n + 1 => State.clocks (s.clock l k) l k n

/-- eccFreezeEnd (R122): the freeze runs out. -/
def evEccFreezeEnd (l k : Nat) : M Unit := do
  let s ← getS
  need ((s.core l k).eccHold != 0)
  updS fun s => s.clocks l k (s.core l k).eccHold

/-- eccCorrectedMemory (R121). -/
def evEccCorrectedMemory (l addr : Nat) : M Unit := do
  need (dpaOk addr)
  updS fun s => (s.countEcc l false).errCorrected l 7 addr

/-- A word of core storage poisoned (R123, R415). Its number (log entry 32): the file in [31:28], the context in [27:24], the word
within the file in [23:0]. -/
def Core.poisonWord (y : Core) (addr : Nat) : Core :=
  let c := bits addr 24 4
  let n := bits addr 0 24
  let mark (r : Reg) : Reg := { r with poison := true }
  let markV (r : VReg) : VReg := { r with poison := true }
  match bits addr 28 4 with
  | 0 => y.updCtx c fun x => { x with regs.a := x.regs.a.modify n mark }
  | 1 => y.updCtx c fun x => { x with regs.b := x.regs.b.modify n mark }
  | 2 => y.updCtx c fun x => { x with regs.k := x.regs.k.modify n mark }
  | 3 => y.updCtx c fun x => { x with regs.v := x.regs.v.modify n markV }
  | 4 => y.updCtx c fun x => { x with regs.w := x.regs.w.modify n markV }
  | 5 => y.updCtx c fun x => { x with regs.eg := x.regs.eg.modify n mark }
  | 6 => y.updCtx c fun x => { x with regs.dc := x.regs.dc.modify n mark }
  | 7 => y.updCtx c fun x => { x with regs.ls := x.regs.ls.modify n fun sl => { sl with mark := 0x1C3 } }
  | 8 => { y with banks := y.banks.modify (n / 259) fun b => { b with poison := b.poison.upd (n % 259) true } }
  | 9 => { y with planes := y.planes.modify (n / 1537) fun p => { p with poison := p.poison.upd (n % 1537) true } }
  | 10 => y.updCtx c fun x => { x with st.sq := x.st.sq.modify n fun e => { e with poison := true } }
  | 11 => y.updCtx c fun x => { x with st.vq := x.st.vq.modify n fun e => { e with val := e.val.map markV } }
  | 12 => { y with rings := y.rings.map fun r => if r.1 = n then (n, { r.2 with poison := true }) else r }
  | 13 => { y with tiles := y.tiles.modify (n / 16385) fun t => { t with poison := t.poison.upd (n % 16385) true } }
  | _ => y.updCtx c fun x => { x with sys.poison := x.sys.poison.upd (n % 128) true }

/-- uncorrectableError (R123, R437): place 0 a sector of device memory, 1 a granule of a scratchpad, 2 a word of core storage. -/
def evUncorrectableError (l place k addr : Nat) : M Unit :=
  updS fun s =>
    match place with
    | 0 => (s.updLd l fun x => { x with hbm := { x.hbm with poison := x.hbm.poison.upd (addr % 2 ^ 36 / 32) true } }).errLog l 1 7 0x1C0 (addr % 2 ^ 36) true
    | 1 => (s.updCore l k fun y => { y with spadPoison := y.spadPoison.upd (addr % spadEnd / 4) true }).errLog l 1 1 0x1C0 addr true
    | _ => (s.updCore l k fun y => if 4 ≤ bits addr 24 4 then y else y.poisonWord addr).errLog l 1 0 0x1C3 addr true

/-! Calibration (R340 to R345) -/

/-- calibrationPeriodicTimer (R343): 100 ms after the last calibration. -/
def evCalibrationPeriodicTimer (l k : Nat) : M Unit := do
  let s ← getS
  let y := s.core l k
  need (y.calAt != 0 && !y.calDue)
  updS fun s => { s with ticks := max s.ticks (7 * (y.calAt - 1)) }.updCore l k fun y => { y with calDue := true }

/-- temperatureSample (R343): 2 °C or more from CALTEMP asks for a calibration. -/
def evTemperatureSample (l k : Nat) (temp : BitVec 16) : M Unit :=
  updS fun s => s.updCore l k fun y => { y with temp := temp, calReq := y.calReq || decide (32 ≤ (temp.toInt - y.caltemp.toInt).natAbs) }

/-- A calibration may start: on a timed region's core only a periodic one (R213, R343). -/
def State.calWanted (s : State) (l k : Nat) : Bool :=
  let y := s.core l k
  y.calRun == 0 && (y.calDue || (y.calReq && ((s.ld l).reservedBy k).isNone))

/-- Every course of a context's loads commits. -/
def State.finishLoads (s : State) (l k c : Nat) : Nat → State
  | 0 => s
  | n + 1 =>
    match (s.ctx l k c).firstLoad with
    | none => s
    | some v => State.finishLoads (s.commitCourse l k c v) l k c n

/-- A core's freeze runs in full, counted by its active context (R251). -/
def State.runFreeze (s : State) (l k : Nat) : State :=
  let y := s.core l k
  let n := y.freeze
  let s := { s with ticks := max s.ticks (4 * (y.clk + n)) }.updCore l k fun y => { y with freeze := 0, eccHold := y.eccHold - n, clk := y.clk + n }
  match y.active with
  | some c => s.updCtx l k c fun x => { x with sys.frz := x.sys.frz + BitVec.ofNat 64 n }
  | none => s

/-- A calibration puts a step out of its context (R209): the calibration's time does not count for it. -/
def State.calVictim (s : State) (l k c : Nat) : State :=
  let sid := (s.ctx l k c).sid
  (s.leaveCore l k c).updLd l fun x =>
    { x with saved := x.saved.map fun (v : Nat × Saved) => if v.2.ctx.sid = sid then (v.1, { v.2 with cal := true }) else v }

/-- calibrationStart (R209, R344): the contexts stop, the array finishes what is in flight, and the routine takes a context; with all four
held by steps one is swapped out. -/
def evCalibrationStart (l k : Nat) : M Unit := do
  let s ← getS
  need (s.calWanted l k)
  let out := if (s.core l k).hasFree then none else (s.core l k).victim
  need ((s.core l k).hasFree || out.any fun v => s.mayLeave l k v.1)
  updS fun s =>
    let s := match (s.core l k).renorm, (s.core l k).active with
      | some t, some c => s.renormStep l k c t
      | _, _ => s
    let s := (s.core l k).ctxs.foldl (fun s e => (s.finishReads l k e.1).finishLoads l k e.1 1024) (s.runFreeze l k)
    let s := match out with
      | some v => s.calVictim l k v.1
      | none => s
    let s := s.updCore l k fun y => { y.stopFiller with calRun := s.ns + 1, active := none, switching := 0 }
    let c := (s.core l k).freeCtxs.headD 0
    s.updCtx l k c fun _ => routineCtx l k c

/-- One measurement of a chain under a core's trims (R340). -/
def Core.measure (y : Core) (k chain draw : Nat) : Int :=
  if y.rcalTicks k chain draw ≤ 4 * y.rcalLatency then (y.rcalCount k chain draw).toNat else 2 ^ 32 - 1

/-- The chain by which a calibration tile (0 to 15) or a spare (16 to 23) is sensed (R341). -/
def senseChain (g : Nat) : Nat := if g < 16 then 16 * g else 256 + (g - 16)
/-- A trim written (R336). -/
def Core.putTrim (y : Core) (g v : Nat) : Core := y.setTrim g (BitVec.ofNat 64 v)
/-- CALCTL fields (R338). -/
def Core.calTol (y : Core) : Int := bits y.calctl.toNat 32 16
def Core.calTgt (y : Core) : Int := bits y.calctl.toNat 8 24

/-- The binary search of one tile or spare (R341): `lo` and `hi`, and the draws used. -/
def searchTrim (k g : Nat) : Nat → Nat → Nat → Core × Nat → Core × Nat
  | 0, lo, _, (y, d) => (y.putTrim g lo, d)
  | n + 1, lo, hi, (y, d) =>
    if lo < hi then
      let mid := (lo + hi) / 2
      let y := y.putTrim g mid
      if y.measure k (senseChain g) d < y.calTgt - y.calTol then searchTrim k g n (mid + 1) hi (y, d + 1) else searchTrim k g n lo mid (y, d + 1)
    else searchTrim k g 0 lo hi (y, d)

/-- The routine (R341): trims, then weak columns, then the spare map or the retirement. -/
def Core.calibrate (y : Core) (k d : Nat) : Core × Nat :=
  let (y, d, ok) := (List.range 24).foldl (fun (a : Core × Nat × List Bool) g =>
    let (y, d) := searchTrim k g 9 0 255 (a.1, a.2.1)
    (y, d + 1, a.2.2 ++ [decide ((y.measure k (senseChain g) d - y.calTgt).natAbs ≤ y.calTol.natAbs)])) (y, d, [])
  let weak := (List.range 256).filter fun c => !(ok.getD (c / 16) false) || decide (2 * y.calTol.natAbs < (y.measure k c (d + c) - y.calTgt).natAbs)
  let spares := (List.range 8).filter fun s => ok.getD (16 + s) false
  let retired := decide (spares.length < weak.length)
  let map (s : Nat) : BitVec 64 :=
    match (spares.zip weak).find? fun p => p.1 == s with
    | some p => BitVec.ofNat 64 (put 1 8 1 ||| put p.2 0 8)
    | none => (y.smap.getD s 0#64) &&& 0xFF#64
  let tfail := (List.range 16).foldl (fun m t => if ok.getD t false then m else m ||| 2 ^ t) 0
  ({ y with
    smap := if retired then y.smap else (List.range 8).map map
    calstat := BitVec.ofNat 64 (put tfail 32 16 ||| put weak.length 24 8 ||| retired.toNat) }, d + 256)

/-- A context goes on after a calibration: the interval counts neither for its waiting budget nor for TBOUND (R209, R214, R344). -/
def Ctx.pastCal (x : Ctx) (began gone : Nat) : Ctx :=
  { x with
    held := if x.started.isSome then x.held + gone else x.held
    waitFrom := x.waitFrom.map fun t => t + (7 * (began + gone) - max t (7 * began)) }

/-- calibrationRoutine (R341 to R345): the routine's context ends, and the others go on. -/
def evCalibrationRoutine (l k : Nat) : M Unit := do
  let s ← getS
  let y := s.core l k
  need (y.calRun != 0)
  updS fun s =>
    let was := y.retired
    let (y', d) := y.calibrate k s.draw
    let began := y.calRun - 1
    let s := { s with draw := d, ticks := max s.ticks (7 * began + 168000) }
    let now := s.ns
    let s := s.updCore l k fun _ =>
      { y' with
        calRun := 0, calReq := false, calDue := false, calAt := now + 100000001, cals := y'.cals + 1, caltime := now, caltemp := y'.temp
        ctxs := (y'.ctxs.filter fun e => !e.2.priv).map fun e => (e.1, e.2.pastCal began (now - began)) }
    let s := s.updLd l fun x =>
      { x with saved := x.saved.map fun (v : Nat × Saved) => if v.2.cal && v.2.core == k then (v.1, { v.2 with ctx := v.2.ctx.pastCal began (now - began), cal := false }) else v }
    if y'.retired && !was then s.notice l 6 2 3 0x103 k else s

end Sys2Proof.Machine
end

