-- ==== Sys2Proof/Machine/Memory.lean ====
section
/-! DEFINITION. What the memories do with requests: banks (R57), the die cache (R109 to R111), the base die (R115 to R125), table walks
and invalidations (R27 to R35), checks of foreign requests (R39 to R41), interleave commits (R112 to R114), the host's accesses (R441). -/

namespace Sys2Proof.Machine

/-- nbrRequestArrival (R57, R177): the oldest request at a core's banks is performed. -/
def evNbrRequestArrival (l k : Nat) : M Unit := do
  let s ← getS
  match (s.core l k).nbrQ with
  | [] => idle
  | r :: rest => updS fun s => (s.updCore l k fun y => { y with nbrQ := rest }).serveNbr l k r

/-- dieCacheRequest (R111): the oldest request that nothing holds is performed. The answer to a request of a step that has ended, when the
fabric loses it, is a notice of 0x304 (R415). -/
def evDieCacheRequest (l : Nat) : M Unit := do
  let s ← getS
  match s.servable [] (s.ld l).homeQ with
  | [] => idle
  | r :: _ =>
    updS fun s =>
      let i := (s.ld l).homeQ.findIdx (· == r)
      let s := if r.isLoad && r.fixed.isNone then s.fixImage r.src r.sid r.home r.addr r.n else s
      let r := (s.ld l).homeQ.getD i r
      let s := (s.updLd l fun x => { x with homeQ := x.homeQ.eraseIdx i }).serveHome r
      if (s.stepOf r.src r.sid).isNone && !r.pref && (s.answerCause r).isSome then s.notice l 6 2 10 0x304 r.src else s

/-! The base die -/

/-- A line of the stack. -/
def lineOk (line : Nat) : Bool := decide (line < 2 ^ 29)

/-- lineReadExpand (R117, R125): the sectors of `mask` enter the die cache; those of a line with a reserved tag are poisoned. -/
def evLineReadExpand (l line : Nat) (mask : BitVec 4) : M Unit := do
  need (lineOk line)
  updS fun s => s.readThrough 0 ((setBits mask.toNat 4).map fun q => (l, 128 * line + 32 * q, 32))

/-- fullLineWrite (R118). -/
def evFullLineWrite (l line : Nat) (compr : Bool) (data : BitVec 1024) : M Unit := do
  need (lineOk line)
  updS fun s => s.updLd l fun x =>
    { x with hbm := x.hbm.mergeLine line compr fun i => some (BitVec.ofNat 8 (bits data.toNat (8 * i) 8), false) }

/-- partialLineWrite (R119, R125): a write of fewer than 128 bytes within one line. -/
def evPartialLineWrite (l addr : Nat) (compr : Bool) (bytes : List (BitVec 8)) : M Unit := do
  need (dpaOk addr && !bytes.isEmpty && decide (bytes.length < 128) && decide (addr % 128 + bytes.length ≤ 128))
  updS fun s => s.pokeLd l addr bytes compr

/-! Table walks (R27 to R30) -/

/-- tableWalkStart (R29): a free walker takes the oldest queued miss. -/
def evTableWalkStart (l : Nat) : M Unit := do
  let s ← getS
  let x := s.ld l
  match x.missQ with
  | [] => idle
  | w :: rest => do
    need (decide (x.walks.length < 64))
    updS fun s => (s.updLd l fun x => { x with missQ := rest }).startWalk l w

/-- The misses of a walk are served: the L1 entries of the cores that wait are free again, and hold the translation when there is one. -/
def Ld.walkServed (x : Ld) (who : List (Nat × Nat)) (e : Option TlbE) : Ld :=
  who.foldl (fun x w => x.updCore w.1 fun y =>
    { y with misses := y.misses - 1, l1 := (match e with | some t => l1Add y.l1 t | none => y.l1) }) x

/-- A walk that has read the tables ends (R19 to R30): in a leaf, which serves every queued miss inside it, or in a fault, which nothing
caches. -/
def Ld.walkEnds (x : Ld) (w : Walk) : Ld :=
  let x := { x with walks := x.walks.erase w }
  match w.found with
  | none => x
  | some (.inr leaf) =>
    let (p, n) := leafSpan leaf (65536 * w.page)
    let e : TlbE := { page := p, pages := n, leaf := leaf }
    let inside (q : Walk) : Bool := decide (p ≤ q.page) && decide (q.page < p + n)
    let others := (x.missQ.filter inside).flatMap (·.who)
    let x := (x.walkServed w.who (some e)).walkServed others (some e)
    { x with
      missQ := x.missQ.filter fun q => !inside q
      l2 := l2Add x.l2 e
      psc := (w.ptrs.reverse ++ x.psc).eraseDups.take 512 }
  | some (.inl (r, t)) =>
    let x := x.walkServed w.who none
    w.who.foldl (fun x q => x.updCore q.1 fun y =>
      if (y.ctx q.2).live && (y.ctx q.2).xlAsk == some w.page then y.updCtx q.2 fun c => { c with xlAsk := none, xlFault := some (w.page, r + if t then 8 else 0) } else y) x

/-- tableWalkComplete: the walk started first that has read the tables, or that no commit holds from it, ends (R27, R114). -/
def evTableWalkComplete (l : Nat) : M Unit := do
  let s ← getS
  match (s.ld l).walks.find? fun w => w.found.isSome || !s.anyHeld (w.reads (s.ld l) l) with
  | none => idle
  | some w => updS fun s => (s.walkLooks l w).updLd l fun x => x.walkEnds ((x.walks.find? fun v => v.page == w.page).getD w)

/-! Invalidation (R33 to R35) -/

/-- A status register of BUSY, DONE and ERR (R34, R113): a write refused, a start, an end. DONE and ERR are W1C: a start clears neither. -/
def stErr (w : Word) : Word := w ||| 4#64
def stStart (w : Word) : Word := w ||| 1#64
def stEnd (w : Word) : Word := (w &&& ~~~1#64) ||| 2#64
/-- BUSY. -/
def stBusy (w : Word) : Bool := w.getLsbD 0

/-- The pages that an XLINV value names: first and count; none when the write is refused (R33). -/
def Ld.invalRange (x : Ld) (v : Nat) : Option (Nat × Nat) :=
  let p := bits v 16 36
  if stBusy x.regs.xlinvst then none
  else match bits v 0 2 with
    | 0 => some (p, 1)
    | 1 => if bits x.regs.xlinvlen.toNat 0 36 = 0 then none else some (p, min (bits x.regs.xlinvlen.toNat 0 36) (2 ^ 36 - p))
    | 2 => some (0, 2 ^ 36)
    | _ => none

/-- A write to XLINV (R33). -/
def Ld.writeXlinv (x : Ld) (v : Nat) : Ld :=
  match x.invalRange v with
  | none => { x with regs.xlinvst := stErr x.regs.xlinvst }
  | some r =>
    { x with
      inval := some r
      regs.xlinv := BitVec.ofNat 64 (put (bits v 16 36) 16 36 ||| bits v 0 2)
      regs.xlinvst := stStart x.regs.xlinvst }

def evXlinvPage (l : Nat) (vpage : BitVec 36) : M Unit := updS fun s => s.updLd l fun x => x.writeXlinv (put vpage.toNat 16 36)
def evXlinvRange (l : Nat) (vpage : BitVec 36) : M Unit := updS fun s => s.updLd l fun x => x.writeXlinv (put vpage.toNat 16 36 ||| 1)
def evXlinvAll (l : Nat) : M Unit := updS fun s => s.updLd l fun x => x.writeXlinv 2
/-- xlinvReject: a write that is ignored sets ERR. -/
def evXlinvReject (l : Nat) (v : BitVec 64) : M Unit := do
  let s ← getS
  need ((s.ld l).invalRange v.toNat).isNone
  updS fun s => s.updLd l fun x => x.writeXlinv v.toNat

/-- Two ranges of pages overlap. -/
def pagesMeet (a n b m : Nat) : Bool := decide (a < b + m) && decide (b < a + n)

/-- What a translation's holders keep after an invalidation (R35). -/
def Ld.purge (x : Ld) (p n : Nat) : Ld :=
  let keep (t : List TlbE) : List TlbE := t.filter fun e => !pagesMeet e.page e.pages p n
  { x with
    l2 := keep x.l2
    psc := x.psc.filter fun e => !pagesMeet (e.2.1 <<< (9 * (e.1 + 1))) (2 ^ (9 * (e.1 + 1))) p n
    cores := x.cores.map fun k => (k.1, { k.2 with l1 := keep k.2.l1 }) }

/-- The command still has global writes of a chunk to make that it translated before (R35). -/
def Cmd.owesWrites (q : Cmd) : Bool :=
  (q.chunk.getD []).zipIdx.any fun b => !bit q.issued b.2 && b.1.any fun d => d.core.isNone

/-- A walk that may have read a table of a range: one of a page in it, or one that started below the root from a table above it (R35). -/
def Walk.meets (w : Walk) (p n : Nat) : Bool :=
  (decide (p ≤ w.page) && decide (w.page < p + n)) ||
  (decide (w.level < 3) && pagesMeet (w.page >>> (9 * (w.level + 1)) <<< (9 * (w.level + 1))) (2 ^ (9 * (w.level + 1))) p n)

/-- invalidationDone (R35): walks that read the range have ended, and the accesses translated by this LD's tables have been performed. -/
def evInvalidationDone (l : Nat) : M Unit := do
  let s ← getS
  let x := s.ld l
  match x.inval with
  | none => idle
  | some (p, n) => do
    need (!(x.walks.any fun w => w.meets p n) && x.homeQ.isEmpty && !(s.lds.any fun e => e.2.homeQ.any fun r => r.src == l) &&
      !(s.lds.any fun e => e.2.cores.any fun k => k.2.queue.any Cmd.owesWrites))
    updS fun s => s.updLd l fun x => { x.purge p n with inval := none, regs.xlinvst := stEnd x.regs.xlinvst }

/-! Foreign requests (R39 to R41, R415) -/

/-- The owner's checks of a request through a handle (R39, R40): the export entry, the importer, the rights, the exporter's tables. -/
def State.exportCheck (s : State) (l ipkg idie expidx gen : Nat) (rights : BitVec 3) (e kind n : Nat) : Xl :=
  let y := s.ld l
  let may := rightsCover (rights.getLsbD 2) (rights.getLsbD 1) (rights.getLsbD 0) kind
  match exportFault y (y.num (y.exportAt (expidx % 4096)) 32) ipkg idie gen may e kind with
  | some c => .fault c
  | none =>
    match y.leafOf 64 e with
    | .error r => .fault (walkCause kind r)
    | .ok leaf => s.windowed kind n (resolveLeaf s l {} 0 l leaf e kind)

/-- What those checks read. -/
def State.exportReads (s : State) (l expidx e : Nat) : List (Nat × Nat × Nat) :=
  (l, (s.ld l).exportAt (expidx % 4096), 32) :: s.xlReads l 64 e

/-- What a read from outside has been answered: its bytes, and which of them are poisoned (R22, R123, R125). -/
def Ld.answers (x : Ld) (ans : Option (Nat × Nat)) (vs : List (BitVec 8 × Nat)) : Ld :=
  { x with peerAns := ans, lastRead := vs.map (·.1), lastBad := vs.map fun v => v.2 != 0 }
/-- peerRequestCheck (R39): a request from another die's LD with its rights RD, WR, AT; a read answers bytes, a write is performed
as published by its importer, a failing check answers its cause. A commit holds the request as any other (R114). -/
def evPeerRequestCheck (l ipkg idie expidx gen : Nat) (rights : BitVec 3) (e kind : Nat) (bytes : List (BitVec 8)) : M Unit := do
  let s ← getS
  need (decide (1 ≤ kind) && decide (kind ≤ 5) && !bytes.isEmpty && decide (bytes.length ≤ 256) && !s.anyHeld (s.exportReads l expidx e))
  let r := s.exportCheck l ipkg idie expidx gen rights e kind bytes.length
  need (match r with | .ok p => !s.commitHolds p.home p.addr bytes.length && s.linesFree p.home p.addr bytes.length | _ => true)
  updS fun s =>
    let s := (s.readThrough 0 (s.exportReads l expidx e)).afterXl l 64 0 e
    match r with
    | .fault c => s.updLd l fun x => { x with peerAns := some (c, 0), lastRead := [], lastBad := [] }
    | .lost c => s.updLd l fun x => { x with peerAns := some (c, 0), lastRead := [], lastBad := [] }
    | .ok p =>
      if kind = 2 ∨ kind = 5 then
        (s.updLd l fun x => { x with peerAns := some (0, p.addr), lastRead := [], lastBad := [] }).pokeAt p (bytes.map fun b => (b, false))
      else (s.updLd l fun x => x.answers (some (0, p.addr)) (s.peekAt p bytes.length)).readThrough p.ca [(p.home, p.addr, bytes.length)]

/-- Another die's memory. -/
def farHome (l home : Nat) : Bool := home != l && home != hostKey

/-- A command's next chunk is read from another die, or its chunk is written to one, from the address given (R415). -/
def State.farChunk (s : State) (l k : Nat) (q : Cmd) : Option Nat :=
  match q.chunk with
  | some bs => if bs.flatten.any fun d => d.core.isNone && farHome l d.home then some q.dst.toNat else none
  | none =>
    match s.chunkSrc l k { q with view := { q.view with reads := [] } } with
    | .ok (_, _, v) => if v.reads.any fun r => farHome l r.1 then some q.src.toNat else none
    | .error _ => none

/-- A command whose request another die has not answered for 100 µs stops in an engine fault (R415). -/
def copyTimeout (l k c : Nat) : M Unit := do
  let q ← runningCmd l k c fun q => q.chunked && (q.chunk.isSome || (q.input.isNone && decide (4096 * q.chix < q.total)))
  let s ← getS
  match s.farChunk l k q with
  | none => idle
  | some a => updS fun s => { s with ticks := s.ticks + 700000 }.stopCmd l k q 0x300 a

/-- peerResponseTimeout (R415): 100 µs without an answer from another die, to a request of a landing slot or (slot 32) of the context's
copy. -/
def evPeerResponseTimeout (l k c slot : Nat) : M Unit :=
  if slot = 32 then copyTimeout l k c
  else onCtx l k c fun c => do
    let s ← getS
    let x := s.ctx l k c
    let mine (r : HomeReq) : Bool := r.ofStep l x.sid && !r.pref && r.slot == slot
    need (x.live && (x.regs.ls.getD slot {}).st == .pending && s.lds.any fun e => e.1 != l && e.2.homeQ.any fun r => mine r && r.home != hostKey)
    updS fun s =>
      let s := { s with lds := s.lds.map (fun (e : Nat × Ld) => (e.1, { e.2 with homeQ := e.2.homeQ.filter fun r => !mine r })), ticks := s.ticks + 700000 }
      s.updCtx l k c fun x => x.fillSlot slot 0 0 0x300 0

/-! Interleave (R112 to R114) -/

/-- The value that firmware gives an interleave entry: HASH, WAYS 6 (R112). -/
def ivReset : Word := 0x8060#64

/-- A write to IVCMT (R113, R114). A refused one leaves IVCMT as it reads (log entry 104). -/
def Ld.writeIvcmt (x : Ld) (now v : Nat) : Ld :=
  let first := bits v 0 6
  let n := bits v 8 6 + 1
  if stBusy x.regs.ivst then { x with regs.ivst := stErr x.regs.ivst }
  else if 64 < first + n ∨ (List.range n).any fun i => decide (4 < bits (mgetD x.regs.ivstg (first + i) ivReset).toNat 8 4) then
    { x with regs.ivst := stErr x.regs.ivst }
  else
    { x with
      commit := some (first * 2 ^ 30, n * 2 ^ 30)
      commitAt := now
      regs.ivcmt := BitVec.ofNat 64 (put (n - 1) 8 6 ||| first)
      regs.ivst := stStart x.regs.ivst }

def evInterleaveCommit (l : Nat) (v : BitVec 64) : M Unit := updS fun s => s.updLd l fun x => x.writeIvcmt s.ticks v.toNat

/-- The waits of a step that a commit held go on, without the time of the hold: `before` is the state with the commit (R114). -/
def State.pastHold (s before : State) (l : Nat) (x : Ctx) : Ctx :=
  match before.heldFrom l x with
  | none => x
  | some h =>
    let until_ := (s.heldFrom l x).getD s.ticks
    { x with waitFrom := x.waitFrom.map fun t => t + (until_ - max h t) }

/-- Changes every context of the part, resident or swapped out, with its die. -/
def State.mapSteps (s : State) (f : Nat → Ctx → Ctx) : State :=
  { s with lds := s.lds.map fun (d : Nat × Ld) => (d.1, { d.2 with
      cores := d.2.cores.map (fun (k : Nat × Core) => (k.1, { k.2 with ctxs := k.2.ctxs.map fun c => (c.1, f d.1 c.2) }))
      saved := d.2.saved.map fun (v : Nat × Saved) => (v.1, { v.2 with ctx := f d.1 v.2.ctx }) }) }

/-! Work queues (R186, R187) -/

/-- The place of a queue's descriptor. -/
def Ld.descAt (x : Ld) (q : Nat) : Nat := 4096 * bits x.regs.wqtbase.toNat 12 40 + 16 * q
/-- HEAD as it stands in memory. -/
def Ld.wqHead (x : Ld) (q : Nat) : Nat := x.num (x.descAt q + 12) 4
/-- The tail that the doorbell holds. -/
def Ld.wqTail (x : Ld) (q : Nat) : Nat := bits (mgetD x.regs.wqdb q 0#64).toNat 0 32

/-- A descriptor under which nothing is processed (R187). -/
def descBad (d tail : Nat) : Bool :=
  let n := bits d 7 5
  !bit d 0 || decide (n < 6) || decide (16 < n) || bits d 52 44 != 0 || bits d 1 6 != 0 || decide (2 ^ n < (tail + 2 ^ 32 - bits d 96 32) % 2 ^ 32)

/-- The doorbell of a queue is taken: the descriptor is read (R186, R187), once no commit holds it (R114). -/
def State.takeDoorbell (s : State) (l q : Nat) : State :=
  let held := s.commitHolds l ((s.ld l).descAt q) 16
  let s := s.updLd l fun x => { x with bells := x.bells.upd q held }
  let x := s.ld l
  let d := x.num (x.descAt q) 16
  if held then s
  else
  let s := s.readThrough 0 [(l, x.descAt q, 16)]
  if descBad d (x.wqTail q) then
    (s.updLd l fun x => { x with wqEn := x.wqEn.upd q false, wqWork := x.wqWork.upd q false }).errLog l 2 9 0x2CB q true
  else s.updLd l fun x => { x with wqEn := x.wqEn.upd q true, wqDesc := mput x.wqDesc q d, wqWork := x.wqWork.upd q (bits d 96 32 != x.wqTail q) }

/-- The completion records and the doorbells that something held are written and taken (R114, R187, R217). -/
def State.takeHeld (s : State) : State :=
  s.lds.foldl (fun s e =>
    let s := e.2.bells.foldl (fun s q => s.takeDoorbell e.1 q.1) s
    if e.2.crecs.isEmpty then s else s.writeCrecs e.1 e.2.crecs) s

/-- interleaveCommitDone (R114): the lines are moved, the active entries take the staged ones. -/
def evInterleaveCommitDone (l : Nat) : M Unit := do
  let s ← getS
  match (s.ld l).commit with
  | none => idle
  | some (a, m) =>
    updS fun s =>
      let t := s.updLd l fun x =>
        { x with
          commit := none
          regs.ivst := stEnd x.regs.ivst
          regs.ivact := (List.range (m / 2 ^ 30)).foldl (fun (t : Smap Word) i => mput t (a / 2 ^ 30 + i) (mgetD x.regs.ivstg (a / 2 ^ 30 + i) ivReset)) x.regs.ivact }
      (t.mapSteps (t.pastHold s)).takeHeld

/-- The pseudo-channel of a DPA under the active entries (R112). -/
def Ld.channel (x : Ld) (a : Nat) : Nat :=
  let e := (mgetD x.regs.ivact (a / 2 ^ 30) ivReset).toNat
  let w := (a >>> (8 + bits e 8 4)) % 2 ^ bits e 4 3
  (if bit e 15 then w ^^^ bits a 30 6 else w) % 64

/-! The host (R184, R441) -/

/-- The lines of a range come into the host's caches, or leave them (R442). -/
def Ld.hostHolds (x : Ld) (a n : Nat) (b : Bool) : Ld := { x with hostHeld := (linesOf a n).foldl (fun m line => m.upd line b) x.hostHeld }

/-- hostCxlMemAccess (R441, R442): the host of an LD's virtual hierarchy reads published bytes of its stack, whose lines it then holds, or writes
them through the home die cache. At a green it is the host's access to its own memory (R174), where byte `a` of host number n has the
address 2^52 · n + a. -/
def evHostCxlMemAccess (l : Nat) (write : Bool) (addr n : Nat) (bytes : List (BitVec 8)) : M Unit := do
  let s ← getS
  let len := if write then bytes.length else n
  need (decide (1 ≤ len) && decide (len ≤ 64))
  if l % 16 = 8 then updS fun s => if write then s.hostWrites addr bytes else s
  else do
    need (decide (addr + len ≤ 2 ^ 36) && decide (l % 16 < 8) && (s.ld l).host.isSome && !s.commitHolds l addr len && s.linesFree l addr len)
    updS fun s =>
      if write then (s.updLd l fun x => x.hostHolds addr len false).pokeLd l addr bytes
      else ((s.updLd l fun x => x.answers x.peerAns (s.peekAt { home := l, addr := addr } n)).readThrough 0 [(l, addr, n)]).updLd l fun x => x.hostHolds addr n true

end Sys2Proof.Machine
end

