-- ==== Sys2Proof/Machine/Logical.lean ====
section
/-! DEFINITION. Logical time at the homes and members of parishes (R138 to R161, R474, R475): parish commands, batches, counts and
curfews, notices, the spill area. -/

namespace Sys2Proof.Machine

/-! Counts (R153, R158) -/

/-- A change to a table of (yard, stamp, count), kept in order and without zeros. -/
def addCount (y t : Nat) (d : Int) : List (Nat × Nat × Int) → List (Nat × Nat × Int)
  | [] => if d = 0 then [] else [(y, t, d)]
  | e :: r =>
    if e.1 = y ∧ e.2.1 = t then (if e.2.2 + d = 0 then r else (y, t, e.2.2 + d) :: r)
    else if y < e.1 ∨ (y = e.1 ∧ t < e.2.1) then (if d = 0 then e :: r else (y, t, d) :: e :: r)
    else e :: addCount y t d r

/-- Every count of a parish, resident or spilled. -/
def Parish.allCounts (p : Parish) : List (Nat × Nat × Int) := p.spilled.foldl (fun t e => addCount e.2.1 e.2.2.1 e.2.2.2 t) p.counts

/-- The curfew of a yard (R153). -/
def Parish.homeCurfew (p : Parish) (y : Nat) : Nat :=
  p.allCounts.foldl (fun (m : Nat) (e : Nat × Nat × Int) =>
    if 0 < e.2.2 then (match p.path e.1 y with
      | some σ => min m (sumApply σ e.2.1)
      | none => m) else m) closedStamp

/-- A count change at the home; a spilled entry is read back first (R159). -/
def Parish.change (p : Parish) (r : Rec) : Parish :=
  match p.spilled.find? fun e => e.2.1 == r.yard && e.2.2.1 == r.stamp with
  | some e => { p with spilled := p.spilled.erase e, counts := addCount r.yard r.stamp (e.2.2.2 + r.delta) p.counts }
  | none => { p with counts := addCount r.yard r.stamp r.delta p.counts }

/-- A count beyond ±(2^31 − 1) (R158). -/
def Parish.overflows (p : Parish) : Bool := p.allCounts.any fun e => decide (2 ^ 31 ≤ e.2.2.natAbs)

/-- A curfew notice on its way to a die (R154); one that the fabric loses is reported (R415). -/
def State.sendNotice (s : State) (dst : Nat) (n : Notice) : State :=
  (s.updLd dst fun x => { x with belfry.notices := x.belfry.notices ++ [{ n with way := s.ticket n.src dst }] }).post n.src dst 2 (s.packed [])

/-- A reply to a root notice on its way to the home (R474). -/
def State.sendReply (s : State) (dst : Nat) (n : Notice) : State :=
  (s.updLd dst fun x => { x with belfry.replies := x.belfry.replies ++ [{ n with way := s.ticket n.src dst }] }).post n.src dst 2 (s.packed [])

/-- The dies to which a home sends its notices: itself and the other members. -/
def Parish.noticeDies (p : Parish) (home : Nat) : List Nat := home :: p.memberDies.filter (· != home)

/-- Curfews are computed again at a home and the risen ones announced (R154). `old` is the parish before the batch. A curfew that
passes a stamp with a negative count stops the parish (R158). -/
def State.announce (s : State) (h p : Nat) (old : Nat → Nat) : State :=
  let pa := s.parish h p
  if pa.stopped then s
  else
    let now (y : Nat) : Nat := pa.homeCurfew y
    if pa.allCounts.any fun e => decide (e.2.2 < 0) && decide (e.2.1 < now e.1) then
      (s.notice h 6 2 4 0x243 p).updParish h p fun q => { q with stopped := true }
    else
      (List.range (pa.nym1 + 1)).foldl (fun s y =>
        if old y < now y then
          (pa.noticeDies h).foldl (fun s d => s.sendNotice d { src := h, parish := p, yard := y, value := now y, auth := pa.authTo d }) s
        else s) s

/-! Spill (R159, R160) -/

/-- Entries a belfry keeps resident. -/
def residentMax : Nat := 16384
/-- Resident entries of a die's belfry. -/
def Ld.resident (x : Ld) : Nat := x.parishes.foldl (fun n p => n + p.2.counts.length) 0
/-- Places in the spill area. -/
def Ld.spillRoom (x : Ld) : Nat := 4096 * bits x.regs.ltspsz.toNat 0 16
/-- A free place of the spill area. -/
def Ld.spillPlace (x : Ld) : Option Nat :=
  let used := x.parishes.flatMap fun p => p.2.spilled.map (·.1)
  (List.range (min x.spillRoom (used.length + 1))).find? fun i => !used.contains i

/-- An entry that may be spilled: not the least stamp with a positive count of its yard. -/
def Parish.spillable (p : Parish) : Option (Nat × Nat × Int) :=
  p.counts.reverse.find? fun e => decide (e.2.2 ≤ 0) || p.counts.any fun f => f.1 == e.1 && decide (f.2.1 < e.2.1) && decide (0 < f.2.2)

/-- A spilled entry's image, in the record layout (R157, R159). -/
def spillImage (p y t : Nat) (c : Int) : List (BitVec 8) := natLe 16 (put t 64 64 ||| put p 58 6 ||| put y 50 8 ||| wrap 32 c)

/-- One entry goes to the spill area. -/
def State.spillOne (s : State) (h : Nat) : State :=
  let x := s.ld h
  match x.parishes.findSome? fun p => p.2.spillable.map fun e => (p.1, e), x.spillPlace with
  | some (p, e), some i =>
    let s := s.updParish h p fun q => { q with counts := q.counts.erase e, spilled := q.spilled ++ [(i, e.1, e.2.1, e.2.2)] }
    s.pokeLd h (65536 * bits x.regs.ltspbase.toNat 16 36 + 16 * i) (spillImage p e.1 e.2.1 e.2.2)
  | _, _ => s

/-- The resident table is brought back to its size. -/
def State.spillDown (s : State) (h : Nat) : Nat → State
  | 0 => s
  | n + 1 => if residentMax < (s.ld h).resident then State.spillDown (s.spillOne h) h n else s

/-- Every spill that the table's size asks for (R159). -/
def State.makeRoom (s : State) (h : Nat) : State := s.spillDown h (s.ld h).resident

/-- A spill that finds the area full: the waits of the parish that has gained an entry begin, with a record and a notice (R160). -/
def State.spillFull (s : State) (h p : Nat) : State :=
  if (s.ld h).resident ≤ residentMax || (s.parish h p).full then s
  else (s.notice h 6 2 4 0x246 p).updParish h p fun q => { q with full := true }

/-- Waits end where there is room again (R160). -/
def State.endFull (s : State) (h : Nat) : State :=
  let x := s.ld h
  if x.resident ≤ residentMax ∨ x.spillPlace.isSome then s.updLd h fun x => { x with parishes := x.parishes.map fun p => (p.1, { p.2 with full := false }) }
  else s

/-- Count changes applied at a home as one batch, increments first, and the curfews after it (R154, R156). -/
def State.applyRecs (s : State) (h : Nat) (recs : List Rec) (old : Nat → Nat → Nat) : State :=
  let held (p : Nat) : Nat := (s.parish h p).allCounts.length
  let s := ((recs.filter fun r => decide (0 < r.delta)) ++ recs.filter fun r => decide (r.delta ≤ 0)).foldl (fun s r => s.updParish h r.parish fun p => p.change r) s
  let ps := (recs.map (·.parish)).eraseDups
  if ps.any fun p => (s.parish h p).overflows then s.machineStop h 4 true
  else
    let s := (ps.foldl (fun s p => s.announce h p (old p)) s).makeRoom h
    let grown := ps.filter fun p => decide (held p < (s.parish h p).allCounts.length)
    (grown.foldl (fun s p => s.spillFull h p) s).endFull h

/-- The curfews that a home has announced. -/
def State.announced (s : State) (h p y : Nat) : Nat := (s.parish h p).homeCurfew y

/-! Parish commands (R141, R142) -/

/-- BUSY of LTST. -/
def Ld.ltBusy (x : Ld) : Bool := stBusy x.regs.ltst
/-- A command that is ignored sets ERR (R141). -/
def Ld.ltIgnored (x : Ld) : Ld := { x with regs.ltst := stErr x.regs.ltst }
/-- A command starts. -/
def Ld.ltStart (x : Ld) (cmd p : Nat) : Ld := { x with regs.ltcmd := BitVec.ofNat 64 (put cmd 8 4 ||| put p 0 6), regs.ltst := stStart x.regs.ltst }
/-- A command ends. -/
def Ld.ltDone (x : Ld) : Ld := { x with regs.ltst := stEnd x.regs.ltst }
/-- A refused command changes nothing but ERR and DETAIL. -/
def Ld.ltRefused (x : Ld) (cause : Nat) : Ld := { x with regs.ltst := stErr (setField (x.regs.ltst &&& ~~~1#64) 8 6 (cause - 0x240)) }

/-- The descriptor of a parish as memory holds it (R138). -/
def Ld.parDesc (x : Ld) (p : Nat) : Nat := x.num (4096 * bits x.regs.ltparbase.toNat 12 40 + 32 * p) 32
/-- A member entry is malformed (R139). -/
def memberBad (e : Nat) : Bool := bits e 1 37 != 0 || decide (8 < bits e 50 4)
/-- The member entries of a descriptor. -/
def Ld.memberList (x : Ld) (d : Nat) : List Word := (List.range (bits d 205 7)).map fun i => BitVec.ofNat 64 (x.num (4096 * bits d 212 40 + 8 * i) 8)
/-- The path summaries of a descriptor (R151). -/
def Ld.readPst (x : Ld) (d : Nat) : Smap Nat :=
  let a := 4096 * bits d 160 40
  let n := bits d 96 8 + 1
  (List.range n).foldl (fun m r =>
    let reach := x.num (a + 32 * r) 32
    (List.range n).foldl (fun m c => if bit reach c then mput m (256 * r + c) (x.num (a + 8192 + 2 * (256 * r + c)) 2) else m) m) []

/-- A summary without its reach bit is not zero (R8, R151). -/
def Ld.pstReserved (x : Ld) (d : Nat) : Bool :=
  let a := 4096 * bits d 160 40
  let ys := List.range (bits d 96 8 + 1)
  ys.any fun r =>
    let reach := x.num (a + 32 * r) 32
    ys.any fun c => !bit reach c && x.num (a + 8192 + 2 * (256 * r + c)) 2 != 0

/-- The tests of a PST (R152). -/
def pstOk (n : Nat) (t : Smap Nat) : Bool :=
  let ys := List.range n
  let pair (x y : Nat) : Option (Nat × Nat) := (mget t (256 * x + y)).map sumPair
  (t.all fun e => !sumBad e.2) &&
  (ys.all fun y => (pair y y).any fun p => pairLe p (3, 0)) &&
  ys.all fun x => ys.all fun y => match pair x y with
    | none => true
    | some a => ys.all fun z => match pair y z with
      | none => true
      | some b => (pair x z).any fun c => pairLe c (pairCompose a b)

/-- The handle of a member entry: EXPIDX and GEN, when it is well formed and authorises this die's traffic to the member (R139). -/
def Ld.memberAuth (x : Ld) (e : Word) : Option (Nat × Nat) :=
  let h := x.num (4096 * bits x.regs.htbase.toNat 12 40 + 16 * bits e.toNat 38 12) 16
  if bits h 96 16 != 0 || bits h 64 4 != 0 || bits h 0 4 != 0 || bits h 118 10 != bits e.toNat 54 10 || bits h 115 3 != bits e.toNat 50 4 || !bit h 113 then none
  else some (bits h 68 12, bits h 80 16)

/-- The refusal of an Enable, if there is one, in the order of R142. -/
def Ld.enableCause (x : Ld) (p : Nat) : Option Nat :=
  let d := x.parDesc p
  let ms := x.memberList d
  if (x.parish p).enabled ∨ (x.parish p).enabling then some 0x245
  else if !bit d 0 then some 0x245
  else if bits d 252 4 != 0 || bits d 200 5 != 0 || bits d 120 40 != 0 || bits d 104 2 != 0 || bits d 1 81 != 0 || decide (8 < bits d 106 4) || decide (64 < bits d 205 7) || (ms.any fun e => memberBad e.toNat) then some 0x24A
  else if x.pstReserved d || !pstOk (bits d 96 8 + 1) (x.readPst d) then some 0x244
  else if bits d 96 8 < bits d 88 8 then some 0x240
  else if ms.any fun e => bit e.toNat 0 && (x.memberAuth e).isNone then some 0x248
  else none

/-- ltEnable (R142): the belfry reads the descriptor, the member list and the PST. -/
def evLtEnable (l p : Nat) : M Unit :=
  updS fun s => s.updLd l fun x =>
    if x.ltBusy then x.ltIgnored
    else
      match x.enableCause p with
      | some c => (x.ltStart 1 p).ltRefused c
      | none =>
        let d := x.parDesc p
        let ms := x.memberList d
        let y := x.ltStart 1 p
        { y with parishes := mput y.parishes p { enabling := true, desc := BitVec.ofNat 256 d, members := ms, auths := ms.map fun e => (x.memberAuth e).getD (0, 0), pst := x.readPst d } }

/-- ltEnableComplete (R142, R143): the home counts the root at (0, 0, 0, 0). -/
def evLtEnableComplete (l p : Nat) : M Unit := do
  let s ← getS
  need ((s.parish l p).enabling)
  updS fun s =>
    let s := (s.updParish l p fun q => { q with enabling := false, enabled := true }).updLd l Ld.ltDone
    let pa := s.parish l p
    if pa.home = l ∧ pa.hpar = p then s.applyRecs l [{ parish := p, yard := pa.rooty, stamp := 0, delta := 1 }] (fun _ _ => 0) else s

/-- The other members of a parish. -/
def Parish.others (p : Parish) (l : Nat) : List Nat := p.memberDies.filter (· != l)

/-- The open batches of a die for a home are closed and sent, the oldest first (R156, R474). -/
def State.closeBatch (s : State) (l home : Nat) : State :=
  ((s.ld l).belfry.openB.filter fun b => b.home == home).foldl (fun s b => (s.dropBatch b).sendBatch b) s

/-- Every member has replied (R474): the home's own copy changes, and the command's batch is sent behind all that the home has sent itself,
so that a placement checked against the old copy is counted first. A reply of its own stands behind that batch. -/
def State.sendRoot (s : State) (l p : Nat) : State :=
  let pa := s.parish l p
  match pa.cmd with
  | none => s
  | some (c, t) =>
    let minus : Nat × Nat × Int := (pa.rooty, pa.root, -1)
    let s := s.updParish l p fun q => { q with cmd := none, replies := 0, root := if c = 2 then t else q.root, isSealed := q.isSealed || c == 3 }
    let s := ((s.closeBatch l l).countRecs l p (if c = 2 then [(pa.rooty, t, 1), minus] else [minus])).closeBatch l l
    let q := mgetD (s.ld l).belfry.seqOut l 0
    s.sendReply l { src := l, parish := p, value := q }

/-- A root notice to every other member (R474), in the channel of the curfew notices. -/
def State.startRoot (s : State) (l p cmd t : Nat) : State :=
  let pa := s.parish l p
  let s := s.updParish l p fun q => { q with cmd := some (cmd, t), replies := 0 }
  let s := (pa.others l).foldl (fun s d =>
    s.sendNotice d { src := l, parish := p, root := true, value := t, sealN := cmd == 3, auth := pa.authTo d }) s
  if (pa.others l).isEmpty then s.sendRoot l p else s

/-- The refusal of a command that only the home of an enabled, unsealed parish takes (R142). -/
def State.rootRefusal (s : State) (l p : Nat) : Bool :=
  let pa := s.parish l p
  !pa.enabled || pa.home != l || pa.hpar != p || pa.isSealed

/-- ltAdvanceRoot (R142, R474): to the stamp of LTARG. -/
def evLtAdvanceRoot (l p : Nat) : M Unit :=
  updS fun s =>
    let x := s.ld l
    let t := x.regs.ltarg.toNat
    if x.ltBusy then s.updLd l Ld.ltIgnored
    else
      let s := s.updLd l fun x => x.ltStart 2 p
      if s.rootRefusal l p then s.updLd l fun x => x.ltRefused 0x245
      else if isClosed t then s.updLd l fun x => x.ltRefused 0x241
      else if t < (s.parish l p).root then s.updLd l fun x => x.ltRefused 0x242
      else s.startRoot l p 2 t

/-- ltSeal (R142, R474). -/
def evLtSeal (l p : Nat) : M Unit :=
  updS fun s =>
    if (s.ld l).ltBusy then s.updLd l Ld.ltIgnored
    else
      let s := s.updLd l fun x => x.ltStart 3 p
      if s.rootRefusal l p then s.updLd l fun x => x.ltRefused 0x245 else s.startRoot l p 3 0

/-- ltDisable (R142, R475): at the home once it is sealed and nothing is counted, at a member always. The descriptor's names stay, so
that count changes still find the home. DESIGN CHOICE (log entry 122): a root notice that is queued at the member goes with the other
notices and is not answered, so the home's command stays BUSY. -/
def evLtDisable (l p : Nat) : M Unit :=
  updS fun s =>
    if (s.ld l).ltBusy then s.updLd l Ld.ltIgnored
    else
      let s := s.updLd l fun x => x.ltStart 4 p
      let pa := s.parish l p
      if !pa.enabled then s.updLd l fun x => x.ltRefused 0x245
      else if pa.home = l ∧ pa.hpar = p ∧ (!pa.isSealed ∨ !pa.allCounts.isEmpty) then s.updLd l fun x => x.ltRefused 0x243
      else
        let s := s.updParish l p fun q => { desc := q.desc, members := q.members, auths := q.auths }
        s.updLd l fun x => { x.ltDone with belfry.notices := x.belfry.notices.filter fun n => !(n.src == pa.home && n.parish == pa.hpar) }

/-- ltBadCommand (R141): an unknown command, or a write while BUSY, sets ERR; LTCMD stays as it reads, while it takes a known command that is
then refused (log entry 104). -/
def evLtBadCommand (l : Nat) (v : BitVec 64) : M Unit := do
  let s ← getS
  need ((s.ld l).ltBusy || bits v.toNat 8 4 == 0 || decide (4 < bits v.toNat 8 4))
  updS fun s => s.updLd l Ld.ltIgnored

/-! Root notices (R474) -/

/-- The local number of a parish that a home names; `known` accepts one that is disabled but described. -/
def Ld.localParish (x : Ld) (home hpar : Nat) (known : Bool) : Option Nat :=
  (x.parishes.find? fun p => (p.2.enabled || (known && bit p.2.desc.toNat 0 && !p.2.enabling)) && p.2.home == home && p.2.hpar == hpar).map (·.1)

/-- A notice whose authority fails is discarded, and the parish's curfews stop (R139). -/
def State.noticeRefused (s : State) (l p : Nat) : State := (s.errLog l 2 4 0x248 p true).updParish l p fun q => { q with stopped := true }

/-- The notice that comes next at a die (R154, R474): the first that has arrived of a parish that the die has enabled or has disabled. -/
def Ld.nextNotice (x : Ld) : Option (Notice × Nat) :=
  (x.belfry.notices.filter fun n => n.way.isNone).findSome? fun n => (x.localParish n.src n.parish true).map fun p => (n, p)

/-- rootNoticeApply (R474): the copy of the root changes; the reply follows every batch sent before. -/
def evRootNoticeApply (l : Nat) : M Unit := do
  let s ← getS
  match (s.ld l).nextNotice with
  | none => idle
  | some (n, p) => do
    need n.root
    updS fun s =>
      let s := s.updLd l fun x => { x with belfry.notices := x.belfry.notices.erase n }
      if !s.authOk l n.src n.auth then s.noticeRefused l p
      else
        let s := s.updParish l p fun q => if n.sealN then { q with isSealed := true } else { q with root := n.value }
        let s := s.closeBatch l n.src
        let q := mgetD (s.ld l).belfry.seqOut n.src 0
        s.sendReply n.src { src := l, parish := n.parish, value := q }

/-- A sequence number has been reached: `now` is not behind `v`, counting on past 2^32 (R157). -/
def seqReached (v now : Nat) : Bool := decide ((now + 2 ^ 32 - v) % 2 ^ 32 < 2 ^ 31)

/-- rootNoticeReply (R474): behind the sender's earlier batches. The last member's sends the command's batch; the home's own, behind that
batch, sets DONE. -/
def evRootNoticeReply (l : Nat) : M Unit := do
  let s ← getS
  match (s.ld l).belfry.replies.find? fun r => r.way.isNone && seqReached r.value (mgetD (s.ld l).belfry.seqIn r.src 0) with
  | none => idle
  | some r =>
    updS fun s =>
      let s := s.updLd l fun x => { x with belfry.replies := x.belfry.replies.erase r }
      if r.src = l then s.updLd l Ld.ltDone
      else
        let s := s.updParish l r.parish fun q => { q with replies := q.replies + 1 }
        let pa := s.parish l r.parish
        if pa.cmd.isSome && decide ((pa.others l).length ≤ pa.replies) then s.sendRoot l r.parish else s

/-! Batches (R155 to R158) -/

/-- batchCloseTimeout (R155): 1 rt after its first record the batch is sent. -/
def evBatchCloseTimeout (l : Nat) : M Unit := do
  let s ← getS
  match (s.ld l).belfry.openB with
  | [] => idle
  | b :: r => updS fun s => (({ s with ticks := max s.ticks (b.at_ + 70) }).updLd l fun x => { x with belfry.openB := r }).sendBatch b

/-- Why a home discards a batch (R137, R139, R157). -/
def State.batchCause (s : State) (h : Nat) (b : Batch) : Option Nat :=
  let ps := (b.recs.map (·.parish)).eraseDups
  let negs := b.recs.dropWhile fun r => decide (0 < r.delta)
  if b.bad || b.seq != mgetD (s.ld h).belfry.seqIn b.src 0 || b.recs.isEmpty || decide (256 < b.recs.length) ||
    (b.recs.any fun r => r.delta == 0) || (negs.any fun r => decide (0 < r.delta)) then some 0x249
  else if ps.any fun p => !(s.parish h p).enabled then some 0x245
  else if b.src != h && ((ps.any fun p => !(s.parish h p).memberDies.contains b.src) || !s.authOk h b.src b.auth) then some 0x248
  else if b.recs.any fun r => decide ((s.parish h r.parish).nym1 < r.yard) then some 0x240
  else none

/-- batchApply (R156): the oldest batch that has arrived is checked and applied as a whole. -/
def evBatchApply (l : Nat) : M Unit := do
  let s ← getS
  match (s.ld l).belfry.inbox.find? fun b => b.way.isNone with
  | none => idle
  | some b =>
    updS fun s =>
      let cause := s.batchCause l b
      let s := s.updLd l fun x => { x with belfry.inbox := x.belfry.inbox.erase b, belfry.seqIn := mput x.belfry.seqIn b.src ((b.seq + 1) % 2 ^ 32) }
      match cause with
      | some c =>
        ((b.recs.map (·.parish)).eraseDups).foldl (fun s p => s.updParish l p fun q => { q with stopped := true }) (s.errLog l 2 4 c b.src true)
      | none => s.applyRecs l b.recs (s.announced l)

/-! Curfew notices (R154) -/

/-- Operators of a parish whose yards are all closed are complete (R215). -/
def State.completeOps (s : State) (l p : Nat) : State :=
  let done (o : Op) : Bool :=
    o.parish == p && !o.complete && !o.killed && (o.yard :: o.outYards).all fun y => (s.parish l p).curfew y == closedStamp
  ((s.ld l).ops.filter fun o => done o.2).foldl (fun s o => s.completeOp l o.1) s

/-- curfewNoticeApply (R154, R215): the local value rises; walkers, cfw and waitc find it at their next test. A notice of a parish that
has been disabled here changes nothing (R475). -/
def evCurfewNoticeApply (l : Nat) : M Unit := do
  let s ← getS
  match (s.ld l).nextNotice with
  | none => idle
  | some (n, p) => do
    need (!n.root)
    updS fun s =>
      let s := s.updLd l fun x => { x with belfry.notices := x.belfry.notices.erase n }
      if !(s.parish l p).enabled then s
      else if !s.authOk l n.src n.auth then s.noticeRefused l p
      else if (s.parish l p).stopped then s
      else ((s.updParish l p fun q => { q with curfews := mput q.curfews n.yard (max (q.curfew n.yard) n.value) }).completeOps l p).completeRegions l

/-! Spill area (R159, R160) -/

/-- spillReadback (R159): a spilled entry comes back while there is room. -/
def evSpillReadback (l : Nat) : M Unit := do
  let s ← getS
  let x := s.ld l
  match x.parishes.findSome? fun p => p.2.spilled.head?.map fun e => (p.1, e) with
  | none => idle
  | some (p, e) => do
    need (decide (x.resident < residentMax))
    updS fun s => (s.updParish l p fun q => { q with spilled := q.spilled.erase e, counts := addCount e.2.1 e.2.2.1 e.2.2.2 q.counts }).endFull l

/-- ltspszWrite (R160): a smaller area is ignored while entries are spilled; a larger one takes the entries that stand over the table's
size, and the waits end. -/
def evLtspszWrite (l : Nat) (v : BitVec 64) : M Unit :=
  updS fun s =>
    let x := s.ld l
    if bits v.toNat 0 16 < bits x.regs.ltspsz.toNat 0 16 ∧ x.parishes.any (fun p => !p.2.spilled.isEmpty) then s
    else ((s.updLd l fun x => { x with regs.ltspsz := v &&& 0xFFFF#64 }).makeRoom l).endFull l

end Sys2Proof.Machine
end

