-- ==== Sys2Proof/Machine/Command.lean ====
section
/-! DEFINITION. The command processor: work queues and launch records (R185 to R189), regions and operators (R190 to R198, R212, R213),
resumes (R423), the writing of fault records (R426). -/

namespace Sys2Proof.Machine

/-! Work queues (R186, R187) -/

/-- doorbellWrite (R185, R187): kept until stage 3 is reached (R447). -/
def evDoorbellWrite (l q : Nat) (tail : BitVec 32) : M Unit := do
  let s ← getS
  need (s.ld l).host.isSome
  updS fun s =>
    let s := s.updLd l fun x => { x with regs.wqdb := mput x.regs.wqdb q (tail.setWidth 64) }
    if (s.ld l).stage = 3 ∧ (s.ld l).out = false then s.takeDoorbell l q else s.updLd l fun x => { x with wqWork := x.wqWork.upd q true }

/-! Launch records (R188, R189) -/

/-- Fields of a launch record. -/
def recKind (r : Nat) : Nat := bits r 0 4
def recBlock (r : Nat) : Nat := bits r 320 64
def recDeadline (r : Nat) : Nat := bits r 448 64
def launchOf (r : Nat) : Launch := { crec := bits r 384 64, tag := bits r 32 32, msie := bit r 15, msix := bits r 4 11 }
/-- An unknown kind, a reserved bit, a misaligned CREC. -/
def recordBad (r : Nat) : Bool :=
  recKind r == 0 || decide (6 < recKind r) || bits r 16 16 != 0 || bits r 64 256 != 0 || bits r 384 6 != 0 || (recKind r != 2 && recDeadline r != 0)

/-- Where the record at HEAD of a queue lies (R187). -/
def Ld.recordAt (x : Ld) (q : Nat) : Nat :=
  let d := mgetD x.wqDesc q 0
  4096 * bits d 12 40 + 64 * (x.wqHead q % 2 ^ bits d 7 5)

/-- The next record of a queue that may be processed (R183, R187). -/
def State.nextRecord (s : State) (l q : Nat) : Option Nat :=
  let x := s.ld l
  if x.stage = 3 ∧ x.out = false ∧ x.wqEn.has q ∧ x.wqHead q ≠ x.wqTail q ∧ !s.commitHolds l (x.recordAt q) 64 ∧ !s.commitHolds l (x.descAt q) 16 then
    some (x.num (x.recordAt q) 64)
  else none

/-- The bytes that a record has the command processor read at BLOCK (R189, R190). -/
def Ld.blockLen (x : Ld) (r : Nat) : Nat :=
  if recordBad r then 0
  else match recKind r with
    | 1 => 256
    | 2 => 512
    | 3 => if ((mget x.regions (recBlock r)).any fun g => !g.complete) then 256 else 512
    | 6 => 64
    | _ => 0

/-- That read must wait (R29, R114). -/
def State.blockHeld (s : State) (l r : Nat) : Bool :=
  match s.vaPlaces l 48 0 1 (recBlock r) ((s.ld l).blockLen r) with
  | .error e => e == heldCode
  | .ok _ => false

/-- HEAD moves past a processed record, published at system scope (R187). -/
def State.advanceHead (s : State) (l q : Nat) : State :=
  let h := ((s.ld l).wqHead q + 1) % 2 ^ 32
  let s := s.pokeLd l ((s.ld l).descAt q + 12) (natLe 4 h)
  s.updLd l fun x => { x with wqWork := x.wqWork.upd q (h != x.wqTail q) }

/-- Processes the next record of a queue when it passes a test. -/
def withRecord (l q : Nat) (ok : Nat → Bool) (f : Nat → State → State) : M Unit := do
  let s ← getS
  match s.nextRecord l q with
  | none => idle
  | some r => do
    need (ok r && !s.blockHeld l r)
    updS fun s =>
      let s := (s.readThrough 0 [(l, (s.ld l).recordAt q, 64)]).readVaDone l 48 0 1 (recBlock r) ((s.ld l).blockLen r)
      (f r s).advanceHead l q

/-- A well-formed record of a kind. -/
def isKind (kind r : Nat) : Bool := !recordBad r && recKind r == kind

/-- A refused record (R189, R216, R218): its completion record and a fault queue record, and nothing else. -/
def State.refuseRecord (s : State) (l r cause : Nat) : State :=
  (s.complete l (launchOf r) (refusalStatus cause) cause s.ns 0 0).noteRefusal l cause (recBlock r)

/-- The completion record of kinds 3 to 6 (R189). -/
def State.recordDone (s : State) (l r : Nat) : State := s.complete l (launchOf r) 1 0 s.ns 0 0

/-- What the command processor reads at BLOCK, at system scope (R182, R189). -/
def State.readBlock (s : State) (l a n : Nat) : Except Nat Nat := (s.readVa l 48 0 1 a n).map fun bs => leNat (bs.map (·.1))

/-- launchRefused (R189). -/
def evLaunchRefused (l q : Nat) : M Unit := withRecord l q recordBad fun r s => s.refuseRecord l r 0x2C2

/-! Regions (R191 to R193, R212) -/

/-- The inherited fields: INH bit, place, width (R192). -/
def inhFields : List (Nat × Nat × Nat) := [(0, 64, 48), (1, 128, 16), (2, 144, 32), (3, 176, 16), (4, 192, 16), (5, 208, 16), (6, 224, 4), (7, 228, 4), (8, 232, 2)]
/-- The effective fields of an RCB under its parent's (R192). -/
def rcbEffective (rcb parent : Nat) : Nat :=
  inhFields.foldl (fun v f => if bit rcb (112 + f.1) then v - put (bits v f.2.1 f.2.2) f.2.1 f.2.2 + put (bits parent f.2.1 f.2.2) f.2.1 f.2.2 else v) rcb

/-- The region open at a VA (R193). -/
def Ld.openAt (x : Ld) (va : Nat) : Option Region := (mget x.regions va).filter fun r => !r.closed && !r.killed
/-- TIMED and RESC. -/
def Region.timed (r : Region) : Bool := bit r.rcb.toNat 234
def rcbResc (rcb : Nat) : Nat := bits rcb 240 6

/-- The cores of a mask that no other timed region has reserved. -/
def Ld.unreserved (x : Ld) (mask : Nat) : List Nat := (setBits mask 48).filter fun k => (x.reservedBy k).isNone

/-- Why an RCB is refused, in the order of R193 and then R212. DEDUCED (log entry 124): no row refuses the SPADK of a top region above 3,072. -/
def Ld.openCause (x : Ld) (rcb : Nat) : Option Nat :=
  let pva := bits rcb 0 64
  let par := if pva = 0 then none else x.openAt pva
  let inh (b : Nat) : Bool := bit rcb (112 + b)
  let p := ((par.map (·.eff)).getD 0#2048).toNat
  let e := rcbEffective rcb p
  let known (b : Nat) : Bool := !inh b || par.isSome
  if bits rcb 246 1802 != 0 || bits rcb 235 5 != 0 || bits rcb 121 7 != 0 || (!bit rcb 234 && rcbResc rcb != 0) then some 0x2C0
  else if known 8 && bits e 232 2 == 3 then some 0x2C0
  else if known 6 && known 7 && decide (bits e 228 4 < bits e 224 4) then some 0x2C0
  else if pva = 0 ∧ bits rcb 112 16 ≠ 0 then some 0x2C0
  else if pva != 0 && (match par with | none => true | some r => r.timed || decide (8 ≤ r.depth)) then some 0x2C3
  else if pva ≠ 0 ∧ (bits e 64 48 &&& bits p 64 48 ≠ bits e 64 48 ∨ bits p 228 4 < bits e 228 4 ∨ bits p 128 16 < bits e 128 16) then some 0x2C4
  else if bit rcb 234 ∧ (rcbResc rcb = 0 ∨ (setBits (bits e 64 48) 48).length < rcbResc rcb) then some 0x2C0
  else if bit rcb 234 ∧ (x.unreserved (bits e 64 48)).length < rcbResc rcb then some 0x2C7
  else none

/-- openRegion (R189, R191, R212): a timed region reserves its lowest-numbered free cores. -/
def evOpenRegion (l q : Nat) : M Unit :=
  withRecord l q (isKind 1) fun r s =>
    match s.readBlock l (recBlock r) 256 with
    | .error c => s.refuseRecord l r c
    | .ok rcb =>
      let x := s.ld l
      match x.openCause rcb with
      | some c => s.refuseRecord l r c
      | none =>
        let par := if bits rcb 0 64 = 0 then none else x.openAt (bits rcb 0 64)
        let e := rcbEffective rcb ((par.map (·.eff)).getD 0#2048).toNat
        let cores := if bit rcb 234 then (x.unreserved (bits e 64 48)).take (rcbResc rcb) else []
        let g : Region := {
          rcb := BitVec.ofNat 2048 rcb, eff := BitVec.ofNat 2048 e, depth := (par.map (·.depth + 1)).getD 1
          reserved := cores.foldl (fun m k => m ||| 2 ^ k) 0, launch := launchOf r }
        s.updLd l fun x => { x with regions := mput x.regions (recBlock r) g }

/-- closeRegion (R189, R215). -/
def evCloseRegion (l q : Nat) : M Unit :=
  withRecord l q (isKind 4) fun r s =>
    match mget (s.ld l).regions (recBlock r) with
    | some g =>
      if g.killed then s.refuseRecord l r 0x2C3
      else ((s.updRegion l (recBlock r) fun g => { g with closed := true }).recordDone l r).completeRegions l
    | none => s.refuseRecord l r 0x2C3

/-- killRegion (R189, R425). -/
def evKillRegion (l q : Nat) : M Unit :=
  withRecord l q (isKind 5) fun r s =>
    if (mget (s.ld l).regions (recBlock r)).isSome then (s.killRegionAll l (recBlock r)).recordDone l r else s.refuseRecord l r 0x2C3

/-! Refresh (R190) -/

/-- Two blocks agree outside the bits from `lo` to `lo + n − 1`. -/
def sameOutside (a b lo n : Nat) : Bool := a % 2 ^ lo == b % 2 ^ lo && a >>> (lo + n) == b >>> (lo + n)

/-- Effective fields computed again down the tree (R192). -/
def Ld.reinherit (x : Ld) : Ld :=
  (List.range 8).foldl (fun x _ =>
    { x with regions := x.regions.map fun g =>
      (g.1, { g.2 with eff := BitVec.ofNat 2048 (rcbEffective g.2.rcb.toNat (mgetD x.regions g.2.parent {}).eff.toNat) }) }) x

/-- A refreshed RCB (R190, R193). -/
def State.refreshRcb (s : State) (l r : Nat) (g : Region) (rcb : Nat) : State :=
  let p := mgetD (s.ld l).regions g.parent {}
  let e := rcbEffective rcb p.eff.toNat
  if !sameOutside g.rcb.toNat rcb 144 90 then s.refuseRecord l r 0x2C8
  else if bits e 232 2 = 3 ∨ bits e 228 4 < bits e 224 4 then s.refuseRecord l r 0x2C0
  else if g.parent ≠ 0 ∧ bits p.eff.toNat 228 4 < bits e 228 4 then s.refuseRecord l r 0x2C4
  else ((s.updRegion l (recBlock r) fun g => { g with rcb := BitVec.ofNat 2048 rcb }).updLd l Ld.reinherit).recordDone l r

/-- refresh (R190): of the RCB or the OPB at BLOCK. DESIGN CHOICE (log entry 123): BLOCK means a region before an operator, and of several
unfinished operators that were placed from one block the one of least OPID. -/
def evRefresh (l q : Nat) : M Unit :=
  withRecord l q (isKind 3) fun r s =>
    let x := s.ld l
    match (mget x.regions (recBlock r)).filter fun g => !g.complete, x.ops.find? fun o => o.2.va == recBlock r && !o.2.complete with
    | some g, _ =>
      (match s.readBlock l (recBlock r) 256 with
      | .error c => s.refuseRecord l r c
      | .ok rcb => s.refreshRcb l r g rcb)
    | none, some o =>
      (match s.readBlock l (recBlock r) 512 with
      | .error c => s.refuseRecord l r c
      | .ok opb =>
        if !sameOutside o.2.opb.toNat opb 128 68 then s.refuseRecord l r 0x2C8
        else (s.updOp l o.1 fun o => { o with opb := BitVec.ofNat 4096 opb }).recordDone l r)
    | none, none => s.refuseRecord l r 0x2C3

/-! Operators (R195 to R199, R202, R213) -/

/-- A port entry or its ring configuration has a reserved bit set (R195, R196); `rings` are refused by R60. -/
def portBad (entry ring : Nat) (out : Bool) : Bool :=
  bits entry 33 31 != 0 || bits entry 9 7 != 0 || (out && bits entry 17 16 != 0) || (!portV entry && entry != 0) ||
  (if portV entry && portRing entry then !ringOk ring else ring != 0)

/-- The bytes of a ring. -/
def ringBytes (cfg : Nat) : Nat := ringStage (BitVec.ofNat 64 cfg) * ringCount (BitVec.ofNat 64 cfg)
/-- Slot rings of an input port (R202). -/
def Op.slotRings (o : Op) : Nat := if o.pmode = 2 then 1 else o.slots
/-- Input ports that hold rings. -/
def Op.ringPorts (o : Op) : List Nat := (List.range 4).filter fun p => portV (o.inport p) && portRing (o.inport p)

/-- A malformed OPB (R198, first check). -/
def Op.malformed (o : Op) : Bool :=
  bits o.opb.toNat 1984 2112 != 0 || o.fld 816 16 != 0 || o.fld 796 4 != 0 || o.fld 782 2 != 0 || o.fld 774 2 != 0 || o.fld 214 2 != 0 || o.fld 205 3 != 0 ||
  o.fld 198 2 != 0 || o.pmode == 3 || decide (0xC000 < o.spstep) ||
  ((List.range 4).any fun p => portBad (o.inport p) (o.iring p) false) || ((List.range 4).any fun m => portBad (o.oport m) (o.oring m) true) ||
  (o.ringPorts.any fun p => o.pmode == 1 || decide (spadEnd < ringBase (BitVec.ofNat 64 (o.iring p)) + o.slotRings * ringBytes (o.iring p))) ||
  (List.range 4).any fun m => portV (o.oport m) && portRing (o.oport m) && decide (64 * o.spstep < ringBase (BitVec.ofNat 64 (o.oring m)) + ringBytes (o.oring m))

/-- Loop bounds beyond R136. -/
def Op.loopsBad (o : Op) : Bool := (List.range 4).any fun j => decide ((if j = 0 then 0xFFFF else 0x10000) < o.lbase j + o.lcnt j)
/-- The operator's step count. -/
def Op.total (o : Op) : Nat := o.lcnt 0 * o.lcnt 1 * o.lcnt 2 * o.lcnt 3
/-- Every yard that an OPB names. -/
def Op.yards (o : Op) : List Nat := o.yard :: (((List.range 4).filter fun p => portV (o.inport p)).map fun p => portYard (o.inport p)) ++ o.outYards
/-- The cores of an operator's map (R201, R202). -/
def Op.mapCores (o : Op) (r : Region) : List Nat := ((List.range o.cmod).map (nthBit r.mask)).eraseDups
/-- The bytes of an operator's slot rings on one core. -/
def Op.areaBytes (o : Op) : Nat := o.ringPorts.foldl (fun n p => n + o.slotRings * ringBytes (o.iring p)) 0

/-- The completion bound of R213. -/
def Op.bound (o : Op) (resc : Nat) : Nat :=
  let b := 10000 + (o.total + resc - 1) / resc * (o.tbound + 500)
  b + 25000 * (1 + b / 100000000)

/-- An operator slot of a walker is taken (R199). -/
def Ld.slotTaken (x : Ld) (opid : Nat) : Bool := (mget x.ops opid).any fun o => !(o.complete && o.running == 0)
/-- The slot that a placement takes: the walker with the fewest, its lowest free entry (R199, R467). -/
def Ld.freeOpid (x : Ld) : Option Nat :=
  let held (w : Nat) : Nat := ((List.range 256).filter fun i => x.slotTaken (256 * w + i)).length
  let w := [1, 2, 3].foldl (fun b w => if held w < held b then w else b) 0
  ((List.range 256).find? fun i => !x.slotTaken (256 * w + i)).map fun i => 256 * w + i

/-- A leaf at a level gives pages of a range of the own stack (R22, R45). -/
def Ld.leafMeets (x : Ld) (e lv b m : Nat) : Bool :=
  let meets (frame pages : Nat) : Bool := decide (65536 * frame < b + m) && decide (b < 65536 * (frame + pages))
  if bit e 60 || bit e 61 then false
  else if bit e 62 then
    let r := x.bie (bits (bits e 16 36) 20 16)
    meets (bieLive r) (biePages r) || meets (bieShadow r) (biePages r)
  else meets (bits e 16 36) (2 ^ (9 * lv))
/-- Some page that the tables from one of level `fuel − 1` on map lies in a range of the own stack (R18 to R22). -/
def Ld.mapsInto (x : Ld) (b m : Nat) : Nat → Nat → Bool
  | 0, _ => false
  | lv + 1, table => (List.range 512).any fun i =>
    let e := x.num (table + 8 * i) 8
    bit e 0 && (if bit e 1 then Ld.mapsInto x b m lv (4096 * bits e 12 40) else x.leafMeets e lv b m)
/-- The commit under way moves memory that an operator's steps can touch: a page that the die's tables map (R114, R213, log entry 101). -/
def Ld.commitMeets (x : Ld) : Bool := x.commit.any fun r => x.mapsInto r.1 r.2 4 (4096 * bits x.regs.xlroot.toNat 12 40)

/-- Why a kind 2 record is refused: DEADLINE is reserved unless the region is timed (R188, R189); then the order of R198, then R213. DESIGN CHOICE
(log entry 125): check 7 adds the slot rings to what is in use, and sets the sum against the region's SPADK and every ancestor's. -/
def State.placeCause (s : State) (l r : Nat) (o : Op) : Option Nat :=
  let x := s.ld l
  let pa := s.parish l o.parish
  if recDeadline r ≠ 0 && !((mget x.regions o.rcbVa).any (·.timed)) then some 0x2C2
  else if o.malformed then some 0x2C1
  else
    match x.openAt o.rcbVa with
    | none => some 0x2C3
    | some g =>
      if o.loopsBad then some 0x241
      else if !pa.enabled || pa.isSealed then some 0x245
      else if o.yards.any fun y => decide (pa.nym1 < y) then some 0x240
      else if (List.range 4).any fun p => portV (o.inport p) && sumBad (portSum (o.inport p)) then some 0x244
      else if (if g.timed then rcbResc g.rcb.toNat else (setBits (bits g.eff.toNat 64 48) 48).length) < o.cmod then some 0x2C4
      else if !o.ringPorts.isEmpty && (o.mapCores g).any fun k => !s.spadFits l k o.rcbVa o.areaBytes then some 0x2C4
      else if !pa.mayCreate [pa.rooty] pa.root o.yard o.firstStamp then some 0x242
      else if x.freeOpid.isNone then some 0x2C9
      else if g.timed ∧ (o.tbound = 0 ∨ recDeadline r < o.bound (rcbResc g.rcb.toNat) ∨ (x.ops.any fun p => p.2.region == o.rcbVa && !p.2.complete) ∨ x.commitMeets) then some 0x2C7
      else none

/-- The configuration of slot ring `j` of a port (R202). -/
def slotCfg (cfg j : Nat) : BitVec 64 := BitVec.ofNat 64 (cfg - put (bits cfg 6 16) 6 16 + put (bits cfg 6 16 + j * ringBytes cfg / 64) 6 16)

/-- The port areas of an operator on one core (R202). -/
def Core.addAreas (y : Core) (opid : Nat) (o : Op) : Core :=
  o.ringPorts.foldl (fun y p =>
    let base := y.newRing
    let js := List.range o.slotRings
    { y with
      rings := js.foldl (fun (m : Smap Ring) j => mput m (base + j) { cfg := slotCfg (o.iring p) j }) y.rings
      ports := y.ports ++ js.map fun j => { opid := opid, port := p, slot := j, ring := base + j }
      allocs := y.allocs ++ [{ off := ringBase (BitVec.ofNat 64 (o.iring p)), len := o.slotRings * ringBytes (o.iring p), sid := 0, opid := opid, rings := js.map fun j => base + j }] }) y

/-- The operator takes its place (R143, R199, R201, R202); one with an empty nest completes at once (R197). -/
def State.place (s : State) (l r opid : Nat) (o : Op) (g : Region) : State :=
  let t := o.firstStamp
  let some_ := decide (0 < o.total)
  let o : Op := {
    va := recBlock r, opb := o.opb, region := o.rcbVa, launch := launchOf r, served := s.ticks * 2 ^ 20
    next := if some_ then some t else none, resident := if some_ && o.pmode == 2 then List.range o.cmod else [] }
  let s := s.updLd l fun x =>
    { x with
      ops := mput x.ops opid o
      cores := x.cores.map fun e => (e.1, { e.2 with cbOwner := if e.2.cbOwner.any (fun w => w.1 == opid) then none else e.2.cbOwner }) }
  if some_ then
    let s := (o.mapCores g).foldl (fun s k => if o.ringPorts.isEmpty then s else s.updCore l k fun y => y.addAreas opid o) s
    s.countAt l o.parish o.yard t 1
  else s.completeOp l opid

/-- A placement that would add an entry to a parish whose home has no room for one waits (R160). -/
def State.placeWaits (s : State) (l r : Nat) : Bool :=
  match s.readBlock l (recBlock r) 512 with
  | .error _ => false
  | .ok v =>
    let o : Op := { opb := BitVec.ofNat 4096 v }
    let pa := s.parish l o.parish
    (s.parish pa.home pa.hpar).full && decide (0 < o.total) && (s.placeCause l r o).isNone

/-- placeOperator (R189, R198, R199). -/
def evPlaceOperator (l q : Nat) : M Unit := do
  let s ← getS
  withRecord l q (fun r => isKind 2 r && !s.placeWaits l r) fun r s =>
    match s.readBlock l (recBlock r) 512 with
    | .error c => s.refuseRecord l r c
    | .ok v =>
      let o : Op := { opb := BitVec.ofNat 4096 v }
      match s.placeCause l r o, (s.ld l).openAt o.rcbVa, (s.ld l).freeOpid with
      | none, some g, some opid => s.place l r opid o g
      | some c, _, _ => s.refuseRecord l r c
      | _, _, _ => s.refuseRecord l r 0x2C9

/-! Resume (R423, R434) -/

/-- The context goes on, its charge at 0 (R189, R423): Skip passes over the halves of bundle j that had not taken effect, as R420; bundle j
keeps its number and its cc, so that what follows it finds results and landing slots where it expects them (R247, R421). A bundle that the
access stream has not read yet is passed over once its header can be read (log entries 65, 66). -/
def Ctx.goOn (x : Ctx) (t : TrapInfo) (skip : Bool) (now : Nat) : Ctx :=
  let x := { x with paused := none, charge := 0, waitFrom := x.waitFrom.map fun _ => now }
  if !skip || 2 ≤ t.kind then x
  else if x.st.run.isEmpty && (!t.access || x.st.skipTo == x.st.pc && x.st.skipLoops == x.st.loops) then { x with st.passOver := true, st.cc := x.st.cc + 1 }
  else if t.access then { x with st.pc := x.st.skipTo, st.loops := x.st.skipLoops, st.cc := x.st.cc + 1, st.half := none, st.popped := [] }
  else
    let rest := x.st.run.tail
    if rest.isEmpty && x.st.await then { x with st.run := [], st.await := false, st.pc := x.st.skipTo, st.loops := x.st.skipLoops, st.cc := x.st.cc + 1 }
    else { x with st.run := rest, st.cc := x.st.cc + 1 }

/-- Stopped commands of a swapped-out context go on or are cancelled (R132, R389, R423). -/
def State.resumeSaved (s : State) (l n : Nat) (v : Saved) (cancel : Bool) : State :=
  let stopped (q : Cmd) : Bool := q.st == .stopped && q.fault.isNone
  if cancel then
    (v.cmds.filter stopped).foldl (fun s q =>
      let s := match q.stamped with
        | some (p, y, t) => s.countAt l p y t (-1)
        | none => s
      let mine := v.tiles.any fun t => t.1 == q.tileNo
      let s := if q.reading && !mine then s.updCore l (q.readAt.getD v.core) fun y => y.setClaim true q.tileNo fun c => c.readerDone q.heldF else s
      s.updLd l fun x => { x with saved := (x.saved.map fun w =>
        if w.1 = n then
          (n, { w.2 with
            cmds := w.2.cmds.filter fun p => p.id != q.id
            tiles := w.2.tiles.map fun t => if q.reading && t.1 == q.tileNo then (t.1, { t.2 with claim := t.2.claim.readerDone q.heldF }) else t })
        else w) }) s
  else
    s.updLd l fun x => { x with saved := (x.saved.map fun w =>
      if w.1 = n then (n, { w.2 with cmds := w.2.cmds.map fun q => if stopped q then { q with st := if q.accepted then .running else .waiting } else q }) else w) }

/-- The Resume's record (R189): at once for a step on its core, for a swapped-out one when it is back there (log entry 135). -/
def State.resumeDone (s : State) (l sid : Nat) (p : Place) (r : Nat) : State :=
  match p with
  | .at_ _ _ => s.recordDone l r
  | .slot _ => s.updStep l sid fun x => { x with resumed := x.resumed ++ [launchOf r] }

/-- A paused step resumes (R423): its charge starts again, its engine commands follow RACT. -/
def State.resumeStep (s : State) (l sid r : Nat) (skip : Bool) : Option State :=
  match (s.ld l).findStep sid with
  | none => none
  | some (p, k, x) =>
    match x.paused with
    | none => none
    | some t =>
      let s := s.updStep l sid fun x => (x.goOn t skip s.ticks).nowReady s.ticks
      let s := if t.kind = 2 then
          (match p with
          | .at_ k c => s.resumeCmds l k (s.ctx l k c).sid skip
          | .slot n => s.resumeSaved l n (mgetD (s.ld l).saved n { ctx := x, core := k }) skip)
        else s
      some (s.resumeDone l sid p r)

/-- The re-run of a discarded step (R434): its operator releases the stamp again, and the Resume's record follows that (R189). -/
def State.rerunStep (s : State) (l f r : Nat) : Option State :=
  let o := bits f 48 16
  let key := (bits f 128 64, bits f 38 6)
  if (s.opOf l o).parked.contains key then
    some (s.updOp l o fun o =>
      { o with parked := o.parked.erase key, reruns := o.reruns ++ [key], resumed := o.resumed ++ [(key.1, launchOf r)] })
  else none

/-- The reserved bits of a fault record, as (lowest bit, width), by its KIND (R211, R427, R428). -/
def faultRsv (kind : Nat) : List (Nat × Nat) :=
  [(72, 4), (10, 12)] ++
  (match kind with
   | 0 => [(256, 174)]
   | 1 => [(256, 174)]
   | 2 => [(256, 64), (384, 8)]
   | 3 => [(256, 32), (328, 27), (432, 2)]
   | 4 => [(256, 120)]
   | _ => [(256, 184)])

/-- A fault record in which a reserved bit is set: it is refused when it is read (R8). -/
def faultRsvSet (r : Nat) : Bool := (faultRsv (bits r 32 4)).any fun f => bits r f.1 f.2 != 0

/-- resume (R189, R423): of the step whose fault record lies at BLOCK. Of the record as it stands in memory RACT and the reserved bits
are looked at (R8); a set one makes it no fault record of a paused step. -/
def evResume (l q : Nat) : M Unit :=
  withRecord l q (isKind 6) fun r s =>
    match s.translateNow l 48 0 0 1 (recBlock r) 64 with
    | .fault c => s.refuseRecord l r c
    | .lost c => s.refuseRecord l r c
    | .ok p =>
      match (if p.home = l then mget (s.ld l).pausedRecs p.addr else none) with
      | none => s.refuseRecord l r 0x2C2
      | some (tag, f) =>
        let v := (s.ld l).num p.addr 64
        let ract := bits v 70 2
        let t := if faultRsvSet v then none else if bit f.toNat 28 then s.rerunStep l f.toNat r else if 2 ≤ ract then none else s.resumeStep l (tag - 1) r (ract == 1)
        match t with
        | none => s.refuseRecord l r 0x2C2
        | some s => s.updLd l fun x => { x with pausedRecs := mdel x.pausedRecs p.addr }

/-! Fault records (R426) -/

/-- A record that a Resume may name: of a step that stays paused, or that was discarded (R189, R434). -/
def resumable (tag : Nat) (r : BitVec 512) : Bool := tag != 0 && (bits r.toNat 30 2 == 0 || bit r.toNat 28)

/-- faultRecordWrite (R426): the oldest waiting record is written and published before FQTAIL moves, then its vector is signalled; what the
policy says of its step is done after that (R424). -/
def evFaultRecordWrite (l : Nat) : M Unit := do
  let s ← getS
  let x := s.ld l
  match x.faultQ with
  | [] => idle
  | (tag, r) :: rest => do
    need (x.fqRoom && !s.commitHolds l (4096 * bits x.regs.fqbase.toNat 12 40 + 64 * (x.regs.fqtail.toNat % 2 ^ bits x.regs.fqbase.toNat 0 6)) 64)
    updS fun s =>
      let a := 4096 * bits x.regs.fqbase.toNat 12 40 + 64 * (x.regs.fqtail.toNat % 2 ^ bits x.regs.fqbase.toNat 0 6)
      let s := s.pokeLd l a (natLe 64 r.toNat)
      let s := s.updLd l fun x =>
        { x with
          faultQ := rest
          pausedRecs := if resumable tag r then mput x.pausedRecs a (tag, r) else mdel x.pausedRecs a
          regs.fqtail := BitVec.ofNat 64 ((x.regs.fqtail.toNat + 1) % 2 ^ 32) }
      let s := if x.regs.fqmsi.getLsbD 11 then s.msix l (bits x.regs.fqmsi.toNat 0 11) else s
      if tag = 0 then s else s.afterRecord l (tag - 1) r

/-- fqheadWrite (R426). -/
def evFqheadWrite (l : Nat) (v : BitVec 32) : M Unit := updS fun s => s.updLd l fun x => { x with regs.fqhead := v.setWidth 64 }

/-- The bits of FQBASE that are kept. -/
def fqbaseMask : Word := 0x000FFFFFFFFFF03F#64
/-- fqbaseWrite (R426): with a legal size the waiting records can be written, in the order of their events. -/
def evFqbaseWrite (l : Nat) (v : BitVec 64) : M Unit := updS fun s => s.updLd l fun x => { x with regs.fqbase := v &&& fqbaseMask }

end Sys2Proof.Machine
end

