-- ==== Sys2Proof/Machine/Part.lean ====
section
/-! DEFINITION. The whole part: machine checks and resets (R438, R444, R447), the staged start (R446 to R448), interrupts (R443), mesh
links (R449 to R451), Beyvex ports (R452 to R457, R469, R470), power (R458 to R460), register writes (R7). -/

namespace Sys2Proof.Machine

/-! Machine checks and resets -/

/-- machineCheck (R438). -/
def evMachineCheck (l unit : Nat) : M Unit := do
  need (decide (l % 16 < 8))
  updS fun s => s.machineStop l unit true

/-- What a core keeps through a function-level reset: storage, trims, clock (R335, R444). -/
def Core.flr (y : Core) : Core :=
  { spad := y.spad, spadPoison := y.spadPoison, banks := y.banks
    planes := y.planes.map fun p => { p with claim := {} }
    tiles := y.tiles.map fun t => { t with claim := {} }
    trim := y.trim, strim := y.strim, smap := y.smap, calctl := y.calctl, calstat := y.calstat, temp := y.temp, clk := y.clk, calReq := y.calReq, calAt := y.calAt }

/-- A function-level reset (R444, R345): a machine check without a record, every parish dropped, every register and TLB reset, the die
cache written back and emptied; the stack with its tags and poison survives. -/
def State.flr (s : State) (l : Nat) : State :=
  let s := s.machineStop l 0 false
  let s := ((s.ld l).tokWait ++ (s.ld l).tokIn).foldl State.refuseToken s
  s.updLd l fun x =>
    { hbm := x.hbm, cores := x.cores.map fun e => (e.1, e.2.flr)
      homeQ := x.homeQ.filter fun r => r.src != l
      belfry := { seqOut := x.belfry.seqOut, seqIn := x.belfry.seqIn }, epochs := x.epochs
      tokBack := x.tokBack.filter fun t => t.src != l
      stage := x.stage, failed := x.failed, host := x.host, hostHeld := x.hostHeld, snooped := x.snooped, msixSent := x.msixSent, nextSid := x.nextSid, nextCmd := x.nextCmd }

/-- functionLevelReset (R444). -/
def evFunctionLevelReset (l : Nat) : M Unit := updS fun s => s.flr l

/-- The other end of a port of a package that starts again: its link is down, and its numbers start with those of the port. -/
def State.farReset (s : State) (p n : Nat) : State :=
  if (s.port p n).up || !(s.port p n).buf.isEmpty then
    (match farEnd p n with
    | some (q, m) => (s.updPort q m fun x => { ctl := x.ctl, status := bxst x.good x.degr x.sel x.width false false, retry := x.retry, buf := x.buf }).portFell q m
    | none => s)
  else s

/-- What travels in packets of a package's dies is gone with the package. -/
def Ld.forget (x : Ld) (p : Nat) : Ld :=
  let stays (src : Nat) (way : Option Nat) : Bool := way.isNone || pkgOf src != p
  { x with
    homeQ := x.homeQ.filter fun r => stays r.src r.way
    tokIn := x.tokIn.filter fun t => stays t.src t.way
    belfry.inbox := x.belfry.inbox.filter fun b => stays b.src b.way
    belfry.notices := x.belfry.notices.filter fun n => stays n.src n.way
    belfry.replies := x.belfry.replies.filter fun n => stays n.src n.way }

/-- powerOnReset (R447): every die of the package and its green start again. -/
def evPowerOnReset (p : Nat) : M Unit :=
  updS fun s =>
    let t := (List.range 12).foldl (fun s n => s.farReset p n) s
    let t := { t with lds := t.lds.map fun (e : Nat × Ld) => (e.1, e.2.forget p) }
    let t := (List.range 9).foldl (fun s d => s.putLd (ldNo p d) {}) t
    t.updPkg p fun _ => { idleAt := some s.ticks }

/-! Staged start -/

/-- The compute dies of a package. -/
def diesOf (p : Nat) : List Nat := (List.range 8).map (ldNo p)
/-- The first 48 cores of an LD changed. -/
def Ld.allCores (x : Ld) (f : Nat → Core → Core) : Ld := (List.range 48).foldl (fun x k => x.updCore k (f k)) x
/-- Every array of an LD is retired. -/
def Ld.arraysGone (x : Ld) : Bool := (List.range 48).all fun k => (x.core k).retired

/-- The start of a stage (R115, R338, R343, R447). -/
def State.enterStage (s : State) (l : Nat) : State :=
  let x := s.ld l
  match x.stage with
  | 0 => s.updLd l fun x => { x.allCores (fun _ y => { y with calReq := true }) with stage := 1, failed := 0, hbm.tags := [] }
  | 1 => s.updLd l fun x => { x.allCores (fun k y => { y with calctl := 0x000400020009861F#64, calAt := s.ns + 2000000 * k + 1 }) with stage := 2 }
  | 2 =>
    let s := s.updLd l fun x => { x with stage := 3, failed := if x.arraysGone then 6 else 0 }
    (s.ld l).wqWork.foldl (fun s q => if q.2 then s.takeDoorbell l q.1 else s) s
  | _ => s

/-- What a stage waits for (R447): a verified image; a calibration of every array. -/
def State.stageReady (s : State) (l : Nat) : Bool :=
  let x := s.ld l
  match x.stage with
  | 0 => (s.pkg (pkgOf l)).fwOk.isSome
  | 1 => (List.range 48).all fun k => (x.core k).cals != 0
  | 2 => true
  | _ => false

/-- startStageAdvance (R446, R447): reason 0, or 6 with every array retired, reaches the next stage; 1 to 5 stops the LD with FAIL. -/
def evStartStageAdvance (l reason : Nat) : M Unit := do
  let s ← getS
  let x := s.ld l
  need (decide (l % 16 < 8) && decide (x.stage < 3) && (x.failed == 0 || (x.stage == 0 && decide (x.failed ≤ 2))))
  if reason = 0 ∨ (reason = 6 ∧ x.stage = 2 ∧ x.arraysGone) then do
    need (s.stageReady l)
    updS fun s => s.enterStage l
  else do
    need (decide (1 ≤ reason) && decide (reason ≤ 5))
    updS fun s => s.updLd l fun x => { x with failed := reason }

/-- Both signatures of an image verify under a key pair (R448). -/
def signedUnder (i : Signed) (keys : List (BitVec 8) × List (BitVec 8)) : Bool :=
  Config.verifies false keys.1 i.image i.ed25519 && Config.verifies true keys.2 i.image i.mldsa65
/-- A rotation manifest is signed under the mask-ROM keys with both algorithms (R448). -/
def manifestOk (m : Manifest) : Bool :=
  let text := Config.manifestText m.version m.edKey m.mlKey
  Config.verifies false Config.rootKeys.1 text m.ed25519 && Config.verifies true Config.rootKeys.2 text m.mldsa65
/-- The verifying manifest of highest version (R448). -/
def newestManifest (ms : List Manifest) : Option Manifest :=
  (ms.filter manifestOk).foldl (fun b m => if b.all fun c => decide (c.version < m.version) then some m else b) none
/-- An image is run under the mask-ROM keys, or under those that the manifest in use names (R448). -/
def mayRun (i : Signed) (ms : List Manifest) : Bool := signedUnder i Config.rootKeys || (newestManifest ms).any fun m => signedUnder i (m.edKey, m.mlKey)

/-- The ROM waits at stage 0 for an image from the host (R446, R448): reason 1, a signature refused, or 2, no image. -/
def State.imageRefused (s : State) (p reason : Nat) : State :=
  (diesOf p).foldl (fun s l => s.updLd l fun x => if x.stage = 0 then { x with failed := reason } else x)
    (s.updPkg p fun g => { g with fwRefused := true, mailbox := none })

/-- firmwareVerify (R448): the ROM reads package flash (`flash`, none when the image is missing, and the manifests there), or takes the image of
the start mailbox, and runs the image when it verifies. -/
def evFirmwareVerify (p : Nat) (flash : Option Signed) (manifests : List Manifest) (mailbox : Bool) : M Unit := do
  let s ← getS
  let g := s.pkg p
  need (g.fwOk.isNone && (if mailbox then g.mailbox.isSome else !g.fwRefused))
  updS fun s =>
    match (if mailbox then g.mailbox else flash) with
    | none => s.imageRefused p 2
    | some i => if mayRun i manifests then s.updPkg p fun g => { g with fwOk := some i, fwRefused := false, mailbox := none } else s.imageRefused p 1

/-- doeImageWrite (R448): the ROM waits at stage 0 for an image from the host. -/
def evDoeImageWrite (p : Nat) (image : Signed) : M Unit := do
  let s ← getS
  need ((s.pkg p).fwOk.isNone)
  updS fun s => s.updPkg p fun g => { g with mailbox := some image }

/-- An entry of the MSI-X table takes a value (R443): unmasking signals a vector whose pending bit is set. -/
def Ld.setMsix (x : Ld) (v : Nat) (e : MsixEntry) : Ld :=
  let x := { x with msix := mput x.msix v e }
  if !e.masked && x.msixPend.has v then { x with msixPend := x.msixPend.upd v false }.signal v else x

/-- A write to the MSI-X table as PCI Express lays it out (R443, log entry 134): 16 bytes a vector, address, then data with the mask at bit 32. -/
def Ld.writeMsix (x : Ld) (off v : Nat) : Ld :=
  let e := mgetD x.msix (off / 16) {}
  if 16 * 2048 ≤ off then x
  else x.setMsix (off / 16) (if off % 16 = 0 then { e with addr := v } else { e with data := bits v 0 32, masked := bit v 32 })

/-- msixUnmask (R443). -/
def evMsixUnmask (l v : Nat) : M Unit := updS fun s => s.updLd l fun x => x.setMsix v { mgetD x.msix v {} with masked := false }

/-! What the standard capability structures report (R442) -/

/-- The CXL 3.1 options that the manual names. -/
inductive CxlOption where
  | flit256 | flit68 | hdmDb | cxlCache | ide | spdm | ras | multiLogical | dynamicCapacity | portRouting | hotPlug
  deriving DecidableEq, Repr

/-- An option is reported present (R442). -/
def CxlOption.supported : CxlOption → Bool
  | .flit256 | .hdmDb | .cxlCache | .ide | .spdm | .ras => true
  | .flit68 | .multiLogical | .dynamicCapacity | .portRouting | .hotPlug => false

/-- spdmRequest (R442): answered under both signatures. -/
def evSpdmRequest (l request : Nat) : M Unit := updS fun s => { s with spdm := s.spdm ++ [(l, request, true, true)] }

/-- virtualHierarchyBinding (R441, R444): a downstream port is bound to the virtual hierarchy of a host, by its number, or unbound; unbinding
performs a function-level reset. -/
def evVirtualHierarchyBinding (l : Nat) (host : Option Nat) : M Unit := do
  need (decide (l % 16 < 8))
  updS fun s => (if host.isSome && ((s.ld l).host.isNone || (s.ld l).host == host) then s else s.flr l).updLd l fun x => { x with host := host }

/-! Mesh links (R449 to R451) -/

/-- meshFlitReceive (R449): `link` below 12 is a link in its first direction, from 12 up link - 12 in the other. -/
def evMeshFlitReceive (p link seq : Nat) (good : Bool) : M Unit := do
  let s ← getS
  let k := (s.pkg p).links.getD (link % 12) {}
  need (k.up && !k.paused)
  updS fun s => s.meshTake p (link % 12) (decide (12 ≤ link)) (seq % 2 ^ 16) good

/-- Failed lanes of one direction of a link: lanes 0 to 67 one way, 68 to 135 the other. -/
def Link.badIn (k : Link) (dir : Nat) : Nat := k.bad.countP fun e => e.1 / 68 == dir

/-- A die whose links are all down. -/
def Pkg.cutOff (g : Pkg) (pos : Nat × Nat) : Bool :=
  (List.range 12).all fun n => !((linkEnds n).1 == pos || (linkEnds n).2 == pos) || !(g.links.getD n {}).up

/-- The LDs that lose their way when a link has gone down (R438, R450). -/
def State.linkLost (s : State) (p link : Nat) : State :=
  [(linkEnds link).1, (linkEnds link).2].foldl (fun s pos =>
    if (s.pkg p).cutOff pos then
      (if dieAt pos = 8 then diesOf p else [ldNo p (dieAt pos)]).foldl (fun s l => if (s.ld l).out then s else s.machineStop l 8 true) s
    else s) s

/-- meshLaneFailure (R449): mapped onto a spare; a direction that needs a fifth spare takes the link down. -/
def evMeshLaneFailure (p link lane : Nat) : M Unit := do
  let s ← getS
  need (!((s.pkg p).links.getD link {}).bad.has lane)
  updS fun s =>
    let s := s.updPkg p fun g => g.updLink link fun k => { k with bad := k.bad.upd lane true }
    let k := (s.pkg p).links.getD link {}
    if !k.up then s
    else if 5 ≤ k.badIn (lane / 68) then (s.linkFell p link).linkLost p link
    else s.updPkg p fun g => g.updLink link fun k => { k with paused := true }

/-- meshLaneSpareReplay (R449): after the pause the link replays from the last acknowledged flit, and what waited for it goes on. -/
def evMeshLaneSpareReplay (p link : Nat) : M Unit := do
  let s ← getS
  need ((s.pkg p).links.getD link {}).paused
  updS fun s => (s.updPkg p fun g => g.updLink link fun k =>
    { k with paused := false, fore := { k.fore with nak := none }, back := { k.back with nak := none } }).release p

/-- The next flit of a direction of a mesh link arrives by itself. -/
def evMeshDue (p link : Nat) : M Unit := do
  let s ← getS
  let d := ((s.pkg p).links.getD (link % 12) {}).dir (decide (12 ≤ link))
  need (!d.buf.isEmpty)
  evMeshFlitReceive p link (d.recv + 1) true

/-! Beyvex ports (R452 to R457) -/

/-- beyvexFlitReceive (R452, R453): [15:0] of `seq` is SEQ; above it stands the flit's type, counted on from 1, data. `good` says that the CRC of
the 256 bytes that arrived is right (`flitGood`). -/
def evBeyvexFlitReceive (p port seq ack : Nat) (good : Bool) : M Unit := do
  let s ← getS
  need ((s.port p port).up && !(s.port p port).training)
  updS fun s => s.portReceive p port ((seq / 2 ^ 16 + 1) % 4) (seq % 2 ^ 16) (ack % 2 ^ 16) good

/-- beyvexNakReceive (R453): every flit after the named SEQ is sent again, byte for byte from the replay buffer. -/
def evBeyvexNakReceive (p port seq : Nat) : M Unit := do
  let s ← getS
  let q := s.port p port
  let n := (q.sent + 2 ^ 16 - seq % 2 ^ 16) % 2 ^ 16
  need (q.up && !q.training && decide (n ≤ q.behind))
  updS fun s =>
    let s := s.updPort p port fun q => (q.acknowledged (seq % 2 ^ 16)).replayed n 1
    (match farEnd p port with
    | some (q, m) => s.updPort q m fun x => { x with nak := none }
    | none => s).release p

/-- What comes next to a port by itself from its other end: a NAK, the next flit, an ACK flit. -/
def evPortDue (p port : Nat) : M Unit := do
  let s ← getS
  need (s.pkgs.any fun g => g.2.ports.any fun q => !q.buf.isEmpty)
  match farEnd p port with
  | none => idle
  | some (q, m) =>
    let x := s.port p port
    let y := s.port q m
    match y.nak with
    | some v => evBeyvexNakReceive p port v
    | none =>
      if y.buf.any fun f => f.seq == (x.recv + 1) % 2 ^ 16 then evBeyvexFlitReceive p port ((x.recv + 1) % 2 ^ 16) y.recv true
      else do
        need (!x.buf.isEmpty && x.acked != y.recv)
        evBeyvexFlitReceive p port (2 ^ 16 + y.sent) y.recv true

/-- A change of a link's two ends after which it may be down (R455, R469). -/
def State.relink (s : State) (p port : Nat) (f : Port → Port) : State :=
  let t := s.bothEnds p port f
  if (s.port p port).up && !(t.port p port).up then t.linkDown p port else t

/-- beyvexLaneFailure (R455, R469): a lane is good only while it is good in both directions, so both ends see it. -/
def evBeyvexLaneFailure (p port lane : Nat) : M Unit := updS fun s => s.relink p port fun q => q.laneFails lane

/-- The packets that wait at either end of a link try again. -/
def State.releaseEnds (s : State) (p port : Nat) : State :=
  match farEnd p port with
  | some (q, _) => (s.release p).release q
  | none => s.release p

/-- beyvexRetrainDone (R454, R455). -/
def evBeyvexRetrainDone (p port : Nat) : M Unit := do
  let s ← getS
  need (s.port p port).training
  updS fun s => (s.bothEnds p port Port.trained).releaseEnds p port

/-- A retrain of both ends of a link; which failed lanes are found good again is the line's (R454, R455). -/
def State.retrain (s : State) (p port : Nat) : State :=
  { s with draw := s.draw + 1 }.relink p port (Port.retrain (Config.laneLocks s.draw).toNat)

/-- bxctlRetrain (R454): accepted from the LD of CD0 alone; RETRAIN reads 1 until it is done. -/
def evBxctlRetrain (l port : Nat) : M Unit := do
  need (dieOf l == 0)
  updS fun s =>
    let s := s.retrain (pkgOf l) port
    s.updPort (pkgOf l) port fun q => { q with ctl := setField q.ctl 1 1 q.training.toNat }

/-- linkPartnerRetrain (R454, R470): the retrain is started at the other end. -/
def evLinkPartnerRetrain (p port : Nat) : M Unit := updS fun s => s.retrain p port

/-- A write to PRCMT (R456). A refused one leaves PRCMT as it reads (log entry 104). -/
def Pkg.writePrcmt (g : Pkg) (v : Nat) : Pkg :=
  let first := bits v 0 10
  let n := bits v 16 10 + 1
  if stBusy g.prst ∨ 1024 < first + n then { g with prst := stErr g.prst }
  else { g with prRun := some (first, n), prcmt := BitVec.ofNat 64 (put (n - 1) 16 10 ||| first), prst := stStart g.prst }

/-- peerRegionCommit (R456): accepted from the LD of CD0 alone. -/
def evPeerRegionCommit (l : Nat) (v : BitVec 64) : M Unit := do
  need (dieOf l == 0)
  updS fun s => s.updPkg (pkgOf l) fun g => g.writePrcmt v.toNat

/-- peerRegionCommitDone (R456, R114): once no packet to the range stands on a port, the active entries of the range take the staged ones, and
what has waited goes on under them. -/
def evPeerRegionCommitDone (p : Nat) : M Unit := do
  let s ← getS
  let g := s.pkg p
  match g.prRun with
  | none => idle
  | some (a, n) => do
    need (g.ports.all fun q => q.buf.all fun f => f.last.all fun t => !g.commitCovers (pkgOf t.pkt.dst))
    updS fun s => (s.updPkg p fun g =>
      { g with
        prRun := none
        prst := stEnd g.prst
        table := (List.range n).foldl (fun (t : Smap Word) i => mput t (a + i) (mgetD g.staged (a + i) 0#64)) g.table }).release p

/-- staggerMessage (R457): sets STAGOFF where the port accepts it; else the drop is recorded. -/
def evStaggerMessage (p port base step modulus : Nat) : M Unit :=
  updS fun s =>
    if bit (s.port p port).ctl.toNat 2 then
      s.updPkg p fun g => { g with stagoff := (base % 2 ^ 16 + step % 2 ^ 8 * (p % (modulus % 2 ^ 10 + 1))) % 2 ^ 24 }
    else s.notice (ldNo p 0) 6 2 10 0x304 port

/-! Power (R458 to R460) -/

/-- The envelope's next value, in hundredths of a watt, 1 µs on (R458, R459): it rises by RAMPUP and falls by RAMPDN at most. While steps run it
follows the estimate; with none it falls to FLOOR until FLHOLD is over, then to the unforced level, which the estimate shows while no filler
races run (`forced`). It falls to a lowered PWCAP at RAMPDN. -/
def Pkg.nextEnvelope (g : Pkg) (watts : Nat) (forced : Bool) : Nat :=
  let w := 100 * watts
  let goal :=
    if g.idleAt.isNone then (if g.envelope ≤ w then g.envelope + g.rampup else w)
    else max (if g.floorDone then 0 else 100 * g.floor) (if forced then 0 else w)
  max (g.envelope - g.rampdn) (min (min goal (g.envelope + g.rampup)) (100 * g.pwcap))

/-- Filler races run on a core of a package. -/
def State.forced (s : State) (p : Nat) : Bool := (diesOf p).any fun l => (s.ld l).cores.any fun e => e.2.filler
/-- The filler races of a package end. -/
def State.stopFillers (s : State) (p : Nat) : State :=
  (diesOf p).foldl (fun s l => if (s.ld l).cores.any fun e => e.2.filler then s.updLd l fun x => { x with cores := x.cores.map fun e => (e.1, e.2.stopFiller) } else s) s

/-- powerEstimateTick (R458): every 1 µs the estimate is taken; releases are held at the envelope and at PWCAP, filler races run below the
envelope. -/
def evPowerEstimateTick (p watts : Nat) : M Unit :=
  updS fun s =>
    let s := { s with ticks := s.ticks + 7000 }
    let e := (s.pkg p).nextEnvelope watts (s.forced p)
    let s := s.updPkg p fun g =>
      { g with
        pwnow := watts % 2 ^ 11, envelope := e, holding := decide (min e (100 * g.pwcap) ≤ 100 * watts), fillers := decide (100 * watts < e)
        floorAt := if g.idleAt.isSome ∧ e ≤ 100 * g.floor then some (g.floorAt.getD s.ticks) else g.floorAt }
    if 100 * watts < e then s else s.stopFillers p

/-- quietDetection (R459): 100 µs with no step running. -/
def evQuietDetection (p : Nat) : M Unit := do
  let s ← getS
  let g := s.pkg p
  need (!g.quiet && s.stepsGone p)
  match g.idleAt with
  | none => updS fun s => s.updPkg p fun g => { g with idleAt := some s.ticks }
  | some t => updS fun s => { s with ticks := max s.ticks (t + 700000) }.updPkg p fun g => { g with quiet := true, stagAt := none }

/-- floorHoldExpiry (R459): FLHOLD at the floor has passed. -/
def evFloorHoldExpiry (p : Nat) : M Unit := do
  let s ← getS
  let g := s.pkg p
  match g.floorAt with
  | none => idle
  | some t => do
    need (!g.floorDone)
    updS fun s => { s with ticks := max s.ticks (t + 7000 * g.flhold) }.updPkg p fun g => { g with floorDone := true }

/-- stagoffExpiry (R459): the first release after a quiet interval may proceed. -/
def evStagoffExpiry (p : Nat) : M Unit := do
  let s ← getS
  let g := s.pkg p
  match g.stagAt with
  | none => idle
  | some t => do
    need g.quiet
    updS fun s =>
      let s := { s with ticks := max s.ticks (t + 7000 * g.stagoff) }
      s.updPkg p fun g => { g with quiet := false, stagAt := none, idleAt := some s.ticks }

/-- fillerRaceStart (R459): a privileged context in the reserved slot of a core with no ready context and no calibration. -/
def evFillerRaceStart (l k : Nat) : M Unit := do
  let s ← getS
  let y := s.core l k
  need ((s.pkg (pkgOf l)).fillers && y.calRun == 0 && !(y.ctxs.any fun e => e.2.ready) && y.hasFree)
  updS fun s => s.updCore l k fun y =>
    if y.filler then y else { y with filler := true, ctxs := mput y.ctxs (y.freeCtxs.headD 3) (routineCtx l k (y.freeCtxs.headD 3)) }

/-- A write to the power block (R454, R460): none for a register that takes no write, an out-of-range value refused. -/
def Pkg.writePower (g : Pkg) (off v : Nat) : Option (Option Pkg) :=
  let w := bits v 0 11
  let rate (f : Pkg) : Option Pkg := if 10 ≤ w ∧ w ≤ 1500 then some f else none
  match off with
  | 0x000 => some (if 100 ≤ w ∧ w ≤ 1500 then some { g with pwcap := w } else none)
  | 0x008 => some (rate { g with rampup := w })
  | 0x010 => some (rate { g with rampdn := w })
  | 0x018 => some (if w ≤ g.pwcap then some { g with floor := w } else none)
  | 0x020 => some (some { g with flhold := bits v 0 32 })
  | 0x028 => some (some { g with stagoff := bits v 0 24 })
  | _ => none

/-- powerRegisterWrite (R460): accepted from the LD of CD0 alone; a value out of range is ignored and recorded. -/
def evPowerRegisterWrite (l off : Nat) (v : BitVec 64) : M Unit := do
  need (dieOf l == 0)
  updS fun s =>
    match (s.pkg (pkgOf l)).writePower off v.toNat with
    | none => s
    | some none => s.errLog l 2 9 0x304 off true
    | some (some g) => s.updPkg (pkgOf l) fun _ => g

/-! Register writes (R7) -/

/-- Bits [51:12]. -/
def pageMask : Word := 0x000FFFFFFFFFF000#64
/-- A write to a status register: ERR and DONE are cleared by ones (R34, R113, R141). -/
def w1c (old v : Word) : Word := old &&& ~~~(v &&& 6#64)

/-- A plain register of an LD's blocks written (R31, R112, R140, R185, R426): reserved bits drop what is written, read-only registers keep
their value. -/
def LdRegs.write (r : LdRegs) (block off : Nat) (v : Word) : LdRegs :=
  match block, off with
  | 0x10, 0x000 => { r with xlroot := v &&& 0x000FFFFFFFFFF001#64 }
  | 0x10, 0x018 => { r with xlinvlen := v &&& 0xFFFFFFFFF#64 }
  | 0x10, 0x020 => { r with xlinvst := w1c r.xlinvst v }
  | 0x10, 0x028 => { r with biebase := v &&& pageMask }
  | 0x10, 0x030 => { r with bielim := v &&& 0x1FFFF#64 }
  | 0x10, 0x038 => { r with htbase := v &&& pageMask }
  | 0x10, 0x040 => { r with expbase := v &&& pageMask }
  | 0x10, n =>
    if n < 0x100 ∨ 0x500 ≤ n then r
    else if n % 16 = 0 then { r with hwbase := mput r.hwbase ((n - 0x100) / 16) (v &&& 0x000FFFFFFFFFF007#64) }
    else { r with hwlim := mput r.hwlim ((n - 0x100) / 16) (v &&& pageMask) }
  | 0x11, 0x408 => { r with ivst := w1c r.ivst v }
  | 0x11, 0x418 => { r with trtbase := v &&& pageMask }
  | 0x11, n => if n < 0x200 ∨ 0x400 ≤ n then r else { r with ivstg := mput r.ivstg ((n - 0x200) / 8) (v &&& 0x8F70#64) }
  | 0x12, 0x000 => { r with ltparbase := v &&& pageMask }
  | 0x12, 0x008 => { r with ltspbase := v &&& 0x000FFFFFFFFF0000#64 }
  | 0x12, 0x020 => { r with ltarg := v }
  | 0x12, 0x028 => { r with ltst := w1c r.ltst v }
  | 0x13, 0x000 => { r with wqtbase := v &&& pageMask }
  | 0x13, 0x008 => { r with ctxbase := v &&& 0x000FFFFFFFFF0000#64 }
  | 0x13, 0x010 => { r with ctxn := v &&& 0xFFFF#64 }
  | 0x14, 0x018 => { r with fqmsi := v &&& 0xFFF#64 }
  | _, _ => r

/-- A write to the Beyvex block from the LD of CD0 (R454, R456). -/
def Pkg.writeBeyvex (g : Pkg) (off : Nat) (v : Word) : Pkg :=
  if off = 0x010 then { g with prst := w1c g.prst v }
  else if 0x100 ≤ off ∧ off < 0x280 ∧ off % 0x20 = 0 then
    g.updPort ((off - 0x100) / 0x20) fun q =>
      { q with ctl := setField (setField q.ctl 0 1 (v.getLsbD 0).toNat) 2 1 (v.getLsbD 2).toNat }
  else if 0x1000 ≤ off ∧ off < 0x3000 then { g with staged := mput g.staged ((off - 0x1000) / 8) (v &&& 0x1FFF#64) }
  else g

/-- A write to LTCMD (R141). -/
def ltWrite (l : Nat) (v : BitVec 64) : M Unit := do
  let s ← getS
  let p := bits v.toNat 0 6
  if (s.ld l).ltBusy then evLtBadCommand l v
  else match bits v.toNat 8 4 with
    | 1 => evLtEnable l p
    | 2 => evLtAdvanceRoot l p
    | 3 => evLtSeal l p
    | 4 => evLtDisable l p
    | _ => evLtBadCommand l v

/-! The capability list (R445, R446) -/

/-- The identifiers in the list at a stage, in its order: the list, the error block and the power block stand from stage 0 (R447), the other
blocks are linked in with stage 1 (log entry 133). -/
def capIds (stage : Nat) : List Nat := [0x01, 0x15, 0x16] ++ if stage = 0 then [] else [0x10, 0x11, 0x12, 0x13, 0x14, 0x17]
/-- The second word of entry 0x0001 (R446). -/
def Ld.startWord (x : Ld) : Nat := put x.failed 8 8 ||| put (if x.failed = 0 then 0 else 1) 3 1 ||| put x.stage 0 3
/-- The capability list as BAR0 holds it (R445): offset, first word and second word of each entry, one after another from offset 0
(log entry 133). -/
def Ld.capList (x : Ld) : List (Nat × Nat × Nat) :=
  let ids := capIds x.stage
  ids.zipIdx.map fun e =>
    let next := if e.2 + 1 = ids.length then 0 else 16 * (e.2 + 1)
    (16 * e.2, put next 32 32 ||| put 2 24 8 ||| put 1 16 8 ||| put e.1 0 16, if e.1 = 1 then x.startWord else Config.blockBase e.1)

/-- registerWrite (R7): a 64-bit write by the host to a register of the block with a capability identifier (R445), while its entry is in the
list, or (block 0) to the MSI-X table. A register whose write is a step of its own takes that step. -/
def evRegisterWrite (l block off : Nat) (v : BitVec 64) : M Unit := do
  let s ← getS
  need (decide (l % 16 < 8) && (s.ld l).host.isSome && off % 8 == 0 && (block == 0 || (capIds (s.ld l).stage).contains block))
  match block, off with
  | 0, n => updS fun s => s.updLd l fun x => x.writeMsix n v.toNat
  | 0x10, 0x010 => updS fun s => s.updLd l fun x => x.writeXlinv v.toNat
  | 0x11, 0x400 => evInterleaveCommit l v
  | 0x12, 0x010 => evLtspszWrite l v
  | 0x12, 0x018 => ltWrite l v
  | 0x14, 0x000 => evFqbaseWrite l v
  | 0x14, 0x010 => evFqheadWrite l (v.setWidth 32)
  | 0x16, n => evPowerRegisterWrite l n v
  | 0x17, 0x008 => evPeerRegionCommit l v
  | 0x17, n => do
    need (dieOf l == 0)
    updS fun s => (s.updPkg (pkgOf l) fun g => g.writeBeyvex n v).release (pkgOf l)
    if v.getLsbD 1 && decide (0x100 ≤ n) && decide (n < 0x280) && n % 0x20 == 0 then evBxctlRetrain l ((n - 0x100) / 0x20) else pure ()
  | 0x13, n =>
    if 0x10000 ≤ n ∧ n < 0x20000 then evDoorbellWrite l ((n - 0x10000) / 8) (v.setWidth 32)
    else updS fun s => s.updLd l fun x => { x with regs := x.regs.write 0x13 n v }
  | b, n => updS fun s => s.updLd l fun x => { x with regs := x.regs.write b n v }

end Sys2Proof.Machine
end

