-- ==== Sys2Proof/Machine/Events.lean ====
section
/-! DEFINITION. The meaning of each operation and event (spec/95_what_each_step_holds.md): its effect when its condition holds, the
state unchanged when it does not (log entry 8); a unit that does not exist is a fault (R2). -/

namespace Sys2Proof.Machine

def execBundleIssue (l k : Nat) (s : State) : Res := runEv (dieOk l && decide (k < 48)) (evBundleIssue l k) s
def execResultLanding (l k : Nat) (s : State) : Res := runEv (dieOk l && decide (k < 48)) (evResultLanding l k) s
def execLandingSlotFill (l k c slot : Nat) (s : State) : Res := runEv (dieOk l && decide (k < 48) && decide (c < 65540) && decide (slot < 32)) (evLandingSlotFill l k c slot) s
def execSectorLanding (l k r hod sector : Nat) (data : BitVec 256) (s : State) : Res := runEv (dieOk l && decide (k < 48) && decide (hod < 64) && decide (sector < 512)) (evSectorLanding l k r hod sector data) s
def execNbrRequestArrival (l k : Nat) (s : State) : Res := runEv (dieOk l && decide (k < 48)) (evNbrRequestArrival l k) s
def execDieCacheRequest (l : Nat) (s : State) : Res := runEv (dieOk l) (evDieCacheRequest l) s
def execLineReadExpand (l line : Nat) (mask : BitVec 4) (s : State) : Res := runEv (dieOk l) (evLineReadExpand l line mask) s
def execFullLineWrite (l line : Nat) (comp : Bool) (data : BitVec 1024) (s : State) : Res := runEv (dieOk l) (evFullLineWrite l line comp data) s
def execPartialLineWrite (l addr : Nat) (comp : Bool) (bytes : List (BitVec 8)) (s : State) : Res := runEv (dieOk l) (evPartialLineWrite l addr comp bytes) s
def execTableWalkStart (l : Nat) (s : State) : Res := runEv (dieOk l) (evTableWalkStart l) s
def execTableWalkComplete (l : Nat) (s : State) : Res := runEv (dieOk l) (evTableWalkComplete l) s
def execPeerRequestCheck (l ipkg idie expidx gen : Nat) (rights : BitVec 3) (e kind : Nat) (bytes : List (BitVec 8)) (s : State) : Res := runEv (dieOk l) (evPeerRequestCheck l ipkg idie expidx gen rights e kind bytes) s
def execPeerResponseTimeout (l k c slot : Nat) (s : State) : Res := runEv (dieOk l && decide (k < 48) && decide (c < 65540) && decide (slot < 33)) (evPeerResponseTimeout l k c slot) s
def execXlinvPage (l : Nat) (vpage : BitVec 36) (s : State) : Res := runEv (dieOk l) (evXlinvPage l vpage) s
def execXlinvRange (l : Nat) (vpage : BitVec 36) (s : State) : Res := runEv (dieOk l) (evXlinvRange l vpage) s
def execXlinvAll (l : Nat) (s : State) : Res := runEv (dieOk l) (evXlinvAll l) s
def execXlinvReject (l : Nat) (v : BitVec 64) (s : State) : Res := runEv (dieOk l) (evXlinvReject l v) s
def execInvalidationDone (l : Nat) (s : State) : Res := runEv (dieOk l) (evInvalidationDone l) s
def execShopenGrant (l k c : Nat) (s : State) : Res := runEv (dieOk l && decide (k < 48) && decide (c < 4)) (evShopenGrant l k c) s
def execShpubExchange (l k c : Nat) (s : State) : Res := runEv (dieOk l && decide (k < 48) && decide (c < 65540)) (evShpubExchange l k c) s
def execClaimGrant (l k : Nat) (tile : Bool) (n : Nat) (s : State) : Res := runEv (dieOk l && decide (k < 48) && decide (n < 4)) (evClaimGrant l k tile n) s
def execEngineCommandAccept (l k c : Nat) (s : State) : Res := runEv (dieOk l && decide (k < 48) && decide (c < 4)) (evEngineCommandAccept l k c) s
def execCopyChunkTranslate (l k c : Nat) (s : State) : Res := runEv (dieOk l && decide (k < 48) && decide (c < 4)) (evCopyChunkTranslate l k c) s
def execCopyBlockWrite (l k c : Nat) (s : State) : Res := runEv (dieOk l && decide (k < 48) && decide (c < 4)) (evCopyBlockWrite l k c) s
def execCopyComplete (l k c : Nat) (s : State) : Res := runEv (dieOk l && decide (k < 48) && decide (c < 4)) (evCopyComplete l k c) s
def execStampedCopyAck (l : Nat) (s : State) : Res := runEv (dieOk l) (evStampedCopyAck l) s
def execTransformChunkStart (l k c : Nat) (s : State) : Res := runEv (dieOk l && decide (k < 48) && decide (c < 4)) (evTransformChunkStart l k c) s
def execTransformEcall (l k c : Nat) (s : State) : Res := runEv (dieOk l && decide (k < 48) && decide (c < 4)) (evTransformEcall l k c) s
def execTransformTimeout (l k c : Nat) (s : State) : Res := runEv (dieOk l && decide (k < 48) && decide (c < 4)) (evTransformTimeout l k c) s
def execTransformException (l k c : Nat) (access : Bool) (s : State) : Res := runEv (dieOk l && decide (k < 48) && decide (c < 4)) (evTransformException l k c access) s
def execEngineFaultReport (l k c : Nat) (s : State) : Res := runEv (dieOk l && decide (k < 48) && decide (c < 4)) (evEngineFaultReport l k c) s
def execCbldEntryCommit (l k c : Nat) (s : State) : Res := runEv (dieOk l && decide (k < 48) && decide (c < 4)) (evCbldEntryCommit l k c) s
def execCbvalCommit (l k c : Nat) (s : State) : Res := runEv (dieOk l && decide (k < 48) && decide (c < 4)) (evCbvalCommit l k c) s
def execCbsaveComplete (l k c : Nat) (s : State) : Res := runEv (dieOk l && decide (k < 48) && decide (c < 4)) (evCbsaveComplete l k c) s
def execCodebookExchange (l k c : Nat) (s : State) : Res := runEv (dieOk l && decide (k < 48) && decide (c < 4)) (evCodebookExchange l k c) s
def execRldwCourseCommit (l k : Nat) (s : State) : Res := runEv (dieOk l && decide (k < 48)) (evRldwCourseCommit l k) s
def execPassConverterRead (l k : Nat) (refused : BitVec 256) (s : State) : Res := runEv (dieOk l && decide (k < 48)) (evPassConverterRead l k refused) s
def execReraceComplete (l k : Nat) (refused : BitVec 256) (s : State) : Res := runEv (dieOk l && decide (k < 48)) (evReraceComplete l k refused) s
def execPassLanding (l k : Nat) (s : State) : Res := runEv (dieOk l && decide (k < 48)) (evPassLanding l k) s
def execRenormalisationStep (l k t : Nat) (s : State) : Res := runEv (dieOk l && decide (k < 48) && decide (t < 4)) (evRenormalisationStep l k t) s
def execCombRead (l k : Nat) (refused : Bool) (s : State) : Res := runEv (dieOk l && decide (k < 48)) (evCombRead l k refused) s
def execCombResultLand (l k : Nat) (s : State) : Res := runEv (dieOk l && decide (k < 48)) (evCombResultLand l k) s
def execRcalResult (l k : Nat) (s : State) : Res := runEv (dieOk l && decide (k < 48)) (evRcalResult l k) s
def execEccCorrectedCore (l k : Nat) (s : State) : Res := runEv (dieOk l && decide (k < 48)) (evEccCorrectedCore l k) s
def execEccFreezeEnd (l k : Nat) (s : State) : Res := runEv (dieOk l && decide (k < 48)) (evEccFreezeEnd l k) s
def execEccCorrectedMemory (l addr : Nat) (s : State) : Res := runEv (dieOk l) (evEccCorrectedMemory l addr) s
def execUncorrectableError (l place k addr : Nat) (s : State) : Res := runEv (dieOk l && decide (place < 3) && decide (k < 48)) (evUncorrectableError l place k addr) s
def execCalibrationPeriodicTimer (l k : Nat) (s : State) : Res := runEv (dieOk l && decide (k < 48)) (evCalibrationPeriodicTimer l k) s
def execTemperatureSample (l k : Nat) (temp : BitVec 16) (s : State) : Res := runEv (dieOk l && decide (k < 48)) (evTemperatureSample l k temp) s
def execCalibrationStart (l k : Nat) (s : State) : Res := runEv (dieOk l && decide (k < 48)) (evCalibrationStart l k) s
def execCalibrationRoutine (l k : Nat) (s : State) : Res := runEv (dieOk l && decide (k < 48)) (evCalibrationRoutine l k) s
def execDoorbellWrite (l q : Nat) (tail : BitVec 32) (s : State) : Res := runEv (dieOk l && decide (q < 8192)) (evDoorbellWrite l q tail) s
def execOpenRegion (l q : Nat) (s : State) : Res := runEv (dieOk l && decide (q < 8192)) (evOpenRegion l q) s
def execPlaceOperator (l q : Nat) (s : State) : Res := runEv (dieOk l && decide (q < 8192)) (evPlaceOperator l q) s
def execRefresh (l q : Nat) (s : State) : Res := runEv (dieOk l && decide (q < 8192)) (evRefresh l q) s
def execCloseRegion (l q : Nat) (s : State) : Res := runEv (dieOk l && decide (q < 8192)) (evCloseRegion l q) s
def execKillRegion (l q : Nat) (s : State) : Res := runEv (dieOk l && decide (q < 8192)) (evKillRegion l q) s
def execResume (l q : Nat) (s : State) : Res := runEv (dieOk l && decide (q < 8192)) (evResume l q) s
def execLaunchRefused (l q : Nat) (s : State) : Res := runEv (dieOk l && decide (q < 8192)) (evLaunchRefused l q) s
def execStepRelease (l w : Nat) (s : State) : Res := runEv (dieOk l && decide (w < 4)) (evStepRelease l w) s
def execSwitchThresholdExpiry (l k : Nat) (s : State) : Res := runEv (dieOk l && decide (k < 48)) (evSwitchThresholdExpiry l k) s
def execSliceExpiry (l k : Nat) (s : State) : Res := runEv (dieOk l && decide (k < 48)) (evSliceExpiry l k) s
def execPriorityAgeing (l k c : Nat) (s : State) : Res := runEv (dieOk l && decide (k < 48) && decide (c < 65540)) (evPriorityAgeing l k c) s
def execSwapThresholdExpiry (l k c : Nat) (s : State) : Res := runEv (dieOk l && decide (k < 48) && decide (c < 4)) (evSwapThresholdExpiry l k c) s
def execSwapOut (l k c : Nat) (s : State) : Res := runEv (dieOk l && decide (k < 48) && decide (c < 4)) (evSwapOut l k c) s
def execSwapIn (l slot : Nat) (s : State) : Res := runEv (dieOk l && decide (slot < 65536)) (evSwapIn l slot) s
def execWaitingBudgetExhausted (l k c : Nat) (s : State) : Res := runEv (dieOk l && decide (k < 48) && decide (c < 65540)) (evWaitingBudgetExhausted l k c) s
def execStepTimeBoundOverrun (l k c : Nat) (s : State) : Res := runEv (dieOk l && decide (k < 48) && decide (c < 65540)) (evStepTimeBoundOverrun l k c) s
def execWaitcTimeout (l k c : Nat) (s : State) : Res := runEv (dieOk l && decide (k < 48) && decide (c < 4)) (evWaitcTimeout l k c) s
def execPublicationComplete (l k c : Nat) (s : State) : Res := runEv (dieOk l && decide (k < 48) && decide (c < 65540)) (evPublicationComplete l k c) s
def execFenceComplete (l k c : Nat) (s : State) : Res := runEv (dieOk l && decide (k < 48) && decide (c < 4)) (evFenceComplete l k c) s
def execRetirementComplete (l k c : Nat) (s : State) : Res := runEv (dieOk l && decide (k < 48) && decide (c < 4)) (evRetirementComplete l k c) s
def execScratchpadAllocationFree (l k : Nat) (s : State) : Res := runEv (dieOk l && decide (k < 48)) (evScratchpadAllocationFree l k) s
def execTokenArrival (l : Nat) (s : State) : Res := runEv (dieOk l) (evTokenArrival l) s
def execTokenAcceptance (l : Nat) (s : State) : Res := runEv (dieOk l) (evTokenAcceptance l) s
def execTokenRefusal (l : Nat) (s : State) : Res := runEv (dieOk l) (evTokenRefusal l) s
def execLtEnable (l p : Nat) (s : State) : Res := runEv (dieOk l && decide (p < 64)) (evLtEnable l p) s
def execLtEnableComplete (l p : Nat) (s : State) : Res := runEv (dieOk l && decide (p < 64)) (evLtEnableComplete l p) s
def execLtAdvanceRoot (l p : Nat) (s : State) : Res := runEv (dieOk l && decide (p < 64)) (evLtAdvanceRoot l p) s
def execLtSeal (l p : Nat) (s : State) : Res := runEv (dieOk l && decide (p < 64)) (evLtSeal l p) s
def execLtDisable (l p : Nat) (s : State) : Res := runEv (dieOk l && decide (p < 64)) (evLtDisable l p) s
def execLtBadCommand (l : Nat) (v : BitVec 64) (s : State) : Res := runEv (dieOk l) (evLtBadCommand l v) s
def execRootNoticeApply (l : Nat) (s : State) : Res := runEv (dieOk l) (evRootNoticeApply l) s
def execRootNoticeReply (l : Nat) (s : State) : Res := runEv (dieOk l) (evRootNoticeReply l) s
def execBatchCloseTimeout (l : Nat) (s : State) : Res := runEv (dieOk l) (evBatchCloseTimeout l) s
def execBatchApply (l : Nat) (s : State) : Res := runEv (dieOk l) (evBatchApply l) s
def execCurfewNoticeApply (l : Nat) (s : State) : Res := runEv (dieOk l) (evCurfewNoticeApply l) s
def execSpillReadback (l : Nat) (s : State) : Res := runEv (dieOk l) (evSpillReadback l) s
def execLtspszWrite (l : Nat) (v : BitVec 64) (s : State) : Res := runEv (dieOk l) (evLtspszWrite l v) s
def execInterleaveCommit (l : Nat) (v : BitVec 64) (s : State) : Res := runEv (dieOk l) (evInterleaveCommit l v) s
def execInterleaveCommitDone (l : Nat) (s : State) : Res := runEv (dieOk l) (evInterleaveCommitDone l) s
def execFaultRecordWrite (l : Nat) (s : State) : Res := runEv (dieOk l) (evFaultRecordWrite l) s
def execFqheadWrite (l : Nat) (v : BitVec 32) (s : State) : Res := runEv (dieOk l) (evFqheadWrite l v) s
def execFqbaseWrite (l : Nat) (v : BitVec 64) (s : State) : Res := runEv (dieOk l) (evFqbaseWrite l v) s
def execMachineCheck (l unit : Nat) (s : State) : Res := runEv (dieOk l && decide (unit < 12)) (evMachineCheck l unit) s
def execFunctionLevelReset (l : Nat) (s : State) : Res := runEv (dieOk l) (evFunctionLevelReset l) s
def execPowerOnReset (p : Nat) (s : State) : Res := runEv (decide (p < 1024)) (evPowerOnReset p) s
def execStartStageAdvance (l reason : Nat) (s : State) : Res := runEv (dieOk l) (evStartStageAdvance l reason) s
def execFirmwareVerify (p : Nat) (flash : Option Signed) (manifests : List Manifest) (mailbox : Bool) (s : State) : Res :=
  runEv (decide (p < 1024)) (evFirmwareVerify p flash manifests mailbox) s
def execDoeImageWrite (p : Nat) (image : Signed) (s : State) : Res := runEv (decide (p < 1024)) (evDoeImageWrite p image) s
def execMsixUnmask (l v : Nat) (s : State) : Res := runEv (dieOk l && decide (v < 2048)) (evMsixUnmask l v) s
def execHostCxlMemAccess (l : Nat) (write : Bool) (addr n : Nat) (bytes : List (BitVec 8)) (s : State) : Res := runEv (dieOk l) (evHostCxlMemAccess l write addr n bytes) s
def execMeshFlitReceive (p link seq : Nat) (good : Bool) (s : State) : Res := runEv (decide (p < 1024) && decide (link < 24)) (evMeshFlitReceive p link seq good) s
def execMeshLaneFailure (p link lane : Nat) (s : State) : Res := runEv (decide (p < 1024) && decide (link < 12) && decide (lane < 136)) (evMeshLaneFailure p link lane) s
def execBeyvexFlitReceive (p port seq ack : Nat) (good : Bool) (s : State) : Res := runEv (decide (p < 1024) && decide (port < 12)) (evBeyvexFlitReceive p port seq ack good) s
def execBeyvexNakReceive (p port seq : Nat) (s : State) : Res := runEv (decide (p < 1024) && decide (port < 12)) (evBeyvexNakReceive p port seq) s
def execBeyvexLaneFailure (p port lane : Nat) (s : State) : Res := runEv (decide (p < 1024) && decide (port < 12) && decide (lane < 16)) (evBeyvexLaneFailure p port lane) s
def execBeyvexRetrainDone (p port : Nat) (s : State) : Res := runEv (decide (p < 1024) && decide (port < 12)) (evBeyvexRetrainDone p port) s
def execBxctlRetrain (l port : Nat) (s : State) : Res := runEv (dieOk l && decide (port < 12)) (evBxctlRetrain l port) s
def execPeerRegionCommit (l : Nat) (v : BitVec 64) (s : State) : Res := runEv (dieOk l) (evPeerRegionCommit l v) s
def execPeerRegionCommitDone (p : Nat) (s : State) : Res := runEv (decide (p < 1024)) (evPeerRegionCommitDone p) s
def execStaggerMessage (p port base step modulus : Nat) (s : State) : Res := runEv (decide (p < 1024) && decide (port < 12)) (evStaggerMessage p port base step modulus) s
def execPowerEstimateTick (p watts : Nat) (s : State) : Res := runEv (decide (p < 1024)) (evPowerEstimateTick p watts) s
def execQuietDetection (p : Nat) (s : State) : Res := runEv (decide (p < 1024)) (evQuietDetection p) s
def execFloorHoldExpiry (p : Nat) (s : State) : Res := runEv (decide (p < 1024)) (evFloorHoldExpiry p) s
def execStagoffExpiry (p : Nat) (s : State) : Res := runEv (decide (p < 1024)) (evStagoffExpiry p) s
def execFillerRaceStart (l k : Nat) (s : State) : Res := runEv (dieOk l && decide (k < 48)) (evFillerRaceStart l k) s
def execPowerRegisterWrite (l off : Nat) (v : BitVec 64) (s : State) : Res := runEv (dieOk l) (evPowerRegisterWrite l off v) s
def execRegisterWrite (l block off : Nat) (v : BitVec 64) (s : State) : Res := runEv (dieOk l) (evRegisterWrite l block off v) s
def execMeshLaneSpareReplay (p link : Nat) (s : State) : Res := runEv (decide (p < 1024) && decide (link < 12)) (evMeshLaneSpareReplay p link) s
def execLinkPartnerRetrain (p port : Nat) (s : State) : Res := runEv (decide (p < 1024) && decide (port < 12)) (evLinkPartnerRetrain p port) s
def execVirtualHierarchyBinding (l : Nat) (host : Option Nat) (s : State) : Res := runEv (dieOk l) (evVirtualHierarchyBinding l host) s
def execSpdmRequest (l request : Nat) (s : State) : Res := runEv (dieOk l) (evSpdmRequest l request) s

end Sys2Proof.Machine
end

