-- ==== Sys2Proof/Machine/Slots.lean ====
section
/-! DEFINITION. The meaning of each slot word (R261, R262) issued alone in the current context: its effect, its trap taken (R416 to
R419), or its stall or freeze noted (R248, R251). The bundle's own advance of the streams stands in Issue.lean. -/

namespace Sys2Proof.Machine

/-! A slot: access words -/

def execLda (d : BitVec 4) (i : BitVec 16) : State → Res := runSlot (opLda d i)
def execLdah (d : BitVec 4) (s : BitVec 4) (i : BitVec 16) : State → Res := runSlot (opLdah d s i)
def execMova (d : BitVec 4) (s : BitVec 4) : State → Res := runSlot (opMova d s)
def execAdda (d : BitVec 4) (s : BitVec 4) (t : BitVec 4) : State → Res := runSlot (opAdda d s t)
def execAddai (d : BitVec 4) (s : BitVec 4) (i : BitVec 16) : State → Res := runSlot (opAddai d s i)
def execSuba (d : BitVec 4) (s : BitVec 4) (t : BitVec 4) : State → Res := runSlot (opSuba d s t)
def execShla (d : BitVec 4) (s : BitVec 4) (n : BitVec 6) : State → Res := runSlot (opShla d s n)
def execMada (d : BitVec 4) (s : BitVec 4) (t : BitVec 4) : State → Res := runSlot (opMada d s t)
def execAnda (d : BitVec 4) (s : BitVec 4) (t : BitVec 4) : State → Res := runSlot (opAnda d s t)
def execPopq (d : BitVec 4) : State → Res := runSlot (opPopq d)
def execLdg (l : BitVec 5) (b : BitVec 4) (y : BitVec 4) (w : BitVec 3) (p : BitVec 2) (x : BitVec 6) : State → Res := runSlot (opLdg l b y w p x)
def execLds (l : BitVec 5) (b : BitVec 4) (y : BitVec 4) (w : BitVec 3) (p : BitVec 1) (x : BitVec 7) : State → Res := runSlot (opLds l b y w p x)
def execLdv (l : BitVec 5) (b : BitVec 4) (y : BitVec 4) (z : BitVec 2) (r : BitVec 1) (p : BitVec 1) (s : BitVec 1) (x : BitVec 6) : State → Res := runSlot (opLdv l b y z r p s x)
def execLdvg (l : BitVec 5) (b : BitVec 4) (y : BitVec 4) (s : BitVec 1) (p : BitVec 2) (x : BitVec 6) : State → Res := runSlot (opLdvg l b y s p x)
def execAmos (d : BitVec 4) (s : BitVec 4) (t : BitVec 4) (o : BitVec 4) (w : BitVec 1) (p : BitVec 2) (y : BitVec 4) (h : BitVec 1) : State → Res := runSlot (opAmos d s t o w p y h)
def execAmog (d : BitVec 4) (s : BitVec 4) (t : BitVec 4) (o : BitVec 4) (w : BitVec 1) (p : BitVec 2) (y : BitVec 4) (h : BitVec 1) : State → Res := runSlot (opAmog d s t o w p y h)
def execPref (b : BitVec 4) (p : BitVec 2) (x : BitVec 6) : State → Res := runSlot (opPref b p x)
def execStg (b : BitVec 4) (w : BitVec 3) (p : BitVec 2) (x : BitVec 6) : State → Res := runSlot (opStg b w p x)
def execSts (b : BitVec 4) (w : BitVec 3) (p : BitVec 1) (x : BitVec 7) : State → Res := runSlot (opSts b w p x)
def execStv (b : BitVec 4) (z : BitVec 2) (r : BitVec 1) (p : BitVec 1) (s : BitVec 1) (x : BitVec 6) : State → Res := runSlot (opStv b z r p s x)
def execStvg (b : BitVec 4) (s : BitVec 1) (p : BitVec 2) (x : BitVec 6) : State → Res := runSlot (opStvg b s p x)
def execRget (d : BitVec 4) (s : BitVec 4) (t : BitVec 4) (c : BitVec 1) (n : BitVec 7) : State → Res := runSlot (opRget d s t c n)
def execRput (d : BitVec 4) (s : BitVec 4) (t : BitVec 4) (c : BitVec 1) (n : BitVec 7) : State → Res := runSlot (opRput d s t c n)
def execRadvR (s : BitVec 4) (t : BitVec 4) (c : BitVec 1) (n : BitVec 7) : State → Res := runSlot (opRadvR s t c n)
def execRadvW (s : BitVec 4) (t : BitVec 4) (c : BitVec 1) (n : BitVec 7) : State → Res := runSlot (opRadvW s t c n)
def execRset (s : BitVec 4) (t : BitVec 4) : State → Res := runSlot (opRset s t)
def execLoop (c : BitVec 12) (l : BitVec 12) : State → Res := runSlot (opLoop c l)
def execLoopa (s : BitVec 4) (l : BitVec 12) : State → Res := runSlot (opLoopa s l)
def execBa (o : BitVec 11) : State → Res := runSlot (opBa o)
def execBca (c : BitVec 3) (s : BitVec 4) (t : BitVec 4) (o : BitVec 11) : State → Res := runSlot (opBca c s t o)
def execCall (o : BitVec 11) : State → Res := runSlot (opCall o)
def execRet : State → Res := runSlot (opRet)
def execFenceS : State → Res := runSlot (opFenceS)
def execFenceE : State → Res := runSlot (opFenceE)
def execFenceG : State → Res := runSlot (opFenceG)

/-! E slot: engine words -/

def execMte (a : BitVec 4) (n : BitVec 6) : State → Res := runSlot (opMte a n)
def execMfe (b : BitVec 4) (n : BitVec 6) : State → Res := runSlot (opMfe b n)
def execCpy (a : BitVec 4) (b : BitVec 4) (g : BitVec 3) : State → Res := runSlot (opCpy a b g)
def execCpyg (a : BitVec 4) (b : BitVec 4) (s : BitVec 1) (g : BitVec 3) : State → Res := runSlot (opCpyg a b s g)
def execCpyx (a : BitVec 4) (b : BitVec 4) (g : BitVec 3) : State → Res := runSlot (opCpyx a b g)
def execCbld (a : BitVec 4) (b : BitVec 4) (e : BitVec 8) (p : BitVec 1) (k : BitVec 2) : State → Res := runSlot (opCbld a b e p k)
def execCbval (a : BitVec 4) (b : BitVec 4) (j : BitVec 4) (v : BitVec 1) (k : BitVec 2) : State → Res := runSlot (opCbval a b j v k)
def execCbsel (a : BitVec 4) : State → Res := runSlot (opCbsel a)
def execCbsave (a : BitVec 4) (b : BitVec 4) (r : BitVec 1) (e : BitVec 8) (p : BitVec 1) (k : BitVec 2) : State → Res := runSlot (opCbsave a b r e p k)
def execTsend (a : BitVec 4) (b : BitVec 4) (l : BitVec 8) (m : BitVec 2) (g : BitVec 6) : State → Res := runSlot (opTsend a b l m g)
def execCfw (a : BitVec 4) (p : BitVec 6) (y : BitVec 8) : State → Res := runSlot (opCfw a p y)
def execCft (a : BitVec 4) (b : BitVec 4) (p : BitVec 6) (y : BitVec 8) : State → Res := runSlot (opCft a b p y)
def execWaitc (a : BitVec 4) (b : BitVec 4) (l : BitVec 1) (g : BitVec 3) : State → Res := runSlot (opWaitc a b l g)
def execCaph (a : BitVec 4) (y : BitVec 8) : State → Res := runSlot (opCaph a y)
def execCapd (a : BitVec 4) (y : BitVec 8) : State → Res := runSlot (opCapd a y)
def execPub (s : BitVec 3) : State → Res := runSlot (opPub s)
def execAcq (s : BitVec 3) : State → Res := runSlot (opAcq s)
def execShopen (a : BitVec 4) : State → Res := runSlot (opShopen a)
def execShpub (a : BitVec 4) : State → Res := runSlot (opShpub a)
def execYield : State → Res := runSlot (opYield)
def execRetire : State → Res := runSlot (opRetire)
def execTrap (n : BitVec 6) : State → Res := runSlot (opTrap n)
def execBrk (n : BitVec 6) : State → Res := runSlot (opBrk n)
def execSysc (a : BitVec 4) (b : BitVec 4) (s : BitVec 8) : State → Res := runSlot (opSysc a b s)
def execRdtime (b : BitVec 4) (u : BitVec 1) : State → Res := runSlot (opRdtime b u)

/-! X slot: scalar words -/

def execAdd (d : BitVec 5) (a : BitVec 5) (b : BitVec 5) : State → Res := runSlot (opAdd d a b)
def execSub (d : BitVec 5) (a : BitVec 5) (b : BitVec 5) : State → Res := runSlot (opSub d a b)
def execMul (d : BitVec 5) (a : BitVec 5) (b : BitVec 5) : State → Res := runSlot (opMul d a b)
def execMulh (d : BitVec 5) (a : BitVec 5) (b : BitVec 5) : State → Res := runSlot (opMulh d a b)
def execMulhn (d : BitVec 5) (a : BitVec 5) (b : BitVec 5) : State → Res := runSlot (opMulhn d a b)
def execDiv (d : BitVec 5) (a : BitVec 5) (b : BitVec 5) (z : BitVec 1) : State → Res := runSlot (opDiv d a b z)
def execDivn (d : BitVec 5) (a : BitVec 5) (b : BitVec 5) (z : BitVec 1) : State → Res := runSlot (opDivn d a b z)
def execRem (d : BitVec 5) (a : BitVec 5) (b : BitVec 5) (z : BitVec 1) : State → Res := runSlot (opRem d a b z)
def execRemn (d : BitVec 5) (a : BitVec 5) (b : BitVec 5) (z : BitVec 1) : State → Res := runSlot (opRemn d a b z)
def execAnd (d : BitVec 5) (a : BitVec 5) (b : BitVec 5) : State → Res := runSlot (opAnd d a b)
def execOr (d : BitVec 5) (a : BitVec 5) (b : BitVec 5) : State → Res := runSlot (opOr d a b)
def execXor (d : BitVec 5) (a : BitVec 5) (b : BitVec 5) : State → Res := runSlot (opXor d a b)
def execAndn (d : BitVec 5) (a : BitVec 5) (b : BitVec 5) : State → Res := runSlot (opAndn d a b)
def execShl (d : BitVec 5) (a : BitVec 5) (b : BitVec 5) : State → Res := runSlot (opShl d a b)
def execShr (d : BitVec 5) (a : BitVec 5) (b : BitVec 5) : State → Res := runSlot (opShr d a b)
def execSar (d : BitVec 5) (a : BitVec 5) (b : BitVec 5) : State → Res := runSlot (opSar d a b)
def execRol (d : BitVec 5) (a : BitVec 5) (b : BitVec 5) : State → Res := runSlot (opRol d a b)
def execClz (d : BitVec 5) (a : BitVec 5) : State → Res := runSlot (opClz d a)
def execCtz (d : BitVec 5) (a : BitVec 5) : State → Res := runSlot (opCtz d a)
def execPopc (d : BitVec 5) (a : BitVec 5) : State → Res := runSlot (opPopc d a)
def execMin (d : BitVec 5) (a : BitVec 5) (b : BitVec 5) : State → Res := runSlot (opMin d a b)
def execMax (d : BitVec 5) (a : BitVec 5) (b : BitVec 5) : State → Res := runSlot (opMax d a b)
def execMinn (d : BitVec 5) (a : BitVec 5) (b : BitVec 5) : State → Res := runSlot (opMinn d a b)
def execMaxn (d : BitVec 5) (a : BitVec 5) (b : BitVec 5) : State → Res := runSlot (opMaxn d a b)
def execCmp (d : BitVec 5) (a : BitVec 5) (b : BitVec 5) (c : BitVec 3) : State → Res := runSlot (opCmp d a b c)
def execSel (d : BitVec 5) (a : BitVec 5) (b : BitVec 5) (c : BitVec 5) : State → Res := runSlot (opSel d a b c)
def execAddi (d : BitVec 5) (a : BitVec 5) (i : BitVec 14) : State → Res := runSlot (opAddi d a i)
def execAndi (d : BitVec 5) (a : BitVec 5) (i : BitVec 14) : State → Res := runSlot (opAndi d a i)
def execOri (d : BitVec 5) (a : BitVec 5) (i : BitVec 14) : State → Res := runSlot (opOri d a i)
def execXori (d : BitVec 5) (a : BitVec 5) (i : BitVec 14) : State → Res := runSlot (opXori d a i)
def execShli (d : BitVec 5) (a : BitVec 5) (n : BitVec 6) : State → Res := runSlot (opShli d a n)
def execShri (d : BitVec 5) (a : BitVec 5) (n : BitVec 6) : State → Res := runSlot (opShri d a n)
def execSari (d : BitVec 5) (a : BitVec 5) (n : BitVec 6) : State → Res := runSlot (opSari d a n)
def execLi (d : BitVec 5) (i : BitVec 19) : State → Res := runSlot (opLi d i)
def execLih (d : BitVec 5) (i : BitVec 19) : State → Res := runSlot (opLih d i)
def execTake (d : BitVec 5) (l : BitVec 5) : State → Res := runSlot (opTake d l)
def execPush (a : BitVec 5) : State → Res := runSlot (opPush a)
def execMfs (d : BitVec 5) (n : BitVec 14) : State → Res := runSlot (opMfs d n)
def execMts (a : BitVec 5) (n : BitVec 14) : State → Res := runSlot (opMts a n)
def execBx (c : BitVec 3) (a : BitVec 5) (b : BitVec 5) (o : BitVec 11) : State → Res := runSlot (opBx c a b o)
def execJx (a : BitVec 5) : State → Res := runSlot (opJx a)
def execFaddS (d : BitVec 5) (a : BitVec 5) (b : BitVec 5) (r : BitVec 3) : State → Res := runSlot (opFaddS d a b r)
def execFsubS (d : BitVec 5) (a : BitVec 5) (b : BitVec 5) (r : BitVec 3) : State → Res := runSlot (opFsubS d a b r)
def execFmulS (d : BitVec 5) (a : BitVec 5) (b : BitVec 5) (r : BitVec 3) : State → Res := runSlot (opFmulS d a b r)
def execFmaS (d : BitVec 5) (a : BitVec 5) (b : BitVec 5) (r : BitVec 3) (c : BitVec 5) : State → Res := runSlot (opFmaS d a b r c)
def execFcvt (d : BitVec 5) (a : BitVec 5) (r : BitVec 3) (v : BitVec 4) : State → Res := runSlot (opFcvt d a r v)

/-! V slot: vector words -/

def execVadd (d : BitVec 4) (a : BitVec 4) (b : BitVec 4) (s : BitVec 1) (f : BitVec 4) (x : BitVec 4) : State → Res := runSlot (opVadd d a b s f x)
def execVsub (d : BitVec 4) (a : BitVec 4) (b : BitVec 4) (s : BitVec 1) (f : BitVec 4) (x : BitVec 4) : State → Res := runSlot (opVsub d a b s f x)
def execVmul (d : BitVec 4) (a : BitVec 4) (b : BitVec 4) (s : BitVec 1) (f : BitVec 4) (x : BitVec 4) : State → Res := runSlot (opVmul d a b s f x)
def execVfma (d : BitVec 4) (a : BitVec 4) (b : BitVec 4) (c : BitVec 4) (f : BitVec 4) (x : BitVec 4) : State → Res := runSlot (opVfma d a b c f x)
def execVfms (d : BitVec 4) (a : BitVec 4) (b : BitVec 4) (c : BitVec 4) (f : BitVec 4) (x : BitVec 4) : State → Res := runSlot (opVfms d a b c f x)
def execVmin (d : BitVec 4) (a : BitVec 4) (b : BitVec 4) (f : BitVec 4) (x : BitVec 4) : State → Res := runSlot (opVmin d a b f x)
def execVmax (d : BitVec 4) (a : BitVec 4) (b : BitVec 4) (f : BitVec 4) (x : BitVec 4) : State → Res := runSlot (opVmax d a b f x)
def execVabs (d : BitVec 4) (a : BitVec 4) (s : BitVec 1) (f : BitVec 4) (x : BitVec 4) : State → Res := runSlot (opVabs d a s f x)
def execVneg (d : BitVec 4) (a : BitVec 4) (s : BitVec 1) (f : BitVec 4) (x : BitVec 4) : State → Res := runSlot (opVneg d a s f x)
def execVcmp (d : BitVec 4) (a : BitVec 4) (b : BitVec 4) (c : BitVec 2) (f : BitVec 4) (x : BitVec 4) : State → Res := runSlot (opVcmp d a b c f x)
def execVsel (d : BitVec 4) (a : BitVec 4) (b : BitVec 4) (c : BitVec 4) (f : BitVec 4) : State → Res := runSlot (opVsel d a b c f)
def execVand (d : BitVec 4) (a : BitVec 4) (b : BitVec 4) : State → Res := runSlot (opVand d a b)
def execVor (d : BitVec 4) (a : BitVec 4) (b : BitVec 4) : State → Res := runSlot (opVor d a b)
def execVxor (d : BitVec 4) (a : BitVec 4) (b : BitVec 4) : State → Res := runSlot (opVxor d a b)
def execVnot (d : BitVec 4) (a : BitVec 4) : State → Res := runSlot (opVnot d a)
def execVshl (d : BitVec 4) (a : BitVec 4) (b : BitVec 4) (f : BitVec 4) : State → Res := runSlot (opVshl d a b f)
def execVshr (d : BitVec 4) (a : BitVec 4) (b : BitVec 4) (f : BitVec 4) : State → Res := runSlot (opVshr d a b f)
def execVsar (d : BitVec 4) (a : BitVec 4) (b : BitVec 4) (f : BitVec 4) : State → Res := runSlot (opVsar d a b f)
def execVcvt (d : BitVec 4) (a : BitVec 4) (p : BitVec 3) (c : BitVec 4) (f : BitVec 4) (x : BitVec 4) : State → Res := runSlot (opVcvt d a p c f x)
def execVqnt (d : BitVec 4) (a : BitVec 4) (s : BitVec 4) (c : BitVec 4) (f : BitVec 4) (x : BitVec 4) : State → Res := runSlot (opVqnt d a s c f x)
def execVdqt (d : BitVec 4) (a : BitVec 4) (p : BitVec 3) (c : BitVec 4) (f : BitVec 4) : State → Res := runSlot (opVdqt d a p c f)
def execVcbx (d : BitVec 4) (a : BitVec 4) (x : BitVec 4) : State → Res := runSlot (opVcbx d a x)
def execVcbi (d : BitVec 4) (a : BitVec 4) (x : BitVec 4) : State → Res := runSlot (opVcbi d a x)
def execVred (d : BitVec 4) (a : BitVec 4) (b : BitVec 4) (o : BitVec 2) (f : BitVec 4) (x : BitVec 4) : State → Res := runSlot (opVred d a b o f x)
def execVperm (d : BitVec 4) (a : BitVec 4) (b : BitVec 4) (f : BitVec 4) : State → Res := runSlot (opVperm d a b f)
def execVbcast (d : BitVec 4) (a : BitVec 4) (k : BitVec 8) (f : BitVec 4) : State → Res := runSlot (opVbcast d a k f)
def execVsplat (d : BitVec 4) (i : BitVec 12) (f : BitVec 4) : State → Res := runSlot (opVsplat d i f)
def execVslide (d : BitVec 4) (a : BitVec 4) (b : BitVec 4) (r : BitVec 1) (f : BitVec 4) : State → Res := runSlot (opVslide d a b r f)
def execVzip (d : BitVec 4) (a : BitVec 4) (b : BitVec 4) (h : BitVec 1) (f : BitVec 4) : State → Res := runSlot (opVzip d a b h f)
def execVunzip (d : BitVec 4) (a : BitVec 4) (b : BitVec 4) (h : BitVec 1) (f : BitVec 4) : State → Res := runSlot (opVunzip d a b h f)
def execVexp2 (d : BitVec 4) (a : BitVec 4) (f : BitVec 4) (x : BitVec 4) : State → Res := runSlot (opVexp2 d a f x)
def execVlog2 (d : BitVec 4) (a : BitVec 4) (f : BitVec 4) (x : BitVec 4) : State → Res := runSlot (opVlog2 d a f x)
def execVrcp (d : BitVec 4) (a : BitVec 4) (f : BitVec 4) (x : BitVec 4) : State → Res := runSlot (opVrcp d a f x)
def execVrsq (d : BitVec 4) (a : BitVec 4) (f : BitVec 4) (x : BitVec 4) : State → Res := runSlot (opVrsq d a f x)
def execVtake (d : BitVec 4) (l : BitVec 4) (h : BitVec 1) : State → Res := runSlot (opVtake d l h)
def execVpush (a : BitVec 4) : State → Res := runSlot (opVpush a)

/-! D slot: array words -/

def execDcw (a : BitVec 5) (n : BitVec 4) : State → Res := runSlot (opDcw a n)
def execDcr (n : BitVec 4) : State → Res := runSlot (opDcr n)
def execRclaim (o : BitVec 1) (n : BitVec 2) : State → Res := runSlot (opRclaim o n)
def execRrel (o : BitVec 1) (n : BitVec 2) : State → Res := runSlot (opRrel o n)
def execRldw (a : BitVec 5) (b : BitVec 5) (x : BitVec 1) (p : BitVec 2) : State → Res := runSlot (opRldw a b x p)
def execRpass (v : BitVec 4) (c : BitVec 4) (t : BitVec 2) (p : BitVec 2) (x : BitVec 1) : State → Res := runSlot (opRpass v c t p x)
def execRpassr (h : BitVec 4) (c : BitVec 4) (t : BitVec 2) (p : BitVec 2) (x : BitVec 1) (v : BitVec 1) : State → Res := runSlot (opRpassr h c t p x v)
def execRsat (c : BitVec 1) (q : BitVec 2) : State → Res := runSlot (opRsat c q)
def execRmin (v : BitVec 4) (x : BitVec 1) : State → Res := runSlot (opRmin v x)
def execRmax (v : BitVec 4) (x : BitVec 1) : State → Res := runSlot (opRmax v x)
def execRsort (v : BitVec 4) (x : BitVec 1) (d : BitVec 1) : State → Res := runSlot (opRsort v x d)
def execRtopk (v : BitVec 4) (k : BitVec 6) (x : BitVec 1) (d : BitVec 1) : State → Res := runSlot (opRtopk v k x d)
def execRrank (v : BitVec 4) (x : BitVec 1) (d : BitVec 1) : State → Res := runSlot (opRrank v x d)
def execAccz (a : BitVec 5) (t : BitVec 2) : State → Res := runSlot (opAccz a t)
def execAccrd (a : BitVec 5) (f : BitVec 2) (g : BitVec 2) (t : BitVec 2) : State → Res := runSlot (opAccrd a f g t)
def execAccst (a : BitVec 5) (b : BitVec 5) (r : BitVec 1) (p : BitVec 1) (f : BitVec 2) (t : BitVec 2) : State → Res := runSlot (opAccst a b r p f t)
def execAccnorm (t : BitVec 2) : State → Res := runSlot (opAccnorm t)
def execAccexp (a : BitVec 5) (e : BitVec 1) (t : BitVec 2) : State → Res := runSlot (opAccexp a e t)
def execRcal (a : BitVec 5) : State → Res := runSlot (opRcal a)
def execRtrimr (n : BitVec 6) : State → Res := runSlot (opRtrimr n)
def execRtrimw (a : BitVec 5) (n : BitVec 6) : State → Res := runSlot (opRtrimw a n)
def execRstat (n : BitVec 6) : State → Res := runSlot (opRstat n)

end Sys2Proof.Machine
end

