-- ==== Sys2Proof/Machine/Agents.lean ====
section
/-! DEFINITION. What comes next when the outside world has chosen nothing (log entry 4): the part's own agents in a fixed order (R2,
R4), then a clock of the next core. How a slot word comes to be fetched (log entry 6). -/

namespace Sys2Proof.Machine

/-- The events of a package that need nothing from outside. -/
def pkgEvents (p : Nat) : List (M Unit) :=
  [evPeerRegionCommitDone p, evQuietDetection p, evFloorHoldExpiry p, evStagoffExpiry p] ++ (List.range 12).map (evMeshLaneSpareReplay p) ++
    (List.range 24).map (evMeshDue p) ++ (List.range 12).map (evPortDue p)

/-- The events of a die that need nothing from outside. -/
def dieEvents (x : Ld) (l : Nat) : List (M Unit) :=
  [ evFaultRecordWrite l, evTableWalkComplete l, evTableWalkStart l, evInvalidationDone l, evInterleaveCommitDone l, evDieCacheRequest l,
    evRootNoticeApply l, evRootNoticeReply l, evBatchApply l, evCurfewNoticeApply l, evSpillReadback l, evStampedCopyAck l,
    evTokenArrival l, evTokenAcceptance l, evTokenRefusal l, evBatchCloseTimeout l, evStartStageAdvance l 0 ] ++
  x.parishes.map (fun e => evLtEnableComplete l e.1) ++
  x.wqWork.flatMap (fun e => [evOpenRegion l e.1, evPlaceOperator l e.1, evRefresh l e.1, evCloseRegion l e.1, evKillRegion l e.1, evResume l e.1, evLaunchRefused l e.1]) ++
  (x.landing.map fun w => evSectorLanding l w.core w.ring w.hod w.sector 0#256) ++
  x.saved.flatMap fun e =>
    [ evPublicationComplete l e.2.core (4 + e.1), evShpubExchange l e.2.core (4 + e.1), evSwapIn l e.1, evPriorityAgeing l e.2.core (4 + e.1),
      evStepTimeBoundOverrun l e.2.core (4 + e.1), evWaitingBudgetExhausted l e.2.core (4 + e.1) ] ++
    (List.range 32).map (evLandingSlotFill l e.2.core (4 + e.1))

/-- The events of a core that need nothing from outside. -/
def coreEvents (l k : Nat) : List (M Unit) :=
  [ evNbrRequestArrival l k, evRldwCourseCommit l k, evRcalResult l k, evScratchpadAllocationFree l k, evCalibrationStart l k,
    evCalibrationRoutine l k, evCalibrationPeriodicTimer l k, evSwitchThresholdExpiry l k, evSliceExpiry l k ] ++
  (List.range 4).flatMap (fun n => [evClaimGrant l k false n, evClaimGrant l k true n])

/-- The events of a context that need nothing from outside. -/
def ctxEvents (l k c : Nat) : List (M Unit) :=
  [ evFenceComplete l k c, evShopenGrant l k c, evShpubExchange l k c, evPublicationComplete l k c, evRetirementComplete l k c,
    evEngineFaultReport l k c, evCopyComplete l k c, evCopyBlockWrite l k c, evTransformEcall l k c, evTransformTimeout l k c,
    evTransformException l k c false, evTransformException l k c true, evTransformChunkStart l k c, evCopyChunkTranslate l k c,
    evCbldEntryCommit l k c, evCbvalCommit l k c, evCbsaveComplete l k c, evEngineCommandAccept l k c, evCodebookExchange l k c,
    evStepTimeBoundOverrun l k c, evWaitingBudgetExhausted l k c, evWaitcTimeout l k c, evPriorityAgeing l k c, evSwapThresholdExpiry l k c,
    evSwapOut l k c ] ++
  (List.range 32).flatMap (fun n => [evLandingSlotFill l k c n, evPeerResponseTimeout l k c n])

/-- The events that the units of the part may take by themselves, in the order in which they are tried. -/
def State.ownEvents (s : State) : List (M Unit) :=
  s.lds.flatMap (fun d =>
    dieEvents d.2 d.1 ++ (List.range 4).map (evStepRelease d.1) ++
    d.2.cores.flatMap fun k => coreEvents d.1 k.1 ++ k.2.ctxs.flatMap fun c => if c.2.live then ctxEvents d.1 k.1 c.1 else []) ++
  s.pkgs.flatMap fun p => pkgEvents p.1

/-- The state after the first event of a list that changes the state before its time has passed. -/
def firstEvent (s : State) : List (M Unit) → Option State
  | [] => none
  | m :: r =>
    match m s with
    | .ok (_, t) => if t.ticks = s.ticks ∧ t ≠ s then some t else firstEvent s r
    | .error _ => firstEvent s r

/-- The cores listed, by die and core number. -/
def State.coreList (s : State) : List (Nat × Nat) := s.lds.flatMap fun d => d.2.cores.map fun k => (d.1, k.1)

/-- The core whose clock comes next: the first after the one that had the last. -/
def State.nextCore (s : State) : Option (Nat × Nat) :=
  let after (e : Nat × Nat) : Bool := decide (s.turn.1 < e.1) || (s.turn.1 == e.1 && decide (s.turn.2 < e.2))
  match s.coreList.find? after with
  | some e => some e
  | none => s.coreList.head?

/-- One step of the part by itself: an event of its own, else a clock of the next core, else a clock's time passes. -/
def State.selfStep (s : State) : State :=
  match firstEvent s s.ownEvents with
  | some t => t
  | none =>
    match s.nextCore with
    | some e => { s.clock e.1 e.2 with turn := e }
    | none => { s with ticks := s.ticks + 4 }

/-! A slot word placed where the next step fetches -/

/-- The slot in which `decodeTableWord` reads the word, 0 for A up to 4 for D. -/
def slotFor (w : BitVec 32) : Nat := ((closestReading w).map (·.1)).getD 0

/-- The two code words of a bundle of one slot word (R243, R244). -/
def oneWord (w : BitVec 32) : List (BitVec 8) :=
  natLe 4 (Header.encode { slots := BitVec.ofNat 5 (2 ^ slotFor w), hold := 0#5, sync := 0#2 }).toNat ++ natLe 4 w.toNat

/-- The page at which a word is placed, and its leaf: valid, readable, device memory, the frame of the same number (R23, R25). -/
def placedPage : Nat := 1
def placedLeaf : Nat := put 1 0 1 ||| put 1 2 1 ||| put placedPage 16 36

/-- Context 0 of core 0 of die 0, active with its codebook set loaded, about to fetch a bundle of the one slot word. -/
def State.placeWord (s : State) (w : BitVec 32) : State :=
  let x := s.ctx 0 0 0
  let x := { x with live := true, paused := none, retiring := 0, st := { pc := 65536 * placedPage } }
  let e : TlbE := { page := placedPage, pages := 1, leaf := placedLeaf }
  let s := s.updCore 0 0 fun y =>
    { y with ctxs := [(0, x)], active := some 0, cbOwner := some x.setKey, switching := 0, freeze := 0, rerace := none, renorm := none
             yieldReq := false, calRun := 0, l1 := l1Add y.l1 e }
  let s := s.updLd 0 fun y => { y with regs.xlroot := y.regs.xlroot ||| 1#64, l2 := l2Add y.l2 e }
  (s.pokeLd 0 (65536 * placedPage) (oneWord w))

end Sys2Proof.Machine
end

