-- ==== Sys2Proof/Machine/Dispatch.lean ====
section
/-! DEFINITION. exec: one arm for each constructor of Instr, each one direct call of its meaning. -/

namespace Sys2Proof.Machine

open Host

def exec (i : Instr) (s : State) : Host.Outcome State Fault Refusal :=
  match i with
  | .lda d i1 => Sys2Proof.Machine.execLda d i1 s
  | .ldah d s1 i1 => Sys2Proof.Machine.execLdah d s1 i1 s
  | .mova d s1 => Sys2Proof.Machine.execMova d s1 s
  | .adda d s1 t => Sys2Proof.Machine.execAdda d s1 t s
  | .addai d s1 i1 => Sys2Proof.Machine.execAddai d s1 i1 s
  | .suba d s1 t => Sys2Proof.Machine.execSuba d s1 t s
  | .shla d s1 n => Sys2Proof.Machine.execShla d s1 n s
  | .mada d s1 t => Sys2Proof.Machine.execMada d s1 t s
  | .anda d s1 t => Sys2Proof.Machine.execAnda d s1 t s
  | .popq d => Sys2Proof.Machine.execPopq d s
  | .ldg l b y w p x => Sys2Proof.Machine.execLdg l b y w p x s
  | .lds l b y w p x => Sys2Proof.Machine.execLds l b y w p x s
  | .ldv l b y z r p s1 x => Sys2Proof.Machine.execLdv l b y z r p s1 x s
  | .ldvg l b y s1 p x => Sys2Proof.Machine.execLdvg l b y s1 p x s
  | .amos d s1 t o w p y h => Sys2Proof.Machine.execAmos d s1 t o w p y h s
  | .amog d s1 t o w p y h => Sys2Proof.Machine.execAmog d s1 t o w p y h s
  | .pref b p x => Sys2Proof.Machine.execPref b p x s
  | .stg b w p x => Sys2Proof.Machine.execStg b w p x s
  | .sts b w p x => Sys2Proof.Machine.execSts b w p x s
  | .stv b z r p s1 x => Sys2Proof.Machine.execStv b z r p s1 x s
  | .stvg b s1 p x => Sys2Proof.Machine.execStvg b s1 p x s
  | .rget d s1 t c n => Sys2Proof.Machine.execRget d s1 t c n s
  | .rput d s1 t c n => Sys2Proof.Machine.execRput d s1 t c n s
  | .radvR s1 t c n => Sys2Proof.Machine.execRadvR s1 t c n s
  | .radvW s1 t c n => Sys2Proof.Machine.execRadvW s1 t c n s
  | .rset s1 t => Sys2Proof.Machine.execRset s1 t s
  | .loop c l => Sys2Proof.Machine.execLoop c l s
  | .loopa s1 l => Sys2Proof.Machine.execLoopa s1 l s
  | .ba o => Sys2Proof.Machine.execBa o s
  | .bca c s1 t o => Sys2Proof.Machine.execBca c s1 t o s
  | .call o => Sys2Proof.Machine.execCall o s
  | .ret => Sys2Proof.Machine.execRet s
  | .fenceS => Sys2Proof.Machine.execFenceS s
  | .fenceE => Sys2Proof.Machine.execFenceE s
  | .fenceG => Sys2Proof.Machine.execFenceG s
  | .mte a n => Sys2Proof.Machine.execMte a n s
  | .mfe b n => Sys2Proof.Machine.execMfe b n s
  | .cpy a b g => Sys2Proof.Machine.execCpy a b g s
  | .cpyg a b s1 g => Sys2Proof.Machine.execCpyg a b s1 g s
  | .cpyx a b g => Sys2Proof.Machine.execCpyx a b g s
  | .cbld a b e p k => Sys2Proof.Machine.execCbld a b e p k s
  | .cbval a b j v k => Sys2Proof.Machine.execCbval a b j v k s
  | .cbsel a => Sys2Proof.Machine.execCbsel a s
  | .cbsave a b r e p k => Sys2Proof.Machine.execCbsave a b r e p k s
  | .tsend a b l m g => Sys2Proof.Machine.execTsend a b l m g s
  | .cfw a p y => Sys2Proof.Machine.execCfw a p y s
  | .cft a b p y => Sys2Proof.Machine.execCft a b p y s
  | .waitc a b l g => Sys2Proof.Machine.execWaitc a b l g s
  | .caph a y => Sys2Proof.Machine.execCaph a y s
  | .capd a y => Sys2Proof.Machine.execCapd a y s
  | .pub s1 => Sys2Proof.Machine.execPub s1 s
  | .acq s1 => Sys2Proof.Machine.execAcq s1 s
  | .shopen a => Sys2Proof.Machine.execShopen a s
  | .shpub a => Sys2Proof.Machine.execShpub a s
  | .yield => Sys2Proof.Machine.execYield s
  | .retire => Sys2Proof.Machine.execRetire s
  | .trap n => Sys2Proof.Machine.execTrap n s
  | .brk n => Sys2Proof.Machine.execBrk n s
  | .sysc a b s1 => Sys2Proof.Machine.execSysc a b s1 s
  | .rdtime b u => Sys2Proof.Machine.execRdtime b u s
  | .add d a b => Sys2Proof.Machine.execAdd d a b s
  | .sub d a b => Sys2Proof.Machine.execSub d a b s
  | .mul d a b => Sys2Proof.Machine.execMul d a b s
  | .mulh d a b => Sys2Proof.Machine.execMulh d a b s
  | .mulhn d a b => Sys2Proof.Machine.execMulhn d a b s
  | .div d a b z => Sys2Proof.Machine.execDiv d a b z s
  | .divn d a b z => Sys2Proof.Machine.execDivn d a b z s
  | .rem d a b z => Sys2Proof.Machine.execRem d a b z s
  | .remn d a b z => Sys2Proof.Machine.execRemn d a b z s
  | .and d a b => Sys2Proof.Machine.execAnd d a b s
  | .or d a b => Sys2Proof.Machine.execOr d a b s
  | .xor d a b => Sys2Proof.Machine.execXor d a b s
  | .andn d a b => Sys2Proof.Machine.execAndn d a b s
  | .shl d a b => Sys2Proof.Machine.execShl d a b s
  | .shr d a b => Sys2Proof.Machine.execShr d a b s
  | .sar d a b => Sys2Proof.Machine.execSar d a b s
  | .rol d a b => Sys2Proof.Machine.execRol d a b s
  | .clz d a => Sys2Proof.Machine.execClz d a s
  | .ctz d a => Sys2Proof.Machine.execCtz d a s
  | .popc d a => Sys2Proof.Machine.execPopc d a s
  | .min d a b => Sys2Proof.Machine.execMin d a b s
  | .max d a b => Sys2Proof.Machine.execMax d a b s
  | .minn d a b => Sys2Proof.Machine.execMinn d a b s
  | .maxn d a b => Sys2Proof.Machine.execMaxn d a b s
  | .cmp d a b c => Sys2Proof.Machine.execCmp d a b c s
  | .sel d a b c => Sys2Proof.Machine.execSel d a b c s
  | .addi d a i1 => Sys2Proof.Machine.execAddi d a i1 s
  | .andi d a i1 => Sys2Proof.Machine.execAndi d a i1 s
  | .ori d a i1 => Sys2Proof.Machine.execOri d a i1 s
  | .xori d a i1 => Sys2Proof.Machine.execXori d a i1 s
  | .shli d a n => Sys2Proof.Machine.execShli d a n s
  | .shri d a n => Sys2Proof.Machine.execShri d a n s
  | .sari d a n => Sys2Proof.Machine.execSari d a n s
  | .li d i1 => Sys2Proof.Machine.execLi d i1 s
  | .lih d i1 => Sys2Proof.Machine.execLih d i1 s
  | .take d l => Sys2Proof.Machine.execTake d l s
  | .push a => Sys2Proof.Machine.execPush a s
  | .mfs d n => Sys2Proof.Machine.execMfs d n s
  | .mts a n => Sys2Proof.Machine.execMts a n s
  | .bx c a b o => Sys2Proof.Machine.execBx c a b o s
  | .jx a => Sys2Proof.Machine.execJx a s
  | .faddS d a b r => Sys2Proof.Machine.execFaddS d a b r s
  | .fsubS d a b r => Sys2Proof.Machine.execFsubS d a b r s
  | .fmulS d a b r => Sys2Proof.Machine.execFmulS d a b r s
  | .fmaS d a b r c => Sys2Proof.Machine.execFmaS d a b r c s
  | .fcvt d a r v => Sys2Proof.Machine.execFcvt d a r v s
  | .vadd d a b s1 f x => Sys2Proof.Machine.execVadd d a b s1 f x s
  | .vsub d a b s1 f x => Sys2Proof.Machine.execVsub d a b s1 f x s
  | .vmul d a b s1 f x => Sys2Proof.Machine.execVmul d a b s1 f x s
  | .vfma d a b c f x => Sys2Proof.Machine.execVfma d a b c f x s
  | .vfms d a b c f x => Sys2Proof.Machine.execVfms d a b c f x s
  | .vmin d a b f x => Sys2Proof.Machine.execVmin d a b f x s
  | .vmax d a b f x => Sys2Proof.Machine.execVmax d a b f x s
  | .vabs d a s1 f x => Sys2Proof.Machine.execVabs d a s1 f x s
  | .vneg d a s1 f x => Sys2Proof.Machine.execVneg d a s1 f x s
  | .vcmp d a b c f x => Sys2Proof.Machine.execVcmp d a b c f x s
  | .vsel d a b c f => Sys2Proof.Machine.execVsel d a b c f s
  | .vand d a b => Sys2Proof.Machine.execVand d a b s
  | .vor d a b => Sys2Proof.Machine.execVor d a b s
  | .vxor d a b => Sys2Proof.Machine.execVxor d a b s
  | .vnot d a => Sys2Proof.Machine.execVnot d a s
  | .vshl d a b f => Sys2Proof.Machine.execVshl d a b f s
  | .vshr d a b f => Sys2Proof.Machine.execVshr d a b f s
  | .vsar d a b f => Sys2Proof.Machine.execVsar d a b f s
  | .vcvt d a p c f x => Sys2Proof.Machine.execVcvt d a p c f x s
  | .vqnt d a s1 c f x => Sys2Proof.Machine.execVqnt d a s1 c f x s
  | .vdqt d a p c f => Sys2Proof.Machine.execVdqt d a p c f s
  | .vcbx d a x => Sys2Proof.Machine.execVcbx d a x s
  | .vcbi d a x => Sys2Proof.Machine.execVcbi d a x s
  | .vred d a b o f x => Sys2Proof.Machine.execVred d a b o f x s
  | .vperm d a b f => Sys2Proof.Machine.execVperm d a b f s
  | .vbcast d a k f => Sys2Proof.Machine.execVbcast d a k f s
  | .vsplat d i1 f => Sys2Proof.Machine.execVsplat d i1 f s
  | .vslide d a b r f => Sys2Proof.Machine.execVslide d a b r f s
  | .vzip d a b h f => Sys2Proof.Machine.execVzip d a b h f s
  | .vunzip d a b h f => Sys2Proof.Machine.execVunzip d a b h f s
  | .vexp2 d a f x => Sys2Proof.Machine.execVexp2 d a f x s
  | .vlog2 d a f x => Sys2Proof.Machine.execVlog2 d a f x s
  | .vrcp d a f x => Sys2Proof.Machine.execVrcp d a f x s
  | .vrsq d a f x => Sys2Proof.Machine.execVrsq d a f x s
  | .vtake d l h => Sys2Proof.Machine.execVtake d l h s
  | .vpush a => Sys2Proof.Machine.execVpush a s
  | .dcw a n => Sys2Proof.Machine.execDcw a n s
  | .dcr n => Sys2Proof.Machine.execDcr n s
  | .rclaim o n => Sys2Proof.Machine.execRclaim o n s
  | .rrel o n => Sys2Proof.Machine.execRrel o n s
  | .rldw a b x p => Sys2Proof.Machine.execRldw a b x p s
  | .rpass v c t p x => Sys2Proof.Machine.execRpass v c t p x s
  | .rpassr h c t p x v => Sys2Proof.Machine.execRpassr h c t p x v s
  | .rsat c q => Sys2Proof.Machine.execRsat c q s
  | .rmin v x => Sys2Proof.Machine.execRmin v x s
  | .rmax v x => Sys2Proof.Machine.execRmax v x s
  | .rsort v x d => Sys2Proof.Machine.execRsort v x d s
  | .rtopk v k x d => Sys2Proof.Machine.execRtopk v k x d s
  | .rrank v x d => Sys2Proof.Machine.execRrank v x d s
  | .accz a t => Sys2Proof.Machine.execAccz a t s
  | .accrd a f g t => Sys2Proof.Machine.execAccrd a f g t s
  | .accst a b r p f t => Sys2Proof.Machine.execAccst a b r p f t s
  | .accnorm t => Sys2Proof.Machine.execAccnorm t s
  | .accexp a e t => Sys2Proof.Machine.execAccexp a e t s
  | .rcal a => Sys2Proof.Machine.execRcal a s
  | .rtrimr n => Sys2Proof.Machine.execRtrimr n s
  | .rtrimw a n => Sys2Proof.Machine.execRtrimw a n s
  | .rstat n => Sys2Proof.Machine.execRstat n s
  | .bundleIssue l k => Sys2Proof.Machine.execBundleIssue l k s
  | .resultLanding l k => Sys2Proof.Machine.execResultLanding l k s
  | .landingSlotFill l k c slot => Sys2Proof.Machine.execLandingSlotFill l k c slot s
  | .sectorLanding l k r hod sector data => Sys2Proof.Machine.execSectorLanding l k r hod sector data s
  | .nbrRequestArrival l k => Sys2Proof.Machine.execNbrRequestArrival l k s
  | .dieCacheRequest l => Sys2Proof.Machine.execDieCacheRequest l s
  | .lineReadExpand l line mask => Sys2Proof.Machine.execLineReadExpand l line mask s
  | .fullLineWrite l line comp data => Sys2Proof.Machine.execFullLineWrite l line comp data s
  | .partialLineWrite l addr comp bytes => Sys2Proof.Machine.execPartialLineWrite l addr comp bytes s
  | .tableWalkStart l => Sys2Proof.Machine.execTableWalkStart l s
  | .tableWalkComplete l => Sys2Proof.Machine.execTableWalkComplete l s
  | .peerRequestCheck l ipkg idie expidx gen rights e kind bytes => Sys2Proof.Machine.execPeerRequestCheck l ipkg idie expidx gen rights e kind bytes s
  | .peerResponseTimeout l k c slot => Sys2Proof.Machine.execPeerResponseTimeout l k c slot s
  | .xlinvPage l vpage => Sys2Proof.Machine.execXlinvPage l vpage s
  | .xlinvRange l vpage => Sys2Proof.Machine.execXlinvRange l vpage s
  | .xlinvAll l => Sys2Proof.Machine.execXlinvAll l s
  | .xlinvReject l v => Sys2Proof.Machine.execXlinvReject l v s
  | .invalidationDone l => Sys2Proof.Machine.execInvalidationDone l s
  | .shopenGrant l k c => Sys2Proof.Machine.execShopenGrant l k c s
  | .shpubExchange l k c => Sys2Proof.Machine.execShpubExchange l k c s
  | .claimGrant l k tile n => Sys2Proof.Machine.execClaimGrant l k tile n s
  | .engineCommandAccept l k c => Sys2Proof.Machine.execEngineCommandAccept l k c s
  | .copyChunkTranslate l k c => Sys2Proof.Machine.execCopyChunkTranslate l k c s
  | .copyBlockWrite l k c => Sys2Proof.Machine.execCopyBlockWrite l k c s
  | .copyComplete l k c => Sys2Proof.Machine.execCopyComplete l k c s
  | .stampedCopyAck l => Sys2Proof.Machine.execStampedCopyAck l s
  | .transformChunkStart l k c => Sys2Proof.Machine.execTransformChunkStart l k c s
  | .transformEcall l k c => Sys2Proof.Machine.execTransformEcall l k c s
  | .transformTimeout l k c => Sys2Proof.Machine.execTransformTimeout l k c s
  | .transformException l k c access => Sys2Proof.Machine.execTransformException l k c access s
  | .engineFaultReport l k c => Sys2Proof.Machine.execEngineFaultReport l k c s
  | .cbldEntryCommit l k c => Sys2Proof.Machine.execCbldEntryCommit l k c s
  | .cbvalCommit l k c => Sys2Proof.Machine.execCbvalCommit l k c s
  | .cbsaveComplete l k c => Sys2Proof.Machine.execCbsaveComplete l k c s
  | .codebookExchange l k c => Sys2Proof.Machine.execCodebookExchange l k c s
  | .rldwCourseCommit l k => Sys2Proof.Machine.execRldwCourseCommit l k s
  | .passConverterRead l k refused => Sys2Proof.Machine.execPassConverterRead l k refused s
  | .reraceComplete l k refused => Sys2Proof.Machine.execReraceComplete l k refused s
  | .passLanding l k => Sys2Proof.Machine.execPassLanding l k s
  | .renormalisationStep l k t => Sys2Proof.Machine.execRenormalisationStep l k t s
  | .combRead l k refused => Sys2Proof.Machine.execCombRead l k refused s
  | .combResultLand l k => Sys2Proof.Machine.execCombResultLand l k s
  | .rcalResult l k => Sys2Proof.Machine.execRcalResult l k s
  | .eccCorrectedCore l k => Sys2Proof.Machine.execEccCorrectedCore l k s
  | .eccFreezeEnd l k => Sys2Proof.Machine.execEccFreezeEnd l k s
  | .eccCorrectedMemory l addr => Sys2Proof.Machine.execEccCorrectedMemory l addr s
  | .uncorrectableError l place k addr => Sys2Proof.Machine.execUncorrectableError l place k addr s
  | .calibrationPeriodicTimer l k => Sys2Proof.Machine.execCalibrationPeriodicTimer l k s
  | .temperatureSample l k temp => Sys2Proof.Machine.execTemperatureSample l k temp s
  | .calibrationStart l k => Sys2Proof.Machine.execCalibrationStart l k s
  | .calibrationRoutine l k => Sys2Proof.Machine.execCalibrationRoutine l k s
  | .doorbellWrite l q tail => Sys2Proof.Machine.execDoorbellWrite l q tail s
  | .openRegion l q => Sys2Proof.Machine.execOpenRegion l q s
  | .placeOperator l q => Sys2Proof.Machine.execPlaceOperator l q s
  | .refresh l q => Sys2Proof.Machine.execRefresh l q s
  | .closeRegion l q => Sys2Proof.Machine.execCloseRegion l q s
  | .killRegion l q => Sys2Proof.Machine.execKillRegion l q s
  | .resume l q => Sys2Proof.Machine.execResume l q s
  | .launchRefused l q => Sys2Proof.Machine.execLaunchRefused l q s
  | .stepRelease l w => Sys2Proof.Machine.execStepRelease l w s
  | .switchThresholdExpiry l k => Sys2Proof.Machine.execSwitchThresholdExpiry l k s
  | .sliceExpiry l k => Sys2Proof.Machine.execSliceExpiry l k s
  | .priorityAgeing l k c => Sys2Proof.Machine.execPriorityAgeing l k c s
  | .swapThresholdExpiry l k c => Sys2Proof.Machine.execSwapThresholdExpiry l k c s
  | .swapOut l k c => Sys2Proof.Machine.execSwapOut l k c s
  | .swapIn l slot => Sys2Proof.Machine.execSwapIn l slot s
  | .waitingBudgetExhausted l k c => Sys2Proof.Machine.execWaitingBudgetExhausted l k c s
  | .stepTimeBoundOverrun l k c => Sys2Proof.Machine.execStepTimeBoundOverrun l k c s
  | .waitcTimeout l k c => Sys2Proof.Machine.execWaitcTimeout l k c s
  | .publicationComplete l k c => Sys2Proof.Machine.execPublicationComplete l k c s
  | .fenceComplete l k c => Sys2Proof.Machine.execFenceComplete l k c s
  | .retirementComplete l k c => Sys2Proof.Machine.execRetirementComplete l k c s
  | .scratchpadAllocationFree l k => Sys2Proof.Machine.execScratchpadAllocationFree l k s
  | .tokenArrival l => Sys2Proof.Machine.execTokenArrival l s
  | .tokenAcceptance l => Sys2Proof.Machine.execTokenAcceptance l s
  | .tokenRefusal l => Sys2Proof.Machine.execTokenRefusal l s
  | .ltEnable l p => Sys2Proof.Machine.execLtEnable l p s
  | .ltEnableComplete l p => Sys2Proof.Machine.execLtEnableComplete l p s
  | .ltAdvanceRoot l p => Sys2Proof.Machine.execLtAdvanceRoot l p s
  | .ltSeal l p => Sys2Proof.Machine.execLtSeal l p s
  | .ltDisable l p => Sys2Proof.Machine.execLtDisable l p s
  | .ltBadCommand l v => Sys2Proof.Machine.execLtBadCommand l v s
  | .rootNoticeApply l => Sys2Proof.Machine.execRootNoticeApply l s
  | .rootNoticeReply l => Sys2Proof.Machine.execRootNoticeReply l s
  | .batchCloseTimeout l => Sys2Proof.Machine.execBatchCloseTimeout l s
  | .batchApply l => Sys2Proof.Machine.execBatchApply l s
  | .curfewNoticeApply l => Sys2Proof.Machine.execCurfewNoticeApply l s
  | .spillReadback l => Sys2Proof.Machine.execSpillReadback l s
  | .ltspszWrite l v => Sys2Proof.Machine.execLtspszWrite l v s
  | .interleaveCommit l v => Sys2Proof.Machine.execInterleaveCommit l v s
  | .interleaveCommitDone l => Sys2Proof.Machine.execInterleaveCommitDone l s
  | .faultRecordWrite l => Sys2Proof.Machine.execFaultRecordWrite l s
  | .fqheadWrite l v => Sys2Proof.Machine.execFqheadWrite l v s
  | .fqbaseWrite l v => Sys2Proof.Machine.execFqbaseWrite l v s
  | .machineCheck l unit => Sys2Proof.Machine.execMachineCheck l unit s
  | .functionLevelReset l => Sys2Proof.Machine.execFunctionLevelReset l s
  | .powerOnReset p => Sys2Proof.Machine.execPowerOnReset p s
  | .startStageAdvance l reason => Sys2Proof.Machine.execStartStageAdvance l reason s
  | .firmwareVerify p version ed25519 mldsa65 => Sys2Proof.Machine.execFirmwareVerify p version ed25519 mldsa65 s
  | .doeImageWrite p image => Sys2Proof.Machine.execDoeImageWrite p image s
  | .msixUnmask l v => Sys2Proof.Machine.execMsixUnmask l v s
  | .hostCxlMemAccess l write addr n bytes => Sys2Proof.Machine.execHostCxlMemAccess l write addr n bytes s
  | .meshFlitReceive p link seq good => Sys2Proof.Machine.execMeshFlitReceive p link seq good s
  | .meshLaneFailure p link lane => Sys2Proof.Machine.execMeshLaneFailure p link lane s
  | .beyvexFlitReceive p port seq ack good => Sys2Proof.Machine.execBeyvexFlitReceive p port seq ack good s
  | .beyvexNakReceive p port seq => Sys2Proof.Machine.execBeyvexNakReceive p port seq s
  | .beyvexLaneFailure p port lane => Sys2Proof.Machine.execBeyvexLaneFailure p port lane s
  | .beyvexRetrainDone p port => Sys2Proof.Machine.execBeyvexRetrainDone p port s
  | .bxctlRetrain l port => Sys2Proof.Machine.execBxctlRetrain l port s
  | .peerRegionCommit l v => Sys2Proof.Machine.execPeerRegionCommit l v s
  | .peerRegionCommitDone p => Sys2Proof.Machine.execPeerRegionCommitDone p s
  | .staggerMessage p port base step modulus => Sys2Proof.Machine.execStaggerMessage p port base step modulus s
  | .powerEstimateTick p watts => Sys2Proof.Machine.execPowerEstimateTick p watts s
  | .quietDetection p => Sys2Proof.Machine.execQuietDetection p s
  | .floorHoldExpiry p => Sys2Proof.Machine.execFloorHoldExpiry p s
  | .stagoffExpiry p => Sys2Proof.Machine.execStagoffExpiry p s
  | .fillerRaceStart l k => Sys2Proof.Machine.execFillerRaceStart l k s
  | .powerRegisterWrite l off v => Sys2Proof.Machine.execPowerRegisterWrite l off v s
  | .registerWrite l block off v => Sys2Proof.Machine.execRegisterWrite l block off v s
  | .meshLaneSpareReplay p link => Sys2Proof.Machine.execMeshLaneSpareReplay p link s
  | .linkPartnerRetrain p port => Sys2Proof.Machine.execLinkPartnerRetrain p port s
  | .virtualHierarchyBinding l bind => Sys2Proof.Machine.execVirtualHierarchyBinding l bind s
  | .spdmRequest l request => Sys2Proof.Machine.execSpdmRequest l request s

end Sys2Proof.Machine
end

