-- ==== Sys2Proof/Machine/Step.lean ====
section
/-! DEFINITION. One step of the part: what the outside world has chosen comes next, else what the part does by itself (log entry 4). -/

namespace Sys2Proof.Machine

/-- One step: the head of the agenda, or the part's own next event or core clock. -/
def step (s : State) : Host.Outcome State Fault Refusal :=
  match s.agenda with
  | i :: r => exec i { s with agenda := r }
  | [] => .next s.selfStep

/-- The word of `nbits` bits placed as the one slot word of a bundle that the next step issues (log entry 6). -/
def State.withFetchWord (s : State) (_nbits w : Nat) : State :=
  { s.placeWord (BitVec.ofNat 32 w) with agenda := [.bundleIssue 0 0] }

end Sys2Proof.Machine
end

