-- ==== Sys2Proof/Laws/PerInstr.lean ====
section
/-! SUPPORT. The encoding of each instruction: in its slot, the word that encode writes decodes to the instruction it stands for. -/

namespace Sys2Proof.Laws

/-- In the slot of `i`, the word of a legal `i` decodes to `i` (R244, R261 to R264). -/
def Encoding.Statement (i : Instr) : Prop := ∀ k, i.slot = some k → i.ill = none → decodeSlot k (encode i) = .ok i

theorem extract_above {v w p n : Nat} {x : BitVec v} (y : BitVec w) {z : BitVec n} (h : x.extractLsb' p n = z) : (x ++ y).extractLsb' (p + w) n = z := by
  rw [BitVec.extractLsb'_append_eq_of_le (by omega), Nat.add_sub_cancel, h]
theorem extract_last {v n : Nat} (x : BitVec v) (z : BitVec n) : (x ++ z).extractLsb' 0 n = z := by
  rw [BitVec.extractLsb'_append_eq_of_add_le (by omega), BitVec.extractLsb'_eq_self]
theorem extract_inside {v w p n : Nat} (x : BitVec v) {y : BitVec w} {z : BitVec n} (hp : p + n ≤ w) (h : y.extractLsb' p n = z) : (x ++ y).extractLsb' p n = z := by
  rw [BitVec.extractLsb'_append_eq_of_add_le hp, h]
theorem and_parts {v w : Nat} {x a : BitVec v} {y b : BitVec w} (hx : x &&& a = 0#v) (hy : y &&& b = 0#w) : (x ++ y) &&& (a ++ b) = 0#(v + w) := by
  rw [BitVec.and_append, hx, hy, BitVec.zero_append_zero]
theorem and_free {n : Nat} (x : BitVec n) : x &&& 0#n = 0#n := BitVec.and_zero
theorem no_mark {w : BitVec 32} {o : BitVec 8} (h : w.extractLsb' 24 8 = o) (ho : o.extractLsb' 2 6 ≠ 0b101101#6) : isHeader w = false := by
  have : w.extractLsb' 26 6 = o.extractLsb' 2 6 := by
    subst h
    ext i hi
    simp [BitVec.getElem_extractLsb', show 2 + i < 8 by omega, show 24 + (2 + i) = 26 + i by omega]
  simp [isHeader, this, ho]
theorem checked_ok {p : Nat} {w r : BitVec 32} {i : Instr} (h : w &&& r = 0#32) (hi : i.ill = none) : checked p w r i = .ok i := by
  simp [checked, h, hi]
/-- A word without MARK is read by its slot's decoder. -/
theorem slotA {w : BitVec 32} (h : isHeader w = false) : decodeSlot 0 w = decodeA w := by simp [decodeSlot, h]
theorem slotE {w : BitVec 32} (h : isHeader w = false) : decodeSlot 1 w = decodeE w := by simp [decodeSlot, h]
theorem slotX {w : BitVec 32} (h : isHeader w = false) : decodeSlot 2 w = decodeX w := by simp [decodeSlot, h]
theorem slotV {w : BitVec 32} (h : isHeader w = false) : decodeSlot 3 w = decodeV w := by simp [decodeSlot, h]
theorem slotD {w : BitVec 32} (h : isHeader w = false) : decodeSlot 4 w = decodeD w := by simp [decodeSlot, h]

theorem Encoding.lda (d : BitVec 4) (i : BitVec 16) : Encoding.Statement (.lda d i) := by
  intro k hk hi
  cases hk
  have ho : (encode (.lda d i)).extractLsb' 24 8 = 0x1#8 := extract_above (i : BitVec 16) (extract_above (0x0#4 : BitVec 4) (extract_above (d : BitVec 4) (rfl)))
  have hr : encode (.lda d i) &&& 0x000F0000#32 = 0#32 := and_parts (and_parts (and_parts ((rfl : 0x1#8 &&& 0x0#8 = 0#8)) (and_free d)) ((rfl : 0x0#4 &&& 0xf#4 = 0#4))) (and_free i)
  have f0 : (fld (encode (.lda d i)) 20 : BitVec 4) = d := extract_above (i : BitVec 16) (extract_above (0x0#4 : BitVec 4) (extract_last _ _))
  have f1 : (fld (encode (.lda d i)) 0 : BitVec 16) = i := extract_last _ _
  simp only [slotA (no_mark ho (by decide)), decodeA, ho, f0, f1]
  exact checked_ok hr hi
theorem Encoding.ldah (d : BitVec 4) (s : BitVec 4) (i : BitVec 16) : Encoding.Statement (.ldah d s i) := by
  intro k hk hi
  cases hk
  have ho : (encode (.ldah d s i)).extractLsb' 24 8 = 0x2#8 := extract_above (i : BitVec 16) (extract_above (s : BitVec 4) (extract_above (d : BitVec 4) (rfl)))
  have hr : encode (.ldah d s i) &&& 0x00000000#32 = 0#32 := and_parts (and_parts (and_parts ((rfl : 0x2#8 &&& 0x0#8 = 0#8)) (and_free d)) (and_free s)) (and_free i)
  have f0 : (fld (encode (.ldah d s i)) 20 : BitVec 4) = d := extract_above (i : BitVec 16) (extract_above (s : BitVec 4) (extract_last _ _))
  have f1 : (fld (encode (.ldah d s i)) 16 : BitVec 4) = s := extract_above (i : BitVec 16) (extract_last _ _)
  have f2 : (fld (encode (.ldah d s i)) 0 : BitVec 16) = i := extract_last _ _
  simp only [slotA (no_mark ho (by decide)), decodeA, ho, f0, f1, f2]
  exact checked_ok hr hi
theorem Encoding.mova (d : BitVec 4) (s : BitVec 4) : Encoding.Statement (.mova d s) := by
  intro k hk hi
  cases hk
  have ho : (encode (.mova d s)).extractLsb' 24 8 = 0x3#8 := extract_above (0x0#16 : BitVec 16) (extract_above (s : BitVec 4) (extract_above (d : BitVec 4) (rfl)))
  have hr : encode (.mova d s) &&& 0x0000FFFF#32 = 0#32 := and_parts (and_parts (and_parts ((rfl : 0x3#8 &&& 0x0#8 = 0#8)) (and_free d)) (and_free s)) ((rfl : 0x0#16 &&& 0xffff#16 = 0#16))
  have f0 : (fld (encode (.mova d s)) 20 : BitVec 4) = d := extract_above (0x0#16 : BitVec 16) (extract_above (s : BitVec 4) (extract_last _ _))
  have f1 : (fld (encode (.mova d s)) 16 : BitVec 4) = s := extract_above (0x0#16 : BitVec 16) (extract_last _ _)
  simp only [slotA (no_mark ho (by decide)), decodeA, ho, f0, f1]
  exact checked_ok hr hi
theorem Encoding.adda (d : BitVec 4) (s : BitVec 4) (t : BitVec 4) : Encoding.Statement (.adda d s t) := by
  intro k hk hi
  cases hk
  have ho : (encode (.adda d s t)).extractLsb' 24 8 = 0x4#8 := extract_above (0x0#12 : BitVec 12) (extract_above (t : BitVec 4) (extract_above (s : BitVec 4) (extract_above (d : BitVec 4) (rfl))))
  have hr : encode (.adda d s t) &&& 0x00000FFF#32 = 0#32 := and_parts (and_parts (and_parts (and_parts ((rfl : 0x4#8 &&& 0x0#8 = 0#8)) (and_free d)) (and_free s)) (and_free t)) ((rfl : 0x0#12 &&& 0xfff#12 = 0#12))
  have f0 : (fld (encode (.adda d s t)) 20 : BitVec 4) = d := extract_above (0x0#12 : BitVec 12) (extract_above (t : BitVec 4) (extract_above (s : BitVec 4) (extract_last _ _)))
  have f1 : (fld (encode (.adda d s t)) 16 : BitVec 4) = s := extract_above (0x0#12 : BitVec 12) (extract_above (t : BitVec 4) (extract_last _ _))
  have f2 : (fld (encode (.adda d s t)) 12 : BitVec 4) = t := extract_above (0x0#12 : BitVec 12) (extract_last _ _)
  simp only [slotA (no_mark ho (by decide)), decodeA, ho, f0, f1, f2]
  exact checked_ok hr hi
theorem Encoding.addai (d : BitVec 4) (s : BitVec 4) (i : BitVec 16) : Encoding.Statement (.addai d s i) := by
  intro k hk hi
  cases hk
  have ho : (encode (.addai d s i)).extractLsb' 24 8 = 0x5#8 := extract_above (i : BitVec 16) (extract_above (s : BitVec 4) (extract_above (d : BitVec 4) (rfl)))
  have hr : encode (.addai d s i) &&& 0x00000000#32 = 0#32 := and_parts (and_parts (and_parts ((rfl : 0x5#8 &&& 0x0#8 = 0#8)) (and_free d)) (and_free s)) (and_free i)
  have f0 : (fld (encode (.addai d s i)) 20 : BitVec 4) = d := extract_above (i : BitVec 16) (extract_above (s : BitVec 4) (extract_last _ _))
  have f1 : (fld (encode (.addai d s i)) 16 : BitVec 4) = s := extract_above (i : BitVec 16) (extract_last _ _)
  have f2 : (fld (encode (.addai d s i)) 0 : BitVec 16) = i := extract_last _ _
  simp only [slotA (no_mark ho (by decide)), decodeA, ho, f0, f1, f2]
  exact checked_ok hr hi
theorem Encoding.suba (d : BitVec 4) (s : BitVec 4) (t : BitVec 4) : Encoding.Statement (.suba d s t) := by
  intro k hk hi
  cases hk
  have ho : (encode (.suba d s t)).extractLsb' 24 8 = 0x6#8 := extract_above (0x0#12 : BitVec 12) (extract_above (t : BitVec 4) (extract_above (s : BitVec 4) (extract_above (d : BitVec 4) (rfl))))
  have hr : encode (.suba d s t) &&& 0x00000FFF#32 = 0#32 := and_parts (and_parts (and_parts (and_parts ((rfl : 0x6#8 &&& 0x0#8 = 0#8)) (and_free d)) (and_free s)) (and_free t)) ((rfl : 0x0#12 &&& 0xfff#12 = 0#12))
  have f0 : (fld (encode (.suba d s t)) 20 : BitVec 4) = d := extract_above (0x0#12 : BitVec 12) (extract_above (t : BitVec 4) (extract_above (s : BitVec 4) (extract_last _ _)))
  have f1 : (fld (encode (.suba d s t)) 16 : BitVec 4) = s := extract_above (0x0#12 : BitVec 12) (extract_above (t : BitVec 4) (extract_last _ _))
  have f2 : (fld (encode (.suba d s t)) 12 : BitVec 4) = t := extract_above (0x0#12 : BitVec 12) (extract_last _ _)
  simp only [slotA (no_mark ho (by decide)), decodeA, ho, f0, f1, f2]
  exact checked_ok hr hi
theorem Encoding.shla (d : BitVec 4) (s : BitVec 4) (n : BitVec 6) : Encoding.Statement (.shla d s n) := by
  intro k hk hi
  cases hk
  have ho : (encode (.shla d s n)).extractLsb' 24 8 = 0x7#8 := extract_above (n : BitVec 6) (extract_above (0x0#10 : BitVec 10) (extract_above (s : BitVec 4) (extract_above (d : BitVec 4) (rfl))))
  have hr : encode (.shla d s n) &&& 0x0000FFC0#32 = 0#32 := and_parts (and_parts (and_parts (and_parts ((rfl : 0x7#8 &&& 0x0#8 = 0#8)) (and_free d)) (and_free s)) ((rfl : 0x0#10 &&& 0x3ff#10 = 0#10))) (and_free n)
  have f0 : (fld (encode (.shla d s n)) 20 : BitVec 4) = d := extract_above (n : BitVec 6) (extract_above (0x0#10 : BitVec 10) (extract_above (s : BitVec 4) (extract_last _ _)))
  have f1 : (fld (encode (.shla d s n)) 16 : BitVec 4) = s := extract_above (n : BitVec 6) (extract_above (0x0#10 : BitVec 10) (extract_last _ _))
  have f2 : (fld (encode (.shla d s n)) 0 : BitVec 6) = n := extract_last _ _
  simp only [slotA (no_mark ho (by decide)), decodeA, ho, f0, f1, f2]
  exact checked_ok hr hi
theorem Encoding.mada (d : BitVec 4) (s : BitVec 4) (t : BitVec 4) : Encoding.Statement (.mada d s t) := by
  intro k hk hi
  cases hk
  have ho : (encode (.mada d s t)).extractLsb' 24 8 = 0x8#8 := extract_above (0x0#12 : BitVec 12) (extract_above (t : BitVec 4) (extract_above (s : BitVec 4) (extract_above (d : BitVec 4) (rfl))))
  have hr : encode (.mada d s t) &&& 0x00000FFF#32 = 0#32 := and_parts (and_parts (and_parts (and_parts ((rfl : 0x8#8 &&& 0x0#8 = 0#8)) (and_free d)) (and_free s)) (and_free t)) ((rfl : 0x0#12 &&& 0xfff#12 = 0#12))
  have f0 : (fld (encode (.mada d s t)) 20 : BitVec 4) = d := extract_above (0x0#12 : BitVec 12) (extract_above (t : BitVec 4) (extract_above (s : BitVec 4) (extract_last _ _)))
  have f1 : (fld (encode (.mada d s t)) 16 : BitVec 4) = s := extract_above (0x0#12 : BitVec 12) (extract_above (t : BitVec 4) (extract_last _ _))
  have f2 : (fld (encode (.mada d s t)) 12 : BitVec 4) = t := extract_above (0x0#12 : BitVec 12) (extract_last _ _)
  simp only [slotA (no_mark ho (by decide)), decodeA, ho, f0, f1, f2]
  exact checked_ok hr hi
theorem Encoding.anda (d : BitVec 4) (s : BitVec 4) (t : BitVec 4) : Encoding.Statement (.anda d s t) := by
  intro k hk hi
  cases hk
  have ho : (encode (.anda d s t)).extractLsb' 24 8 = 0x9#8 := extract_above (0x0#12 : BitVec 12) (extract_above (t : BitVec 4) (extract_above (s : BitVec 4) (extract_above (d : BitVec 4) (rfl))))
  have hr : encode (.anda d s t) &&& 0x00000FFF#32 = 0#32 := and_parts (and_parts (and_parts (and_parts ((rfl : 0x9#8 &&& 0x0#8 = 0#8)) (and_free d)) (and_free s)) (and_free t)) ((rfl : 0x0#12 &&& 0xfff#12 = 0#12))
  have f0 : (fld (encode (.anda d s t)) 20 : BitVec 4) = d := extract_above (0x0#12 : BitVec 12) (extract_above (t : BitVec 4) (extract_above (s : BitVec 4) (extract_last _ _)))
  have f1 : (fld (encode (.anda d s t)) 16 : BitVec 4) = s := extract_above (0x0#12 : BitVec 12) (extract_above (t : BitVec 4) (extract_last _ _))
  have f2 : (fld (encode (.anda d s t)) 12 : BitVec 4) = t := extract_above (0x0#12 : BitVec 12) (extract_last _ _)
  simp only [slotA (no_mark ho (by decide)), decodeA, ho, f0, f1, f2]
  exact checked_ok hr hi
theorem Encoding.popq (d : BitVec 4) : Encoding.Statement (.popq d) := by
  intro k hk hi
  cases hk
  have ho : (encode (.popq d)).extractLsb' 24 8 = 0xa#8 := extract_above (0x0#20 : BitVec 20) (extract_above (d : BitVec 4) (rfl))
  have hr : encode (.popq d) &&& 0x000FFFFF#32 = 0#32 := and_parts (and_parts ((rfl : 0xa#8 &&& 0x0#8 = 0#8)) (and_free d)) ((rfl : 0x0#20 &&& 0xfffff#20 = 0#20))
  have f0 : (fld (encode (.popq d)) 20 : BitVec 4) = d := extract_above (0x0#20 : BitVec 20) (extract_last _ _)
  simp only [slotA (no_mark ho (by decide)), decodeA, ho, f0]
  exact checked_ok hr hi
theorem Encoding.ldg (l : BitVec 5) (b : BitVec 4) (y : BitVec 4) (w : BitVec 3) (p : BitVec 2) (x : BitVec 6) : Encoding.Statement (.ldg l b y w p x) := by
  intro k hk hi
  cases hk
  have ho : (encode (.ldg l b y w p x)).extractLsb' 24 8 = 0x10#8 := extract_above (x : BitVec 6) (extract_above (p : BitVec 2) (extract_above (w : BitVec 3) (extract_above (y : BitVec 4) (extract_above (b : BitVec 4) (extract_above (l : BitVec 5) (rfl))))))
  have hr : encode (.ldg l b y w p x) &&& 0x00000000#32 = 0#32 := and_parts (and_parts (and_parts (and_parts (and_parts (and_parts ((rfl : 0x10#8 &&& 0x0#8 = 0#8)) (and_free l)) (and_free b)) (and_free y)) (and_free w)) (and_free p)) (and_free x)
  have f0 : (fld (encode (.ldg l b y w p x)) 19 : BitVec 5) = l := extract_above (x : BitVec 6) (extract_above (p : BitVec 2) (extract_above (w : BitVec 3) (extract_above (y : BitVec 4) (extract_above (b : BitVec 4) (extract_last _ _)))))
  have f1 : (fld (encode (.ldg l b y w p x)) 15 : BitVec 4) = b := extract_above (x : BitVec 6) (extract_above (p : BitVec 2) (extract_above (w : BitVec 3) (extract_above (y : BitVec 4) (extract_last _ _))))
  have f2 : (fld (encode (.ldg l b y w p x)) 11 : BitVec 4) = y := extract_above (x : BitVec 6) (extract_above (p : BitVec 2) (extract_above (w : BitVec 3) (extract_last _ _)))
  have f3 : (fld (encode (.ldg l b y w p x)) 8 : BitVec 3) = w := extract_above (x : BitVec 6) (extract_above (p : BitVec 2) (extract_last _ _))
  have f4 : (fld (encode (.ldg l b y w p x)) 6 : BitVec 2) = p := extract_above (x : BitVec 6) (extract_last _ _)
  have f5 : (fld (encode (.ldg l b y w p x)) 0 : BitVec 6) = x := extract_last _ _
  simp only [slotA (no_mark ho (by decide)), decodeA, ho, f0, f1, f2, f3, f4, f5]
  exact checked_ok hr hi
theorem Encoding.lds (l : BitVec 5) (b : BitVec 4) (y : BitVec 4) (w : BitVec 3) (p : BitVec 1) (x : BitVec 7) : Encoding.Statement (.lds l b y w p x) := by
  intro k hk hi
  cases hk
  have ho : (encode (.lds l b y w p x)).extractLsb' 24 8 = 0x11#8 := extract_above (x : BitVec 7) (extract_above (p : BitVec 1) (extract_above (w : BitVec 3) (extract_above (y : BitVec 4) (extract_above (b : BitVec 4) (extract_above (l : BitVec 5) (rfl))))))
  have hr : encode (.lds l b y w p x) &&& 0x00000000#32 = 0#32 := and_parts (and_parts (and_parts (and_parts (and_parts (and_parts ((rfl : 0x11#8 &&& 0x0#8 = 0#8)) (and_free l)) (and_free b)) (and_free y)) (and_free w)) (and_free p)) (and_free x)
  have f0 : (fld (encode (.lds l b y w p x)) 19 : BitVec 5) = l := extract_above (x : BitVec 7) (extract_above (p : BitVec 1) (extract_above (w : BitVec 3) (extract_above (y : BitVec 4) (extract_above (b : BitVec 4) (extract_last _ _)))))
  have f1 : (fld (encode (.lds l b y w p x)) 15 : BitVec 4) = b := extract_above (x : BitVec 7) (extract_above (p : BitVec 1) (extract_above (w : BitVec 3) (extract_above (y : BitVec 4) (extract_last _ _))))
  have f2 : (fld (encode (.lds l b y w p x)) 11 : BitVec 4) = y := extract_above (x : BitVec 7) (extract_above (p : BitVec 1) (extract_above (w : BitVec 3) (extract_last _ _)))
  have f3 : (fld (encode (.lds l b y w p x)) 8 : BitVec 3) = w := extract_above (x : BitVec 7) (extract_above (p : BitVec 1) (extract_last _ _))
  have f4 : (fld (encode (.lds l b y w p x)) 7 : BitVec 1) = p := extract_above (x : BitVec 7) (extract_last _ _)
  have f5 : (fld (encode (.lds l b y w p x)) 0 : BitVec 7) = x := extract_last _ _
  simp only [slotA (no_mark ho (by decide)), decodeA, ho, f0, f1, f2, f3, f4, f5]
  exact checked_ok hr hi
theorem Encoding.ldv (l : BitVec 5) (b : BitVec 4) (y : BitVec 4) (z : BitVec 2) (r : BitVec 1) (p : BitVec 1) (s : BitVec 1) (x : BitVec 6) : Encoding.Statement (.ldv l b y z r p s x) := by
  intro k hk hi
  cases hk
  have ho : (encode (.ldv l b y z r p s x)).extractLsb' 24 8 = 0x12#8 := extract_above (x : BitVec 6) (extract_above (s : BitVec 1) (extract_above (p : BitVec 1) (extract_above (r : BitVec 1) (extract_above (z : BitVec 2) (extract_above (y : BitVec 4) (extract_above (b : BitVec 4) (extract_above (l : BitVec 5) (rfl))))))))
  have hr : encode (.ldv l b y z r p s x) &&& 0x00000000#32 = 0#32 := and_parts (and_parts (and_parts (and_parts (and_parts (and_parts (and_parts (and_parts ((rfl : 0x12#8 &&& 0x0#8 = 0#8)) (and_free l)) (and_free b)) (and_free y)) (and_free z)) (and_free r)) (and_free p)) (and_free s)) (and_free x)
  have f0 : (fld (encode (.ldv l b y z r p s x)) 19 : BitVec 5) = l := extract_above (x : BitVec 6) (extract_above (s : BitVec 1) (extract_above (p : BitVec 1) (extract_above (r : BitVec 1) (extract_above (z : BitVec 2) (extract_above (y : BitVec 4) (extract_above (b : BitVec 4) (extract_last _ _)))))))
  have f1 : (fld (encode (.ldv l b y z r p s x)) 15 : BitVec 4) = b := extract_above (x : BitVec 6) (extract_above (s : BitVec 1) (extract_above (p : BitVec 1) (extract_above (r : BitVec 1) (extract_above (z : BitVec 2) (extract_above (y : BitVec 4) (extract_last _ _))))))
  have f2 : (fld (encode (.ldv l b y z r p s x)) 11 : BitVec 4) = y := extract_above (x : BitVec 6) (extract_above (s : BitVec 1) (extract_above (p : BitVec 1) (extract_above (r : BitVec 1) (extract_above (z : BitVec 2) (extract_last _ _)))))
  have f3 : (fld (encode (.ldv l b y z r p s x)) 9 : BitVec 2) = z := extract_above (x : BitVec 6) (extract_above (s : BitVec 1) (extract_above (p : BitVec 1) (extract_above (r : BitVec 1) (extract_last _ _))))
  have f4 : (fld (encode (.ldv l b y z r p s x)) 8 : BitVec 1) = r := extract_above (x : BitVec 6) (extract_above (s : BitVec 1) (extract_above (p : BitVec 1) (extract_last _ _)))
  have f5 : (fld (encode (.ldv l b y z r p s x)) 7 : BitVec 1) = p := extract_above (x : BitVec 6) (extract_above (s : BitVec 1) (extract_last _ _))
  have f6 : (fld (encode (.ldv l b y z r p s x)) 6 : BitVec 1) = s := extract_above (x : BitVec 6) (extract_last _ _)
  have f7 : (fld (encode (.ldv l b y z r p s x)) 0 : BitVec 6) = x := extract_last _ _
  simp only [slotA (no_mark ho (by decide)), decodeA, ho, f0, f1, f2, f3, f4, f5, f6, f7]
  exact checked_ok hr hi
theorem Encoding.ldvg (l : BitVec 5) (b : BitVec 4) (y : BitVec 4) (s : BitVec 1) (p : BitVec 2) (x : BitVec 6) : Encoding.Statement (.ldvg l b y s p x) := by
  intro k hk hi
  cases hk
  have ho : (encode (.ldvg l b y s p x)).extractLsb' 24 8 = 0x13#8 := extract_above (x : BitVec 6) (extract_above (p : BitVec 2) (extract_above (0x0#2 : BitVec 2) (extract_above (s : BitVec 1) (extract_above (y : BitVec 4) (extract_above (b : BitVec 4) (extract_above (l : BitVec 5) (rfl)))))))
  have hr : encode (.ldvg l b y s p x) &&& 0x00000300#32 = 0#32 := and_parts (and_parts (and_parts (and_parts (and_parts (and_parts (and_parts ((rfl : 0x13#8 &&& 0x0#8 = 0#8)) (and_free l)) (and_free b)) (and_free y)) (and_free s)) ((rfl : 0x0#2 &&& 0x3#2 = 0#2))) (and_free p)) (and_free x)
  have f0 : (fld (encode (.ldvg l b y s p x)) 19 : BitVec 5) = l := extract_above (x : BitVec 6) (extract_above (p : BitVec 2) (extract_above (0x0#2 : BitVec 2) (extract_above (s : BitVec 1) (extract_above (y : BitVec 4) (extract_above (b : BitVec 4) (extract_last _ _))))))
  have f1 : (fld (encode (.ldvg l b y s p x)) 15 : BitVec 4) = b := extract_above (x : BitVec 6) (extract_above (p : BitVec 2) (extract_above (0x0#2 : BitVec 2) (extract_above (s : BitVec 1) (extract_above (y : BitVec 4) (extract_last _ _)))))
  have f2 : (fld (encode (.ldvg l b y s p x)) 11 : BitVec 4) = y := extract_above (x : BitVec 6) (extract_above (p : BitVec 2) (extract_above (0x0#2 : BitVec 2) (extract_above (s : BitVec 1) (extract_last _ _))))
  have f3 : (fld (encode (.ldvg l b y s p x)) 10 : BitVec 1) = s := extract_above (x : BitVec 6) (extract_above (p : BitVec 2) (extract_above (0x0#2 : BitVec 2) (extract_last _ _)))
  have f4 : (fld (encode (.ldvg l b y s p x)) 6 : BitVec 2) = p := extract_above (x : BitVec 6) (extract_last _ _)
  have f5 : (fld (encode (.ldvg l b y s p x)) 0 : BitVec 6) = x := extract_last _ _
  simp only [slotA (no_mark ho (by decide)), decodeA, ho, f0, f1, f2, f3, f4, f5]
  exact checked_ok hr hi
theorem Encoding.amos (d : BitVec 4) (s : BitVec 4) (t : BitVec 4) (o : BitVec 4) (w : BitVec 1) (p : BitVec 2) (y : BitVec 4) (h : BitVec 1) : Encoding.Statement (.amos d s t o w p y h) := by
  intro k hk hi
  cases hk
  have ho : (encode (.amos d s t o w p y h)).extractLsb' 24 8 = 0x14#8 := extract_above (h : BitVec 1) (extract_above (y : BitVec 4) (extract_above (p : BitVec 2) (extract_above (w : BitVec 1) (extract_above (o : BitVec 4) (extract_above (t : BitVec 4) (extract_above (s : BitVec 4) (extract_above (d : BitVec 4) (rfl))))))))
  have hr : encode (.amos d s t o w p y h) &&& 0x00000000#32 = 0#32 := and_parts (and_parts (and_parts (and_parts (and_parts (and_parts (and_parts (and_parts ((rfl : 0x14#8 &&& 0x0#8 = 0#8)) (and_free d)) (and_free s)) (and_free t)) (and_free o)) (and_free w)) (and_free p)) (and_free y)) (and_free h)
  have f0 : (fld (encode (.amos d s t o w p y h)) 20 : BitVec 4) = d := extract_above (h : BitVec 1) (extract_above (y : BitVec 4) (extract_above (p : BitVec 2) (extract_above (w : BitVec 1) (extract_above (o : BitVec 4) (extract_above (t : BitVec 4) (extract_above (s : BitVec 4) (extract_last _ _)))))))
  have f1 : (fld (encode (.amos d s t o w p y h)) 16 : BitVec 4) = s := extract_above (h : BitVec 1) (extract_above (y : BitVec 4) (extract_above (p : BitVec 2) (extract_above (w : BitVec 1) (extract_above (o : BitVec 4) (extract_above (t : BitVec 4) (extract_last _ _))))))
  have f2 : (fld (encode (.amos d s t o w p y h)) 12 : BitVec 4) = t := extract_above (h : BitVec 1) (extract_above (y : BitVec 4) (extract_above (p : BitVec 2) (extract_above (w : BitVec 1) (extract_above (o : BitVec 4) (extract_last _ _)))))
  have f3 : (fld (encode (.amos d s t o w p y h)) 8 : BitVec 4) = o := extract_above (h : BitVec 1) (extract_above (y : BitVec 4) (extract_above (p : BitVec 2) (extract_above (w : BitVec 1) (extract_last _ _))))
  have f4 : (fld (encode (.amos d s t o w p y h)) 7 : BitVec 1) = w := extract_above (h : BitVec 1) (extract_above (y : BitVec 4) (extract_above (p : BitVec 2) (extract_last _ _)))
  have f5 : (fld (encode (.amos d s t o w p y h)) 5 : BitVec 2) = p := extract_above (h : BitVec 1) (extract_above (y : BitVec 4) (extract_last _ _))
  have f6 : (fld (encode (.amos d s t o w p y h)) 1 : BitVec 4) = y := extract_above (h : BitVec 1) (extract_last _ _)
  have f7 : (fld (encode (.amos d s t o w p y h)) 0 : BitVec 1) = h := extract_last _ _
  simp only [slotA (no_mark ho (by decide)), decodeA, ho, f0, f1, f2, f3, f4, f5, f6, f7]
  exact checked_ok hr hi
theorem Encoding.amog (d : BitVec 4) (s : BitVec 4) (t : BitVec 4) (o : BitVec 4) (w : BitVec 1) (p : BitVec 2) (y : BitVec 4) (h : BitVec 1) : Encoding.Statement (.amog d s t o w p y h) := by
  intro k hk hi
  cases hk
  have ho : (encode (.amog d s t o w p y h)).extractLsb' 24 8 = 0x15#8 := extract_above (h : BitVec 1) (extract_above (y : BitVec 4) (extract_above (p : BitVec 2) (extract_above (w : BitVec 1) (extract_above (o : BitVec 4) (extract_above (t : BitVec 4) (extract_above (s : BitVec 4) (extract_above (d : BitVec 4) (rfl))))))))
  have hr : encode (.amog d s t o w p y h) &&& 0x00000000#32 = 0#32 := and_parts (and_parts (and_parts (and_parts (and_parts (and_parts (and_parts (and_parts ((rfl : 0x15#8 &&& 0x0#8 = 0#8)) (and_free d)) (and_free s)) (and_free t)) (and_free o)) (and_free w)) (and_free p)) (and_free y)) (and_free h)
  have f0 : (fld (encode (.amog d s t o w p y h)) 20 : BitVec 4) = d := extract_above (h : BitVec 1) (extract_above (y : BitVec 4) (extract_above (p : BitVec 2) (extract_above (w : BitVec 1) (extract_above (o : BitVec 4) (extract_above (t : BitVec 4) (extract_above (s : BitVec 4) (extract_last _ _)))))))
  have f1 : (fld (encode (.amog d s t o w p y h)) 16 : BitVec 4) = s := extract_above (h : BitVec 1) (extract_above (y : BitVec 4) (extract_above (p : BitVec 2) (extract_above (w : BitVec 1) (extract_above (o : BitVec 4) (extract_above (t : BitVec 4) (extract_last _ _))))))
  have f2 : (fld (encode (.amog d s t o w p y h)) 12 : BitVec 4) = t := extract_above (h : BitVec 1) (extract_above (y : BitVec 4) (extract_above (p : BitVec 2) (extract_above (w : BitVec 1) (extract_above (o : BitVec 4) (extract_last _ _)))))
  have f3 : (fld (encode (.amog d s t o w p y h)) 8 : BitVec 4) = o := extract_above (h : BitVec 1) (extract_above (y : BitVec 4) (extract_above (p : BitVec 2) (extract_above (w : BitVec 1) (extract_last _ _))))
  have f4 : (fld (encode (.amog d s t o w p y h)) 7 : BitVec 1) = w := extract_above (h : BitVec 1) (extract_above (y : BitVec 4) (extract_above (p : BitVec 2) (extract_last _ _)))
  have f5 : (fld (encode (.amog d s t o w p y h)) 5 : BitVec 2) = p := extract_above (h : BitVec 1) (extract_above (y : BitVec 4) (extract_last _ _))
  have f6 : (fld (encode (.amog d s t o w p y h)) 1 : BitVec 4) = y := extract_above (h : BitVec 1) (extract_last _ _)
  have f7 : (fld (encode (.amog d s t o w p y h)) 0 : BitVec 1) = h := extract_last _ _
  simp only [slotA (no_mark ho (by decide)), decodeA, ho, f0, f1, f2, f3, f4, f5, f6, f7]
  exact checked_ok hr hi
theorem Encoding.pref (b : BitVec 4) (p : BitVec 2) (x : BitVec 6) : Encoding.Statement (.pref b p x) := by
  intro k hk hi
  cases hk
  have ho : (encode (.pref b p x)).extractLsb' 24 8 = 0x16#8 := extract_above (x : BitVec 6) (extract_above (p : BitVec 2) (extract_above (0x0#7 : BitVec 7) (extract_above (b : BitVec 4) (extract_above (0x0#5 : BitVec 5) (rfl)))))
  have hr : encode (.pref b p x) &&& 0x00F87F00#32 = 0#32 := and_parts (and_parts (and_parts (and_parts (and_parts ((rfl : 0x16#8 &&& 0x0#8 = 0#8)) ((rfl : 0x0#5 &&& 0x1f#5 = 0#5))) (and_free b)) ((rfl : 0x0#7 &&& 0x7f#7 = 0#7))) (and_free p)) (and_free x)
  have f0 : (fld (encode (.pref b p x)) 15 : BitVec 4) = b := extract_above (x : BitVec 6) (extract_above (p : BitVec 2) (extract_above (0x0#7 : BitVec 7) (extract_last _ _)))
  have f1 : (fld (encode (.pref b p x)) 6 : BitVec 2) = p := extract_above (x : BitVec 6) (extract_last _ _)
  have f2 : (fld (encode (.pref b p x)) 0 : BitVec 6) = x := extract_last _ _
  simp only [slotA (no_mark ho (by decide)), decodeA, ho, f0, f1, f2]
  exact checked_ok hr hi
theorem Encoding.stg (b : BitVec 4) (w : BitVec 3) (p : BitVec 2) (x : BitVec 6) : Encoding.Statement (.stg b w p x) := by
  intro k hk hi
  cases hk
  have ho : (encode (.stg b w p x)).extractLsb' 24 8 = 0x20#8 := extract_above (x : BitVec 6) (extract_above (p : BitVec 2) (extract_above (w : BitVec 3) (extract_above (0x0#4 : BitVec 4) (extract_above (b : BitVec 4) (extract_above (0x0#5 : BitVec 5) (rfl))))))
  have hr : encode (.stg b w p x) &&& 0x00F87800#32 = 0#32 := and_parts (and_parts (and_parts (and_parts (and_parts (and_parts ((rfl : 0x20#8 &&& 0x0#8 = 0#8)) ((rfl : 0x0#5 &&& 0x1f#5 = 0#5))) (and_free b)) ((rfl : 0x0#4 &&& 0xf#4 = 0#4))) (and_free w)) (and_free p)) (and_free x)
  have f0 : (fld (encode (.stg b w p x)) 15 : BitVec 4) = b := extract_above (x : BitVec 6) (extract_above (p : BitVec 2) (extract_above (w : BitVec 3) (extract_above (0x0#4 : BitVec 4) (extract_last _ _))))
  have f1 : (fld (encode (.stg b w p x)) 8 : BitVec 3) = w := extract_above (x : BitVec 6) (extract_above (p : BitVec 2) (extract_last _ _))
  have f2 : (fld (encode (.stg b w p x)) 6 : BitVec 2) = p := extract_above (x : BitVec 6) (extract_last _ _)
  have f3 : (fld (encode (.stg b w p x)) 0 : BitVec 6) = x := extract_last _ _
  simp only [slotA (no_mark ho (by decide)), decodeA, ho, f0, f1, f2, f3]
  exact checked_ok hr hi
theorem Encoding.sts (b : BitVec 4) (w : BitVec 3) (p : BitVec 1) (x : BitVec 7) : Encoding.Statement (.sts b w p x) := by
  intro k hk hi
  cases hk
  have ho : (encode (.sts b w p x)).extractLsb' 24 8 = 0x21#8 := extract_above (x : BitVec 7) (extract_above (p : BitVec 1) (extract_above (w : BitVec 3) (extract_above (0x0#4 : BitVec 4) (extract_above (b : BitVec 4) (extract_above (0x0#5 : BitVec 5) (rfl))))))
  have hr : encode (.sts b w p x) &&& 0x00F87800#32 = 0#32 := and_parts (and_parts (and_parts (and_parts (and_parts (and_parts ((rfl : 0x21#8 &&& 0x0#8 = 0#8)) ((rfl : 0x0#5 &&& 0x1f#5 = 0#5))) (and_free b)) ((rfl : 0x0#4 &&& 0xf#4 = 0#4))) (and_free w)) (and_free p)) (and_free x)
  have f0 : (fld (encode (.sts b w p x)) 15 : BitVec 4) = b := extract_above (x : BitVec 7) (extract_above (p : BitVec 1) (extract_above (w : BitVec 3) (extract_above (0x0#4 : BitVec 4) (extract_last _ _))))
  have f1 : (fld (encode (.sts b w p x)) 8 : BitVec 3) = w := extract_above (x : BitVec 7) (extract_above (p : BitVec 1) (extract_last _ _))
  have f2 : (fld (encode (.sts b w p x)) 7 : BitVec 1) = p := extract_above (x : BitVec 7) (extract_last _ _)
  have f3 : (fld (encode (.sts b w p x)) 0 : BitVec 7) = x := extract_last _ _
  simp only [slotA (no_mark ho (by decide)), decodeA, ho, f0, f1, f2, f3]
  exact checked_ok hr hi
theorem Encoding.stv (b : BitVec 4) (z : BitVec 2) (r : BitVec 1) (p : BitVec 1) (s : BitVec 1) (x : BitVec 6) : Encoding.Statement (.stv b z r p s x) := by
  intro k hk hi
  cases hk
  have ho : (encode (.stv b z r p s x)).extractLsb' 24 8 = 0x22#8 := extract_above (x : BitVec 6) (extract_above (s : BitVec 1) (extract_above (p : BitVec 1) (extract_above (r : BitVec 1) (extract_above (z : BitVec 2) (extract_above (0x0#4 : BitVec 4) (extract_above (b : BitVec 4) (extract_above (0x0#5 : BitVec 5) (rfl))))))))
  have hr : encode (.stv b z r p s x) &&& 0x00F87800#32 = 0#32 := and_parts (and_parts (and_parts (and_parts (and_parts (and_parts (and_parts (and_parts ((rfl : 0x22#8 &&& 0x0#8 = 0#8)) ((rfl : 0x0#5 &&& 0x1f#5 = 0#5))) (and_free b)) ((rfl : 0x0#4 &&& 0xf#4 = 0#4))) (and_free z)) (and_free r)) (and_free p)) (and_free s)) (and_free x)
  have f0 : (fld (encode (.stv b z r p s x)) 15 : BitVec 4) = b := extract_above (x : BitVec 6) (extract_above (s : BitVec 1) (extract_above (p : BitVec 1) (extract_above (r : BitVec 1) (extract_above (z : BitVec 2) (extract_above (0x0#4 : BitVec 4) (extract_last _ _))))))
  have f1 : (fld (encode (.stv b z r p s x)) 9 : BitVec 2) = z := extract_above (x : BitVec 6) (extract_above (s : BitVec 1) (extract_above (p : BitVec 1) (extract_above (r : BitVec 1) (extract_last _ _))))
  have f2 : (fld (encode (.stv b z r p s x)) 8 : BitVec 1) = r := extract_above (x : BitVec 6) (extract_above (s : BitVec 1) (extract_above (p : BitVec 1) (extract_last _ _)))
  have f3 : (fld (encode (.stv b z r p s x)) 7 : BitVec 1) = p := extract_above (x : BitVec 6) (extract_above (s : BitVec 1) (extract_last _ _))
  have f4 : (fld (encode (.stv b z r p s x)) 6 : BitVec 1) = s := extract_above (x : BitVec 6) (extract_last _ _)
  have f5 : (fld (encode (.stv b z r p s x)) 0 : BitVec 6) = x := extract_last _ _
  simp only [slotA (no_mark ho (by decide)), decodeA, ho, f0, f1, f2, f3, f4, f5]
  exact checked_ok hr hi
theorem Encoding.stvg (b : BitVec 4) (s : BitVec 1) (p : BitVec 2) (x : BitVec 6) : Encoding.Statement (.stvg b s p x) := by
  intro k hk hi
  cases hk
  have ho : (encode (.stvg b s p x)).extractLsb' 24 8 = 0x23#8 := extract_above (x : BitVec 6) (extract_above (p : BitVec 2) (extract_above (0x0#2 : BitVec 2) (extract_above (s : BitVec 1) (extract_above (0x0#4 : BitVec 4) (extract_above (b : BitVec 4) (extract_above (0x0#5 : BitVec 5) (rfl)))))))
  have hr : encode (.stvg b s p x) &&& 0x00F87B00#32 = 0#32 := and_parts (and_parts (and_parts (and_parts (and_parts (and_parts (and_parts ((rfl : 0x23#8 &&& 0x0#8 = 0#8)) ((rfl : 0x0#5 &&& 0x1f#5 = 0#5))) (and_free b)) ((rfl : 0x0#4 &&& 0xf#4 = 0#4))) (and_free s)) ((rfl : 0x0#2 &&& 0x3#2 = 0#2))) (and_free p)) (and_free x)
  have f0 : (fld (encode (.stvg b s p x)) 15 : BitVec 4) = b := extract_above (x : BitVec 6) (extract_above (p : BitVec 2) (extract_above (0x0#2 : BitVec 2) (extract_above (s : BitVec 1) (extract_above (0x0#4 : BitVec 4) (extract_last _ _)))))
  have f1 : (fld (encode (.stvg b s p x)) 10 : BitVec 1) = s := extract_above (x : BitVec 6) (extract_above (p : BitVec 2) (extract_above (0x0#2 : BitVec 2) (extract_last _ _)))
  have f2 : (fld (encode (.stvg b s p x)) 6 : BitVec 2) = p := extract_above (x : BitVec 6) (extract_last _ _)
  have f3 : (fld (encode (.stvg b s p x)) 0 : BitVec 6) = x := extract_last _ _
  simp only [slotA (no_mark ho (by decide)), decodeA, ho, f0, f1, f2, f3]
  exact checked_ok hr hi
theorem Encoding.rget (d : BitVec 4) (s : BitVec 4) (t : BitVec 4) (c : BitVec 1) (n : BitVec 7) : Encoding.Statement (.rget d s t c n) := by
  intro k hk hi
  cases hk
  have ho : (encode (.rget d s t c n)).extractLsb' 24 8 = 0x30#8 := extract_above (n : BitVec 7) (extract_above (0x0#4 : BitVec 4) (extract_above (c : BitVec 1) (extract_above (t : BitVec 4) (extract_above (s : BitVec 4) (extract_above (d : BitVec 4) (rfl))))))
  have hr : encode (.rget d s t c n) &&& 0x00000780#32 = 0#32 := and_parts (and_parts (and_parts (and_parts (and_parts (and_parts ((rfl : 0x30#8 &&& 0x0#8 = 0#8)) (and_free d)) (and_free s)) (and_free t)) (and_free c)) ((rfl : 0x0#4 &&& 0xf#4 = 0#4))) (and_free n)
  have f0 : (fld (encode (.rget d s t c n)) 20 : BitVec 4) = d := extract_above (n : BitVec 7) (extract_above (0x0#4 : BitVec 4) (extract_above (c : BitVec 1) (extract_above (t : BitVec 4) (extract_above (s : BitVec 4) (extract_last _ _)))))
  have f1 : (fld (encode (.rget d s t c n)) 16 : BitVec 4) = s := extract_above (n : BitVec 7) (extract_above (0x0#4 : BitVec 4) (extract_above (c : BitVec 1) (extract_above (t : BitVec 4) (extract_last _ _))))
  have f2 : (fld (encode (.rget d s t c n)) 12 : BitVec 4) = t := extract_above (n : BitVec 7) (extract_above (0x0#4 : BitVec 4) (extract_above (c : BitVec 1) (extract_last _ _)))
  have f3 : (fld (encode (.rget d s t c n)) 11 : BitVec 1) = c := extract_above (n : BitVec 7) (extract_above (0x0#4 : BitVec 4) (extract_last _ _))
  have f4 : (fld (encode (.rget d s t c n)) 0 : BitVec 7) = n := extract_last _ _
  simp only [slotA (no_mark ho (by decide)), decodeA, ho, f0, f1, f2, f3, f4]
  exact checked_ok hr hi
theorem Encoding.rput (d : BitVec 4) (s : BitVec 4) (t : BitVec 4) (c : BitVec 1) (n : BitVec 7) : Encoding.Statement (.rput d s t c n) := by
  intro k hk hi
  cases hk
  have ho : (encode (.rput d s t c n)).extractLsb' 24 8 = 0x31#8 := extract_above (n : BitVec 7) (extract_above (0x0#4 : BitVec 4) (extract_above (c : BitVec 1) (extract_above (t : BitVec 4) (extract_above (s : BitVec 4) (extract_above (d : BitVec 4) (rfl))))))
  have hr : encode (.rput d s t c n) &&& 0x00000780#32 = 0#32 := and_parts (and_parts (and_parts (and_parts (and_parts (and_parts ((rfl : 0x31#8 &&& 0x0#8 = 0#8)) (and_free d)) (and_free s)) (and_free t)) (and_free c)) ((rfl : 0x0#4 &&& 0xf#4 = 0#4))) (and_free n)
  have f0 : (fld (encode (.rput d s t c n)) 20 : BitVec 4) = d := extract_above (n : BitVec 7) (extract_above (0x0#4 : BitVec 4) (extract_above (c : BitVec 1) (extract_above (t : BitVec 4) (extract_above (s : BitVec 4) (extract_last _ _)))))
  have f1 : (fld (encode (.rput d s t c n)) 16 : BitVec 4) = s := extract_above (n : BitVec 7) (extract_above (0x0#4 : BitVec 4) (extract_above (c : BitVec 1) (extract_above (t : BitVec 4) (extract_last _ _))))
  have f2 : (fld (encode (.rput d s t c n)) 12 : BitVec 4) = t := extract_above (n : BitVec 7) (extract_above (0x0#4 : BitVec 4) (extract_above (c : BitVec 1) (extract_last _ _)))
  have f3 : (fld (encode (.rput d s t c n)) 11 : BitVec 1) = c := extract_above (n : BitVec 7) (extract_above (0x0#4 : BitVec 4) (extract_last _ _))
  have f4 : (fld (encode (.rput d s t c n)) 0 : BitVec 7) = n := extract_last _ _
  simp only [slotA (no_mark ho (by decide)), decodeA, ho, f0, f1, f2, f3, f4]
  exact checked_ok hr hi
theorem Encoding.radvR (s : BitVec 4) (t : BitVec 4) (c : BitVec 1) (n : BitVec 7) : Encoding.Statement (.radvR s t c n) := by
  intro k hk hi
  cases hk
  have ho : (encode (.radvR s t c n)).extractLsb' 24 8 = 0x32#8 := extract_above (n : BitVec 7) (extract_above (0x0#4 : BitVec 4) (extract_above (c : BitVec 1) (extract_above (t : BitVec 4) (extract_above (s : BitVec 4) (extract_above (0x0#4 : BitVec 4) (rfl))))))
  have hr : encode (.radvR s t c n) &&& 0x00F00380#32 = 0#32 := and_parts (and_parts (and_parts (and_parts (and_parts (and_parts ((rfl : 0x32#8 &&& 0x0#8 = 0#8)) ((rfl : 0x0#4 &&& 0xf#4 = 0#4))) (and_free s)) (and_free t)) (and_free c)) ((rfl : 0x0#4 &&& 0x7#4 = 0#4))) (and_free n)
  have f0 : (fld (encode (.radvR s t c n)) 16 : BitVec 4) = s := extract_above (n : BitVec 7) (extract_above (0x0#4 : BitVec 4) (extract_above (c : BitVec 1) (extract_above (t : BitVec 4) (extract_last _ _))))
  have f1 : (fld (encode (.radvR s t c n)) 12 : BitVec 4) = t := extract_above (n : BitVec 7) (extract_above (0x0#4 : BitVec 4) (extract_above (c : BitVec 1) (extract_last _ _)))
  have f2 : (fld (encode (.radvR s t c n)) 11 : BitVec 1) = c := extract_above (n : BitVec 7) (extract_above (0x0#4 : BitVec 4) (extract_last _ _))
  have f3 : (fld (encode (.radvR s t c n)) 0 : BitVec 7) = n := extract_last _ _
  have fx : (encode (.radvR s t c n)).extractLsb' 10 1 = 0#1 := extract_above (n : BitVec 7) (extract_inside _ (p := 3) (by decide) rfl)
  simp only [slotA (no_mark ho (by decide)), decodeA, ho, f0, f1, f2, f3, fx]
  exact checked_ok hr hi
theorem Encoding.radvW (s : BitVec 4) (t : BitVec 4) (c : BitVec 1) (n : BitVec 7) : Encoding.Statement (.radvW s t c n) := by
  intro k hk hi
  cases hk
  have ho : (encode (.radvW s t c n)).extractLsb' 24 8 = 0x32#8 := extract_above (n : BitVec 7) (extract_above (0x8#4 : BitVec 4) (extract_above (c : BitVec 1) (extract_above (t : BitVec 4) (extract_above (s : BitVec 4) (extract_above (0x0#4 : BitVec 4) (rfl))))))
  have hr : encode (.radvW s t c n) &&& 0x00F00380#32 = 0#32 := and_parts (and_parts (and_parts (and_parts (and_parts (and_parts ((rfl : 0x32#8 &&& 0x0#8 = 0#8)) ((rfl : 0x0#4 &&& 0xf#4 = 0#4))) (and_free s)) (and_free t)) (and_free c)) ((rfl : 0x8#4 &&& 0x7#4 = 0#4))) (and_free n)
  have f0 : (fld (encode (.radvW s t c n)) 16 : BitVec 4) = s := extract_above (n : BitVec 7) (extract_above (0x8#4 : BitVec 4) (extract_above (c : BitVec 1) (extract_above (t : BitVec 4) (extract_last _ _))))
  have f1 : (fld (encode (.radvW s t c n)) 12 : BitVec 4) = t := extract_above (n : BitVec 7) (extract_above (0x8#4 : BitVec 4) (extract_above (c : BitVec 1) (extract_last _ _)))
  have f2 : (fld (encode (.radvW s t c n)) 11 : BitVec 1) = c := extract_above (n : BitVec 7) (extract_above (0x8#4 : BitVec 4) (extract_last _ _))
  have f3 : (fld (encode (.radvW s t c n)) 0 : BitVec 7) = n := extract_last _ _
  have fx : (encode (.radvW s t c n)).extractLsb' 10 1 = 1#1 := extract_above (n : BitVec 7) (extract_inside _ (p := 3) (by decide) rfl)
  simp only [slotA (no_mark ho (by decide)), decodeA, ho, f0, f1, f2, f3, fx]
  exact checked_ok hr hi
theorem Encoding.rset (s : BitVec 4) (t : BitVec 4) : Encoding.Statement (.rset s t) := by
  intro k hk hi
  cases hk
  have ho : (encode (.rset s t)).extractLsb' 24 8 = 0x33#8 := extract_above (0x0#12 : BitVec 12) (extract_above (t : BitVec 4) (extract_above (s : BitVec 4) (extract_above (0x0#4 : BitVec 4) (rfl))))
  have hr : encode (.rset s t) &&& 0x00F00FFF#32 = 0#32 := and_parts (and_parts (and_parts (and_parts ((rfl : 0x33#8 &&& 0x0#8 = 0#8)) ((rfl : 0x0#4 &&& 0xf#4 = 0#4))) (and_free s)) (and_free t)) ((rfl : 0x0#12 &&& 0xfff#12 = 0#12))
  have f0 : (fld (encode (.rset s t)) 16 : BitVec 4) = s := extract_above (0x0#12 : BitVec 12) (extract_above (t : BitVec 4) (extract_last _ _))
  have f1 : (fld (encode (.rset s t)) 12 : BitVec 4) = t := extract_above (0x0#12 : BitVec 12) (extract_last _ _)
  simp only [slotA (no_mark ho (by decide)), decodeA, ho, f0, f1]
  exact checked_ok hr hi
theorem Encoding.loop (c : BitVec 12) (l : BitVec 12) : Encoding.Statement (.loop c l) := by
  intro k hk hi
  cases hk
  have ho : (encode (.loop c l)).extractLsb' 24 8 = 0x40#8 := extract_above (l : BitVec 12) (extract_above (c : BitVec 12) (rfl))
  have hr : encode (.loop c l) &&& 0x00000000#32 = 0#32 := and_parts (and_parts ((rfl : 0x40#8 &&& 0x0#8 = 0#8)) (and_free c)) (and_free l)
  have f0 : (fld (encode (.loop c l)) 12 : BitVec 12) = c := extract_above (l : BitVec 12) (extract_last _ _)
  have f1 : (fld (encode (.loop c l)) 0 : BitVec 12) = l := extract_last _ _
  simp only [slotA (no_mark ho (by decide)), decodeA, ho, f0, f1]
  exact checked_ok hr hi
theorem Encoding.loopa (s : BitVec 4) (l : BitVec 12) : Encoding.Statement (.loopa s l) := by
  intro k hk hi
  cases hk
  have ho : (encode (.loopa s l)).extractLsb' 24 8 = 0x41#8 := extract_above (l : BitVec 12) (extract_above (0x0#8 : BitVec 8) (extract_above (s : BitVec 4) (rfl)))
  have hr : encode (.loopa s l) &&& 0x000FF000#32 = 0#32 := and_parts (and_parts (and_parts ((rfl : 0x41#8 &&& 0x0#8 = 0#8)) (and_free s)) ((rfl : 0x0#8 &&& 0xff#8 = 0#8))) (and_free l)
  have f0 : (fld (encode (.loopa s l)) 20 : BitVec 4) = s := extract_above (l : BitVec 12) (extract_above (0x0#8 : BitVec 8) (extract_last _ _))
  have f1 : (fld (encode (.loopa s l)) 0 : BitVec 12) = l := extract_last _ _
  simp only [slotA (no_mark ho (by decide)), decodeA, ho, f0, f1]
  exact checked_ok hr hi
theorem Encoding.ba (o : BitVec 11) : Encoding.Statement (.ba o) := by
  intro k hk hi
  cases hk
  have ho : (encode (.ba o)).extractLsb' 24 8 = 0x42#8 := extract_above (o : BitVec 11) (extract_above (0x0#13 : BitVec 13) (rfl))
  have hr : encode (.ba o) &&& 0x00FFF800#32 = 0#32 := and_parts (and_parts ((rfl : 0x42#8 &&& 0x0#8 = 0#8)) ((rfl : 0x0#13 &&& 0x1fff#13 = 0#13))) (and_free o)
  have f0 : (fld (encode (.ba o)) 0 : BitVec 11) = o := extract_last _ _
  simp only [slotA (no_mark ho (by decide)), decodeA, ho, f0]
  exact checked_ok hr hi
theorem Encoding.bca (c : BitVec 3) (s : BitVec 4) (t : BitVec 4) (o : BitVec 11) : Encoding.Statement (.bca c s t o) := by
  intro k hk hi
  cases hk
  have ho : (encode (.bca c s t o)).extractLsb' 24 8 = 0x43#8 := extract_above (o : BitVec 11) (extract_above (0x0#2 : BitVec 2) (extract_above (t : BitVec 4) (extract_above (s : BitVec 4) (extract_above (c : BitVec 3) (rfl)))))
  have hr : encode (.bca c s t o) &&& 0x00001800#32 = 0#32 := and_parts (and_parts (and_parts (and_parts (and_parts ((rfl : 0x43#8 &&& 0x0#8 = 0#8)) (and_free c)) (and_free s)) (and_free t)) ((rfl : 0x0#2 &&& 0x3#2 = 0#2))) (and_free o)
  have f0 : (fld (encode (.bca c s t o)) 21 : BitVec 3) = c := extract_above (o : BitVec 11) (extract_above (0x0#2 : BitVec 2) (extract_above (t : BitVec 4) (extract_above (s : BitVec 4) (extract_last _ _))))
  have f1 : (fld (encode (.bca c s t o)) 17 : BitVec 4) = s := extract_above (o : BitVec 11) (extract_above (0x0#2 : BitVec 2) (extract_above (t : BitVec 4) (extract_last _ _)))
  have f2 : (fld (encode (.bca c s t o)) 13 : BitVec 4) = t := extract_above (o : BitVec 11) (extract_above (0x0#2 : BitVec 2) (extract_last _ _))
  have f3 : (fld (encode (.bca c s t o)) 0 : BitVec 11) = o := extract_last _ _
  simp only [slotA (no_mark ho (by decide)), decodeA, ho, f0, f1, f2, f3]
  exact checked_ok hr hi
theorem Encoding.call (o : BitVec 11) : Encoding.Statement (.call o) := by
  intro k hk hi
  cases hk
  have ho : (encode (.call o)).extractLsb' 24 8 = 0x44#8 := extract_above (o : BitVec 11) (extract_above (0x0#13 : BitVec 13) (rfl))
  have hr : encode (.call o) &&& 0x00FFF800#32 = 0#32 := and_parts (and_parts ((rfl : 0x44#8 &&& 0x0#8 = 0#8)) ((rfl : 0x0#13 &&& 0x1fff#13 = 0#13))) (and_free o)
  have f0 : (fld (encode (.call o)) 0 : BitVec 11) = o := extract_last _ _
  simp only [slotA (no_mark ho (by decide)), decodeA, ho, f0]
  exact checked_ok hr hi
theorem Encoding.ret : Encoding.Statement .ret := by
  intro k hk _; cases hk; decide
theorem Encoding.fenceS : Encoding.Statement .fenceS := by
  intro k hk _; cases hk; decide
theorem Encoding.fenceE : Encoding.Statement .fenceE := by
  intro k hk _; cases hk; decide
theorem Encoding.fenceG : Encoding.Statement .fenceG := by
  intro k hk _; cases hk; decide
theorem Encoding.mte (a : BitVec 4) (n : BitVec 6) : Encoding.Statement (.mte a n) := by
  intro k hk hi
  cases hk
  have ho : (encode (.mte a n)).extractLsb' 24 8 = 0x1#8 := extract_above (n : BitVec 6) (extract_above (0x0#14 : BitVec 14) (extract_above (a : BitVec 4) (rfl)))
  have hr : encode (.mte a n) &&& 0x000FFFC0#32 = 0#32 := and_parts (and_parts (and_parts ((rfl : 0x1#8 &&& 0x0#8 = 0#8)) (and_free a)) ((rfl : 0x0#14 &&& 0x3fff#14 = 0#14))) (and_free n)
  have f0 : (fld (encode (.mte a n)) 20 : BitVec 4) = a := extract_above (n : BitVec 6) (extract_above (0x0#14 : BitVec 14) (extract_last _ _))
  have f1 : (fld (encode (.mte a n)) 0 : BitVec 6) = n := extract_last _ _
  simp only [slotE (no_mark ho (by decide)), decodeE, ho, f0, f1]
  exact checked_ok hr hi
theorem Encoding.mfe (b : BitVec 4) (n : BitVec 6) : Encoding.Statement (.mfe b n) := by
  intro k hk hi
  cases hk
  have ho : (encode (.mfe b n)).extractLsb' 24 8 = 0x2#8 := extract_above (n : BitVec 6) (extract_above (0x0#10 : BitVec 10) (extract_above (b : BitVec 4) (extract_above (0x0#4 : BitVec 4) (rfl))))
  have hr : encode (.mfe b n) &&& 0x00F0FFC0#32 = 0#32 := and_parts (and_parts (and_parts (and_parts ((rfl : 0x2#8 &&& 0x0#8 = 0#8)) ((rfl : 0x0#4 &&& 0xf#4 = 0#4))) (and_free b)) ((rfl : 0x0#10 &&& 0x3ff#10 = 0#10))) (and_free n)
  have f0 : (fld (encode (.mfe b n)) 16 : BitVec 4) = b := extract_above (n : BitVec 6) (extract_above (0x0#10 : BitVec 10) (extract_last _ _))
  have f1 : (fld (encode (.mfe b n)) 0 : BitVec 6) = n := extract_last _ _
  simp only [slotE (no_mark ho (by decide)), decodeE, ho, f0, f1]
  exact checked_ok hr hi
theorem Encoding.cpy (a : BitVec 4) (b : BitVec 4) (g : BitVec 3) : Encoding.Statement (.cpy a b g) := by
  intro k hk hi
  cases hk
  have ho : (encode (.cpy a b g)).extractLsb' 24 8 = 0x8#8 := extract_above (g : BitVec 3) (extract_above (0x0#13 : BitVec 13) (extract_above (b : BitVec 4) (extract_above (a : BitVec 4) (rfl))))
  have hr : encode (.cpy a b g) &&& 0x0000FFF8#32 = 0#32 := and_parts (and_parts (and_parts (and_parts ((rfl : 0x8#8 &&& 0x0#8 = 0#8)) (and_free a)) (and_free b)) ((rfl : 0x0#13 &&& 0x1fff#13 = 0#13))) (and_free g)
  have f0 : (fld (encode (.cpy a b g)) 20 : BitVec 4) = a := extract_above (g : BitVec 3) (extract_above (0x0#13 : BitVec 13) (extract_above (b : BitVec 4) (extract_last _ _)))
  have f1 : (fld (encode (.cpy a b g)) 16 : BitVec 4) = b := extract_above (g : BitVec 3) (extract_above (0x0#13 : BitVec 13) (extract_last _ _))
  have f2 : (fld (encode (.cpy a b g)) 0 : BitVec 3) = g := extract_last _ _
  simp only [slotE (no_mark ho (by decide)), decodeE, ho, f0, f1, f2]
  exact checked_ok hr hi
theorem Encoding.cpyg (a : BitVec 4) (b : BitVec 4) (s : BitVec 1) (g : BitVec 3) : Encoding.Statement (.cpyg a b s g) := by
  intro k hk hi
  cases hk
  have ho : (encode (.cpyg a b s g)).extractLsb' 24 8 = 0x9#8 := extract_above (g : BitVec 3) (extract_above (s : BitVec 1) (extract_above (0x0#12 : BitVec 12) (extract_above (b : BitVec 4) (extract_above (a : BitVec 4) (rfl)))))
  have hr : encode (.cpyg a b s g) &&& 0x0000FFF0#32 = 0#32 := and_parts (and_parts (and_parts (and_parts (and_parts ((rfl : 0x9#8 &&& 0x0#8 = 0#8)) (and_free a)) (and_free b)) ((rfl : 0x0#12 &&& 0xfff#12 = 0#12))) (and_free s)) (and_free g)
  have f0 : (fld (encode (.cpyg a b s g)) 20 : BitVec 4) = a := extract_above (g : BitVec 3) (extract_above (s : BitVec 1) (extract_above (0x0#12 : BitVec 12) (extract_above (b : BitVec 4) (extract_last _ _))))
  have f1 : (fld (encode (.cpyg a b s g)) 16 : BitVec 4) = b := extract_above (g : BitVec 3) (extract_above (s : BitVec 1) (extract_above (0x0#12 : BitVec 12) (extract_last _ _)))
  have f2 : (fld (encode (.cpyg a b s g)) 3 : BitVec 1) = s := extract_above (g : BitVec 3) (extract_last _ _)
  have f3 : (fld (encode (.cpyg a b s g)) 0 : BitVec 3) = g := extract_last _ _
  simp only [slotE (no_mark ho (by decide)), decodeE, ho, f0, f1, f2, f3]
  exact checked_ok hr hi
theorem Encoding.cpyx (a : BitVec 4) (b : BitVec 4) (g : BitVec 3) : Encoding.Statement (.cpyx a b g) := by
  intro k hk hi
  cases hk
  have ho : (encode (.cpyx a b g)).extractLsb' 24 8 = 0xa#8 := extract_above (g : BitVec 3) (extract_above (0x0#13 : BitVec 13) (extract_above (b : BitVec 4) (extract_above (a : BitVec 4) (rfl))))
  have hr : encode (.cpyx a b g) &&& 0x0000FFF8#32 = 0#32 := and_parts (and_parts (and_parts (and_parts ((rfl : 0xa#8 &&& 0x0#8 = 0#8)) (and_free a)) (and_free b)) ((rfl : 0x0#13 &&& 0x1fff#13 = 0#13))) (and_free g)
  have f0 : (fld (encode (.cpyx a b g)) 20 : BitVec 4) = a := extract_above (g : BitVec 3) (extract_above (0x0#13 : BitVec 13) (extract_above (b : BitVec 4) (extract_last _ _)))
  have f1 : (fld (encode (.cpyx a b g)) 16 : BitVec 4) = b := extract_above (g : BitVec 3) (extract_above (0x0#13 : BitVec 13) (extract_last _ _))
  have f2 : (fld (encode (.cpyx a b g)) 0 : BitVec 3) = g := extract_last _ _
  simp only [slotE (no_mark ho (by decide)), decodeE, ho, f0, f1, f2]
  exact checked_ok hr hi
theorem Encoding.cbld (a : BitVec 4) (b : BitVec 4) (e : BitVec 8) (p : BitVec 1) (k : BitVec 2) : Encoding.Statement (.cbld a b e p k) := by
  intro k hk hi
  cases hk
  have ho : (encode (.cbld a b e p k)).extractLsb' 24 8 = 0x10#8 := extract_above (k : BitVec 2) (extract_above (p : BitVec 1) (extract_above (e : BitVec 8) (extract_above (0x0#5 : BitVec 5) (extract_above (b : BitVec 4) (extract_above (a : BitVec 4) (rfl))))))
  have hr : encode (.cbld a b e p k) &&& 0x0000F800#32 = 0#32 := and_parts (and_parts (and_parts (and_parts (and_parts (and_parts ((rfl : 0x10#8 &&& 0x0#8 = 0#8)) (and_free a)) (and_free b)) ((rfl : 0x0#5 &&& 0x1f#5 = 0#5))) (and_free e)) (and_free p)) (and_free k)
  have f0 : (fld (encode (.cbld a b e p k)) 20 : BitVec 4) = a := extract_above (k : BitVec 2) (extract_above (p : BitVec 1) (extract_above (e : BitVec 8) (extract_above (0x0#5 : BitVec 5) (extract_above (b : BitVec 4) (extract_last _ _)))))
  have f1 : (fld (encode (.cbld a b e p k)) 16 : BitVec 4) = b := extract_above (k : BitVec 2) (extract_above (p : BitVec 1) (extract_above (e : BitVec 8) (extract_above (0x0#5 : BitVec 5) (extract_last _ _))))
  have f2 : (fld (encode (.cbld a b e p k)) 3 : BitVec 8) = e := extract_above (k : BitVec 2) (extract_above (p : BitVec 1) (extract_last _ _))
  have f3 : (fld (encode (.cbld a b e p k)) 2 : BitVec 1) = p := extract_above (k : BitVec 2) (extract_last _ _)
  have f4 : (fld (encode (.cbld a b e p k)) 0 : BitVec 2) = k := extract_last _ _
  simp only [slotE (no_mark ho (by decide)), decodeE, ho, f0, f1, f2, f3, f4]
  exact checked_ok hr hi
theorem Encoding.cbval (a : BitVec 4) (b : BitVec 4) (j : BitVec 4) (v : BitVec 1) (k : BitVec 2) : Encoding.Statement (.cbval a b j v k) := by
  intro k hk hi
  cases hk
  have ho : (encode (.cbval a b j v k)).extractLsb' 24 8 = 0x11#8 := extract_above (k : BitVec 2) (extract_above (v : BitVec 1) (extract_above (j : BitVec 4) (extract_above (0x0#9 : BitVec 9) (extract_above (b : BitVec 4) (extract_above (a : BitVec 4) (rfl))))))
  have hr : encode (.cbval a b j v k) &&& 0x0000FF80#32 = 0#32 := and_parts (and_parts (and_parts (and_parts (and_parts (and_parts ((rfl : 0x11#8 &&& 0x0#8 = 0#8)) (and_free a)) (and_free b)) ((rfl : 0x0#9 &&& 0x1ff#9 = 0#9))) (and_free j)) (and_free v)) (and_free k)
  have f0 : (fld (encode (.cbval a b j v k)) 20 : BitVec 4) = a := extract_above (k : BitVec 2) (extract_above (v : BitVec 1) (extract_above (j : BitVec 4) (extract_above (0x0#9 : BitVec 9) (extract_above (b : BitVec 4) (extract_last _ _)))))
  have f1 : (fld (encode (.cbval a b j v k)) 16 : BitVec 4) = b := extract_above (k : BitVec 2) (extract_above (v : BitVec 1) (extract_above (j : BitVec 4) (extract_above (0x0#9 : BitVec 9) (extract_last _ _))))
  have f2 : (fld (encode (.cbval a b j v k)) 3 : BitVec 4) = j := extract_above (k : BitVec 2) (extract_above (v : BitVec 1) (extract_last _ _))
  have f3 : (fld (encode (.cbval a b j v k)) 2 : BitVec 1) = v := extract_above (k : BitVec 2) (extract_last _ _)
  have f4 : (fld (encode (.cbval a b j v k)) 0 : BitVec 2) = k := extract_last _ _
  simp only [slotE (no_mark ho (by decide)), decodeE, ho, f0, f1, f2, f3, f4]
  exact checked_ok hr hi
theorem Encoding.cbsel (a : BitVec 4) : Encoding.Statement (.cbsel a) := by
  intro k hk hi
  cases hk
  have ho : (encode (.cbsel a)).extractLsb' 24 8 = 0x12#8 := extract_above (0x0#20 : BitVec 20) (extract_above (a : BitVec 4) (rfl))
  have hr : encode (.cbsel a) &&& 0x000FFFFF#32 = 0#32 := and_parts (and_parts ((rfl : 0x12#8 &&& 0x0#8 = 0#8)) (and_free a)) ((rfl : 0x0#20 &&& 0xfffff#20 = 0#20))
  have f0 : (fld (encode (.cbsel a)) 20 : BitVec 4) = a := extract_above (0x0#20 : BitVec 20) (extract_last _ _)
  simp only [slotE (no_mark ho (by decide)), decodeE, ho, f0]
  exact checked_ok hr hi
theorem Encoding.cbsave (a : BitVec 4) (b : BitVec 4) (r : BitVec 1) (e : BitVec 8) (p : BitVec 1) (k : BitVec 2) : Encoding.Statement (.cbsave a b r e p k) := by
  intro k hk hi
  cases hk
  have ho : (encode (.cbsave a b r e p k)).extractLsb' 24 8 = 0x13#8 := extract_above (k : BitVec 2) (extract_above (p : BitVec 1) (extract_above (e : BitVec 8) (extract_above (r : BitVec 1) (extract_above (0x0#4 : BitVec 4) (extract_above (b : BitVec 4) (extract_above (a : BitVec 4) (rfl)))))))
  have hr : encode (.cbsave a b r e p k) &&& 0x0000F000#32 = 0#32 := and_parts (and_parts (and_parts (and_parts (and_parts (and_parts (and_parts ((rfl : 0x13#8 &&& 0x0#8 = 0#8)) (and_free a)) (and_free b)) ((rfl : 0x0#4 &&& 0xf#4 = 0#4))) (and_free r)) (and_free e)) (and_free p)) (and_free k)
  have f0 : (fld (encode (.cbsave a b r e p k)) 20 : BitVec 4) = a := extract_above (k : BitVec 2) (extract_above (p : BitVec 1) (extract_above (e : BitVec 8) (extract_above (r : BitVec 1) (extract_above (0x0#4 : BitVec 4) (extract_above (b : BitVec 4) (extract_last _ _))))))
  have f1 : (fld (encode (.cbsave a b r e p k)) 16 : BitVec 4) = b := extract_above (k : BitVec 2) (extract_above (p : BitVec 1) (extract_above (e : BitVec 8) (extract_above (r : BitVec 1) (extract_above (0x0#4 : BitVec 4) (extract_last _ _)))))
  have f2 : (fld (encode (.cbsave a b r e p k)) 11 : BitVec 1) = r := extract_above (k : BitVec 2) (extract_above (p : BitVec 1) (extract_above (e : BitVec 8) (extract_last _ _)))
  have f3 : (fld (encode (.cbsave a b r e p k)) 3 : BitVec 8) = e := extract_above (k : BitVec 2) (extract_above (p : BitVec 1) (extract_last _ _))
  have f4 : (fld (encode (.cbsave a b r e p k)) 2 : BitVec 1) = p := extract_above (k : BitVec 2) (extract_last _ _)
  have f5 : (fld (encode (.cbsave a b r e p k)) 0 : BitVec 2) = k := extract_last _ _
  simp only [slotE (no_mark ho (by decide)), decodeE, ho, f0, f1, f2, f3, f4, f5]
  exact checked_ok hr hi
theorem Encoding.tsend (a : BitVec 4) (b : BitVec 4) (l : BitVec 8) (m : BitVec 2) (g : BitVec 6) : Encoding.Statement (.tsend a b l m g) := by
  intro k hk hi
  cases hk
  have ho : (encode (.tsend a b l m g)).extractLsb' 24 8 = 0x18#8 := extract_above (g : BitVec 6) (extract_above (m : BitVec 2) (extract_above (l : BitVec 8) (extract_above (b : BitVec 4) (extract_above (a : BitVec 4) (rfl)))))
  have hr : encode (.tsend a b l m g) &&& 0x00000000#32 = 0#32 := and_parts (and_parts (and_parts (and_parts (and_parts ((rfl : 0x18#8 &&& 0x0#8 = 0#8)) (and_free a)) (and_free b)) (and_free l)) (and_free m)) (and_free g)
  have f0 : (fld (encode (.tsend a b l m g)) 20 : BitVec 4) = a := extract_above (g : BitVec 6) (extract_above (m : BitVec 2) (extract_above (l : BitVec 8) (extract_above (b : BitVec 4) (extract_last _ _))))
  have f1 : (fld (encode (.tsend a b l m g)) 16 : BitVec 4) = b := extract_above (g : BitVec 6) (extract_above (m : BitVec 2) (extract_above (l : BitVec 8) (extract_last _ _)))
  have f2 : (fld (encode (.tsend a b l m g)) 8 : BitVec 8) = l := extract_above (g : BitVec 6) (extract_above (m : BitVec 2) (extract_last _ _))
  have f3 : (fld (encode (.tsend a b l m g)) 6 : BitVec 2) = m := extract_above (g : BitVec 6) (extract_last _ _)
  have f4 : (fld (encode (.tsend a b l m g)) 0 : BitVec 6) = g := extract_last _ _
  simp only [slotE (no_mark ho (by decide)), decodeE, ho, f0, f1, f2, f3, f4]
  exact checked_ok hr hi
theorem Encoding.cfw (a : BitVec 4) (p : BitVec 6) (y : BitVec 8) : Encoding.Statement (.cfw a p y) := by
  intro k hk hi
  cases hk
  have ho : (encode (.cfw a p y)).extractLsb' 24 8 = 0x20#8 := extract_above (y : BitVec 8) (extract_above (p : BitVec 6) (extract_above (0x0#6 : BitVec 6) (extract_above (a : BitVec 4) (rfl))))
  have hr : encode (.cfw a p y) &&& 0x000FC000#32 = 0#32 := and_parts (and_parts (and_parts (and_parts ((rfl : 0x20#8 &&& 0x0#8 = 0#8)) (and_free a)) ((rfl : 0x0#6 &&& 0x3f#6 = 0#6))) (and_free p)) (and_free y)
  have f0 : (fld (encode (.cfw a p y)) 20 : BitVec 4) = a := extract_above (y : BitVec 8) (extract_above (p : BitVec 6) (extract_above (0x0#6 : BitVec 6) (extract_last _ _)))
  have f1 : (fld (encode (.cfw a p y)) 8 : BitVec 6) = p := extract_above (y : BitVec 8) (extract_last _ _)
  have f2 : (fld (encode (.cfw a p y)) 0 : BitVec 8) = y := extract_last _ _
  simp only [slotE (no_mark ho (by decide)), decodeE, ho, f0, f1, f2]
  exact checked_ok hr hi
theorem Encoding.cft (a : BitVec 4) (b : BitVec 4) (p : BitVec 6) (y : BitVec 8) : Encoding.Statement (.cft a b p y) := by
  intro k hk hi
  cases hk
  have ho : (encode (.cft a b p y)).extractLsb' 24 8 = 0x21#8 := extract_above (y : BitVec 8) (extract_above (p : BitVec 6) (extract_above (0x0#2 : BitVec 2) (extract_above (b : BitVec 4) (extract_above (a : BitVec 4) (rfl)))))
  have hr : encode (.cft a b p y) &&& 0x0000C000#32 = 0#32 := and_parts (and_parts (and_parts (and_parts (and_parts ((rfl : 0x21#8 &&& 0x0#8 = 0#8)) (and_free a)) (and_free b)) ((rfl : 0x0#2 &&& 0x3#2 = 0#2))) (and_free p)) (and_free y)
  have f0 : (fld (encode (.cft a b p y)) 20 : BitVec 4) = a := extract_above (y : BitVec 8) (extract_above (p : BitVec 6) (extract_above (0x0#2 : BitVec 2) (extract_above (b : BitVec 4) (extract_last _ _))))
  have f1 : (fld (encode (.cft a b p y)) 16 : BitVec 4) = b := extract_above (y : BitVec 8) (extract_above (p : BitVec 6) (extract_above (0x0#2 : BitVec 2) (extract_last _ _)))
  have f2 : (fld (encode (.cft a b p y)) 8 : BitVec 6) = p := extract_above (y : BitVec 8) (extract_last _ _)
  have f3 : (fld (encode (.cft a b p y)) 0 : BitVec 8) = y := extract_last _ _
  simp only [slotE (no_mark ho (by decide)), decodeE, ho, f0, f1, f2, f3]
  exact checked_ok hr hi
theorem Encoding.waitc (a : BitVec 4) (b : BitVec 4) (l : BitVec 1) (g : BitVec 3) : Encoding.Statement (.waitc a b l g) := by
  intro k hk hi
  cases hk
  have ho : (encode (.waitc a b l g)).extractLsb' 24 8 = 0x22#8 := extract_above (g : BitVec 3) (extract_above (l : BitVec 1) (extract_above (0x0#12 : BitVec 12) (extract_above (b : BitVec 4) (extract_above (a : BitVec 4) (rfl)))))
  have hr : encode (.waitc a b l g) &&& 0x0000FFF0#32 = 0#32 := and_parts (and_parts (and_parts (and_parts (and_parts ((rfl : 0x22#8 &&& 0x0#8 = 0#8)) (and_free a)) (and_free b)) ((rfl : 0x0#12 &&& 0xfff#12 = 0#12))) (and_free l)) (and_free g)
  have f0 : (fld (encode (.waitc a b l g)) 20 : BitVec 4) = a := extract_above (g : BitVec 3) (extract_above (l : BitVec 1) (extract_above (0x0#12 : BitVec 12) (extract_above (b : BitVec 4) (extract_last _ _))))
  have f1 : (fld (encode (.waitc a b l g)) 16 : BitVec 4) = b := extract_above (g : BitVec 3) (extract_above (l : BitVec 1) (extract_above (0x0#12 : BitVec 12) (extract_last _ _)))
  have f2 : (fld (encode (.waitc a b l g)) 3 : BitVec 1) = l := extract_above (g : BitVec 3) (extract_last _ _)
  have f3 : (fld (encode (.waitc a b l g)) 0 : BitVec 3) = g := extract_last _ _
  simp only [slotE (no_mark ho (by decide)), decodeE, ho, f0, f1, f2, f3]
  exact checked_ok hr hi
theorem Encoding.caph (a : BitVec 4) (y : BitVec 8) : Encoding.Statement (.caph a y) := by
  intro k hk hi
  cases hk
  have ho : (encode (.caph a y)).extractLsb' 24 8 = 0x23#8 := extract_above (y : BitVec 8) (extract_above (0x0#12 : BitVec 12) (extract_above (a : BitVec 4) (rfl)))
  have hr : encode (.caph a y) &&& 0x000FFF00#32 = 0#32 := and_parts (and_parts (and_parts ((rfl : 0x23#8 &&& 0x0#8 = 0#8)) (and_free a)) ((rfl : 0x0#12 &&& 0xfff#12 = 0#12))) (and_free y)
  have f0 : (fld (encode (.caph a y)) 20 : BitVec 4) = a := extract_above (y : BitVec 8) (extract_above (0x0#12 : BitVec 12) (extract_last _ _))
  have f1 : (fld (encode (.caph a y)) 0 : BitVec 8) = y := extract_last _ _
  simp only [slotE (no_mark ho (by decide)), decodeE, ho, f0, f1]
  exact checked_ok hr hi
theorem Encoding.capd (a : BitVec 4) (y : BitVec 8) : Encoding.Statement (.capd a y) := by
  intro k hk hi
  cases hk
  have ho : (encode (.capd a y)).extractLsb' 24 8 = 0x24#8 := extract_above (y : BitVec 8) (extract_above (0x0#12 : BitVec 12) (extract_above (a : BitVec 4) (rfl)))
  have hr : encode (.capd a y) &&& 0x000FFF00#32 = 0#32 := and_parts (and_parts (and_parts ((rfl : 0x24#8 &&& 0x0#8 = 0#8)) (and_free a)) ((rfl : 0x0#12 &&& 0xfff#12 = 0#12))) (and_free y)
  have f0 : (fld (encode (.capd a y)) 20 : BitVec 4) = a := extract_above (y : BitVec 8) (extract_above (0x0#12 : BitVec 12) (extract_last _ _))
  have f1 : (fld (encode (.capd a y)) 0 : BitVec 8) = y := extract_last _ _
  simp only [slotE (no_mark ho (by decide)), decodeE, ho, f0, f1]
  exact checked_ok hr hi
theorem Encoding.pub (s : BitVec 3) : Encoding.Statement (.pub s) := by
  intro k hk hi
  cases hk
  have ho : (encode (.pub s)).extractLsb' 24 8 = 0x28#8 := extract_above (s : BitVec 3) (extract_above (0x0#21 : BitVec 21) (rfl))
  have hr : encode (.pub s) &&& 0x00FFFFF8#32 = 0#32 := and_parts (and_parts ((rfl : 0x28#8 &&& 0x0#8 = 0#8)) ((rfl : 0x0#21 &&& 0x1fffff#21 = 0#21))) (and_free s)
  have f0 : (fld (encode (.pub s)) 0 : BitVec 3) = s := extract_last _ _
  simp only [slotE (no_mark ho (by decide)), decodeE, ho, f0]
  exact checked_ok hr hi
theorem Encoding.acq (s : BitVec 3) : Encoding.Statement (.acq s) := by
  intro k hk hi
  cases hk
  have ho : (encode (.acq s)).extractLsb' 24 8 = 0x29#8 := extract_above (s : BitVec 3) (extract_above (0x0#21 : BitVec 21) (rfl))
  have hr : encode (.acq s) &&& 0x00FFFFF8#32 = 0#32 := and_parts (and_parts ((rfl : 0x29#8 &&& 0x0#8 = 0#8)) ((rfl : 0x0#21 &&& 0x1fffff#21 = 0#21))) (and_free s)
  have f0 : (fld (encode (.acq s)) 0 : BitVec 3) = s := extract_last _ _
  simp only [slotE (no_mark ho (by decide)), decodeE, ho, f0]
  exact checked_ok hr hi
theorem Encoding.shopen (a : BitVec 4) : Encoding.Statement (.shopen a) := by
  intro k hk hi
  cases hk
  have ho : (encode (.shopen a)).extractLsb' 24 8 = 0x2a#8 := extract_above (0x0#20 : BitVec 20) (extract_above (a : BitVec 4) (rfl))
  have hr : encode (.shopen a) &&& 0x000FFFFF#32 = 0#32 := and_parts (and_parts ((rfl : 0x2a#8 &&& 0x0#8 = 0#8)) (and_free a)) ((rfl : 0x0#20 &&& 0xfffff#20 = 0#20))
  have f0 : (fld (encode (.shopen a)) 20 : BitVec 4) = a := extract_above (0x0#20 : BitVec 20) (extract_last _ _)
  simp only [slotE (no_mark ho (by decide)), decodeE, ho, f0]
  exact checked_ok hr hi
theorem Encoding.shpub (a : BitVec 4) : Encoding.Statement (.shpub a) := by
  intro k hk hi
  cases hk
  have ho : (encode (.shpub a)).extractLsb' 24 8 = 0x2b#8 := extract_above (0x0#20 : BitVec 20) (extract_above (a : BitVec 4) (rfl))
  have hr : encode (.shpub a) &&& 0x000FFFFF#32 = 0#32 := and_parts (and_parts ((rfl : 0x2b#8 &&& 0x0#8 = 0#8)) (and_free a)) ((rfl : 0x0#20 &&& 0xfffff#20 = 0#20))
  have f0 : (fld (encode (.shpub a)) 20 : BitVec 4) = a := extract_above (0x0#20 : BitVec 20) (extract_last _ _)
  simp only [slotE (no_mark ho (by decide)), decodeE, ho, f0]
  exact checked_ok hr hi
theorem Encoding.yield : Encoding.Statement .yield := by
  intro k hk _; cases hk; decide
theorem Encoding.retire : Encoding.Statement .retire := by
  intro k hk _; cases hk; decide
theorem Encoding.trap (n : BitVec 6) : Encoding.Statement (.trap n) := by
  intro k hk hi
  cases hk
  have ho : (encode (.trap n)).extractLsb' 24 8 = 0x32#8 := extract_above (n : BitVec 6) (extract_above (0x0#18 : BitVec 18) (rfl))
  have hr : encode (.trap n) &&& 0x00FFFFC0#32 = 0#32 := and_parts (and_parts ((rfl : 0x32#8 &&& 0x0#8 = 0#8)) ((rfl : 0x0#18 &&& 0x3ffff#18 = 0#18))) (and_free n)
  have f0 : (fld (encode (.trap n)) 0 : BitVec 6) = n := extract_last _ _
  simp only [slotE (no_mark ho (by decide)), decodeE, ho, f0]
  exact checked_ok hr hi
theorem Encoding.brk (n : BitVec 6) : Encoding.Statement (.brk n) := by
  intro k hk hi
  cases hk
  have ho : (encode (.brk n)).extractLsb' 24 8 = 0x33#8 := extract_above (n : BitVec 6) (extract_above (0x0#18 : BitVec 18) (rfl))
  have hr : encode (.brk n) &&& 0x00FFFFC0#32 = 0#32 := and_parts (and_parts ((rfl : 0x33#8 &&& 0x0#8 = 0#8)) ((rfl : 0x0#18 &&& 0x3ffff#18 = 0#18))) (and_free n)
  have f0 : (fld (encode (.brk n)) 0 : BitVec 6) = n := extract_last _ _
  simp only [slotE (no_mark ho (by decide)), decodeE, ho, f0]
  exact checked_ok hr hi
theorem Encoding.sysc (a : BitVec 4) (b : BitVec 4) (s : BitVec 8) : Encoding.Statement (.sysc a b s) := by
  intro k hk hi
  cases hk
  have ho : (encode (.sysc a b s)).extractLsb' 24 8 = 0x34#8 := extract_above (s : BitVec 8) (extract_above (0x0#8 : BitVec 8) (extract_above (b : BitVec 4) (extract_above (a : BitVec 4) (rfl))))
  have hr : encode (.sysc a b s) &&& 0x0000FF00#32 = 0#32 := and_parts (and_parts (and_parts (and_parts ((rfl : 0x34#8 &&& 0x0#8 = 0#8)) (and_free a)) (and_free b)) ((rfl : 0x0#8 &&& 0xff#8 = 0#8))) (and_free s)
  have f0 : (fld (encode (.sysc a b s)) 20 : BitVec 4) = a := extract_above (s : BitVec 8) (extract_above (0x0#8 : BitVec 8) (extract_above (b : BitVec 4) (extract_last _ _)))
  have f1 : (fld (encode (.sysc a b s)) 16 : BitVec 4) = b := extract_above (s : BitVec 8) (extract_above (0x0#8 : BitVec 8) (extract_last _ _))
  have f2 : (fld (encode (.sysc a b s)) 0 : BitVec 8) = s := extract_last _ _
  simp only [slotE (no_mark ho (by decide)), decodeE, ho, f0, f1, f2]
  exact checked_ok hr hi
theorem Encoding.rdtime (b : BitVec 4) (u : BitVec 1) : Encoding.Statement (.rdtime b u) := by
  intro k hk hi
  cases hk
  have ho : (encode (.rdtime b u)).extractLsb' 24 8 = 0x35#8 := extract_above (u : BitVec 1) (extract_above (0x0#15 : BitVec 15) (extract_above (b : BitVec 4) (extract_above (0x0#4 : BitVec 4) (rfl))))
  have hr : encode (.rdtime b u) &&& 0x00F0FFFE#32 = 0#32 := and_parts (and_parts (and_parts (and_parts ((rfl : 0x35#8 &&& 0x0#8 = 0#8)) ((rfl : 0x0#4 &&& 0xf#4 = 0#4))) (and_free b)) ((rfl : 0x0#15 &&& 0x7fff#15 = 0#15))) (and_free u)
  have f0 : (fld (encode (.rdtime b u)) 16 : BitVec 4) = b := extract_above (u : BitVec 1) (extract_above (0x0#15 : BitVec 15) (extract_last _ _))
  have f1 : (fld (encode (.rdtime b u)) 0 : BitVec 1) = u := extract_last _ _
  simp only [slotE (no_mark ho (by decide)), decodeE, ho, f0, f1]
  exact checked_ok hr hi
theorem Encoding.add (d : BitVec 5) (a : BitVec 5) (b : BitVec 5) : Encoding.Statement (.add d a b) := by
  intro k hk hi
  cases hk
  have ho : (encode (.add d a b)).extractLsb' 24 8 = 0x1#8 := extract_above (0x0#9 : BitVec 9) (extract_above (b : BitVec 5) (extract_above (a : BitVec 5) (extract_above (d : BitVec 5) (rfl))))
  have hr : encode (.add d a b) &&& 0x000001FF#32 = 0#32 := and_parts (and_parts (and_parts (and_parts ((rfl : 0x1#8 &&& 0x0#8 = 0#8)) (and_free d)) (and_free a)) (and_free b)) ((rfl : 0x0#9 &&& 0x1ff#9 = 0#9))
  have f0 : (fld (encode (.add d a b)) 19 : BitVec 5) = d := extract_above (0x0#9 : BitVec 9) (extract_above (b : BitVec 5) (extract_above (a : BitVec 5) (extract_last _ _)))
  have f1 : (fld (encode (.add d a b)) 14 : BitVec 5) = a := extract_above (0x0#9 : BitVec 9) (extract_above (b : BitVec 5) (extract_last _ _))
  have f2 : (fld (encode (.add d a b)) 9 : BitVec 5) = b := extract_above (0x0#9 : BitVec 9) (extract_last _ _)
  simp only [slotX (no_mark ho (by decide)), decodeX, ho, f0, f1, f2]
  exact checked_ok hr hi
theorem Encoding.sub (d : BitVec 5) (a : BitVec 5) (b : BitVec 5) : Encoding.Statement (.sub d a b) := by
  intro k hk hi
  cases hk
  have ho : (encode (.sub d a b)).extractLsb' 24 8 = 0x2#8 := extract_above (0x0#9 : BitVec 9) (extract_above (b : BitVec 5) (extract_above (a : BitVec 5) (extract_above (d : BitVec 5) (rfl))))
  have hr : encode (.sub d a b) &&& 0x000001FF#32 = 0#32 := and_parts (and_parts (and_parts (and_parts ((rfl : 0x2#8 &&& 0x0#8 = 0#8)) (and_free d)) (and_free a)) (and_free b)) ((rfl : 0x0#9 &&& 0x1ff#9 = 0#9))
  have f0 : (fld (encode (.sub d a b)) 19 : BitVec 5) = d := extract_above (0x0#9 : BitVec 9) (extract_above (b : BitVec 5) (extract_above (a : BitVec 5) (extract_last _ _)))
  have f1 : (fld (encode (.sub d a b)) 14 : BitVec 5) = a := extract_above (0x0#9 : BitVec 9) (extract_above (b : BitVec 5) (extract_last _ _))
  have f2 : (fld (encode (.sub d a b)) 9 : BitVec 5) = b := extract_above (0x0#9 : BitVec 9) (extract_last _ _)
  simp only [slotX (no_mark ho (by decide)), decodeX, ho, f0, f1, f2]
  exact checked_ok hr hi
theorem Encoding.mul (d : BitVec 5) (a : BitVec 5) (b : BitVec 5) : Encoding.Statement (.mul d a b) := by
  intro k hk hi
  cases hk
  have ho : (encode (.mul d a b)).extractLsb' 24 8 = 0x3#8 := extract_above (0x0#9 : BitVec 9) (extract_above (b : BitVec 5) (extract_above (a : BitVec 5) (extract_above (d : BitVec 5) (rfl))))
  have hr : encode (.mul d a b) &&& 0x000001FF#32 = 0#32 := and_parts (and_parts (and_parts (and_parts ((rfl : 0x3#8 &&& 0x0#8 = 0#8)) (and_free d)) (and_free a)) (and_free b)) ((rfl : 0x0#9 &&& 0x1ff#9 = 0#9))
  have f0 : (fld (encode (.mul d a b)) 19 : BitVec 5) = d := extract_above (0x0#9 : BitVec 9) (extract_above (b : BitVec 5) (extract_above (a : BitVec 5) (extract_last _ _)))
  have f1 : (fld (encode (.mul d a b)) 14 : BitVec 5) = a := extract_above (0x0#9 : BitVec 9) (extract_above (b : BitVec 5) (extract_last _ _))
  have f2 : (fld (encode (.mul d a b)) 9 : BitVec 5) = b := extract_above (0x0#9 : BitVec 9) (extract_last _ _)
  simp only [slotX (no_mark ho (by decide)), decodeX, ho, f0, f1, f2]
  exact checked_ok hr hi
theorem Encoding.mulh (d : BitVec 5) (a : BitVec 5) (b : BitVec 5) : Encoding.Statement (.mulh d a b) := by
  intro k hk hi
  cases hk
  have ho : (encode (.mulh d a b)).extractLsb' 24 8 = 0x4#8 := extract_above (0x0#9 : BitVec 9) (extract_above (b : BitVec 5) (extract_above (a : BitVec 5) (extract_above (d : BitVec 5) (rfl))))
  have hr : encode (.mulh d a b) &&& 0x000001FF#32 = 0#32 := and_parts (and_parts (and_parts (and_parts ((rfl : 0x4#8 &&& 0x0#8 = 0#8)) (and_free d)) (and_free a)) (and_free b)) ((rfl : 0x0#9 &&& 0x1ff#9 = 0#9))
  have f0 : (fld (encode (.mulh d a b)) 19 : BitVec 5) = d := extract_above (0x0#9 : BitVec 9) (extract_above (b : BitVec 5) (extract_above (a : BitVec 5) (extract_last _ _)))
  have f1 : (fld (encode (.mulh d a b)) 14 : BitVec 5) = a := extract_above (0x0#9 : BitVec 9) (extract_above (b : BitVec 5) (extract_last _ _))
  have f2 : (fld (encode (.mulh d a b)) 9 : BitVec 5) = b := extract_above (0x0#9 : BitVec 9) (extract_last _ _)
  simp only [slotX (no_mark ho (by decide)), decodeX, ho, f0, f1, f2]
  exact checked_ok hr hi
theorem Encoding.mulhn (d : BitVec 5) (a : BitVec 5) (b : BitVec 5) : Encoding.Statement (.mulhn d a b) := by
  intro k hk hi
  cases hk
  have ho : (encode (.mulhn d a b)).extractLsb' 24 8 = 0x5#8 := extract_above (0x0#9 : BitVec 9) (extract_above (b : BitVec 5) (extract_above (a : BitVec 5) (extract_above (d : BitVec 5) (rfl))))
  have hr : encode (.mulhn d a b) &&& 0x000001FF#32 = 0#32 := and_parts (and_parts (and_parts (and_parts ((rfl : 0x5#8 &&& 0x0#8 = 0#8)) (and_free d)) (and_free a)) (and_free b)) ((rfl : 0x0#9 &&& 0x1ff#9 = 0#9))
  have f0 : (fld (encode (.mulhn d a b)) 19 : BitVec 5) = d := extract_above (0x0#9 : BitVec 9) (extract_above (b : BitVec 5) (extract_above (a : BitVec 5) (extract_last _ _)))
  have f1 : (fld (encode (.mulhn d a b)) 14 : BitVec 5) = a := extract_above (0x0#9 : BitVec 9) (extract_above (b : BitVec 5) (extract_last _ _))
  have f2 : (fld (encode (.mulhn d a b)) 9 : BitVec 5) = b := extract_above (0x0#9 : BitVec 9) (extract_last _ _)
  simp only [slotX (no_mark ho (by decide)), decodeX, ho, f0, f1, f2]
  exact checked_ok hr hi
theorem Encoding.div (d : BitVec 5) (a : BitVec 5) (b : BitVec 5) (z : BitVec 1) : Encoding.Statement (.div d a b z) := by
  intro k hk hi
  cases hk
  have ho : (encode (.div d a b z)).extractLsb' 24 8 = 0x6#8 := extract_above (z : BitVec 1) (extract_above (0x0#8 : BitVec 8) (extract_above (b : BitVec 5) (extract_above (a : BitVec 5) (extract_above (d : BitVec 5) (rfl)))))
  have hr : encode (.div d a b z) &&& 0x000001FE#32 = 0#32 := and_parts (and_parts (and_parts (and_parts (and_parts ((rfl : 0x6#8 &&& 0x0#8 = 0#8)) (and_free d)) (and_free a)) (and_free b)) ((rfl : 0x0#8 &&& 0xff#8 = 0#8))) (and_free z)
  have f0 : (fld (encode (.div d a b z)) 19 : BitVec 5) = d := extract_above (z : BitVec 1) (extract_above (0x0#8 : BitVec 8) (extract_above (b : BitVec 5) (extract_above (a : BitVec 5) (extract_last _ _))))
  have f1 : (fld (encode (.div d a b z)) 14 : BitVec 5) = a := extract_above (z : BitVec 1) (extract_above (0x0#8 : BitVec 8) (extract_above (b : BitVec 5) (extract_last _ _)))
  have f2 : (fld (encode (.div d a b z)) 9 : BitVec 5) = b := extract_above (z : BitVec 1) (extract_above (0x0#8 : BitVec 8) (extract_last _ _))
  have f3 : (fld (encode (.div d a b z)) 0 : BitVec 1) = z := extract_last _ _
  simp only [slotX (no_mark ho (by decide)), decodeX, ho, f0, f1, f2, f3]
  exact checked_ok hr hi
theorem Encoding.divn (d : BitVec 5) (a : BitVec 5) (b : BitVec 5) (z : BitVec 1) : Encoding.Statement (.divn d a b z) := by
  intro k hk hi
  cases hk
  have ho : (encode (.divn d a b z)).extractLsb' 24 8 = 0x7#8 := extract_above (z : BitVec 1) (extract_above (0x0#8 : BitVec 8) (extract_above (b : BitVec 5) (extract_above (a : BitVec 5) (extract_above (d : BitVec 5) (rfl)))))
  have hr : encode (.divn d a b z) &&& 0x000001FE#32 = 0#32 := and_parts (and_parts (and_parts (and_parts (and_parts ((rfl : 0x7#8 &&& 0x0#8 = 0#8)) (and_free d)) (and_free a)) (and_free b)) ((rfl : 0x0#8 &&& 0xff#8 = 0#8))) (and_free z)
  have f0 : (fld (encode (.divn d a b z)) 19 : BitVec 5) = d := extract_above (z : BitVec 1) (extract_above (0x0#8 : BitVec 8) (extract_above (b : BitVec 5) (extract_above (a : BitVec 5) (extract_last _ _))))
  have f1 : (fld (encode (.divn d a b z)) 14 : BitVec 5) = a := extract_above (z : BitVec 1) (extract_above (0x0#8 : BitVec 8) (extract_above (b : BitVec 5) (extract_last _ _)))
  have f2 : (fld (encode (.divn d a b z)) 9 : BitVec 5) = b := extract_above (z : BitVec 1) (extract_above (0x0#8 : BitVec 8) (extract_last _ _))
  have f3 : (fld (encode (.divn d a b z)) 0 : BitVec 1) = z := extract_last _ _
  simp only [slotX (no_mark ho (by decide)), decodeX, ho, f0, f1, f2, f3]
  exact checked_ok hr hi
theorem Encoding.rem (d : BitVec 5) (a : BitVec 5) (b : BitVec 5) (z : BitVec 1) : Encoding.Statement (.rem d a b z) := by
  intro k hk hi
  cases hk
  have ho : (encode (.rem d a b z)).extractLsb' 24 8 = 0x8#8 := extract_above (z : BitVec 1) (extract_above (0x0#8 : BitVec 8) (extract_above (b : BitVec 5) (extract_above (a : BitVec 5) (extract_above (d : BitVec 5) (rfl)))))
  have hr : encode (.rem d a b z) &&& 0x000001FE#32 = 0#32 := and_parts (and_parts (and_parts (and_parts (and_parts ((rfl : 0x8#8 &&& 0x0#8 = 0#8)) (and_free d)) (and_free a)) (and_free b)) ((rfl : 0x0#8 &&& 0xff#8 = 0#8))) (and_free z)
  have f0 : (fld (encode (.rem d a b z)) 19 : BitVec 5) = d := extract_above (z : BitVec 1) (extract_above (0x0#8 : BitVec 8) (extract_above (b : BitVec 5) (extract_above (a : BitVec 5) (extract_last _ _))))
  have f1 : (fld (encode (.rem d a b z)) 14 : BitVec 5) = a := extract_above (z : BitVec 1) (extract_above (0x0#8 : BitVec 8) (extract_above (b : BitVec 5) (extract_last _ _)))
  have f2 : (fld (encode (.rem d a b z)) 9 : BitVec 5) = b := extract_above (z : BitVec 1) (extract_above (0x0#8 : BitVec 8) (extract_last _ _))
  have f3 : (fld (encode (.rem d a b z)) 0 : BitVec 1) = z := extract_last _ _
  simp only [slotX (no_mark ho (by decide)), decodeX, ho, f0, f1, f2, f3]
  exact checked_ok hr hi
theorem Encoding.remn (d : BitVec 5) (a : BitVec 5) (b : BitVec 5) (z : BitVec 1) : Encoding.Statement (.remn d a b z) := by
  intro k hk hi
  cases hk
  have ho : (encode (.remn d a b z)).extractLsb' 24 8 = 0x9#8 := extract_above (z : BitVec 1) (extract_above (0x0#8 : BitVec 8) (extract_above (b : BitVec 5) (extract_above (a : BitVec 5) (extract_above (d : BitVec 5) (rfl)))))
  have hr : encode (.remn d a b z) &&& 0x000001FE#32 = 0#32 := and_parts (and_parts (and_parts (and_parts (and_parts ((rfl : 0x9#8 &&& 0x0#8 = 0#8)) (and_free d)) (and_free a)) (and_free b)) ((rfl : 0x0#8 &&& 0xff#8 = 0#8))) (and_free z)
  have f0 : (fld (encode (.remn d a b z)) 19 : BitVec 5) = d := extract_above (z : BitVec 1) (extract_above (0x0#8 : BitVec 8) (extract_above (b : BitVec 5) (extract_above (a : BitVec 5) (extract_last _ _))))
  have f1 : (fld (encode (.remn d a b z)) 14 : BitVec 5) = a := extract_above (z : BitVec 1) (extract_above (0x0#8 : BitVec 8) (extract_above (b : BitVec 5) (extract_last _ _)))
  have f2 : (fld (encode (.remn d a b z)) 9 : BitVec 5) = b := extract_above (z : BitVec 1) (extract_above (0x0#8 : BitVec 8) (extract_last _ _))
  have f3 : (fld (encode (.remn d a b z)) 0 : BitVec 1) = z := extract_last _ _
  simp only [slotX (no_mark ho (by decide)), decodeX, ho, f0, f1, f2, f3]
  exact checked_ok hr hi
theorem Encoding.and (d : BitVec 5) (a : BitVec 5) (b : BitVec 5) : Encoding.Statement (.and d a b) := by
  intro k hk hi
  cases hk
  have ho : (encode (.and d a b)).extractLsb' 24 8 = 0xa#8 := extract_above (0x0#9 : BitVec 9) (extract_above (b : BitVec 5) (extract_above (a : BitVec 5) (extract_above (d : BitVec 5) (rfl))))
  have hr : encode (.and d a b) &&& 0x000001FF#32 = 0#32 := and_parts (and_parts (and_parts (and_parts ((rfl : 0xa#8 &&& 0x0#8 = 0#8)) (and_free d)) (and_free a)) (and_free b)) ((rfl : 0x0#9 &&& 0x1ff#9 = 0#9))
  have f0 : (fld (encode (.and d a b)) 19 : BitVec 5) = d := extract_above (0x0#9 : BitVec 9) (extract_above (b : BitVec 5) (extract_above (a : BitVec 5) (extract_last _ _)))
  have f1 : (fld (encode (.and d a b)) 14 : BitVec 5) = a := extract_above (0x0#9 : BitVec 9) (extract_above (b : BitVec 5) (extract_last _ _))
  have f2 : (fld (encode (.and d a b)) 9 : BitVec 5) = b := extract_above (0x0#9 : BitVec 9) (extract_last _ _)
  simp only [slotX (no_mark ho (by decide)), decodeX, ho, f0, f1, f2]
  exact checked_ok hr hi
theorem Encoding.or (d : BitVec 5) (a : BitVec 5) (b : BitVec 5) : Encoding.Statement (.or d a b) := by
  intro k hk hi
  cases hk
  have ho : (encode (.or d a b)).extractLsb' 24 8 = 0xb#8 := extract_above (0x0#9 : BitVec 9) (extract_above (b : BitVec 5) (extract_above (a : BitVec 5) (extract_above (d : BitVec 5) (rfl))))
  have hr : encode (.or d a b) &&& 0x000001FF#32 = 0#32 := and_parts (and_parts (and_parts (and_parts ((rfl : 0xb#8 &&& 0x0#8 = 0#8)) (and_free d)) (and_free a)) (and_free b)) ((rfl : 0x0#9 &&& 0x1ff#9 = 0#9))
  have f0 : (fld (encode (.or d a b)) 19 : BitVec 5) = d := extract_above (0x0#9 : BitVec 9) (extract_above (b : BitVec 5) (extract_above (a : BitVec 5) (extract_last _ _)))
  have f1 : (fld (encode (.or d a b)) 14 : BitVec 5) = a := extract_above (0x0#9 : BitVec 9) (extract_above (b : BitVec 5) (extract_last _ _))
  have f2 : (fld (encode (.or d a b)) 9 : BitVec 5) = b := extract_above (0x0#9 : BitVec 9) (extract_last _ _)
  simp only [slotX (no_mark ho (by decide)), decodeX, ho, f0, f1, f2]
  exact checked_ok hr hi
theorem Encoding.xor (d : BitVec 5) (a : BitVec 5) (b : BitVec 5) : Encoding.Statement (.xor d a b) := by
  intro k hk hi
  cases hk
  have ho : (encode (.xor d a b)).extractLsb' 24 8 = 0xc#8 := extract_above (0x0#9 : BitVec 9) (extract_above (b : BitVec 5) (extract_above (a : BitVec 5) (extract_above (d : BitVec 5) (rfl))))
  have hr : encode (.xor d a b) &&& 0x000001FF#32 = 0#32 := and_parts (and_parts (and_parts (and_parts ((rfl : 0xc#8 &&& 0x0#8 = 0#8)) (and_free d)) (and_free a)) (and_free b)) ((rfl : 0x0#9 &&& 0x1ff#9 = 0#9))
  have f0 : (fld (encode (.xor d a b)) 19 : BitVec 5) = d := extract_above (0x0#9 : BitVec 9) (extract_above (b : BitVec 5) (extract_above (a : BitVec 5) (extract_last _ _)))
  have f1 : (fld (encode (.xor d a b)) 14 : BitVec 5) = a := extract_above (0x0#9 : BitVec 9) (extract_above (b : BitVec 5) (extract_last _ _))
  have f2 : (fld (encode (.xor d a b)) 9 : BitVec 5) = b := extract_above (0x0#9 : BitVec 9) (extract_last _ _)
  simp only [slotX (no_mark ho (by decide)), decodeX, ho, f0, f1, f2]
  exact checked_ok hr hi
theorem Encoding.andn (d : BitVec 5) (a : BitVec 5) (b : BitVec 5) : Encoding.Statement (.andn d a b) := by
  intro k hk hi
  cases hk
  have ho : (encode (.andn d a b)).extractLsb' 24 8 = 0xd#8 := extract_above (0x0#9 : BitVec 9) (extract_above (b : BitVec 5) (extract_above (a : BitVec 5) (extract_above (d : BitVec 5) (rfl))))
  have hr : encode (.andn d a b) &&& 0x000001FF#32 = 0#32 := and_parts (and_parts (and_parts (and_parts ((rfl : 0xd#8 &&& 0x0#8 = 0#8)) (and_free d)) (and_free a)) (and_free b)) ((rfl : 0x0#9 &&& 0x1ff#9 = 0#9))
  have f0 : (fld (encode (.andn d a b)) 19 : BitVec 5) = d := extract_above (0x0#9 : BitVec 9) (extract_above (b : BitVec 5) (extract_above (a : BitVec 5) (extract_last _ _)))
  have f1 : (fld (encode (.andn d a b)) 14 : BitVec 5) = a := extract_above (0x0#9 : BitVec 9) (extract_above (b : BitVec 5) (extract_last _ _))
  have f2 : (fld (encode (.andn d a b)) 9 : BitVec 5) = b := extract_above (0x0#9 : BitVec 9) (extract_last _ _)
  simp only [slotX (no_mark ho (by decide)), decodeX, ho, f0, f1, f2]
  exact checked_ok hr hi
theorem Encoding.shl (d : BitVec 5) (a : BitVec 5) (b : BitVec 5) : Encoding.Statement (.shl d a b) := by
  intro k hk hi
  cases hk
  have ho : (encode (.shl d a b)).extractLsb' 24 8 = 0xe#8 := extract_above (0x0#9 : BitVec 9) (extract_above (b : BitVec 5) (extract_above (a : BitVec 5) (extract_above (d : BitVec 5) (rfl))))
  have hr : encode (.shl d a b) &&& 0x000001FF#32 = 0#32 := and_parts (and_parts (and_parts (and_parts ((rfl : 0xe#8 &&& 0x0#8 = 0#8)) (and_free d)) (and_free a)) (and_free b)) ((rfl : 0x0#9 &&& 0x1ff#9 = 0#9))
  have f0 : (fld (encode (.shl d a b)) 19 : BitVec 5) = d := extract_above (0x0#9 : BitVec 9) (extract_above (b : BitVec 5) (extract_above (a : BitVec 5) (extract_last _ _)))
  have f1 : (fld (encode (.shl d a b)) 14 : BitVec 5) = a := extract_above (0x0#9 : BitVec 9) (extract_above (b : BitVec 5) (extract_last _ _))
  have f2 : (fld (encode (.shl d a b)) 9 : BitVec 5) = b := extract_above (0x0#9 : BitVec 9) (extract_last _ _)
  simp only [slotX (no_mark ho (by decide)), decodeX, ho, f0, f1, f2]
  exact checked_ok hr hi
theorem Encoding.shr (d : BitVec 5) (a : BitVec 5) (b : BitVec 5) : Encoding.Statement (.shr d a b) := by
  intro k hk hi
  cases hk
  have ho : (encode (.shr d a b)).extractLsb' 24 8 = 0xf#8 := extract_above (0x0#9 : BitVec 9) (extract_above (b : BitVec 5) (extract_above (a : BitVec 5) (extract_above (d : BitVec 5) (rfl))))
  have hr : encode (.shr d a b) &&& 0x000001FF#32 = 0#32 := and_parts (and_parts (and_parts (and_parts ((rfl : 0xf#8 &&& 0x0#8 = 0#8)) (and_free d)) (and_free a)) (and_free b)) ((rfl : 0x0#9 &&& 0x1ff#9 = 0#9))
  have f0 : (fld (encode (.shr d a b)) 19 : BitVec 5) = d := extract_above (0x0#9 : BitVec 9) (extract_above (b : BitVec 5) (extract_above (a : BitVec 5) (extract_last _ _)))
  have f1 : (fld (encode (.shr d a b)) 14 : BitVec 5) = a := extract_above (0x0#9 : BitVec 9) (extract_above (b : BitVec 5) (extract_last _ _))
  have f2 : (fld (encode (.shr d a b)) 9 : BitVec 5) = b := extract_above (0x0#9 : BitVec 9) (extract_last _ _)
  simp only [slotX (no_mark ho (by decide)), decodeX, ho, f0, f1, f2]
  exact checked_ok hr hi
theorem Encoding.sar (d : BitVec 5) (a : BitVec 5) (b : BitVec 5) : Encoding.Statement (.sar d a b) := by
  intro k hk hi
  cases hk
  have ho : (encode (.sar d a b)).extractLsb' 24 8 = 0x10#8 := extract_above (0x0#9 : BitVec 9) (extract_above (b : BitVec 5) (extract_above (a : BitVec 5) (extract_above (d : BitVec 5) (rfl))))
  have hr : encode (.sar d a b) &&& 0x000001FF#32 = 0#32 := and_parts (and_parts (and_parts (and_parts ((rfl : 0x10#8 &&& 0x0#8 = 0#8)) (and_free d)) (and_free a)) (and_free b)) ((rfl : 0x0#9 &&& 0x1ff#9 = 0#9))
  have f0 : (fld (encode (.sar d a b)) 19 : BitVec 5) = d := extract_above (0x0#9 : BitVec 9) (extract_above (b : BitVec 5) (extract_above (a : BitVec 5) (extract_last _ _)))
  have f1 : (fld (encode (.sar d a b)) 14 : BitVec 5) = a := extract_above (0x0#9 : BitVec 9) (extract_above (b : BitVec 5) (extract_last _ _))
  have f2 : (fld (encode (.sar d a b)) 9 : BitVec 5) = b := extract_above (0x0#9 : BitVec 9) (extract_last _ _)
  simp only [slotX (no_mark ho (by decide)), decodeX, ho, f0, f1, f2]
  exact checked_ok hr hi
theorem Encoding.rol (d : BitVec 5) (a : BitVec 5) (b : BitVec 5) : Encoding.Statement (.rol d a b) := by
  intro k hk hi
  cases hk
  have ho : (encode (.rol d a b)).extractLsb' 24 8 = 0x11#8 := extract_above (0x0#9 : BitVec 9) (extract_above (b : BitVec 5) (extract_above (a : BitVec 5) (extract_above (d : BitVec 5) (rfl))))
  have hr : encode (.rol d a b) &&& 0x000001FF#32 = 0#32 := and_parts (and_parts (and_parts (and_parts ((rfl : 0x11#8 &&& 0x0#8 = 0#8)) (and_free d)) (and_free a)) (and_free b)) ((rfl : 0x0#9 &&& 0x1ff#9 = 0#9))
  have f0 : (fld (encode (.rol d a b)) 19 : BitVec 5) = d := extract_above (0x0#9 : BitVec 9) (extract_above (b : BitVec 5) (extract_above (a : BitVec 5) (extract_last _ _)))
  have f1 : (fld (encode (.rol d a b)) 14 : BitVec 5) = a := extract_above (0x0#9 : BitVec 9) (extract_above (b : BitVec 5) (extract_last _ _))
  have f2 : (fld (encode (.rol d a b)) 9 : BitVec 5) = b := extract_above (0x0#9 : BitVec 9) (extract_last _ _)
  simp only [slotX (no_mark ho (by decide)), decodeX, ho, f0, f1, f2]
  exact checked_ok hr hi
theorem Encoding.clz (d : BitVec 5) (a : BitVec 5) : Encoding.Statement (.clz d a) := by
  intro k hk hi
  cases hk
  have ho : (encode (.clz d a)).extractLsb' 24 8 = 0x12#8 := extract_above (0x0#14 : BitVec 14) (extract_above (a : BitVec 5) (extract_above (d : BitVec 5) (rfl)))
  have hr : encode (.clz d a) &&& 0x00003FFF#32 = 0#32 := and_parts (and_parts (and_parts ((rfl : 0x12#8 &&& 0x0#8 = 0#8)) (and_free d)) (and_free a)) ((rfl : 0x0#14 &&& 0x3fff#14 = 0#14))
  have f0 : (fld (encode (.clz d a)) 19 : BitVec 5) = d := extract_above (0x0#14 : BitVec 14) (extract_above (a : BitVec 5) (extract_last _ _))
  have f1 : (fld (encode (.clz d a)) 14 : BitVec 5) = a := extract_above (0x0#14 : BitVec 14) (extract_last _ _)
  simp only [slotX (no_mark ho (by decide)), decodeX, ho, f0, f1]
  exact checked_ok hr hi
theorem Encoding.ctz (d : BitVec 5) (a : BitVec 5) : Encoding.Statement (.ctz d a) := by
  intro k hk hi
  cases hk
  have ho : (encode (.ctz d a)).extractLsb' 24 8 = 0x13#8 := extract_above (0x0#14 : BitVec 14) (extract_above (a : BitVec 5) (extract_above (d : BitVec 5) (rfl)))
  have hr : encode (.ctz d a) &&& 0x00003FFF#32 = 0#32 := and_parts (and_parts (and_parts ((rfl : 0x13#8 &&& 0x0#8 = 0#8)) (and_free d)) (and_free a)) ((rfl : 0x0#14 &&& 0x3fff#14 = 0#14))
  have f0 : (fld (encode (.ctz d a)) 19 : BitVec 5) = d := extract_above (0x0#14 : BitVec 14) (extract_above (a : BitVec 5) (extract_last _ _))
  have f1 : (fld (encode (.ctz d a)) 14 : BitVec 5) = a := extract_above (0x0#14 : BitVec 14) (extract_last _ _)
  simp only [slotX (no_mark ho (by decide)), decodeX, ho, f0, f1]
  exact checked_ok hr hi
theorem Encoding.popc (d : BitVec 5) (a : BitVec 5) : Encoding.Statement (.popc d a) := by
  intro k hk hi
  cases hk
  have ho : (encode (.popc d a)).extractLsb' 24 8 = 0x14#8 := extract_above (0x0#14 : BitVec 14) (extract_above (a : BitVec 5) (extract_above (d : BitVec 5) (rfl)))
  have hr : encode (.popc d a) &&& 0x00003FFF#32 = 0#32 := and_parts (and_parts (and_parts ((rfl : 0x14#8 &&& 0x0#8 = 0#8)) (and_free d)) (and_free a)) ((rfl : 0x0#14 &&& 0x3fff#14 = 0#14))
  have f0 : (fld (encode (.popc d a)) 19 : BitVec 5) = d := extract_above (0x0#14 : BitVec 14) (extract_above (a : BitVec 5) (extract_last _ _))
  have f1 : (fld (encode (.popc d a)) 14 : BitVec 5) = a := extract_above (0x0#14 : BitVec 14) (extract_last _ _)
  simp only [slotX (no_mark ho (by decide)), decodeX, ho, f0, f1]
  exact checked_ok hr hi
theorem Encoding.min (d : BitVec 5) (a : BitVec 5) (b : BitVec 5) : Encoding.Statement (.min d a b) := by
  intro k hk hi
  cases hk
  have ho : (encode (.min d a b)).extractLsb' 24 8 = 0x15#8 := extract_above (0x0#9 : BitVec 9) (extract_above (b : BitVec 5) (extract_above (a : BitVec 5) (extract_above (d : BitVec 5) (rfl))))
  have hr : encode (.min d a b) &&& 0x000001FF#32 = 0#32 := and_parts (and_parts (and_parts (and_parts ((rfl : 0x15#8 &&& 0x0#8 = 0#8)) (and_free d)) (and_free a)) (and_free b)) ((rfl : 0x0#9 &&& 0x1ff#9 = 0#9))
  have f0 : (fld (encode (.min d a b)) 19 : BitVec 5) = d := extract_above (0x0#9 : BitVec 9) (extract_above (b : BitVec 5) (extract_above (a : BitVec 5) (extract_last _ _)))
  have f1 : (fld (encode (.min d a b)) 14 : BitVec 5) = a := extract_above (0x0#9 : BitVec 9) (extract_above (b : BitVec 5) (extract_last _ _))
  have f2 : (fld (encode (.min d a b)) 9 : BitVec 5) = b := extract_above (0x0#9 : BitVec 9) (extract_last _ _)
  simp only [slotX (no_mark ho (by decide)), decodeX, ho, f0, f1, f2]
  exact checked_ok hr hi
theorem Encoding.max (d : BitVec 5) (a : BitVec 5) (b : BitVec 5) : Encoding.Statement (.max d a b) := by
  intro k hk hi
  cases hk
  have ho : (encode (.max d a b)).extractLsb' 24 8 = 0x16#8 := extract_above (0x0#9 : BitVec 9) (extract_above (b : BitVec 5) (extract_above (a : BitVec 5) (extract_above (d : BitVec 5) (rfl))))
  have hr : encode (.max d a b) &&& 0x000001FF#32 = 0#32 := and_parts (and_parts (and_parts (and_parts ((rfl : 0x16#8 &&& 0x0#8 = 0#8)) (and_free d)) (and_free a)) (and_free b)) ((rfl : 0x0#9 &&& 0x1ff#9 = 0#9))
  have f0 : (fld (encode (.max d a b)) 19 : BitVec 5) = d := extract_above (0x0#9 : BitVec 9) (extract_above (b : BitVec 5) (extract_above (a : BitVec 5) (extract_last _ _)))
  have f1 : (fld (encode (.max d a b)) 14 : BitVec 5) = a := extract_above (0x0#9 : BitVec 9) (extract_above (b : BitVec 5) (extract_last _ _))
  have f2 : (fld (encode (.max d a b)) 9 : BitVec 5) = b := extract_above (0x0#9 : BitVec 9) (extract_last _ _)
  simp only [slotX (no_mark ho (by decide)), decodeX, ho, f0, f1, f2]
  exact checked_ok hr hi
theorem Encoding.minn (d : BitVec 5) (a : BitVec 5) (b : BitVec 5) : Encoding.Statement (.minn d a b) := by
  intro k hk hi
  cases hk
  have ho : (encode (.minn d a b)).extractLsb' 24 8 = 0x17#8 := extract_above (0x0#9 : BitVec 9) (extract_above (b : BitVec 5) (extract_above (a : BitVec 5) (extract_above (d : BitVec 5) (rfl))))
  have hr : encode (.minn d a b) &&& 0x000001FF#32 = 0#32 := and_parts (and_parts (and_parts (and_parts ((rfl : 0x17#8 &&& 0x0#8 = 0#8)) (and_free d)) (and_free a)) (and_free b)) ((rfl : 0x0#9 &&& 0x1ff#9 = 0#9))
  have f0 : (fld (encode (.minn d a b)) 19 : BitVec 5) = d := extract_above (0x0#9 : BitVec 9) (extract_above (b : BitVec 5) (extract_above (a : BitVec 5) (extract_last _ _)))
  have f1 : (fld (encode (.minn d a b)) 14 : BitVec 5) = a := extract_above (0x0#9 : BitVec 9) (extract_above (b : BitVec 5) (extract_last _ _))
  have f2 : (fld (encode (.minn d a b)) 9 : BitVec 5) = b := extract_above (0x0#9 : BitVec 9) (extract_last _ _)
  simp only [slotX (no_mark ho (by decide)), decodeX, ho, f0, f1, f2]
  exact checked_ok hr hi
theorem Encoding.maxn (d : BitVec 5) (a : BitVec 5) (b : BitVec 5) : Encoding.Statement (.maxn d a b) := by
  intro k hk hi
  cases hk
  have ho : (encode (.maxn d a b)).extractLsb' 24 8 = 0x18#8 := extract_above (0x0#9 : BitVec 9) (extract_above (b : BitVec 5) (extract_above (a : BitVec 5) (extract_above (d : BitVec 5) (rfl))))
  have hr : encode (.maxn d a b) &&& 0x000001FF#32 = 0#32 := and_parts (and_parts (and_parts (and_parts ((rfl : 0x18#8 &&& 0x0#8 = 0#8)) (and_free d)) (and_free a)) (and_free b)) ((rfl : 0x0#9 &&& 0x1ff#9 = 0#9))
  have f0 : (fld (encode (.maxn d a b)) 19 : BitVec 5) = d := extract_above (0x0#9 : BitVec 9) (extract_above (b : BitVec 5) (extract_above (a : BitVec 5) (extract_last _ _)))
  have f1 : (fld (encode (.maxn d a b)) 14 : BitVec 5) = a := extract_above (0x0#9 : BitVec 9) (extract_above (b : BitVec 5) (extract_last _ _))
  have f2 : (fld (encode (.maxn d a b)) 9 : BitVec 5) = b := extract_above (0x0#9 : BitVec 9) (extract_last _ _)
  simp only [slotX (no_mark ho (by decide)), decodeX, ho, f0, f1, f2]
  exact checked_ok hr hi
theorem Encoding.cmp (d : BitVec 5) (a : BitVec 5) (b : BitVec 5) (c : BitVec 3) : Encoding.Statement (.cmp d a b c) := by
  intro k hk hi
  cases hk
  have ho : (encode (.cmp d a b c)).extractLsb' 24 8 = 0x19#8 := extract_above (c : BitVec 3) (extract_above (0x0#6 : BitVec 6) (extract_above (b : BitVec 5) (extract_above (a : BitVec 5) (extract_above (d : BitVec 5) (rfl)))))
  have hr : encode (.cmp d a b c) &&& 0x000001F8#32 = 0#32 := and_parts (and_parts (and_parts (and_parts (and_parts ((rfl : 0x19#8 &&& 0x0#8 = 0#8)) (and_free d)) (and_free a)) (and_free b)) ((rfl : 0x0#6 &&& 0x3f#6 = 0#6))) (and_free c)
  have f0 : (fld (encode (.cmp d a b c)) 19 : BitVec 5) = d := extract_above (c : BitVec 3) (extract_above (0x0#6 : BitVec 6) (extract_above (b : BitVec 5) (extract_above (a : BitVec 5) (extract_last _ _))))
  have f1 : (fld (encode (.cmp d a b c)) 14 : BitVec 5) = a := extract_above (c : BitVec 3) (extract_above (0x0#6 : BitVec 6) (extract_above (b : BitVec 5) (extract_last _ _)))
  have f2 : (fld (encode (.cmp d a b c)) 9 : BitVec 5) = b := extract_above (c : BitVec 3) (extract_above (0x0#6 : BitVec 6) (extract_last _ _))
  have f3 : (fld (encode (.cmp d a b c)) 0 : BitVec 3) = c := extract_last _ _
  simp only [slotX (no_mark ho (by decide)), decodeX, ho, f0, f1, f2, f3]
  exact checked_ok hr hi
theorem Encoding.sel (d : BitVec 5) (a : BitVec 5) (b : BitVec 5) (c : BitVec 5) : Encoding.Statement (.sel d a b c) := by
  intro k hk hi
  cases hk
  have ho : (encode (.sel d a b c)).extractLsb' 24 8 = 0x1a#8 := extract_above (c : BitVec 5) (extract_above (0x0#4 : BitVec 4) (extract_above (b : BitVec 5) (extract_above (a : BitVec 5) (extract_above (d : BitVec 5) (rfl)))))
  have hr : encode (.sel d a b c) &&& 0x000001E0#32 = 0#32 := and_parts (and_parts (and_parts (and_parts (and_parts ((rfl : 0x1a#8 &&& 0x0#8 = 0#8)) (and_free d)) (and_free a)) (and_free b)) ((rfl : 0x0#4 &&& 0xf#4 = 0#4))) (and_free c)
  have f0 : (fld (encode (.sel d a b c)) 19 : BitVec 5) = d := extract_above (c : BitVec 5) (extract_above (0x0#4 : BitVec 4) (extract_above (b : BitVec 5) (extract_above (a : BitVec 5) (extract_last _ _))))
  have f1 : (fld (encode (.sel d a b c)) 14 : BitVec 5) = a := extract_above (c : BitVec 5) (extract_above (0x0#4 : BitVec 4) (extract_above (b : BitVec 5) (extract_last _ _)))
  have f2 : (fld (encode (.sel d a b c)) 9 : BitVec 5) = b := extract_above (c : BitVec 5) (extract_above (0x0#4 : BitVec 4) (extract_last _ _))
  have f3 : (fld (encode (.sel d a b c)) 0 : BitVec 5) = c := extract_last _ _
  simp only [slotX (no_mark ho (by decide)), decodeX, ho, f0, f1, f2, f3]
  exact checked_ok hr hi
theorem Encoding.addi (d : BitVec 5) (a : BitVec 5) (i : BitVec 14) : Encoding.Statement (.addi d a i) := by
  intro k hk hi
  cases hk
  have ho : (encode (.addi d a i)).extractLsb' 24 8 = 0x20#8 := extract_above (i : BitVec 14) (extract_above (a : BitVec 5) (extract_above (d : BitVec 5) (rfl)))
  have hr : encode (.addi d a i) &&& 0x00000000#32 = 0#32 := and_parts (and_parts (and_parts ((rfl : 0x20#8 &&& 0x0#8 = 0#8)) (and_free d)) (and_free a)) (and_free i)
  have f0 : (fld (encode (.addi d a i)) 19 : BitVec 5) = d := extract_above (i : BitVec 14) (extract_above (a : BitVec 5) (extract_last _ _))
  have f1 : (fld (encode (.addi d a i)) 14 : BitVec 5) = a := extract_above (i : BitVec 14) (extract_last _ _)
  have f2 : (fld (encode (.addi d a i)) 0 : BitVec 14) = i := extract_last _ _
  simp only [slotX (no_mark ho (by decide)), decodeX, ho, f0, f1, f2]
  exact checked_ok hr hi
theorem Encoding.andi (d : BitVec 5) (a : BitVec 5) (i : BitVec 14) : Encoding.Statement (.andi d a i) := by
  intro k hk hi
  cases hk
  have ho : (encode (.andi d a i)).extractLsb' 24 8 = 0x21#8 := extract_above (i : BitVec 14) (extract_above (a : BitVec 5) (extract_above (d : BitVec 5) (rfl)))
  have hr : encode (.andi d a i) &&& 0x00000000#32 = 0#32 := and_parts (and_parts (and_parts ((rfl : 0x21#8 &&& 0x0#8 = 0#8)) (and_free d)) (and_free a)) (and_free i)
  have f0 : (fld (encode (.andi d a i)) 19 : BitVec 5) = d := extract_above (i : BitVec 14) (extract_above (a : BitVec 5) (extract_last _ _))
  have f1 : (fld (encode (.andi d a i)) 14 : BitVec 5) = a := extract_above (i : BitVec 14) (extract_last _ _)
  have f2 : (fld (encode (.andi d a i)) 0 : BitVec 14) = i := extract_last _ _
  simp only [slotX (no_mark ho (by decide)), decodeX, ho, f0, f1, f2]
  exact checked_ok hr hi
theorem Encoding.ori (d : BitVec 5) (a : BitVec 5) (i : BitVec 14) : Encoding.Statement (.ori d a i) := by
  intro k hk hi
  cases hk
  have ho : (encode (.ori d a i)).extractLsb' 24 8 = 0x22#8 := extract_above (i : BitVec 14) (extract_above (a : BitVec 5) (extract_above (d : BitVec 5) (rfl)))
  have hr : encode (.ori d a i) &&& 0x00000000#32 = 0#32 := and_parts (and_parts (and_parts ((rfl : 0x22#8 &&& 0x0#8 = 0#8)) (and_free d)) (and_free a)) (and_free i)
  have f0 : (fld (encode (.ori d a i)) 19 : BitVec 5) = d := extract_above (i : BitVec 14) (extract_above (a : BitVec 5) (extract_last _ _))
  have f1 : (fld (encode (.ori d a i)) 14 : BitVec 5) = a := extract_above (i : BitVec 14) (extract_last _ _)
  have f2 : (fld (encode (.ori d a i)) 0 : BitVec 14) = i := extract_last _ _
  simp only [slotX (no_mark ho (by decide)), decodeX, ho, f0, f1, f2]
  exact checked_ok hr hi
theorem Encoding.xori (d : BitVec 5) (a : BitVec 5) (i : BitVec 14) : Encoding.Statement (.xori d a i) := by
  intro k hk hi
  cases hk
  have ho : (encode (.xori d a i)).extractLsb' 24 8 = 0x23#8 := extract_above (i : BitVec 14) (extract_above (a : BitVec 5) (extract_above (d : BitVec 5) (rfl)))
  have hr : encode (.xori d a i) &&& 0x00000000#32 = 0#32 := and_parts (and_parts (and_parts ((rfl : 0x23#8 &&& 0x0#8 = 0#8)) (and_free d)) (and_free a)) (and_free i)
  have f0 : (fld (encode (.xori d a i)) 19 : BitVec 5) = d := extract_above (i : BitVec 14) (extract_above (a : BitVec 5) (extract_last _ _))
  have f1 : (fld (encode (.xori d a i)) 14 : BitVec 5) = a := extract_above (i : BitVec 14) (extract_last _ _)
  have f2 : (fld (encode (.xori d a i)) 0 : BitVec 14) = i := extract_last _ _
  simp only [slotX (no_mark ho (by decide)), decodeX, ho, f0, f1, f2]
  exact checked_ok hr hi
theorem Encoding.shli (d : BitVec 5) (a : BitVec 5) (n : BitVec 6) : Encoding.Statement (.shli d a n) := by
  intro k hk hi
  cases hk
  have ho : (encode (.shli d a n)).extractLsb' 24 8 = 0x24#8 := extract_above (n : BitVec 6) (extract_above (0x0#8 : BitVec 8) (extract_above (a : BitVec 5) (extract_above (d : BitVec 5) (rfl))))
  have hr : encode (.shli d a n) &&& 0x00003FC0#32 = 0#32 := and_parts (and_parts (and_parts (and_parts ((rfl : 0x24#8 &&& 0x0#8 = 0#8)) (and_free d)) (and_free a)) ((rfl : 0x0#8 &&& 0xff#8 = 0#8))) (and_free n)
  have f0 : (fld (encode (.shli d a n)) 19 : BitVec 5) = d := extract_above (n : BitVec 6) (extract_above (0x0#8 : BitVec 8) (extract_above (a : BitVec 5) (extract_last _ _)))
  have f1 : (fld (encode (.shli d a n)) 14 : BitVec 5) = a := extract_above (n : BitVec 6) (extract_above (0x0#8 : BitVec 8) (extract_last _ _))
  have f2 : (fld (encode (.shli d a n)) 0 : BitVec 6) = n := extract_last _ _
  simp only [slotX (no_mark ho (by decide)), decodeX, ho, f0, f1, f2]
  exact checked_ok hr hi
theorem Encoding.shri (d : BitVec 5) (a : BitVec 5) (n : BitVec 6) : Encoding.Statement (.shri d a n) := by
  intro k hk hi
  cases hk
  have ho : (encode (.shri d a n)).extractLsb' 24 8 = 0x25#8 := extract_above (n : BitVec 6) (extract_above (0x0#8 : BitVec 8) (extract_above (a : BitVec 5) (extract_above (d : BitVec 5) (rfl))))
  have hr : encode (.shri d a n) &&& 0x00003FC0#32 = 0#32 := and_parts (and_parts (and_parts (and_parts ((rfl : 0x25#8 &&& 0x0#8 = 0#8)) (and_free d)) (and_free a)) ((rfl : 0x0#8 &&& 0xff#8 = 0#8))) (and_free n)
  have f0 : (fld (encode (.shri d a n)) 19 : BitVec 5) = d := extract_above (n : BitVec 6) (extract_above (0x0#8 : BitVec 8) (extract_above (a : BitVec 5) (extract_last _ _)))
  have f1 : (fld (encode (.shri d a n)) 14 : BitVec 5) = a := extract_above (n : BitVec 6) (extract_above (0x0#8 : BitVec 8) (extract_last _ _))
  have f2 : (fld (encode (.shri d a n)) 0 : BitVec 6) = n := extract_last _ _
  simp only [slotX (no_mark ho (by decide)), decodeX, ho, f0, f1, f2]
  exact checked_ok hr hi
theorem Encoding.sari (d : BitVec 5) (a : BitVec 5) (n : BitVec 6) : Encoding.Statement (.sari d a n) := by
  intro k hk hi
  cases hk
  have ho : (encode (.sari d a n)).extractLsb' 24 8 = 0x26#8 := extract_above (n : BitVec 6) (extract_above (0x0#8 : BitVec 8) (extract_above (a : BitVec 5) (extract_above (d : BitVec 5) (rfl))))
  have hr : encode (.sari d a n) &&& 0x00003FC0#32 = 0#32 := and_parts (and_parts (and_parts (and_parts ((rfl : 0x26#8 &&& 0x0#8 = 0#8)) (and_free d)) (and_free a)) ((rfl : 0x0#8 &&& 0xff#8 = 0#8))) (and_free n)
  have f0 : (fld (encode (.sari d a n)) 19 : BitVec 5) = d := extract_above (n : BitVec 6) (extract_above (0x0#8 : BitVec 8) (extract_above (a : BitVec 5) (extract_last _ _)))
  have f1 : (fld (encode (.sari d a n)) 14 : BitVec 5) = a := extract_above (n : BitVec 6) (extract_above (0x0#8 : BitVec 8) (extract_last _ _))
  have f2 : (fld (encode (.sari d a n)) 0 : BitVec 6) = n := extract_last _ _
  simp only [slotX (no_mark ho (by decide)), decodeX, ho, f0, f1, f2]
  exact checked_ok hr hi
theorem Encoding.li (d : BitVec 5) (i : BitVec 19) : Encoding.Statement (.li d i) := by
  intro k hk hi
  cases hk
  have ho : (encode (.li d i)).extractLsb' 24 8 = 0x27#8 := extract_above (i : BitVec 19) (extract_above (d : BitVec 5) (rfl))
  have hr : encode (.li d i) &&& 0x00000000#32 = 0#32 := and_parts (and_parts ((rfl : 0x27#8 &&& 0x0#8 = 0#8)) (and_free d)) (and_free i)
  have f0 : (fld (encode (.li d i)) 19 : BitVec 5) = d := extract_above (i : BitVec 19) (extract_last _ _)
  have f1 : (fld (encode (.li d i)) 0 : BitVec 19) = i := extract_last _ _
  simp only [slotX (no_mark ho (by decide)), decodeX, ho, f0, f1]
  exact checked_ok hr hi
theorem Encoding.lih (d : BitVec 5) (i : BitVec 19) : Encoding.Statement (.lih d i) := by
  intro k hk hi
  cases hk
  have ho : (encode (.lih d i)).extractLsb' 24 8 = 0x28#8 := extract_above (i : BitVec 19) (extract_above (d : BitVec 5) (rfl))
  have hr : encode (.lih d i) &&& 0x00000000#32 = 0#32 := and_parts (and_parts ((rfl : 0x28#8 &&& 0x0#8 = 0#8)) (and_free d)) (and_free i)
  have f0 : (fld (encode (.lih d i)) 19 : BitVec 5) = d := extract_above (i : BitVec 19) (extract_last _ _)
  have f1 : (fld (encode (.lih d i)) 0 : BitVec 19) = i := extract_last _ _
  simp only [slotX (no_mark ho (by decide)), decodeX, ho, f0, f1]
  exact checked_ok hr hi
theorem Encoding.take (d : BitVec 5) (l : BitVec 5) : Encoding.Statement (.take d l) := by
  intro k hk hi
  cases hk
  have ho : (encode (.take d l)).extractLsb' 24 8 = 0x30#8 := extract_above (l : BitVec 5) (extract_above (0x0#14 : BitVec 14) (extract_above (d : BitVec 5) (rfl)))
  have hr : encode (.take d l) &&& 0x0007FFE0#32 = 0#32 := and_parts (and_parts (and_parts ((rfl : 0x30#8 &&& 0x0#8 = 0#8)) (and_free d)) ((rfl : 0x0#14 &&& 0x3fff#14 = 0#14))) (and_free l)
  have f0 : (fld (encode (.take d l)) 19 : BitVec 5) = d := extract_above (l : BitVec 5) (extract_above (0x0#14 : BitVec 14) (extract_last _ _))
  have f1 : (fld (encode (.take d l)) 0 : BitVec 5) = l := extract_last _ _
  simp only [slotX (no_mark ho (by decide)), decodeX, ho, f0, f1]
  exact checked_ok hr hi
theorem Encoding.push (a : BitVec 5) : Encoding.Statement (.push a) := by
  intro k hk hi
  cases hk
  have ho : (encode (.push a)).extractLsb' 24 8 = 0x31#8 := extract_above (0x0#14 : BitVec 14) (extract_above (a : BitVec 5) (extract_above (0x0#5 : BitVec 5) (rfl)))
  have hr : encode (.push a) &&& 0x00F83FFF#32 = 0#32 := and_parts (and_parts (and_parts ((rfl : 0x31#8 &&& 0x0#8 = 0#8)) ((rfl : 0x0#5 &&& 0x1f#5 = 0#5))) (and_free a)) ((rfl : 0x0#14 &&& 0x3fff#14 = 0#14))
  have f0 : (fld (encode (.push a)) 14 : BitVec 5) = a := extract_above (0x0#14 : BitVec 14) (extract_last _ _)
  simp only [slotX (no_mark ho (by decide)), decodeX, ho, f0]
  exact checked_ok hr hi
theorem Encoding.mfs (d : BitVec 5) (n : BitVec 14) : Encoding.Statement (.mfs d n) := by
  intro k hk hi
  cases hk
  have ho : (encode (.mfs d n)).extractLsb' 24 8 = 0x32#8 := extract_above (n : BitVec 14) (extract_above (0x0#5 : BitVec 5) (extract_above (d : BitVec 5) (rfl)))
  have hr : encode (.mfs d n) &&& 0x0007C000#32 = 0#32 := and_parts (and_parts (and_parts ((rfl : 0x32#8 &&& 0x0#8 = 0#8)) (and_free d)) ((rfl : 0x0#5 &&& 0x1f#5 = 0#5))) (and_free n)
  have f0 : (fld (encode (.mfs d n)) 19 : BitVec 5) = d := extract_above (n : BitVec 14) (extract_above (0x0#5 : BitVec 5) (extract_last _ _))
  have f1 : (fld (encode (.mfs d n)) 0 : BitVec 14) = n := extract_last _ _
  simp only [slotX (no_mark ho (by decide)), decodeX, ho, f0, f1]
  exact checked_ok hr hi
theorem Encoding.mts (a : BitVec 5) (n : BitVec 14) : Encoding.Statement (.mts a n) := by
  intro k hk hi
  cases hk
  have ho : (encode (.mts a n)).extractLsb' 24 8 = 0x33#8 := extract_above (n : BitVec 14) (extract_above (a : BitVec 5) (extract_above (0x0#5 : BitVec 5) (rfl)))
  have hr : encode (.mts a n) &&& 0x00F80000#32 = 0#32 := and_parts (and_parts (and_parts ((rfl : 0x33#8 &&& 0x0#8 = 0#8)) ((rfl : 0x0#5 &&& 0x1f#5 = 0#5))) (and_free a)) (and_free n)
  have f0 : (fld (encode (.mts a n)) 14 : BitVec 5) = a := extract_above (n : BitVec 14) (extract_last _ _)
  have f1 : (fld (encode (.mts a n)) 0 : BitVec 14) = n := extract_last _ _
  simp only [slotX (no_mark ho (by decide)), decodeX, ho, f0, f1]
  exact checked_ok hr hi
theorem Encoding.bx (c : BitVec 3) (a : BitVec 5) (b : BitVec 5) (o : BitVec 11) : Encoding.Statement (.bx c a b o) := by
  intro k hk hi
  cases hk
  have ho : (encode (.bx c a b o)).extractLsb' 24 8 = 0x38#8 := extract_above (o : BitVec 11) (extract_above (b : BitVec 5) (extract_above (a : BitVec 5) (extract_above (c : BitVec 3) (rfl))))
  have hr : encode (.bx c a b o) &&& 0x00000000#32 = 0#32 := and_parts (and_parts (and_parts (and_parts ((rfl : 0x38#8 &&& 0x0#8 = 0#8)) (and_free c)) (and_free a)) (and_free b)) (and_free o)
  have f0 : (fld (encode (.bx c a b o)) 21 : BitVec 3) = c := extract_above (o : BitVec 11) (extract_above (b : BitVec 5) (extract_above (a : BitVec 5) (extract_last _ _)))
  have f1 : (fld (encode (.bx c a b o)) 16 : BitVec 5) = a := extract_above (o : BitVec 11) (extract_above (b : BitVec 5) (extract_last _ _))
  have f2 : (fld (encode (.bx c a b o)) 11 : BitVec 5) = b := extract_above (o : BitVec 11) (extract_last _ _)
  have f3 : (fld (encode (.bx c a b o)) 0 : BitVec 11) = o := extract_last _ _
  simp only [slotX (no_mark ho (by decide)), decodeX, ho, f0, f1, f2, f3]
  exact checked_ok hr hi
theorem Encoding.jx (a : BitVec 5) : Encoding.Statement (.jx a) := by
  intro k hk hi
  cases hk
  have ho : (encode (.jx a)).extractLsb' 24 8 = 0x39#8 := extract_above (0x0#14 : BitVec 14) (extract_above (a : BitVec 5) (extract_above (0x0#5 : BitVec 5) (rfl)))
  have hr : encode (.jx a) &&& 0x00F83FFF#32 = 0#32 := and_parts (and_parts (and_parts ((rfl : 0x39#8 &&& 0x0#8 = 0#8)) ((rfl : 0x0#5 &&& 0x1f#5 = 0#5))) (and_free a)) ((rfl : 0x0#14 &&& 0x3fff#14 = 0#14))
  have f0 : (fld (encode (.jx a)) 14 : BitVec 5) = a := extract_above (0x0#14 : BitVec 14) (extract_last _ _)
  simp only [slotX (no_mark ho (by decide)), decodeX, ho, f0]
  exact checked_ok hr hi
theorem Encoding.faddS (d : BitVec 5) (a : BitVec 5) (b : BitVec 5) (r : BitVec 3) : Encoding.Statement (.faddS d a b r) := by
  intro k hk hi
  cases hk
  have ho : (encode (.faddS d a b r)).extractLsb' 24 8 = 0x40#8 := extract_above (0x0#5 : BitVec 5) (extract_above (r : BitVec 3) (extract_above (0x0#1 : BitVec 1) (extract_above (b : BitVec 5) (extract_above (a : BitVec 5) (extract_above (d : BitVec 5) (rfl))))))
  have hr : encode (.faddS d a b r) &&& 0x0000011F#32 = 0#32 := and_parts (and_parts (and_parts (and_parts (and_parts (and_parts ((rfl : 0x40#8 &&& 0x0#8 = 0#8)) (and_free d)) (and_free a)) (and_free b)) ((rfl : 0x0#1 &&& 0x1#1 = 0#1))) (and_free r)) ((rfl : 0x0#5 &&& 0x1f#5 = 0#5))
  have f0 : (fld (encode (.faddS d a b r)) 19 : BitVec 5) = d := extract_above (0x0#5 : BitVec 5) (extract_above (r : BitVec 3) (extract_above (0x0#1 : BitVec 1) (extract_above (b : BitVec 5) (extract_above (a : BitVec 5) (extract_last _ _)))))
  have f1 : (fld (encode (.faddS d a b r)) 14 : BitVec 5) = a := extract_above (0x0#5 : BitVec 5) (extract_above (r : BitVec 3) (extract_above (0x0#1 : BitVec 1) (extract_above (b : BitVec 5) (extract_last _ _))))
  have f2 : (fld (encode (.faddS d a b r)) 9 : BitVec 5) = b := extract_above (0x0#5 : BitVec 5) (extract_above (r : BitVec 3) (extract_above (0x0#1 : BitVec 1) (extract_last _ _)))
  have f3 : (fld (encode (.faddS d a b r)) 5 : BitVec 3) = r := extract_above (0x0#5 : BitVec 5) (extract_last _ _)
  simp only [slotX (no_mark ho (by decide)), decodeX, ho, f0, f1, f2, f3]
  exact checked_ok hr hi
theorem Encoding.fsubS (d : BitVec 5) (a : BitVec 5) (b : BitVec 5) (r : BitVec 3) : Encoding.Statement (.fsubS d a b r) := by
  intro k hk hi
  cases hk
  have ho : (encode (.fsubS d a b r)).extractLsb' 24 8 = 0x41#8 := extract_above (0x0#5 : BitVec 5) (extract_above (r : BitVec 3) (extract_above (0x0#1 : BitVec 1) (extract_above (b : BitVec 5) (extract_above (a : BitVec 5) (extract_above (d : BitVec 5) (rfl))))))
  have hr : encode (.fsubS d a b r) &&& 0x0000011F#32 = 0#32 := and_parts (and_parts (and_parts (and_parts (and_parts (and_parts ((rfl : 0x41#8 &&& 0x0#8 = 0#8)) (and_free d)) (and_free a)) (and_free b)) ((rfl : 0x0#1 &&& 0x1#1 = 0#1))) (and_free r)) ((rfl : 0x0#5 &&& 0x1f#5 = 0#5))
  have f0 : (fld (encode (.fsubS d a b r)) 19 : BitVec 5) = d := extract_above (0x0#5 : BitVec 5) (extract_above (r : BitVec 3) (extract_above (0x0#1 : BitVec 1) (extract_above (b : BitVec 5) (extract_above (a : BitVec 5) (extract_last _ _)))))
  have f1 : (fld (encode (.fsubS d a b r)) 14 : BitVec 5) = a := extract_above (0x0#5 : BitVec 5) (extract_above (r : BitVec 3) (extract_above (0x0#1 : BitVec 1) (extract_above (b : BitVec 5) (extract_last _ _))))
  have f2 : (fld (encode (.fsubS d a b r)) 9 : BitVec 5) = b := extract_above (0x0#5 : BitVec 5) (extract_above (r : BitVec 3) (extract_above (0x0#1 : BitVec 1) (extract_last _ _)))
  have f3 : (fld (encode (.fsubS d a b r)) 5 : BitVec 3) = r := extract_above (0x0#5 : BitVec 5) (extract_last _ _)
  simp only [slotX (no_mark ho (by decide)), decodeX, ho, f0, f1, f2, f3]
  exact checked_ok hr hi
theorem Encoding.fmulS (d : BitVec 5) (a : BitVec 5) (b : BitVec 5) (r : BitVec 3) : Encoding.Statement (.fmulS d a b r) := by
  intro k hk hi
  cases hk
  have ho : (encode (.fmulS d a b r)).extractLsb' 24 8 = 0x42#8 := extract_above (0x0#5 : BitVec 5) (extract_above (r : BitVec 3) (extract_above (0x0#1 : BitVec 1) (extract_above (b : BitVec 5) (extract_above (a : BitVec 5) (extract_above (d : BitVec 5) (rfl))))))
  have hr : encode (.fmulS d a b r) &&& 0x0000011F#32 = 0#32 := and_parts (and_parts (and_parts (and_parts (and_parts (and_parts ((rfl : 0x42#8 &&& 0x0#8 = 0#8)) (and_free d)) (and_free a)) (and_free b)) ((rfl : 0x0#1 &&& 0x1#1 = 0#1))) (and_free r)) ((rfl : 0x0#5 &&& 0x1f#5 = 0#5))
  have f0 : (fld (encode (.fmulS d a b r)) 19 : BitVec 5) = d := extract_above (0x0#5 : BitVec 5) (extract_above (r : BitVec 3) (extract_above (0x0#1 : BitVec 1) (extract_above (b : BitVec 5) (extract_above (a : BitVec 5) (extract_last _ _)))))
  have f1 : (fld (encode (.fmulS d a b r)) 14 : BitVec 5) = a := extract_above (0x0#5 : BitVec 5) (extract_above (r : BitVec 3) (extract_above (0x0#1 : BitVec 1) (extract_above (b : BitVec 5) (extract_last _ _))))
  have f2 : (fld (encode (.fmulS d a b r)) 9 : BitVec 5) = b := extract_above (0x0#5 : BitVec 5) (extract_above (r : BitVec 3) (extract_above (0x0#1 : BitVec 1) (extract_last _ _)))
  have f3 : (fld (encode (.fmulS d a b r)) 5 : BitVec 3) = r := extract_above (0x0#5 : BitVec 5) (extract_last _ _)
  simp only [slotX (no_mark ho (by decide)), decodeX, ho, f0, f1, f2, f3]
  exact checked_ok hr hi
theorem Encoding.fmaS (d : BitVec 5) (a : BitVec 5) (b : BitVec 5) (r : BitVec 3) (c : BitVec 5) : Encoding.Statement (.fmaS d a b r c) := by
  intro k hk hi
  cases hk
  have ho : (encode (.fmaS d a b r c)).extractLsb' 24 8 = 0x43#8 := extract_above (c : BitVec 5) (extract_above (r : BitVec 3) (extract_above (0x0#1 : BitVec 1) (extract_above (b : BitVec 5) (extract_above (a : BitVec 5) (extract_above (d : BitVec 5) (rfl))))))
  have hr : encode (.fmaS d a b r c) &&& 0x00000100#32 = 0#32 := and_parts (and_parts (and_parts (and_parts (and_parts (and_parts ((rfl : 0x43#8 &&& 0x0#8 = 0#8)) (and_free d)) (and_free a)) (and_free b)) ((rfl : 0x0#1 &&& 0x1#1 = 0#1))) (and_free r)) (and_free c)
  have f0 : (fld (encode (.fmaS d a b r c)) 19 : BitVec 5) = d := extract_above (c : BitVec 5) (extract_above (r : BitVec 3) (extract_above (0x0#1 : BitVec 1) (extract_above (b : BitVec 5) (extract_above (a : BitVec 5) (extract_last _ _)))))
  have f1 : (fld (encode (.fmaS d a b r c)) 14 : BitVec 5) = a := extract_above (c : BitVec 5) (extract_above (r : BitVec 3) (extract_above (0x0#1 : BitVec 1) (extract_above (b : BitVec 5) (extract_last _ _))))
  have f2 : (fld (encode (.fmaS d a b r c)) 9 : BitVec 5) = b := extract_above (c : BitVec 5) (extract_above (r : BitVec 3) (extract_above (0x0#1 : BitVec 1) (extract_last _ _)))
  have f3 : (fld (encode (.fmaS d a b r c)) 5 : BitVec 3) = r := extract_above (c : BitVec 5) (extract_last _ _)
  have f4 : (fld (encode (.fmaS d a b r c)) 0 : BitVec 5) = c := extract_last _ _
  simp only [slotX (no_mark ho (by decide)), decodeX, ho, f0, f1, f2, f3, f4]
  exact checked_ok hr hi
theorem Encoding.fcvt (d : BitVec 5) (a : BitVec 5) (r : BitVec 3) (v : BitVec 4) : Encoding.Statement (.fcvt d a r v) := by
  intro k hk hi
  cases hk
  have ho : (encode (.fcvt d a r v)).extractLsb' 24 8 = 0x44#8 := extract_above (v : BitVec 4) (extract_above (0x0#1 : BitVec 1) (extract_above (r : BitVec 3) (extract_above (0x0#6 : BitVec 6) (extract_above (a : BitVec 5) (extract_above (d : BitVec 5) (rfl))))))
  have hr : encode (.fcvt d a r v) &&& 0x00003F10#32 = 0#32 := and_parts (and_parts (and_parts (and_parts (and_parts (and_parts ((rfl : 0x44#8 &&& 0x0#8 = 0#8)) (and_free d)) (and_free a)) ((rfl : 0x0#6 &&& 0x3f#6 = 0#6))) (and_free r)) ((rfl : 0x0#1 &&& 0x1#1 = 0#1))) (and_free v)
  have f0 : (fld (encode (.fcvt d a r v)) 19 : BitVec 5) = d := extract_above (v : BitVec 4) (extract_above (0x0#1 : BitVec 1) (extract_above (r : BitVec 3) (extract_above (0x0#6 : BitVec 6) (extract_above (a : BitVec 5) (extract_last _ _)))))
  have f1 : (fld (encode (.fcvt d a r v)) 14 : BitVec 5) = a := extract_above (v : BitVec 4) (extract_above (0x0#1 : BitVec 1) (extract_above (r : BitVec 3) (extract_above (0x0#6 : BitVec 6) (extract_last _ _))))
  have f2 : (fld (encode (.fcvt d a r v)) 5 : BitVec 3) = r := extract_above (v : BitVec 4) (extract_above (0x0#1 : BitVec 1) (extract_last _ _))
  have f3 : (fld (encode (.fcvt d a r v)) 0 : BitVec 4) = v := extract_last _ _
  simp only [slotX (no_mark ho (by decide)), decodeX, ho, f0, f1, f2, f3]
  exact checked_ok hr hi
theorem Encoding.vadd (d : BitVec 4) (a : BitVec 4) (b : BitVec 4) (s : BitVec 1) (f : BitVec 4) (x : BitVec 4) : Encoding.Statement (.vadd d a b s f x) := by
  intro k hk hi
  cases hk
  have ho : (encode (.vadd d a b s f x)).extractLsb' 24 8 = 0x1#8 := extract_above (x : BitVec 4) (extract_above (f : BitVec 4) (extract_above (0x0#3 : BitVec 3) (extract_above (s : BitVec 1) (extract_above (b : BitVec 4) (extract_above (a : BitVec 4) (extract_above (d : BitVec 4) (rfl)))))))
  have hr : encode (.vadd d a b s f x) &&& 0x00000700#32 = 0#32 := and_parts (and_parts (and_parts (and_parts (and_parts (and_parts (and_parts ((rfl : 0x1#8 &&& 0x0#8 = 0#8)) (and_free d)) (and_free a)) (and_free b)) (and_free s)) ((rfl : 0x0#3 &&& 0x7#3 = 0#3))) (and_free f)) (and_free x)
  have f0 : (fld (encode (.vadd d a b s f x)) 20 : BitVec 4) = d := extract_above (x : BitVec 4) (extract_above (f : BitVec 4) (extract_above (0x0#3 : BitVec 3) (extract_above (s : BitVec 1) (extract_above (b : BitVec 4) (extract_above (a : BitVec 4) (extract_last _ _))))))
  have f1 : (fld (encode (.vadd d a b s f x)) 16 : BitVec 4) = a := extract_above (x : BitVec 4) (extract_above (f : BitVec 4) (extract_above (0x0#3 : BitVec 3) (extract_above (s : BitVec 1) (extract_above (b : BitVec 4) (extract_last _ _)))))
  have f2 : (fld (encode (.vadd d a b s f x)) 12 : BitVec 4) = b := extract_above (x : BitVec 4) (extract_above (f : BitVec 4) (extract_above (0x0#3 : BitVec 3) (extract_above (s : BitVec 1) (extract_last _ _))))
  have f3 : (fld (encode (.vadd d a b s f x)) 11 : BitVec 1) = s := extract_above (x : BitVec 4) (extract_above (f : BitVec 4) (extract_above (0x0#3 : BitVec 3) (extract_last _ _)))
  have f4 : (fld (encode (.vadd d a b s f x)) 4 : BitVec 4) = f := extract_above (x : BitVec 4) (extract_last _ _)
  have f5 : (fld (encode (.vadd d a b s f x)) 0 : BitVec 4) = x := extract_last _ _
  simp only [slotV (no_mark ho (by decide)), decodeV, ho, f0, f1, f2, f3, f4, f5]
  exact checked_ok hr hi
theorem Encoding.vsub (d : BitVec 4) (a : BitVec 4) (b : BitVec 4) (s : BitVec 1) (f : BitVec 4) (x : BitVec 4) : Encoding.Statement (.vsub d a b s f x) := by
  intro k hk hi
  cases hk
  have ho : (encode (.vsub d a b s f x)).extractLsb' 24 8 = 0x2#8 := extract_above (x : BitVec 4) (extract_above (f : BitVec 4) (extract_above (0x0#3 : BitVec 3) (extract_above (s : BitVec 1) (extract_above (b : BitVec 4) (extract_above (a : BitVec 4) (extract_above (d : BitVec 4) (rfl)))))))
  have hr : encode (.vsub d a b s f x) &&& 0x00000700#32 = 0#32 := and_parts (and_parts (and_parts (and_parts (and_parts (and_parts (and_parts ((rfl : 0x2#8 &&& 0x0#8 = 0#8)) (and_free d)) (and_free a)) (and_free b)) (and_free s)) ((rfl : 0x0#3 &&& 0x7#3 = 0#3))) (and_free f)) (and_free x)
  have f0 : (fld (encode (.vsub d a b s f x)) 20 : BitVec 4) = d := extract_above (x : BitVec 4) (extract_above (f : BitVec 4) (extract_above (0x0#3 : BitVec 3) (extract_above (s : BitVec 1) (extract_above (b : BitVec 4) (extract_above (a : BitVec 4) (extract_last _ _))))))
  have f1 : (fld (encode (.vsub d a b s f x)) 16 : BitVec 4) = a := extract_above (x : BitVec 4) (extract_above (f : BitVec 4) (extract_above (0x0#3 : BitVec 3) (extract_above (s : BitVec 1) (extract_above (b : BitVec 4) (extract_last _ _)))))
  have f2 : (fld (encode (.vsub d a b s f x)) 12 : BitVec 4) = b := extract_above (x : BitVec 4) (extract_above (f : BitVec 4) (extract_above (0x0#3 : BitVec 3) (extract_above (s : BitVec 1) (extract_last _ _))))
  have f3 : (fld (encode (.vsub d a b s f x)) 11 : BitVec 1) = s := extract_above (x : BitVec 4) (extract_above (f : BitVec 4) (extract_above (0x0#3 : BitVec 3) (extract_last _ _)))
  have f4 : (fld (encode (.vsub d a b s f x)) 4 : BitVec 4) = f := extract_above (x : BitVec 4) (extract_last _ _)
  have f5 : (fld (encode (.vsub d a b s f x)) 0 : BitVec 4) = x := extract_last _ _
  simp only [slotV (no_mark ho (by decide)), decodeV, ho, f0, f1, f2, f3, f4, f5]
  exact checked_ok hr hi
theorem Encoding.vmul (d : BitVec 4) (a : BitVec 4) (b : BitVec 4) (s : BitVec 1) (f : BitVec 4) (x : BitVec 4) : Encoding.Statement (.vmul d a b s f x) := by
  intro k hk hi
  cases hk
  have ho : (encode (.vmul d a b s f x)).extractLsb' 24 8 = 0x3#8 := extract_above (x : BitVec 4) (extract_above (f : BitVec 4) (extract_above (0x0#3 : BitVec 3) (extract_above (s : BitVec 1) (extract_above (b : BitVec 4) (extract_above (a : BitVec 4) (extract_above (d : BitVec 4) (rfl)))))))
  have hr : encode (.vmul d a b s f x) &&& 0x00000700#32 = 0#32 := and_parts (and_parts (and_parts (and_parts (and_parts (and_parts (and_parts ((rfl : 0x3#8 &&& 0x0#8 = 0#8)) (and_free d)) (and_free a)) (and_free b)) (and_free s)) ((rfl : 0x0#3 &&& 0x7#3 = 0#3))) (and_free f)) (and_free x)
  have f0 : (fld (encode (.vmul d a b s f x)) 20 : BitVec 4) = d := extract_above (x : BitVec 4) (extract_above (f : BitVec 4) (extract_above (0x0#3 : BitVec 3) (extract_above (s : BitVec 1) (extract_above (b : BitVec 4) (extract_above (a : BitVec 4) (extract_last _ _))))))
  have f1 : (fld (encode (.vmul d a b s f x)) 16 : BitVec 4) = a := extract_above (x : BitVec 4) (extract_above (f : BitVec 4) (extract_above (0x0#3 : BitVec 3) (extract_above (s : BitVec 1) (extract_above (b : BitVec 4) (extract_last _ _)))))
  have f2 : (fld (encode (.vmul d a b s f x)) 12 : BitVec 4) = b := extract_above (x : BitVec 4) (extract_above (f : BitVec 4) (extract_above (0x0#3 : BitVec 3) (extract_above (s : BitVec 1) (extract_last _ _))))
  have f3 : (fld (encode (.vmul d a b s f x)) 11 : BitVec 1) = s := extract_above (x : BitVec 4) (extract_above (f : BitVec 4) (extract_above (0x0#3 : BitVec 3) (extract_last _ _)))
  have f4 : (fld (encode (.vmul d a b s f x)) 4 : BitVec 4) = f := extract_above (x : BitVec 4) (extract_last _ _)
  have f5 : (fld (encode (.vmul d a b s f x)) 0 : BitVec 4) = x := extract_last _ _
  simp only [slotV (no_mark ho (by decide)), decodeV, ho, f0, f1, f2, f3, f4, f5]
  exact checked_ok hr hi
theorem Encoding.vfma (d : BitVec 4) (a : BitVec 4) (b : BitVec 4) (c : BitVec 4) (f : BitVec 4) (x : BitVec 4) : Encoding.Statement (.vfma d a b c f x) := by
  intro k hk hi
  cases hk
  have ho : (encode (.vfma d a b c f x)).extractLsb' 24 8 = 0x4#8 := extract_above (x : BitVec 4) (extract_above (f : BitVec 4) (extract_above (c : BitVec 4) (extract_above (b : BitVec 4) (extract_above (a : BitVec 4) (extract_above (d : BitVec 4) (rfl))))))
  have hr : encode (.vfma d a b c f x) &&& 0x00000000#32 = 0#32 := and_parts (and_parts (and_parts (and_parts (and_parts (and_parts ((rfl : 0x4#8 &&& 0x0#8 = 0#8)) (and_free d)) (and_free a)) (and_free b)) (and_free c)) (and_free f)) (and_free x)
  have f0 : (fld (encode (.vfma d a b c f x)) 20 : BitVec 4) = d := extract_above (x : BitVec 4) (extract_above (f : BitVec 4) (extract_above (c : BitVec 4) (extract_above (b : BitVec 4) (extract_above (a : BitVec 4) (extract_last _ _)))))
  have f1 : (fld (encode (.vfma d a b c f x)) 16 : BitVec 4) = a := extract_above (x : BitVec 4) (extract_above (f : BitVec 4) (extract_above (c : BitVec 4) (extract_above (b : BitVec 4) (extract_last _ _))))
  have f2 : (fld (encode (.vfma d a b c f x)) 12 : BitVec 4) = b := extract_above (x : BitVec 4) (extract_above (f : BitVec 4) (extract_above (c : BitVec 4) (extract_last _ _)))
  have f3 : (fld (encode (.vfma d a b c f x)) 8 : BitVec 4) = c := extract_above (x : BitVec 4) (extract_above (f : BitVec 4) (extract_last _ _))
  have f4 : (fld (encode (.vfma d a b c f x)) 4 : BitVec 4) = f := extract_above (x : BitVec 4) (extract_last _ _)
  have f5 : (fld (encode (.vfma d a b c f x)) 0 : BitVec 4) = x := extract_last _ _
  simp only [slotV (no_mark ho (by decide)), decodeV, ho, f0, f1, f2, f3, f4, f5]
  exact checked_ok hr hi
theorem Encoding.vfms (d : BitVec 4) (a : BitVec 4) (b : BitVec 4) (c : BitVec 4) (f : BitVec 4) (x : BitVec 4) : Encoding.Statement (.vfms d a b c f x) := by
  intro k hk hi
  cases hk
  have ho : (encode (.vfms d a b c f x)).extractLsb' 24 8 = 0x5#8 := extract_above (x : BitVec 4) (extract_above (f : BitVec 4) (extract_above (c : BitVec 4) (extract_above (b : BitVec 4) (extract_above (a : BitVec 4) (extract_above (d : BitVec 4) (rfl))))))
  have hr : encode (.vfms d a b c f x) &&& 0x00000000#32 = 0#32 := and_parts (and_parts (and_parts (and_parts (and_parts (and_parts ((rfl : 0x5#8 &&& 0x0#8 = 0#8)) (and_free d)) (and_free a)) (and_free b)) (and_free c)) (and_free f)) (and_free x)
  have f0 : (fld (encode (.vfms d a b c f x)) 20 : BitVec 4) = d := extract_above (x : BitVec 4) (extract_above (f : BitVec 4) (extract_above (c : BitVec 4) (extract_above (b : BitVec 4) (extract_above (a : BitVec 4) (extract_last _ _)))))
  have f1 : (fld (encode (.vfms d a b c f x)) 16 : BitVec 4) = a := extract_above (x : BitVec 4) (extract_above (f : BitVec 4) (extract_above (c : BitVec 4) (extract_above (b : BitVec 4) (extract_last _ _))))
  have f2 : (fld (encode (.vfms d a b c f x)) 12 : BitVec 4) = b := extract_above (x : BitVec 4) (extract_above (f : BitVec 4) (extract_above (c : BitVec 4) (extract_last _ _)))
  have f3 : (fld (encode (.vfms d a b c f x)) 8 : BitVec 4) = c := extract_above (x : BitVec 4) (extract_above (f : BitVec 4) (extract_last _ _))
  have f4 : (fld (encode (.vfms d a b c f x)) 4 : BitVec 4) = f := extract_above (x : BitVec 4) (extract_last _ _)
  have f5 : (fld (encode (.vfms d a b c f x)) 0 : BitVec 4) = x := extract_last _ _
  simp only [slotV (no_mark ho (by decide)), decodeV, ho, f0, f1, f2, f3, f4, f5]
  exact checked_ok hr hi
theorem Encoding.vmin (d : BitVec 4) (a : BitVec 4) (b : BitVec 4) (f : BitVec 4) (x : BitVec 4) : Encoding.Statement (.vmin d a b f x) := by
  intro k hk hi
  cases hk
  have ho : (encode (.vmin d a b f x)).extractLsb' 24 8 = 0x6#8 := extract_above (x : BitVec 4) (extract_above (f : BitVec 4) (extract_above (0x0#4 : BitVec 4) (extract_above (b : BitVec 4) (extract_above (a : BitVec 4) (extract_above (d : BitVec 4) (rfl))))))
  have hr : encode (.vmin d a b f x) &&& 0x00000F00#32 = 0#32 := and_parts (and_parts (and_parts (and_parts (and_parts (and_parts ((rfl : 0x6#8 &&& 0x0#8 = 0#8)) (and_free d)) (and_free a)) (and_free b)) ((rfl : 0x0#4 &&& 0xf#4 = 0#4))) (and_free f)) (and_free x)
  have f0 : (fld (encode (.vmin d a b f x)) 20 : BitVec 4) = d := extract_above (x : BitVec 4) (extract_above (f : BitVec 4) (extract_above (0x0#4 : BitVec 4) (extract_above (b : BitVec 4) (extract_above (a : BitVec 4) (extract_last _ _)))))
  have f1 : (fld (encode (.vmin d a b f x)) 16 : BitVec 4) = a := extract_above (x : BitVec 4) (extract_above (f : BitVec 4) (extract_above (0x0#4 : BitVec 4) (extract_above (b : BitVec 4) (extract_last _ _))))
  have f2 : (fld (encode (.vmin d a b f x)) 12 : BitVec 4) = b := extract_above (x : BitVec 4) (extract_above (f : BitVec 4) (extract_above (0x0#4 : BitVec 4) (extract_last _ _)))
  have f3 : (fld (encode (.vmin d a b f x)) 4 : BitVec 4) = f := extract_above (x : BitVec 4) (extract_last _ _)
  have f4 : (fld (encode (.vmin d a b f x)) 0 : BitVec 4) = x := extract_last _ _
  simp only [slotV (no_mark ho (by decide)), decodeV, ho, f0, f1, f2, f3, f4]
  exact checked_ok hr hi
theorem Encoding.vmax (d : BitVec 4) (a : BitVec 4) (b : BitVec 4) (f : BitVec 4) (x : BitVec 4) : Encoding.Statement (.vmax d a b f x) := by
  intro k hk hi
  cases hk
  have ho : (encode (.vmax d a b f x)).extractLsb' 24 8 = 0x7#8 := extract_above (x : BitVec 4) (extract_above (f : BitVec 4) (extract_above (0x0#4 : BitVec 4) (extract_above (b : BitVec 4) (extract_above (a : BitVec 4) (extract_above (d : BitVec 4) (rfl))))))
  have hr : encode (.vmax d a b f x) &&& 0x00000F00#32 = 0#32 := and_parts (and_parts (and_parts (and_parts (and_parts (and_parts ((rfl : 0x7#8 &&& 0x0#8 = 0#8)) (and_free d)) (and_free a)) (and_free b)) ((rfl : 0x0#4 &&& 0xf#4 = 0#4))) (and_free f)) (and_free x)
  have f0 : (fld (encode (.vmax d a b f x)) 20 : BitVec 4) = d := extract_above (x : BitVec 4) (extract_above (f : BitVec 4) (extract_above (0x0#4 : BitVec 4) (extract_above (b : BitVec 4) (extract_above (a : BitVec 4) (extract_last _ _)))))
  have f1 : (fld (encode (.vmax d a b f x)) 16 : BitVec 4) = a := extract_above (x : BitVec 4) (extract_above (f : BitVec 4) (extract_above (0x0#4 : BitVec 4) (extract_above (b : BitVec 4) (extract_last _ _))))
  have f2 : (fld (encode (.vmax d a b f x)) 12 : BitVec 4) = b := extract_above (x : BitVec 4) (extract_above (f : BitVec 4) (extract_above (0x0#4 : BitVec 4) (extract_last _ _)))
  have f3 : (fld (encode (.vmax d a b f x)) 4 : BitVec 4) = f := extract_above (x : BitVec 4) (extract_last _ _)
  have f4 : (fld (encode (.vmax d a b f x)) 0 : BitVec 4) = x := extract_last _ _
  simp only [slotV (no_mark ho (by decide)), decodeV, ho, f0, f1, f2, f3, f4]
  exact checked_ok hr hi
theorem Encoding.vabs (d : BitVec 4) (a : BitVec 4) (s : BitVec 1) (f : BitVec 4) (x : BitVec 4) : Encoding.Statement (.vabs d a s f x) := by
  intro k hk hi
  cases hk
  have ho : (encode (.vabs d a s f x)).extractLsb' 24 8 = 0x8#8 := extract_above (x : BitVec 4) (extract_above (f : BitVec 4) (extract_above (0x0#3 : BitVec 3) (extract_above (s : BitVec 1) (extract_above (0x0#4 : BitVec 4) (extract_above (a : BitVec 4) (extract_above (d : BitVec 4) (rfl)))))))
  have hr : encode (.vabs d a s f x) &&& 0x0000F700#32 = 0#32 := and_parts (and_parts (and_parts (and_parts (and_parts (and_parts (and_parts ((rfl : 0x8#8 &&& 0x0#8 = 0#8)) (and_free d)) (and_free a)) ((rfl : 0x0#4 &&& 0xf#4 = 0#4))) (and_free s)) ((rfl : 0x0#3 &&& 0x7#3 = 0#3))) (and_free f)) (and_free x)
  have f0 : (fld (encode (.vabs d a s f x)) 20 : BitVec 4) = d := extract_above (x : BitVec 4) (extract_above (f : BitVec 4) (extract_above (0x0#3 : BitVec 3) (extract_above (s : BitVec 1) (extract_above (0x0#4 : BitVec 4) (extract_above (a : BitVec 4) (extract_last _ _))))))
  have f1 : (fld (encode (.vabs d a s f x)) 16 : BitVec 4) = a := extract_above (x : BitVec 4) (extract_above (f : BitVec 4) (extract_above (0x0#3 : BitVec 3) (extract_above (s : BitVec 1) (extract_above (0x0#4 : BitVec 4) (extract_last _ _)))))
  have f2 : (fld (encode (.vabs d a s f x)) 11 : BitVec 1) = s := extract_above (x : BitVec 4) (extract_above (f : BitVec 4) (extract_above (0x0#3 : BitVec 3) (extract_last _ _)))
  have f3 : (fld (encode (.vabs d a s f x)) 4 : BitVec 4) = f := extract_above (x : BitVec 4) (extract_last _ _)
  have f4 : (fld (encode (.vabs d a s f x)) 0 : BitVec 4) = x := extract_last _ _
  simp only [slotV (no_mark ho (by decide)), decodeV, ho, f0, f1, f2, f3, f4]
  exact checked_ok hr hi
theorem Encoding.vneg (d : BitVec 4) (a : BitVec 4) (s : BitVec 1) (f : BitVec 4) (x : BitVec 4) : Encoding.Statement (.vneg d a s f x) := by
  intro k hk hi
  cases hk
  have ho : (encode (.vneg d a s f x)).extractLsb' 24 8 = 0x9#8 := extract_above (x : BitVec 4) (extract_above (f : BitVec 4) (extract_above (0x0#3 : BitVec 3) (extract_above (s : BitVec 1) (extract_above (0x0#4 : BitVec 4) (extract_above (a : BitVec 4) (extract_above (d : BitVec 4) (rfl)))))))
  have hr : encode (.vneg d a s f x) &&& 0x0000F700#32 = 0#32 := and_parts (and_parts (and_parts (and_parts (and_parts (and_parts (and_parts ((rfl : 0x9#8 &&& 0x0#8 = 0#8)) (and_free d)) (and_free a)) ((rfl : 0x0#4 &&& 0xf#4 = 0#4))) (and_free s)) ((rfl : 0x0#3 &&& 0x7#3 = 0#3))) (and_free f)) (and_free x)
  have f0 : (fld (encode (.vneg d a s f x)) 20 : BitVec 4) = d := extract_above (x : BitVec 4) (extract_above (f : BitVec 4) (extract_above (0x0#3 : BitVec 3) (extract_above (s : BitVec 1) (extract_above (0x0#4 : BitVec 4) (extract_above (a : BitVec 4) (extract_last _ _))))))
  have f1 : (fld (encode (.vneg d a s f x)) 16 : BitVec 4) = a := extract_above (x : BitVec 4) (extract_above (f : BitVec 4) (extract_above (0x0#3 : BitVec 3) (extract_above (s : BitVec 1) (extract_above (0x0#4 : BitVec 4) (extract_last _ _)))))
  have f2 : (fld (encode (.vneg d a s f x)) 11 : BitVec 1) = s := extract_above (x : BitVec 4) (extract_above (f : BitVec 4) (extract_above (0x0#3 : BitVec 3) (extract_last _ _)))
  have f3 : (fld (encode (.vneg d a s f x)) 4 : BitVec 4) = f := extract_above (x : BitVec 4) (extract_last _ _)
  have f4 : (fld (encode (.vneg d a s f x)) 0 : BitVec 4) = x := extract_last _ _
  simp only [slotV (no_mark ho (by decide)), decodeV, ho, f0, f1, f2, f3, f4]
  exact checked_ok hr hi
theorem Encoding.vcmp (d : BitVec 4) (a : BitVec 4) (b : BitVec 4) (c : BitVec 2) (f : BitVec 4) (x : BitVec 4) : Encoding.Statement (.vcmp d a b c f x) := by
  intro k hk hi
  cases hk
  have ho : (encode (.vcmp d a b c f x)).extractLsb' 24 8 = 0xa#8 := extract_above (x : BitVec 4) (extract_above (f : BitVec 4) (extract_above (c : BitVec 2) (extract_above (0x0#2 : BitVec 2) (extract_above (b : BitVec 4) (extract_above (a : BitVec 4) (extract_above (d : BitVec 4) (rfl)))))))
  have hr : encode (.vcmp d a b c f x) &&& 0x00000C00#32 = 0#32 := and_parts (and_parts (and_parts (and_parts (and_parts (and_parts (and_parts ((rfl : 0xa#8 &&& 0x0#8 = 0#8)) (and_free d)) (and_free a)) (and_free b)) ((rfl : 0x0#2 &&& 0x3#2 = 0#2))) (and_free c)) (and_free f)) (and_free x)
  have f0 : (fld (encode (.vcmp d a b c f x)) 20 : BitVec 4) = d := extract_above (x : BitVec 4) (extract_above (f : BitVec 4) (extract_above (c : BitVec 2) (extract_above (0x0#2 : BitVec 2) (extract_above (b : BitVec 4) (extract_above (a : BitVec 4) (extract_last _ _))))))
  have f1 : (fld (encode (.vcmp d a b c f x)) 16 : BitVec 4) = a := extract_above (x : BitVec 4) (extract_above (f : BitVec 4) (extract_above (c : BitVec 2) (extract_above (0x0#2 : BitVec 2) (extract_above (b : BitVec 4) (extract_last _ _)))))
  have f2 : (fld (encode (.vcmp d a b c f x)) 12 : BitVec 4) = b := extract_above (x : BitVec 4) (extract_above (f : BitVec 4) (extract_above (c : BitVec 2) (extract_above (0x0#2 : BitVec 2) (extract_last _ _))))
  have f3 : (fld (encode (.vcmp d a b c f x)) 8 : BitVec 2) = c := extract_above (x : BitVec 4) (extract_above (f : BitVec 4) (extract_last _ _))
  have f4 : (fld (encode (.vcmp d a b c f x)) 4 : BitVec 4) = f := extract_above (x : BitVec 4) (extract_last _ _)
  have f5 : (fld (encode (.vcmp d a b c f x)) 0 : BitVec 4) = x := extract_last _ _
  simp only [slotV (no_mark ho (by decide)), decodeV, ho, f0, f1, f2, f3, f4, f5]
  exact checked_ok hr hi
theorem Encoding.vsel (d : BitVec 4) (a : BitVec 4) (b : BitVec 4) (c : BitVec 4) (f : BitVec 4) : Encoding.Statement (.vsel d a b c f) := by
  intro k hk hi
  cases hk
  have ho : (encode (.vsel d a b c f)).extractLsb' 24 8 = 0xb#8 := extract_above (0x0#4 : BitVec 4) (extract_above (f : BitVec 4) (extract_above (c : BitVec 4) (extract_above (b : BitVec 4) (extract_above (a : BitVec 4) (extract_above (d : BitVec 4) (rfl))))))
  have hr : encode (.vsel d a b c f) &&& 0x0000000F#32 = 0#32 := and_parts (and_parts (and_parts (and_parts (and_parts (and_parts ((rfl : 0xb#8 &&& 0x0#8 = 0#8)) (and_free d)) (and_free a)) (and_free b)) (and_free c)) (and_free f)) ((rfl : 0x0#4 &&& 0xf#4 = 0#4))
  have f0 : (fld (encode (.vsel d a b c f)) 20 : BitVec 4) = d := extract_above (0x0#4 : BitVec 4) (extract_above (f : BitVec 4) (extract_above (c : BitVec 4) (extract_above (b : BitVec 4) (extract_above (a : BitVec 4) (extract_last _ _)))))
  have f1 : (fld (encode (.vsel d a b c f)) 16 : BitVec 4) = a := extract_above (0x0#4 : BitVec 4) (extract_above (f : BitVec 4) (extract_above (c : BitVec 4) (extract_above (b : BitVec 4) (extract_last _ _))))
  have f2 : (fld (encode (.vsel d a b c f)) 12 : BitVec 4) = b := extract_above (0x0#4 : BitVec 4) (extract_above (f : BitVec 4) (extract_above (c : BitVec 4) (extract_last _ _)))
  have f3 : (fld (encode (.vsel d a b c f)) 8 : BitVec 4) = c := extract_above (0x0#4 : BitVec 4) (extract_above (f : BitVec 4) (extract_last _ _))
  have f4 : (fld (encode (.vsel d a b c f)) 4 : BitVec 4) = f := extract_above (0x0#4 : BitVec 4) (extract_last _ _)
  simp only [slotV (no_mark ho (by decide)), decodeV, ho, f0, f1, f2, f3, f4]
  exact checked_ok hr hi
theorem Encoding.vand (d : BitVec 4) (a : BitVec 4) (b : BitVec 4) : Encoding.Statement (.vand d a b) := by
  intro k hk hi
  cases hk
  have ho : (encode (.vand d a b)).extractLsb' 24 8 = 0xc#8 := extract_above (0x0#12 : BitVec 12) (extract_above (b : BitVec 4) (extract_above (a : BitVec 4) (extract_above (d : BitVec 4) (rfl))))
  have hr : encode (.vand d a b) &&& 0x00000F0F#32 = 0#32 := and_parts (and_parts (and_parts (and_parts ((rfl : 0xc#8 &&& 0x0#8 = 0#8)) (and_free d)) (and_free a)) (and_free b)) ((rfl : 0x0#12 &&& 0xf0f#12 = 0#12))
  have f0 : (fld (encode (.vand d a b)) 20 : BitVec 4) = d := extract_above (0x0#12 : BitVec 12) (extract_above (b : BitVec 4) (extract_above (a : BitVec 4) (extract_last _ _)))
  have f1 : (fld (encode (.vand d a b)) 16 : BitVec 4) = a := extract_above (0x0#12 : BitVec 12) (extract_above (b : BitVec 4) (extract_last _ _))
  have f2 : (fld (encode (.vand d a b)) 12 : BitVec 4) = b := extract_above (0x0#12 : BitVec 12) (extract_last _ _)
  have fx : (encode (.vand d a b)).extractLsb' 4 4 = 0#4 := extract_inside _ (p := 4) (by decide) rfl
  simp only [slotV (no_mark ho (by decide)), decodeV, ho, f0, f1, f2, fx]
  exact checked_ok hr hi
theorem Encoding.vor (d : BitVec 4) (a : BitVec 4) (b : BitVec 4) : Encoding.Statement (.vor d a b) := by
  intro k hk hi
  cases hk
  have ho : (encode (.vor d a b)).extractLsb' 24 8 = 0xd#8 := extract_above (0x0#12 : BitVec 12) (extract_above (b : BitVec 4) (extract_above (a : BitVec 4) (extract_above (d : BitVec 4) (rfl))))
  have hr : encode (.vor d a b) &&& 0x00000F0F#32 = 0#32 := and_parts (and_parts (and_parts (and_parts ((rfl : 0xd#8 &&& 0x0#8 = 0#8)) (and_free d)) (and_free a)) (and_free b)) ((rfl : 0x0#12 &&& 0xf0f#12 = 0#12))
  have f0 : (fld (encode (.vor d a b)) 20 : BitVec 4) = d := extract_above (0x0#12 : BitVec 12) (extract_above (b : BitVec 4) (extract_above (a : BitVec 4) (extract_last _ _)))
  have f1 : (fld (encode (.vor d a b)) 16 : BitVec 4) = a := extract_above (0x0#12 : BitVec 12) (extract_above (b : BitVec 4) (extract_last _ _))
  have f2 : (fld (encode (.vor d a b)) 12 : BitVec 4) = b := extract_above (0x0#12 : BitVec 12) (extract_last _ _)
  have fx : (encode (.vor d a b)).extractLsb' 4 4 = 0#4 := extract_inside _ (p := 4) (by decide) rfl
  simp only [slotV (no_mark ho (by decide)), decodeV, ho, f0, f1, f2, fx]
  exact checked_ok hr hi
theorem Encoding.vxor (d : BitVec 4) (a : BitVec 4) (b : BitVec 4) : Encoding.Statement (.vxor d a b) := by
  intro k hk hi
  cases hk
  have ho : (encode (.vxor d a b)).extractLsb' 24 8 = 0xe#8 := extract_above (0x0#12 : BitVec 12) (extract_above (b : BitVec 4) (extract_above (a : BitVec 4) (extract_above (d : BitVec 4) (rfl))))
  have hr : encode (.vxor d a b) &&& 0x00000F0F#32 = 0#32 := and_parts (and_parts (and_parts (and_parts ((rfl : 0xe#8 &&& 0x0#8 = 0#8)) (and_free d)) (and_free a)) (and_free b)) ((rfl : 0x0#12 &&& 0xf0f#12 = 0#12))
  have f0 : (fld (encode (.vxor d a b)) 20 : BitVec 4) = d := extract_above (0x0#12 : BitVec 12) (extract_above (b : BitVec 4) (extract_above (a : BitVec 4) (extract_last _ _)))
  have f1 : (fld (encode (.vxor d a b)) 16 : BitVec 4) = a := extract_above (0x0#12 : BitVec 12) (extract_above (b : BitVec 4) (extract_last _ _))
  have f2 : (fld (encode (.vxor d a b)) 12 : BitVec 4) = b := extract_above (0x0#12 : BitVec 12) (extract_last _ _)
  have fx : (encode (.vxor d a b)).extractLsb' 4 4 = 0#4 := extract_inside _ (p := 4) (by decide) rfl
  simp only [slotV (no_mark ho (by decide)), decodeV, ho, f0, f1, f2, fx]
  exact checked_ok hr hi
theorem Encoding.vnot (d : BitVec 4) (a : BitVec 4) : Encoding.Statement (.vnot d a) := by
  intro k hk hi
  cases hk
  have ho : (encode (.vnot d a)).extractLsb' 24 8 = 0xf#8 := extract_above (0x0#16 : BitVec 16) (extract_above (a : BitVec 4) (extract_above (d : BitVec 4) (rfl)))
  have hr : encode (.vnot d a) &&& 0x0000FF0F#32 = 0#32 := and_parts (and_parts (and_parts ((rfl : 0xf#8 &&& 0x0#8 = 0#8)) (and_free d)) (and_free a)) ((rfl : 0x0#16 &&& 0xff0f#16 = 0#16))
  have f0 : (fld (encode (.vnot d a)) 20 : BitVec 4) = d := extract_above (0x0#16 : BitVec 16) (extract_above (a : BitVec 4) (extract_last _ _))
  have f1 : (fld (encode (.vnot d a)) 16 : BitVec 4) = a := extract_above (0x0#16 : BitVec 16) (extract_last _ _)
  have fx : (encode (.vnot d a)).extractLsb' 4 4 = 0#4 := extract_inside _ (p := 4) (by decide) rfl
  simp only [slotV (no_mark ho (by decide)), decodeV, ho, f0, f1, fx]
  exact checked_ok hr hi
theorem Encoding.vshl (d : BitVec 4) (a : BitVec 4) (b : BitVec 4) (f : BitVec 4) : Encoding.Statement (.vshl d a b f) := by
  intro k hk hi
  cases hk
  have ho : (encode (.vshl d a b f)).extractLsb' 24 8 = 0x10#8 := extract_above (0x0#4 : BitVec 4) (extract_above (f : BitVec 4) (extract_above (0x0#4 : BitVec 4) (extract_above (b : BitVec 4) (extract_above (a : BitVec 4) (extract_above (d : BitVec 4) (rfl))))))
  have hr : encode (.vshl d a b f) &&& 0x00000F0F#32 = 0#32 := and_parts (and_parts (and_parts (and_parts (and_parts (and_parts ((rfl : 0x10#8 &&& 0x0#8 = 0#8)) (and_free d)) (and_free a)) (and_free b)) ((rfl : 0x0#4 &&& 0xf#4 = 0#4))) (and_free f)) ((rfl : 0x0#4 &&& 0xf#4 = 0#4))
  have f0 : (fld (encode (.vshl d a b f)) 20 : BitVec 4) = d := extract_above (0x0#4 : BitVec 4) (extract_above (f : BitVec 4) (extract_above (0x0#4 : BitVec 4) (extract_above (b : BitVec 4) (extract_above (a : BitVec 4) (extract_last _ _)))))
  have f1 : (fld (encode (.vshl d a b f)) 16 : BitVec 4) = a := extract_above (0x0#4 : BitVec 4) (extract_above (f : BitVec 4) (extract_above (0x0#4 : BitVec 4) (extract_above (b : BitVec 4) (extract_last _ _))))
  have f2 : (fld (encode (.vshl d a b f)) 12 : BitVec 4) = b := extract_above (0x0#4 : BitVec 4) (extract_above (f : BitVec 4) (extract_above (0x0#4 : BitVec 4) (extract_last _ _)))
  have f3 : (fld (encode (.vshl d a b f)) 4 : BitVec 4) = f := extract_above (0x0#4 : BitVec 4) (extract_last _ _)
  simp only [slotV (no_mark ho (by decide)), decodeV, ho, f0, f1, f2, f3]
  exact checked_ok hr hi
theorem Encoding.vshr (d : BitVec 4) (a : BitVec 4) (b : BitVec 4) (f : BitVec 4) : Encoding.Statement (.vshr d a b f) := by
  intro k hk hi
  cases hk
  have ho : (encode (.vshr d a b f)).extractLsb' 24 8 = 0x11#8 := extract_above (0x0#4 : BitVec 4) (extract_above (f : BitVec 4) (extract_above (0x0#4 : BitVec 4) (extract_above (b : BitVec 4) (extract_above (a : BitVec 4) (extract_above (d : BitVec 4) (rfl))))))
  have hr : encode (.vshr d a b f) &&& 0x00000F0F#32 = 0#32 := and_parts (and_parts (and_parts (and_parts (and_parts (and_parts ((rfl : 0x11#8 &&& 0x0#8 = 0#8)) (and_free d)) (and_free a)) (and_free b)) ((rfl : 0x0#4 &&& 0xf#4 = 0#4))) (and_free f)) ((rfl : 0x0#4 &&& 0xf#4 = 0#4))
  have f0 : (fld (encode (.vshr d a b f)) 20 : BitVec 4) = d := extract_above (0x0#4 : BitVec 4) (extract_above (f : BitVec 4) (extract_above (0x0#4 : BitVec 4) (extract_above (b : BitVec 4) (extract_above (a : BitVec 4) (extract_last _ _)))))
  have f1 : (fld (encode (.vshr d a b f)) 16 : BitVec 4) = a := extract_above (0x0#4 : BitVec 4) (extract_above (f : BitVec 4) (extract_above (0x0#4 : BitVec 4) (extract_above (b : BitVec 4) (extract_last _ _))))
  have f2 : (fld (encode (.vshr d a b f)) 12 : BitVec 4) = b := extract_above (0x0#4 : BitVec 4) (extract_above (f : BitVec 4) (extract_above (0x0#4 : BitVec 4) (extract_last _ _)))
  have f3 : (fld (encode (.vshr d a b f)) 4 : BitVec 4) = f := extract_above (0x0#4 : BitVec 4) (extract_last _ _)
  simp only [slotV (no_mark ho (by decide)), decodeV, ho, f0, f1, f2, f3]
  exact checked_ok hr hi
theorem Encoding.vsar (d : BitVec 4) (a : BitVec 4) (b : BitVec 4) (f : BitVec 4) : Encoding.Statement (.vsar d a b f) := by
  intro k hk hi
  cases hk
  have ho : (encode (.vsar d a b f)).extractLsb' 24 8 = 0x12#8 := extract_above (0x0#4 : BitVec 4) (extract_above (f : BitVec 4) (extract_above (0x0#4 : BitVec 4) (extract_above (b : BitVec 4) (extract_above (a : BitVec 4) (extract_above (d : BitVec 4) (rfl))))))
  have hr : encode (.vsar d a b f) &&& 0x00000F0F#32 = 0#32 := and_parts (and_parts (and_parts (and_parts (and_parts (and_parts ((rfl : 0x12#8 &&& 0x0#8 = 0#8)) (and_free d)) (and_free a)) (and_free b)) ((rfl : 0x0#4 &&& 0xf#4 = 0#4))) (and_free f)) ((rfl : 0x0#4 &&& 0xf#4 = 0#4))
  have f0 : (fld (encode (.vsar d a b f)) 20 : BitVec 4) = d := extract_above (0x0#4 : BitVec 4) (extract_above (f : BitVec 4) (extract_above (0x0#4 : BitVec 4) (extract_above (b : BitVec 4) (extract_above (a : BitVec 4) (extract_last _ _)))))
  have f1 : (fld (encode (.vsar d a b f)) 16 : BitVec 4) = a := extract_above (0x0#4 : BitVec 4) (extract_above (f : BitVec 4) (extract_above (0x0#4 : BitVec 4) (extract_above (b : BitVec 4) (extract_last _ _))))
  have f2 : (fld (encode (.vsar d a b f)) 12 : BitVec 4) = b := extract_above (0x0#4 : BitVec 4) (extract_above (f : BitVec 4) (extract_above (0x0#4 : BitVec 4) (extract_last _ _)))
  have f3 : (fld (encode (.vsar d a b f)) 4 : BitVec 4) = f := extract_above (0x0#4 : BitVec 4) (extract_last _ _)
  simp only [slotV (no_mark ho (by decide)), decodeV, ho, f0, f1, f2, f3]
  exact checked_ok hr hi
theorem Encoding.vcvt (d : BitVec 4) (a : BitVec 4) (p : BitVec 3) (c : BitVec 4) (f : BitVec 4) (x : BitVec 4) : Encoding.Statement (.vcvt d a p c f x) := by
  intro k hk hi
  cases hk
  have ho : (encode (.vcvt d a p c f x)).extractLsb' 24 8 = 0x18#8 := extract_above (x : BitVec 4) (extract_above (f : BitVec 4) (extract_above (c : BitVec 4) (extract_above (p : BitVec 3) (extract_above (0x0#1 : BitVec 1) (extract_above (a : BitVec 4) (extract_above (d : BitVec 4) (rfl)))))))
  have hr : encode (.vcvt d a p c f x) &&& 0x00008000#32 = 0#32 := and_parts (and_parts (and_parts (and_parts (and_parts (and_parts (and_parts ((rfl : 0x18#8 &&& 0x0#8 = 0#8)) (and_free d)) (and_free a)) ((rfl : 0x0#1 &&& 0x1#1 = 0#1))) (and_free p)) (and_free c)) (and_free f)) (and_free x)
  have f0 : (fld (encode (.vcvt d a p c f x)) 20 : BitVec 4) = d := extract_above (x : BitVec 4) (extract_above (f : BitVec 4) (extract_above (c : BitVec 4) (extract_above (p : BitVec 3) (extract_above (0x0#1 : BitVec 1) (extract_above (a : BitVec 4) (extract_last _ _))))))
  have f1 : (fld (encode (.vcvt d a p c f x)) 16 : BitVec 4) = a := extract_above (x : BitVec 4) (extract_above (f : BitVec 4) (extract_above (c : BitVec 4) (extract_above (p : BitVec 3) (extract_above (0x0#1 : BitVec 1) (extract_last _ _)))))
  have f2 : (fld (encode (.vcvt d a p c f x)) 12 : BitVec 3) = p := extract_above (x : BitVec 4) (extract_above (f : BitVec 4) (extract_above (c : BitVec 4) (extract_last _ _)))
  have f3 : (fld (encode (.vcvt d a p c f x)) 8 : BitVec 4) = c := extract_above (x : BitVec 4) (extract_above (f : BitVec 4) (extract_last _ _))
  have f4 : (fld (encode (.vcvt d a p c f x)) 4 : BitVec 4) = f := extract_above (x : BitVec 4) (extract_last _ _)
  have f5 : (fld (encode (.vcvt d a p c f x)) 0 : BitVec 4) = x := extract_last _ _
  simp only [slotV (no_mark ho (by decide)), decodeV, ho, f0, f1, f2, f3, f4, f5]
  exact checked_ok hr hi
theorem Encoding.vqnt (d : BitVec 4) (a : BitVec 4) (s : BitVec 4) (c : BitVec 4) (f : BitVec 4) (x : BitVec 4) : Encoding.Statement (.vqnt d a s c f x) := by
  intro k hk hi
  cases hk
  have ho : (encode (.vqnt d a s c f x)).extractLsb' 24 8 = 0x19#8 := extract_above (x : BitVec 4) (extract_above (f : BitVec 4) (extract_above (c : BitVec 4) (extract_above (s : BitVec 4) (extract_above (a : BitVec 4) (extract_above (d : BitVec 4) (rfl))))))
  have hr : encode (.vqnt d a s c f x) &&& 0x00000000#32 = 0#32 := and_parts (and_parts (and_parts (and_parts (and_parts (and_parts ((rfl : 0x19#8 &&& 0x0#8 = 0#8)) (and_free d)) (and_free a)) (and_free s)) (and_free c)) (and_free f)) (and_free x)
  have f0 : (fld (encode (.vqnt d a s c f x)) 20 : BitVec 4) = d := extract_above (x : BitVec 4) (extract_above (f : BitVec 4) (extract_above (c : BitVec 4) (extract_above (s : BitVec 4) (extract_above (a : BitVec 4) (extract_last _ _)))))
  have f1 : (fld (encode (.vqnt d a s c f x)) 16 : BitVec 4) = a := extract_above (x : BitVec 4) (extract_above (f : BitVec 4) (extract_above (c : BitVec 4) (extract_above (s : BitVec 4) (extract_last _ _))))
  have f2 : (fld (encode (.vqnt d a s c f x)) 12 : BitVec 4) = s := extract_above (x : BitVec 4) (extract_above (f : BitVec 4) (extract_above (c : BitVec 4) (extract_last _ _)))
  have f3 : (fld (encode (.vqnt d a s c f x)) 8 : BitVec 4) = c := extract_above (x : BitVec 4) (extract_above (f : BitVec 4) (extract_last _ _))
  have f4 : (fld (encode (.vqnt d a s c f x)) 4 : BitVec 4) = f := extract_above (x : BitVec 4) (extract_last _ _)
  have f5 : (fld (encode (.vqnt d a s c f x)) 0 : BitVec 4) = x := extract_last _ _
  simp only [slotV (no_mark ho (by decide)), decodeV, ho, f0, f1, f2, f3, f4, f5]
  exact checked_ok hr hi
theorem Encoding.vdqt (d : BitVec 4) (a : BitVec 4) (p : BitVec 3) (c : BitVec 4) (f : BitVec 4) : Encoding.Statement (.vdqt d a p c f) := by
  intro k hk hi
  cases hk
  have ho : (encode (.vdqt d a p c f)).extractLsb' 24 8 = 0x1a#8 := extract_above (0x0#4 : BitVec 4) (extract_above (f : BitVec 4) (extract_above (c : BitVec 4) (extract_above (p : BitVec 3) (extract_above (0x0#1 : BitVec 1) (extract_above (a : BitVec 4) (extract_above (d : BitVec 4) (rfl)))))))
  have hr : encode (.vdqt d a p c f) &&& 0x0000800F#32 = 0#32 := and_parts (and_parts (and_parts (and_parts (and_parts (and_parts (and_parts ((rfl : 0x1a#8 &&& 0x0#8 = 0#8)) (and_free d)) (and_free a)) ((rfl : 0x0#1 &&& 0x1#1 = 0#1))) (and_free p)) (and_free c)) (and_free f)) ((rfl : 0x0#4 &&& 0xf#4 = 0#4))
  have f0 : (fld (encode (.vdqt d a p c f)) 20 : BitVec 4) = d := extract_above (0x0#4 : BitVec 4) (extract_above (f : BitVec 4) (extract_above (c : BitVec 4) (extract_above (p : BitVec 3) (extract_above (0x0#1 : BitVec 1) (extract_above (a : BitVec 4) (extract_last _ _))))))
  have f1 : (fld (encode (.vdqt d a p c f)) 16 : BitVec 4) = a := extract_above (0x0#4 : BitVec 4) (extract_above (f : BitVec 4) (extract_above (c : BitVec 4) (extract_above (p : BitVec 3) (extract_above (0x0#1 : BitVec 1) (extract_last _ _)))))
  have f2 : (fld (encode (.vdqt d a p c f)) 12 : BitVec 3) = p := extract_above (0x0#4 : BitVec 4) (extract_above (f : BitVec 4) (extract_above (c : BitVec 4) (extract_last _ _)))
  have f3 : (fld (encode (.vdqt d a p c f)) 8 : BitVec 4) = c := extract_above (0x0#4 : BitVec 4) (extract_above (f : BitVec 4) (extract_last _ _))
  have f4 : (fld (encode (.vdqt d a p c f)) 4 : BitVec 4) = f := extract_above (0x0#4 : BitVec 4) (extract_last _ _)
  simp only [slotV (no_mark ho (by decide)), decodeV, ho, f0, f1, f2, f3, f4]
  exact checked_ok hr hi
theorem Encoding.vcbx (d : BitVec 4) (a : BitVec 4) (x : BitVec 4) : Encoding.Statement (.vcbx d a x) := by
  intro k hk hi
  cases hk
  have ho : (encode (.vcbx d a x)).extractLsb' 24 8 = 0x1b#8 := extract_above (x : BitVec 4) (extract_above (0xf#12 : BitVec 12) (extract_above (a : BitVec 4) (extract_above (d : BitVec 4) (rfl))))
  have hr : encode (.vcbx d a x) &&& 0x0000FF00#32 = 0#32 := and_parts (and_parts (and_parts (and_parts ((rfl : 0x1b#8 &&& 0x0#8 = 0#8)) (and_free d)) (and_free a)) ((rfl : 0xf#12 &&& 0xff0#12 = 0#12))) (and_free x)
  have f0 : (fld (encode (.vcbx d a x)) 20 : BitVec 4) = d := extract_above (x : BitVec 4) (extract_above (0xf#12 : BitVec 12) (extract_above (a : BitVec 4) (extract_last _ _)))
  have f1 : (fld (encode (.vcbx d a x)) 16 : BitVec 4) = a := extract_above (x : BitVec 4) (extract_above (0xf#12 : BitVec 12) (extract_last _ _))
  have f2 : (fld (encode (.vcbx d a x)) 0 : BitVec 4) = x := extract_last _ _
  have fx : (encode (.vcbx d a x)).extractLsb' 4 4 = 0xF#4 := extract_above (x : BitVec 4) (extract_inside _ (p := 0) (by decide) rfl)
  simp only [slotV (no_mark ho (by decide)), decodeV, ho, f0, f1, f2, fx]
  exact checked_ok hr hi
theorem Encoding.vcbi (d : BitVec 4) (a : BitVec 4) (x : BitVec 4) : Encoding.Statement (.vcbi d a x) := by
  intro k hk hi
  cases hk
  have ho : (encode (.vcbi d a x)).extractLsb' 24 8 = 0x1c#8 := extract_above (x : BitVec 4) (extract_above (0xf#12 : BitVec 12) (extract_above (a : BitVec 4) (extract_above (d : BitVec 4) (rfl))))
  have hr : encode (.vcbi d a x) &&& 0x0000FF00#32 = 0#32 := and_parts (and_parts (and_parts (and_parts ((rfl : 0x1c#8 &&& 0x0#8 = 0#8)) (and_free d)) (and_free a)) ((rfl : 0xf#12 &&& 0xff0#12 = 0#12))) (and_free x)
  have f0 : (fld (encode (.vcbi d a x)) 20 : BitVec 4) = d := extract_above (x : BitVec 4) (extract_above (0xf#12 : BitVec 12) (extract_above (a : BitVec 4) (extract_last _ _)))
  have f1 : (fld (encode (.vcbi d a x)) 16 : BitVec 4) = a := extract_above (x : BitVec 4) (extract_above (0xf#12 : BitVec 12) (extract_last _ _))
  have f2 : (fld (encode (.vcbi d a x)) 0 : BitVec 4) = x := extract_last _ _
  have fx : (encode (.vcbi d a x)).extractLsb' 4 4 = 0xF#4 := extract_above (x : BitVec 4) (extract_inside _ (p := 0) (by decide) rfl)
  simp only [slotV (no_mark ho (by decide)), decodeV, ho, f0, f1, f2, fx]
  exact checked_ok hr hi
theorem Encoding.vred (d : BitVec 4) (a : BitVec 4) (b : BitVec 4) (o : BitVec 2) (f : BitVec 4) (x : BitVec 4) : Encoding.Statement (.vred d a b o f x) := by
  intro k hk hi
  cases hk
  have ho : (encode (.vred d a b o f x)).extractLsb' 24 8 = 0x20#8 := extract_above (x : BitVec 4) (extract_above (f : BitVec 4) (extract_above (o : BitVec 2) (extract_above (0x0#2 : BitVec 2) (extract_above (b : BitVec 4) (extract_above (a : BitVec 4) (extract_above (d : BitVec 4) (rfl)))))))
  have hr : encode (.vred d a b o f x) &&& 0x00000C00#32 = 0#32 := and_parts (and_parts (and_parts (and_parts (and_parts (and_parts (and_parts ((rfl : 0x20#8 &&& 0x0#8 = 0#8)) (and_free d)) (and_free a)) (and_free b)) ((rfl : 0x0#2 &&& 0x3#2 = 0#2))) (and_free o)) (and_free f)) (and_free x)
  have f0 : (fld (encode (.vred d a b o f x)) 20 : BitVec 4) = d := extract_above (x : BitVec 4) (extract_above (f : BitVec 4) (extract_above (o : BitVec 2) (extract_above (0x0#2 : BitVec 2) (extract_above (b : BitVec 4) (extract_above (a : BitVec 4) (extract_last _ _))))))
  have f1 : (fld (encode (.vred d a b o f x)) 16 : BitVec 4) = a := extract_above (x : BitVec 4) (extract_above (f : BitVec 4) (extract_above (o : BitVec 2) (extract_above (0x0#2 : BitVec 2) (extract_above (b : BitVec 4) (extract_last _ _)))))
  have f2 : (fld (encode (.vred d a b o f x)) 12 : BitVec 4) = b := extract_above (x : BitVec 4) (extract_above (f : BitVec 4) (extract_above (o : BitVec 2) (extract_above (0x0#2 : BitVec 2) (extract_last _ _))))
  have f3 : (fld (encode (.vred d a b o f x)) 8 : BitVec 2) = o := extract_above (x : BitVec 4) (extract_above (f : BitVec 4) (extract_last _ _))
  have f4 : (fld (encode (.vred d a b o f x)) 4 : BitVec 4) = f := extract_above (x : BitVec 4) (extract_last _ _)
  have f5 : (fld (encode (.vred d a b o f x)) 0 : BitVec 4) = x := extract_last _ _
  simp only [slotV (no_mark ho (by decide)), decodeV, ho, f0, f1, f2, f3, f4, f5]
  exact checked_ok hr hi
theorem Encoding.vperm (d : BitVec 4) (a : BitVec 4) (b : BitVec 4) (f : BitVec 4) : Encoding.Statement (.vperm d a b f) := by
  intro k hk hi
  cases hk
  have ho : (encode (.vperm d a b f)).extractLsb' 24 8 = 0x21#8 := extract_above (0x0#4 : BitVec 4) (extract_above (f : BitVec 4) (extract_above (0x0#4 : BitVec 4) (extract_above (b : BitVec 4) (extract_above (a : BitVec 4) (extract_above (d : BitVec 4) (rfl))))))
  have hr : encode (.vperm d a b f) &&& 0x00000F0F#32 = 0#32 := and_parts (and_parts (and_parts (and_parts (and_parts (and_parts ((rfl : 0x21#8 &&& 0x0#8 = 0#8)) (and_free d)) (and_free a)) (and_free b)) ((rfl : 0x0#4 &&& 0xf#4 = 0#4))) (and_free f)) ((rfl : 0x0#4 &&& 0xf#4 = 0#4))
  have f0 : (fld (encode (.vperm d a b f)) 20 : BitVec 4) = d := extract_above (0x0#4 : BitVec 4) (extract_above (f : BitVec 4) (extract_above (0x0#4 : BitVec 4) (extract_above (b : BitVec 4) (extract_above (a : BitVec 4) (extract_last _ _)))))
  have f1 : (fld (encode (.vperm d a b f)) 16 : BitVec 4) = a := extract_above (0x0#4 : BitVec 4) (extract_above (f : BitVec 4) (extract_above (0x0#4 : BitVec 4) (extract_above (b : BitVec 4) (extract_last _ _))))
  have f2 : (fld (encode (.vperm d a b f)) 12 : BitVec 4) = b := extract_above (0x0#4 : BitVec 4) (extract_above (f : BitVec 4) (extract_above (0x0#4 : BitVec 4) (extract_last _ _)))
  have f3 : (fld (encode (.vperm d a b f)) 4 : BitVec 4) = f := extract_above (0x0#4 : BitVec 4) (extract_last _ _)
  simp only [slotV (no_mark ho (by decide)), decodeV, ho, f0, f1, f2, f3]
  exact checked_ok hr hi
theorem Encoding.vbcast (d : BitVec 4) (a : BitVec 4) (k : BitVec 8) (f : BitVec 4) : Encoding.Statement (.vbcast d a k f) := by
  intro k hk hi
  cases hk
  have ho : (encode (.vbcast d a k f)).extractLsb' 24 8 = 0x22#8 := extract_above (0x0#4 : BitVec 4) (extract_above (f : BitVec 4) (extract_above (k : BitVec 8) (extract_above (a : BitVec 4) (extract_above (d : BitVec 4) (rfl)))))
  have hr : encode (.vbcast d a k f) &&& 0x0000000F#32 = 0#32 := and_parts (and_parts (and_parts (and_parts (and_parts ((rfl : 0x22#8 &&& 0x0#8 = 0#8)) (and_free d)) (and_free a)) (and_free k)) (and_free f)) ((rfl : 0x0#4 &&& 0xf#4 = 0#4))
  have f0 : (fld (encode (.vbcast d a k f)) 20 : BitVec 4) = d := extract_above (0x0#4 : BitVec 4) (extract_above (f : BitVec 4) (extract_above (k : BitVec 8) (extract_above (a : BitVec 4) (extract_last _ _))))
  have f1 : (fld (encode (.vbcast d a k f)) 16 : BitVec 4) = a := extract_above (0x0#4 : BitVec 4) (extract_above (f : BitVec 4) (extract_above (k : BitVec 8) (extract_last _ _)))
  have f2 : (fld (encode (.vbcast d a k f)) 8 : BitVec 8) = k := extract_above (0x0#4 : BitVec 4) (extract_above (f : BitVec 4) (extract_last _ _))
  have f3 : (fld (encode (.vbcast d a k f)) 4 : BitVec 4) = f := extract_above (0x0#4 : BitVec 4) (extract_last _ _)
  simp only [slotV (no_mark ho (by decide)), decodeV, ho, f0, f1, f2, f3]
  exact checked_ok hr hi
theorem Encoding.vsplat (d : BitVec 4) (i : BitVec 12) (f : BitVec 4) : Encoding.Statement (.vsplat d i f) := by
  intro k hk hi
  cases hk
  have ho : (encode (.vsplat d i f)).extractLsb' 24 8 = 0x23#8 := extract_above (0x0#4 : BitVec 4) (extract_above (f : BitVec 4) (extract_above (i : BitVec 12) (extract_above (d : BitVec 4) (rfl))))
  have hr : encode (.vsplat d i f) &&& 0x0000000F#32 = 0#32 := and_parts (and_parts (and_parts (and_parts ((rfl : 0x23#8 &&& 0x0#8 = 0#8)) (and_free d)) (and_free i)) (and_free f)) ((rfl : 0x0#4 &&& 0xf#4 = 0#4))
  have f0 : (fld (encode (.vsplat d i f)) 20 : BitVec 4) = d := extract_above (0x0#4 : BitVec 4) (extract_above (f : BitVec 4) (extract_above (i : BitVec 12) (extract_last _ _)))
  have f1 : (fld (encode (.vsplat d i f)) 8 : BitVec 12) = i := extract_above (0x0#4 : BitVec 4) (extract_above (f : BitVec 4) (extract_last _ _))
  have f2 : (fld (encode (.vsplat d i f)) 4 : BitVec 4) = f := extract_above (0x0#4 : BitVec 4) (extract_last _ _)
  simp only [slotV (no_mark ho (by decide)), decodeV, ho, f0, f1, f2]
  exact checked_ok hr hi
theorem Encoding.vslide (d : BitVec 4) (a : BitVec 4) (b : BitVec 4) (r : BitVec 1) (f : BitVec 4) : Encoding.Statement (.vslide d a b r f) := by
  intro k hk hi
  cases hk
  have ho : (encode (.vslide d a b r f)).extractLsb' 24 8 = 0x24#8 := extract_above (0x0#4 : BitVec 4) (extract_above (f : BitVec 4) (extract_above (r : BitVec 1) (extract_above (0x0#3 : BitVec 3) (extract_above (b : BitVec 4) (extract_above (a : BitVec 4) (extract_above (d : BitVec 4) (rfl)))))))
  have hr : encode (.vslide d a b r f) &&& 0x00000E0F#32 = 0#32 := and_parts (and_parts (and_parts (and_parts (and_parts (and_parts (and_parts ((rfl : 0x24#8 &&& 0x0#8 = 0#8)) (and_free d)) (and_free a)) (and_free b)) ((rfl : 0x0#3 &&& 0x7#3 = 0#3))) (and_free r)) (and_free f)) ((rfl : 0x0#4 &&& 0xf#4 = 0#4))
  have f0 : (fld (encode (.vslide d a b r f)) 20 : BitVec 4) = d := extract_above (0x0#4 : BitVec 4) (extract_above (f : BitVec 4) (extract_above (r : BitVec 1) (extract_above (0x0#3 : BitVec 3) (extract_above (b : BitVec 4) (extract_above (a : BitVec 4) (extract_last _ _))))))
  have f1 : (fld (encode (.vslide d a b r f)) 16 : BitVec 4) = a := extract_above (0x0#4 : BitVec 4) (extract_above (f : BitVec 4) (extract_above (r : BitVec 1) (extract_above (0x0#3 : BitVec 3) (extract_above (b : BitVec 4) (extract_last _ _)))))
  have f2 : (fld (encode (.vslide d a b r f)) 12 : BitVec 4) = b := extract_above (0x0#4 : BitVec 4) (extract_above (f : BitVec 4) (extract_above (r : BitVec 1) (extract_above (0x0#3 : BitVec 3) (extract_last _ _))))
  have f3 : (fld (encode (.vslide d a b r f)) 8 : BitVec 1) = r := extract_above (0x0#4 : BitVec 4) (extract_above (f : BitVec 4) (extract_last _ _))
  have f4 : (fld (encode (.vslide d a b r f)) 4 : BitVec 4) = f := extract_above (0x0#4 : BitVec 4) (extract_last _ _)
  simp only [slotV (no_mark ho (by decide)), decodeV, ho, f0, f1, f2, f3, f4]
  exact checked_ok hr hi
theorem Encoding.vzip (d : BitVec 4) (a : BitVec 4) (b : BitVec 4) (h : BitVec 1) (f : BitVec 4) : Encoding.Statement (.vzip d a b h f) := by
  intro k hk hi
  cases hk
  have ho : (encode (.vzip d a b h f)).extractLsb' 24 8 = 0x25#8 := extract_above (0x0#4 : BitVec 4) (extract_above (f : BitVec 4) (extract_above (h : BitVec 1) (extract_above (0x0#3 : BitVec 3) (extract_above (b : BitVec 4) (extract_above (a : BitVec 4) (extract_above (d : BitVec 4) (rfl)))))))
  have hr : encode (.vzip d a b h f) &&& 0x00000E0F#32 = 0#32 := and_parts (and_parts (and_parts (and_parts (and_parts (and_parts (and_parts ((rfl : 0x25#8 &&& 0x0#8 = 0#8)) (and_free d)) (and_free a)) (and_free b)) ((rfl : 0x0#3 &&& 0x7#3 = 0#3))) (and_free h)) (and_free f)) ((rfl : 0x0#4 &&& 0xf#4 = 0#4))
  have f0 : (fld (encode (.vzip d a b h f)) 20 : BitVec 4) = d := extract_above (0x0#4 : BitVec 4) (extract_above (f : BitVec 4) (extract_above (h : BitVec 1) (extract_above (0x0#3 : BitVec 3) (extract_above (b : BitVec 4) (extract_above (a : BitVec 4) (extract_last _ _))))))
  have f1 : (fld (encode (.vzip d a b h f)) 16 : BitVec 4) = a := extract_above (0x0#4 : BitVec 4) (extract_above (f : BitVec 4) (extract_above (h : BitVec 1) (extract_above (0x0#3 : BitVec 3) (extract_above (b : BitVec 4) (extract_last _ _)))))
  have f2 : (fld (encode (.vzip d a b h f)) 12 : BitVec 4) = b := extract_above (0x0#4 : BitVec 4) (extract_above (f : BitVec 4) (extract_above (h : BitVec 1) (extract_above (0x0#3 : BitVec 3) (extract_last _ _))))
  have f3 : (fld (encode (.vzip d a b h f)) 8 : BitVec 1) = h := extract_above (0x0#4 : BitVec 4) (extract_above (f : BitVec 4) (extract_last _ _))
  have f4 : (fld (encode (.vzip d a b h f)) 4 : BitVec 4) = f := extract_above (0x0#4 : BitVec 4) (extract_last _ _)
  simp only [slotV (no_mark ho (by decide)), decodeV, ho, f0, f1, f2, f3, f4]
  exact checked_ok hr hi
theorem Encoding.vunzip (d : BitVec 4) (a : BitVec 4) (b : BitVec 4) (h : BitVec 1) (f : BitVec 4) : Encoding.Statement (.vunzip d a b h f) := by
  intro k hk hi
  cases hk
  have ho : (encode (.vunzip d a b h f)).extractLsb' 24 8 = 0x26#8 := extract_above (0x0#4 : BitVec 4) (extract_above (f : BitVec 4) (extract_above (h : BitVec 1) (extract_above (0x0#3 : BitVec 3) (extract_above (b : BitVec 4) (extract_above (a : BitVec 4) (extract_above (d : BitVec 4) (rfl)))))))
  have hr : encode (.vunzip d a b h f) &&& 0x00000E0F#32 = 0#32 := and_parts (and_parts (and_parts (and_parts (and_parts (and_parts (and_parts ((rfl : 0x26#8 &&& 0x0#8 = 0#8)) (and_free d)) (and_free a)) (and_free b)) ((rfl : 0x0#3 &&& 0x7#3 = 0#3))) (and_free h)) (and_free f)) ((rfl : 0x0#4 &&& 0xf#4 = 0#4))
  have f0 : (fld (encode (.vunzip d a b h f)) 20 : BitVec 4) = d := extract_above (0x0#4 : BitVec 4) (extract_above (f : BitVec 4) (extract_above (h : BitVec 1) (extract_above (0x0#3 : BitVec 3) (extract_above (b : BitVec 4) (extract_above (a : BitVec 4) (extract_last _ _))))))
  have f1 : (fld (encode (.vunzip d a b h f)) 16 : BitVec 4) = a := extract_above (0x0#4 : BitVec 4) (extract_above (f : BitVec 4) (extract_above (h : BitVec 1) (extract_above (0x0#3 : BitVec 3) (extract_above (b : BitVec 4) (extract_last _ _)))))
  have f2 : (fld (encode (.vunzip d a b h f)) 12 : BitVec 4) = b := extract_above (0x0#4 : BitVec 4) (extract_above (f : BitVec 4) (extract_above (h : BitVec 1) (extract_above (0x0#3 : BitVec 3) (extract_last _ _))))
  have f3 : (fld (encode (.vunzip d a b h f)) 8 : BitVec 1) = h := extract_above (0x0#4 : BitVec 4) (extract_above (f : BitVec 4) (extract_last _ _))
  have f4 : (fld (encode (.vunzip d a b h f)) 4 : BitVec 4) = f := extract_above (0x0#4 : BitVec 4) (extract_last _ _)
  simp only [slotV (no_mark ho (by decide)), decodeV, ho, f0, f1, f2, f3, f4]
  exact checked_ok hr hi
theorem Encoding.vexp2 (d : BitVec 4) (a : BitVec 4) (f : BitVec 4) (x : BitVec 4) : Encoding.Statement (.vexp2 d a f x) := by
  intro k hk hi
  cases hk
  have ho : (encode (.vexp2 d a f x)).extractLsb' 24 8 = 0x28#8 := extract_above (x : BitVec 4) (extract_above (f : BitVec 4) (extract_above (0x0#8 : BitVec 8) (extract_above (a : BitVec 4) (extract_above (d : BitVec 4) (rfl)))))
  have hr : encode (.vexp2 d a f x) &&& 0x0000FF00#32 = 0#32 := and_parts (and_parts (and_parts (and_parts (and_parts ((rfl : 0x28#8 &&& 0x0#8 = 0#8)) (and_free d)) (and_free a)) ((rfl : 0x0#8 &&& 0xff#8 = 0#8))) (and_free f)) (and_free x)
  have f0 : (fld (encode (.vexp2 d a f x)) 20 : BitVec 4) = d := extract_above (x : BitVec 4) (extract_above (f : BitVec 4) (extract_above (0x0#8 : BitVec 8) (extract_above (a : BitVec 4) (extract_last _ _))))
  have f1 : (fld (encode (.vexp2 d a f x)) 16 : BitVec 4) = a := extract_above (x : BitVec 4) (extract_above (f : BitVec 4) (extract_above (0x0#8 : BitVec 8) (extract_last _ _)))
  have f2 : (fld (encode (.vexp2 d a f x)) 4 : BitVec 4) = f := extract_above (x : BitVec 4) (extract_last _ _)
  have f3 : (fld (encode (.vexp2 d a f x)) 0 : BitVec 4) = x := extract_last _ _
  simp only [slotV (no_mark ho (by decide)), decodeV, ho, f0, f1, f2, f3]
  exact checked_ok hr hi
theorem Encoding.vlog2 (d : BitVec 4) (a : BitVec 4) (f : BitVec 4) (x : BitVec 4) : Encoding.Statement (.vlog2 d a f x) := by
  intro k hk hi
  cases hk
  have ho : (encode (.vlog2 d a f x)).extractLsb' 24 8 = 0x29#8 := extract_above (x : BitVec 4) (extract_above (f : BitVec 4) (extract_above (0x0#8 : BitVec 8) (extract_above (a : BitVec 4) (extract_above (d : BitVec 4) (rfl)))))
  have hr : encode (.vlog2 d a f x) &&& 0x0000FF00#32 = 0#32 := and_parts (and_parts (and_parts (and_parts (and_parts ((rfl : 0x29#8 &&& 0x0#8 = 0#8)) (and_free d)) (and_free a)) ((rfl : 0x0#8 &&& 0xff#8 = 0#8))) (and_free f)) (and_free x)
  have f0 : (fld (encode (.vlog2 d a f x)) 20 : BitVec 4) = d := extract_above (x : BitVec 4) (extract_above (f : BitVec 4) (extract_above (0x0#8 : BitVec 8) (extract_above (a : BitVec 4) (extract_last _ _))))
  have f1 : (fld (encode (.vlog2 d a f x)) 16 : BitVec 4) = a := extract_above (x : BitVec 4) (extract_above (f : BitVec 4) (extract_above (0x0#8 : BitVec 8) (extract_last _ _)))
  have f2 : (fld (encode (.vlog2 d a f x)) 4 : BitVec 4) = f := extract_above (x : BitVec 4) (extract_last _ _)
  have f3 : (fld (encode (.vlog2 d a f x)) 0 : BitVec 4) = x := extract_last _ _
  simp only [slotV (no_mark ho (by decide)), decodeV, ho, f0, f1, f2, f3]
  exact checked_ok hr hi
theorem Encoding.vrcp (d : BitVec 4) (a : BitVec 4) (f : BitVec 4) (x : BitVec 4) : Encoding.Statement (.vrcp d a f x) := by
  intro k hk hi
  cases hk
  have ho : (encode (.vrcp d a f x)).extractLsb' 24 8 = 0x2a#8 := extract_above (x : BitVec 4) (extract_above (f : BitVec 4) (extract_above (0x0#8 : BitVec 8) (extract_above (a : BitVec 4) (extract_above (d : BitVec 4) (rfl)))))
  have hr : encode (.vrcp d a f x) &&& 0x0000FF00#32 = 0#32 := and_parts (and_parts (and_parts (and_parts (and_parts ((rfl : 0x2a#8 &&& 0x0#8 = 0#8)) (and_free d)) (and_free a)) ((rfl : 0x0#8 &&& 0xff#8 = 0#8))) (and_free f)) (and_free x)
  have f0 : (fld (encode (.vrcp d a f x)) 20 : BitVec 4) = d := extract_above (x : BitVec 4) (extract_above (f : BitVec 4) (extract_above (0x0#8 : BitVec 8) (extract_above (a : BitVec 4) (extract_last _ _))))
  have f1 : (fld (encode (.vrcp d a f x)) 16 : BitVec 4) = a := extract_above (x : BitVec 4) (extract_above (f : BitVec 4) (extract_above (0x0#8 : BitVec 8) (extract_last _ _)))
  have f2 : (fld (encode (.vrcp d a f x)) 4 : BitVec 4) = f := extract_above (x : BitVec 4) (extract_last _ _)
  have f3 : (fld (encode (.vrcp d a f x)) 0 : BitVec 4) = x := extract_last _ _
  simp only [slotV (no_mark ho (by decide)), decodeV, ho, f0, f1, f2, f3]
  exact checked_ok hr hi
theorem Encoding.vrsq (d : BitVec 4) (a : BitVec 4) (f : BitVec 4) (x : BitVec 4) : Encoding.Statement (.vrsq d a f x) := by
  intro k hk hi
  cases hk
  have ho : (encode (.vrsq d a f x)).extractLsb' 24 8 = 0x2b#8 := extract_above (x : BitVec 4) (extract_above (f : BitVec 4) (extract_above (0x0#8 : BitVec 8) (extract_above (a : BitVec 4) (extract_above (d : BitVec 4) (rfl)))))
  have hr : encode (.vrsq d a f x) &&& 0x0000FF00#32 = 0#32 := and_parts (and_parts (and_parts (and_parts (and_parts ((rfl : 0x2b#8 &&& 0x0#8 = 0#8)) (and_free d)) (and_free a)) ((rfl : 0x0#8 &&& 0xff#8 = 0#8))) (and_free f)) (and_free x)
  have f0 : (fld (encode (.vrsq d a f x)) 20 : BitVec 4) = d := extract_above (x : BitVec 4) (extract_above (f : BitVec 4) (extract_above (0x0#8 : BitVec 8) (extract_above (a : BitVec 4) (extract_last _ _))))
  have f1 : (fld (encode (.vrsq d a f x)) 16 : BitVec 4) = a := extract_above (x : BitVec 4) (extract_above (f : BitVec 4) (extract_above (0x0#8 : BitVec 8) (extract_last _ _)))
  have f2 : (fld (encode (.vrsq d a f x)) 4 : BitVec 4) = f := extract_above (x : BitVec 4) (extract_last _ _)
  have f3 : (fld (encode (.vrsq d a f x)) 0 : BitVec 4) = x := extract_last _ _
  simp only [slotV (no_mark ho (by decide)), decodeV, ho, f0, f1, f2, f3]
  exact checked_ok hr hi
theorem Encoding.vtake (d : BitVec 4) (l : BitVec 4) (h : BitVec 1) : Encoding.Statement (.vtake d l h) := by
  intro k hk hi
  cases hk
  have ho : (encode (.vtake d l h)).extractLsb' 24 8 = 0x30#8 := extract_above (0x0#12 : BitVec 12) (extract_above (h : BitVec 1) (extract_above (0x0#3 : BitVec 3) (extract_above (l : BitVec 4) (extract_above (d : BitVec 4) (rfl)))))
  have hr : encode (.vtake d l h) &&& 0x0000EFFF#32 = 0#32 := and_parts (and_parts (and_parts (and_parts (and_parts ((rfl : 0x30#8 &&& 0x0#8 = 0#8)) (and_free d)) (and_free l)) ((rfl : 0x0#3 &&& 0x7#3 = 0#3))) (and_free h)) ((rfl : 0x0#12 &&& 0xfff#12 = 0#12))
  have f0 : (fld (encode (.vtake d l h)) 20 : BitVec 4) = d := extract_above (0x0#12 : BitVec 12) (extract_above (h : BitVec 1) (extract_above (0x0#3 : BitVec 3) (extract_above (l : BitVec 4) (extract_last _ _))))
  have f1 : (fld (encode (.vtake d l h)) 16 : BitVec 4) = l := extract_above (0x0#12 : BitVec 12) (extract_above (h : BitVec 1) (extract_above (0x0#3 : BitVec 3) (extract_last _ _)))
  have f2 : (fld (encode (.vtake d l h)) 12 : BitVec 1) = h := extract_above (0x0#12 : BitVec 12) (extract_last _ _)
  simp only [slotV (no_mark ho (by decide)), decodeV, ho, f0, f1, f2]
  exact checked_ok hr hi
theorem Encoding.vpush (a : BitVec 4) : Encoding.Statement (.vpush a) := by
  intro k hk hi
  cases hk
  have ho : (encode (.vpush a)).extractLsb' 24 8 = 0x31#8 := extract_above (0x0#16 : BitVec 16) (extract_above (a : BitVec 4) (extract_above (0x0#4 : BitVec 4) (rfl)))
  have hr : encode (.vpush a) &&& 0x00F0FFFF#32 = 0#32 := and_parts (and_parts (and_parts ((rfl : 0x31#8 &&& 0x0#8 = 0#8)) ((rfl : 0x0#4 &&& 0xf#4 = 0#4))) (and_free a)) ((rfl : 0x0#16 &&& 0xffff#16 = 0#16))
  have f0 : (fld (encode (.vpush a)) 16 : BitVec 4) = a := extract_above (0x0#16 : BitVec 16) (extract_last _ _)
  simp only [slotV (no_mark ho (by decide)), decodeV, ho, f0]
  exact checked_ok hr hi
theorem Encoding.dcw (a : BitVec 5) (n : BitVec 4) : Encoding.Statement (.dcw a n) := by
  intro k hk hi
  cases hk
  have ho : (encode (.dcw a n)).extractLsb' 24 8 = 0x1#8 := extract_above (n : BitVec 4) (extract_above (0x0#15 : BitVec 15) (extract_above (a : BitVec 5) (rfl)))
  have hr : encode (.dcw a n) &&& 0x0007FFF0#32 = 0#32 := and_parts (and_parts (and_parts ((rfl : 0x1#8 &&& 0x0#8 = 0#8)) (and_free a)) ((rfl : 0x0#15 &&& 0x7fff#15 = 0#15))) (and_free n)
  have f0 : (fld (encode (.dcw a n)) 19 : BitVec 5) = a := extract_above (n : BitVec 4) (extract_above (0x0#15 : BitVec 15) (extract_last _ _))
  have f1 : (fld (encode (.dcw a n)) 0 : BitVec 4) = n := extract_last _ _
  simp only [slotD (no_mark ho (by decide)), decodeD, ho, f0, f1]
  exact checked_ok hr hi
theorem Encoding.dcr (n : BitVec 4) : Encoding.Statement (.dcr n) := by
  intro k hk hi
  cases hk
  have ho : (encode (.dcr n)).extractLsb' 24 8 = 0x2#8 := extract_above (n : BitVec 4) (extract_above (0x0#20 : BitVec 20) (rfl))
  have hr : encode (.dcr n) &&& 0x00FFFFF0#32 = 0#32 := and_parts (and_parts ((rfl : 0x2#8 &&& 0x0#8 = 0#8)) ((rfl : 0x0#20 &&& 0xfffff#20 = 0#20))) (and_free n)
  have f0 : (fld (encode (.dcr n)) 0 : BitVec 4) = n := extract_last _ _
  simp only [slotD (no_mark ho (by decide)), decodeD, ho, f0]
  exact checked_ok hr hi
theorem Encoding.rclaim (o : BitVec 1) (n : BitVec 2) : Encoding.Statement (.rclaim o n) := by
  intro k hk hi
  cases hk
  have ho : (encode (.rclaim o n)).extractLsb' 24 8 = 0x8#8 := extract_above (n : BitVec 2) (extract_above (o : BitVec 1) (extract_above (0x0#21 : BitVec 21) (rfl)))
  have hr : encode (.rclaim o n) &&& 0x00FFFFF8#32 = 0#32 := and_parts (and_parts (and_parts ((rfl : 0x8#8 &&& 0x0#8 = 0#8)) ((rfl : 0x0#21 &&& 0x1fffff#21 = 0#21))) (and_free o)) (and_free n)
  have f0 : (fld (encode (.rclaim o n)) 2 : BitVec 1) = o := extract_above (n : BitVec 2) (extract_last _ _)
  have f1 : (fld (encode (.rclaim o n)) 0 : BitVec 2) = n := extract_last _ _
  simp only [slotD (no_mark ho (by decide)), decodeD, ho, f0, f1]
  exact checked_ok hr hi
theorem Encoding.rrel (o : BitVec 1) (n : BitVec 2) : Encoding.Statement (.rrel o n) := by
  intro k hk hi
  cases hk
  have ho : (encode (.rrel o n)).extractLsb' 24 8 = 0x9#8 := extract_above (n : BitVec 2) (extract_above (o : BitVec 1) (extract_above (0x0#21 : BitVec 21) (rfl)))
  have hr : encode (.rrel o n) &&& 0x00FFFFF8#32 = 0#32 := and_parts (and_parts (and_parts ((rfl : 0x9#8 &&& 0x0#8 = 0#8)) ((rfl : 0x0#21 &&& 0x1fffff#21 = 0#21))) (and_free o)) (and_free n)
  have f0 : (fld (encode (.rrel o n)) 2 : BitVec 1) = o := extract_above (n : BitVec 2) (extract_last _ _)
  have f1 : (fld (encode (.rrel o n)) 0 : BitVec 2) = n := extract_last _ _
  simp only [slotD (no_mark ho (by decide)), decodeD, ho, f0, f1]
  exact checked_ok hr hi
theorem Encoding.rldw (a : BitVec 5) (b : BitVec 5) (x : BitVec 1) (p : BitVec 2) : Encoding.Statement (.rldw a b x p) := by
  intro k hk hi
  cases hk
  have ho : (encode (.rldw a b x p)).extractLsb' 24 8 = 0xa#8 := extract_above (p : BitVec 2) (extract_above (x : BitVec 1) (extract_above (0x0#11 : BitVec 11) (extract_above (b : BitVec 5) (extract_above (a : BitVec 5) (rfl)))))
  have hr : encode (.rldw a b x p) &&& 0x00003FF8#32 = 0#32 := and_parts (and_parts (and_parts (and_parts (and_parts ((rfl : 0xa#8 &&& 0x0#8 = 0#8)) (and_free a)) (and_free b)) ((rfl : 0x0#11 &&& 0x7ff#11 = 0#11))) (and_free x)) (and_free p)
  have f0 : (fld (encode (.rldw a b x p)) 19 : BitVec 5) = a := extract_above (p : BitVec 2) (extract_above (x : BitVec 1) (extract_above (0x0#11 : BitVec 11) (extract_above (b : BitVec 5) (extract_last _ _))))
  have f1 : (fld (encode (.rldw a b x p)) 14 : BitVec 5) = b := extract_above (p : BitVec 2) (extract_above (x : BitVec 1) (extract_above (0x0#11 : BitVec 11) (extract_last _ _)))
  have f2 : (fld (encode (.rldw a b x p)) 2 : BitVec 1) = x := extract_above (p : BitVec 2) (extract_last _ _)
  have f3 : (fld (encode (.rldw a b x p)) 0 : BitVec 2) = p := extract_last _ _
  simp only [slotD (no_mark ho (by decide)), decodeD, ho, f0, f1, f2, f3]
  exact checked_ok hr hi
theorem Encoding.rpass (v : BitVec 4) (c : BitVec 4) (t : BitVec 2) (p : BitVec 2) (x : BitVec 1) : Encoding.Statement (.rpass v c t p x) := by
  intro k hk hi
  cases hk
  have ho : (encode (.rpass v c t p x)).extractLsb' 24 8 = 0x10#8 := extract_above (0x0#1 : BitVec 1) (extract_above (x : BitVec 1) (extract_above (p : BitVec 2) (extract_above (t : BitVec 2) (extract_above (c : BitVec 4) (extract_above (v : BitVec 4) (extract_above (0x0#10 : BitVec 10) (rfl)))))))
  have hr : encode (.rpass v c t p x) &&& 0x00FFC001#32 = 0#32 := and_parts (and_parts (and_parts (and_parts (and_parts (and_parts (and_parts ((rfl : 0x10#8 &&& 0x0#8 = 0#8)) ((rfl : 0x0#10 &&& 0x3ff#10 = 0#10))) (and_free v)) (and_free c)) (and_free t)) (and_free p)) (and_free x)) ((rfl : 0x0#1 &&& 0x1#1 = 0#1))
  have f0 : (fld (encode (.rpass v c t p x)) 10 : BitVec 4) = v := extract_above (0x0#1 : BitVec 1) (extract_above (x : BitVec 1) (extract_above (p : BitVec 2) (extract_above (t : BitVec 2) (extract_above (c : BitVec 4) (extract_last _ _)))))
  have f1 : (fld (encode (.rpass v c t p x)) 6 : BitVec 4) = c := extract_above (0x0#1 : BitVec 1) (extract_above (x : BitVec 1) (extract_above (p : BitVec 2) (extract_above (t : BitVec 2) (extract_last _ _))))
  have f2 : (fld (encode (.rpass v c t p x)) 4 : BitVec 2) = t := extract_above (0x0#1 : BitVec 1) (extract_above (x : BitVec 1) (extract_above (p : BitVec 2) (extract_last _ _)))
  have f3 : (fld (encode (.rpass v c t p x)) 2 : BitVec 2) = p := extract_above (0x0#1 : BitVec 1) (extract_above (x : BitVec 1) (extract_last _ _))
  have f4 : (fld (encode (.rpass v c t p x)) 1 : BitVec 1) = x := extract_above (0x0#1 : BitVec 1) (extract_last _ _)
  simp only [slotD (no_mark ho (by decide)), decodeD, ho, f0, f1, f2, f3, f4]
  exact checked_ok hr hi
theorem Encoding.rpassr (h : BitVec 4) (c : BitVec 4) (t : BitVec 2) (p : BitVec 2) (x : BitVec 1) (v : BitVec 1) : Encoding.Statement (.rpassr h c t p x v) := by
  intro k hk hi
  cases hk
  have ho : (encode (.rpassr h c t p x v)).extractLsb' 24 8 = 0x11#8 := extract_above (v : BitVec 1) (extract_above (x : BitVec 1) (extract_above (p : BitVec 2) (extract_above (t : BitVec 2) (extract_above (c : BitVec 4) (extract_above (h : BitVec 4) (extract_above (0x0#10 : BitVec 10) (rfl)))))))
  have hr : encode (.rpassr h c t p x v) &&& 0x00FFC000#32 = 0#32 := and_parts (and_parts (and_parts (and_parts (and_parts (and_parts (and_parts ((rfl : 0x11#8 &&& 0x0#8 = 0#8)) ((rfl : 0x0#10 &&& 0x3ff#10 = 0#10))) (and_free h)) (and_free c)) (and_free t)) (and_free p)) (and_free x)) (and_free v)
  have f0 : (fld (encode (.rpassr h c t p x v)) 10 : BitVec 4) = h := extract_above (v : BitVec 1) (extract_above (x : BitVec 1) (extract_above (p : BitVec 2) (extract_above (t : BitVec 2) (extract_above (c : BitVec 4) (extract_last _ _)))))
  have f1 : (fld (encode (.rpassr h c t p x v)) 6 : BitVec 4) = c := extract_above (v : BitVec 1) (extract_above (x : BitVec 1) (extract_above (p : BitVec 2) (extract_above (t : BitVec 2) (extract_last _ _))))
  have f2 : (fld (encode (.rpassr h c t p x v)) 4 : BitVec 2) = t := extract_above (v : BitVec 1) (extract_above (x : BitVec 1) (extract_above (p : BitVec 2) (extract_last _ _)))
  have f3 : (fld (encode (.rpassr h c t p x v)) 2 : BitVec 2) = p := extract_above (v : BitVec 1) (extract_above (x : BitVec 1) (extract_last _ _))
  have f4 : (fld (encode (.rpassr h c t p x v)) 1 : BitVec 1) = x := extract_above (v : BitVec 1) (extract_last _ _)
  have f5 : (fld (encode (.rpassr h c t p x v)) 0 : BitVec 1) = v := extract_last _ _
  simp only [slotD (no_mark ho (by decide)), decodeD, ho, f0, f1, f2, f3, f4, f5]
  exact checked_ok hr hi
theorem Encoding.rsat (c : BitVec 1) (q : BitVec 2) : Encoding.Statement (.rsat c q) := by
  intro k hk hi
  cases hk
  have ho : (encode (.rsat c q)).extractLsb' 24 8 = 0x12#8 := extract_above (q : BitVec 2) (extract_above (c : BitVec 1) (extract_above (0x0#21 : BitVec 21) (rfl)))
  have hr : encode (.rsat c q) &&& 0x00FFFFF8#32 = 0#32 := and_parts (and_parts (and_parts ((rfl : 0x12#8 &&& 0x0#8 = 0#8)) ((rfl : 0x0#21 &&& 0x1fffff#21 = 0#21))) (and_free c)) (and_free q)
  have f0 : (fld (encode (.rsat c q)) 2 : BitVec 1) = c := extract_above (q : BitVec 2) (extract_last _ _)
  have f1 : (fld (encode (.rsat c q)) 0 : BitVec 2) = q := extract_last _ _
  simp only [slotD (no_mark ho (by decide)), decodeD, ho, f0, f1]
  exact checked_ok hr hi
theorem Encoding.rmin (v : BitVec 4) (x : BitVec 1) : Encoding.Statement (.rmin v x) := by
  intro k hk hi
  cases hk
  have ho : (encode (.rmin v x)).extractLsb' 24 8 = 0x18#8 := extract_above (0x0#3 : BitVec 3) (extract_above (x : BitVec 1) (extract_above (0x0#6 : BitVec 6) (extract_above (v : BitVec 4) (extract_above (0x0#10 : BitVec 10) (rfl)))))
  have hr : encode (.rmin v x) &&& 0x00FFC3F7#32 = 0#32 := and_parts (and_parts (and_parts (and_parts (and_parts ((rfl : 0x18#8 &&& 0x0#8 = 0#8)) ((rfl : 0x0#10 &&& 0x3ff#10 = 0#10))) (and_free v)) ((rfl : 0x0#6 &&& 0x3f#6 = 0#6))) (and_free x)) ((rfl : 0x0#3 &&& 0x7#3 = 0#3))
  have f0 : (fld (encode (.rmin v x)) 10 : BitVec 4) = v := extract_above (0x0#3 : BitVec 3) (extract_above (x : BitVec 1) (extract_above (0x0#6 : BitVec 6) (extract_last _ _)))
  have f1 : (fld (encode (.rmin v x)) 3 : BitVec 1) = x := extract_above (0x0#3 : BitVec 3) (extract_last _ _)
  simp only [slotD (no_mark ho (by decide)), decodeD, ho, f0, f1]
  exact checked_ok hr hi
theorem Encoding.rmax (v : BitVec 4) (x : BitVec 1) : Encoding.Statement (.rmax v x) := by
  intro k hk hi
  cases hk
  have ho : (encode (.rmax v x)).extractLsb' 24 8 = 0x19#8 := extract_above (0x0#3 : BitVec 3) (extract_above (x : BitVec 1) (extract_above (0x0#6 : BitVec 6) (extract_above (v : BitVec 4) (extract_above (0x0#10 : BitVec 10) (rfl)))))
  have hr : encode (.rmax v x) &&& 0x00FFC3F7#32 = 0#32 := and_parts (and_parts (and_parts (and_parts (and_parts ((rfl : 0x19#8 &&& 0x0#8 = 0#8)) ((rfl : 0x0#10 &&& 0x3ff#10 = 0#10))) (and_free v)) ((rfl : 0x0#6 &&& 0x3f#6 = 0#6))) (and_free x)) ((rfl : 0x0#3 &&& 0x7#3 = 0#3))
  have f0 : (fld (encode (.rmax v x)) 10 : BitVec 4) = v := extract_above (0x0#3 : BitVec 3) (extract_above (x : BitVec 1) (extract_above (0x0#6 : BitVec 6) (extract_last _ _)))
  have f1 : (fld (encode (.rmax v x)) 3 : BitVec 1) = x := extract_above (0x0#3 : BitVec 3) (extract_last _ _)
  simp only [slotD (no_mark ho (by decide)), decodeD, ho, f0, f1]
  exact checked_ok hr hi
theorem Encoding.rsort (v : BitVec 4) (x : BitVec 1) (d : BitVec 1) : Encoding.Statement (.rsort v x d) := by
  intro k hk hi
  cases hk
  have ho : (encode (.rsort v x d)).extractLsb' 24 8 = 0x1a#8 := extract_above (0x0#2 : BitVec 2) (extract_above (d : BitVec 1) (extract_above (x : BitVec 1) (extract_above (0x0#6 : BitVec 6) (extract_above (v : BitVec 4) (extract_above (0x0#10 : BitVec 10) (rfl))))))
  have hr : encode (.rsort v x d) &&& 0x00FFC3F3#32 = 0#32 := and_parts (and_parts (and_parts (and_parts (and_parts (and_parts ((rfl : 0x1a#8 &&& 0x0#8 = 0#8)) ((rfl : 0x0#10 &&& 0x3ff#10 = 0#10))) (and_free v)) ((rfl : 0x0#6 &&& 0x3f#6 = 0#6))) (and_free x)) (and_free d)) ((rfl : 0x0#2 &&& 0x3#2 = 0#2))
  have f0 : (fld (encode (.rsort v x d)) 10 : BitVec 4) = v := extract_above (0x0#2 : BitVec 2) (extract_above (d : BitVec 1) (extract_above (x : BitVec 1) (extract_above (0x0#6 : BitVec 6) (extract_last _ _))))
  have f1 : (fld (encode (.rsort v x d)) 3 : BitVec 1) = x := extract_above (0x0#2 : BitVec 2) (extract_above (d : BitVec 1) (extract_last _ _))
  have f2 : (fld (encode (.rsort v x d)) 2 : BitVec 1) = d := extract_above (0x0#2 : BitVec 2) (extract_last _ _)
  simp only [slotD (no_mark ho (by decide)), decodeD, ho, f0, f1, f2]
  exact checked_ok hr hi
theorem Encoding.rtopk (v : BitVec 4) (k : BitVec 6) (x : BitVec 1) (d : BitVec 1) : Encoding.Statement (.rtopk v k x d) := by
  intro k hk hi
  cases hk
  have ho : (encode (.rtopk v k x d)).extractLsb' 24 8 = 0x1b#8 := extract_above (0x0#2 : BitVec 2) (extract_above (d : BitVec 1) (extract_above (x : BitVec 1) (extract_above (k : BitVec 6) (extract_above (v : BitVec 4) (extract_above (0x0#10 : BitVec 10) (rfl))))))
  have hr : encode (.rtopk v k x d) &&& 0x00FFC003#32 = 0#32 := and_parts (and_parts (and_parts (and_parts (and_parts (and_parts ((rfl : 0x1b#8 &&& 0x0#8 = 0#8)) ((rfl : 0x0#10 &&& 0x3ff#10 = 0#10))) (and_free v)) (and_free k)) (and_free x)) (and_free d)) ((rfl : 0x0#2 &&& 0x3#2 = 0#2))
  have f0 : (fld (encode (.rtopk v k x d)) 10 : BitVec 4) = v := extract_above (0x0#2 : BitVec 2) (extract_above (d : BitVec 1) (extract_above (x : BitVec 1) (extract_above (k : BitVec 6) (extract_last _ _))))
  have f1 : (fld (encode (.rtopk v k x d)) 4 : BitVec 6) = k := extract_above (0x0#2 : BitVec 2) (extract_above (d : BitVec 1) (extract_above (x : BitVec 1) (extract_last _ _)))
  have f2 : (fld (encode (.rtopk v k x d)) 3 : BitVec 1) = x := extract_above (0x0#2 : BitVec 2) (extract_above (d : BitVec 1) (extract_last _ _))
  have f3 : (fld (encode (.rtopk v k x d)) 2 : BitVec 1) = d := extract_above (0x0#2 : BitVec 2) (extract_last _ _)
  simp only [slotD (no_mark ho (by decide)), decodeD, ho, f0, f1, f2, f3]
  exact checked_ok hr hi
theorem Encoding.rrank (v : BitVec 4) (x : BitVec 1) (d : BitVec 1) : Encoding.Statement (.rrank v x d) := by
  intro k hk hi
  cases hk
  have ho : (encode (.rrank v x d)).extractLsb' 24 8 = 0x1c#8 := extract_above (0x0#2 : BitVec 2) (extract_above (d : BitVec 1) (extract_above (x : BitVec 1) (extract_above (0x0#6 : BitVec 6) (extract_above (v : BitVec 4) (extract_above (0x0#10 : BitVec 10) (rfl))))))
  have hr : encode (.rrank v x d) &&& 0x00FFC3F3#32 = 0#32 := and_parts (and_parts (and_parts (and_parts (and_parts (and_parts ((rfl : 0x1c#8 &&& 0x0#8 = 0#8)) ((rfl : 0x0#10 &&& 0x3ff#10 = 0#10))) (and_free v)) ((rfl : 0x0#6 &&& 0x3f#6 = 0#6))) (and_free x)) (and_free d)) ((rfl : 0x0#2 &&& 0x3#2 = 0#2))
  have f0 : (fld (encode (.rrank v x d)) 10 : BitVec 4) = v := extract_above (0x0#2 : BitVec 2) (extract_above (d : BitVec 1) (extract_above (x : BitVec 1) (extract_above (0x0#6 : BitVec 6) (extract_last _ _))))
  have f1 : (fld (encode (.rrank v x d)) 3 : BitVec 1) = x := extract_above (0x0#2 : BitVec 2) (extract_above (d : BitVec 1) (extract_last _ _))
  have f2 : (fld (encode (.rrank v x d)) 2 : BitVec 1) = d := extract_above (0x0#2 : BitVec 2) (extract_last _ _)
  simp only [slotD (no_mark ho (by decide)), decodeD, ho, f0, f1, f2]
  exact checked_ok hr hi
theorem Encoding.accz (a : BitVec 5) (t : BitVec 2) : Encoding.Statement (.accz a t) := by
  intro k hk hi
  cases hk
  have ho : (encode (.accz a t)).extractLsb' 24 8 = 0x20#8 := extract_above (t : BitVec 2) (extract_above (0x0#17 : BitVec 17) (extract_above (a : BitVec 5) (rfl)))
  have hr : encode (.accz a t) &&& 0x0007FFFC#32 = 0#32 := and_parts (and_parts (and_parts ((rfl : 0x20#8 &&& 0x0#8 = 0#8)) (and_free a)) ((rfl : 0x0#17 &&& 0x1ffff#17 = 0#17))) (and_free t)
  have f0 : (fld (encode (.accz a t)) 19 : BitVec 5) = a := extract_above (t : BitVec 2) (extract_above (0x0#17 : BitVec 17) (extract_last _ _))
  have f1 : (fld (encode (.accz a t)) 0 : BitVec 2) = t := extract_last _ _
  simp only [slotD (no_mark ho (by decide)), decodeD, ho, f0, f1]
  exact checked_ok hr hi
theorem Encoding.accrd (a : BitVec 5) (f : BitVec 2) (g : BitVec 2) (t : BitVec 2) : Encoding.Statement (.accrd a f g t) := by
  intro k hk hi
  cases hk
  have ho : (encode (.accrd a f g t)).extractLsb' 24 8 = 0x21#8 := extract_above (t : BitVec 2) (extract_above (g : BitVec 2) (extract_above (f : BitVec 2) (extract_above (0x0#13 : BitVec 13) (extract_above (a : BitVec 5) (rfl)))))
  have hr : encode (.accrd a f g t) &&& 0x0007FFC0#32 = 0#32 := and_parts (and_parts (and_parts (and_parts (and_parts ((rfl : 0x21#8 &&& 0x0#8 = 0#8)) (and_free a)) ((rfl : 0x0#13 &&& 0x1fff#13 = 0#13))) (and_free f)) (and_free g)) (and_free t)
  have f0 : (fld (encode (.accrd a f g t)) 19 : BitVec 5) = a := extract_above (t : BitVec 2) (extract_above (g : BitVec 2) (extract_above (f : BitVec 2) (extract_above (0x0#13 : BitVec 13) (extract_last _ _))))
  have f1 : (fld (encode (.accrd a f g t)) 4 : BitVec 2) = f := extract_above (t : BitVec 2) (extract_above (g : BitVec 2) (extract_last _ _))
  have f2 : (fld (encode (.accrd a f g t)) 2 : BitVec 2) = g := extract_above (t : BitVec 2) (extract_last _ _)
  have f3 : (fld (encode (.accrd a f g t)) 0 : BitVec 2) = t := extract_last _ _
  simp only [slotD (no_mark ho (by decide)), decodeD, ho, f0, f1, f2, f3]
  exact checked_ok hr hi
theorem Encoding.accst (a : BitVec 5) (b : BitVec 5) (r : BitVec 1) (p : BitVec 1) (f : BitVec 2) (t : BitVec 2) : Encoding.Statement (.accst a b r p f t) := by
  intro k hk hi
  cases hk
  have ho : (encode (.accst a b r p f t)).extractLsb' 24 8 = 0x22#8 := extract_above (t : BitVec 2) (extract_above (f : BitVec 2) (extract_above (p : BitVec 1) (extract_above (r : BitVec 1) (extract_above (0x0#8 : BitVec 8) (extract_above (b : BitVec 5) (extract_above (a : BitVec 5) (rfl)))))))
  have hr : encode (.accst a b r p f t) &&& 0x00003FC0#32 = 0#32 := and_parts (and_parts (and_parts (and_parts (and_parts (and_parts (and_parts ((rfl : 0x22#8 &&& 0x0#8 = 0#8)) (and_free a)) (and_free b)) ((rfl : 0x0#8 &&& 0xff#8 = 0#8))) (and_free r)) (and_free p)) (and_free f)) (and_free t)
  have f0 : (fld (encode (.accst a b r p f t)) 19 : BitVec 5) = a := extract_above (t : BitVec 2) (extract_above (f : BitVec 2) (extract_above (p : BitVec 1) (extract_above (r : BitVec 1) (extract_above (0x0#8 : BitVec 8) (extract_above (b : BitVec 5) (extract_last _ _))))))
  have f1 : (fld (encode (.accst a b r p f t)) 14 : BitVec 5) = b := extract_above (t : BitVec 2) (extract_above (f : BitVec 2) (extract_above (p : BitVec 1) (extract_above (r : BitVec 1) (extract_above (0x0#8 : BitVec 8) (extract_last _ _)))))
  have f2 : (fld (encode (.accst a b r p f t)) 5 : BitVec 1) = r := extract_above (t : BitVec 2) (extract_above (f : BitVec 2) (extract_above (p : BitVec 1) (extract_last _ _)))
  have f3 : (fld (encode (.accst a b r p f t)) 4 : BitVec 1) = p := extract_above (t : BitVec 2) (extract_above (f : BitVec 2) (extract_last _ _))
  have f4 : (fld (encode (.accst a b r p f t)) 2 : BitVec 2) = f := extract_above (t : BitVec 2) (extract_last _ _)
  have f5 : (fld (encode (.accst a b r p f t)) 0 : BitVec 2) = t := extract_last _ _
  simp only [slotD (no_mark ho (by decide)), decodeD, ho, f0, f1, f2, f3, f4, f5]
  exact checked_ok hr hi
theorem Encoding.accnorm (t : BitVec 2) : Encoding.Statement (.accnorm t) := by
  intro k hk hi
  cases hk
  have ho : (encode (.accnorm t)).extractLsb' 24 8 = 0x23#8 := extract_above (t : BitVec 2) (extract_above (0x0#22 : BitVec 22) (rfl))
  have hr : encode (.accnorm t) &&& 0x00FFFFFC#32 = 0#32 := and_parts (and_parts ((rfl : 0x23#8 &&& 0x0#8 = 0#8)) ((rfl : 0x0#22 &&& 0x3fffff#22 = 0#22))) (and_free t)
  have f0 : (fld (encode (.accnorm t)) 0 : BitVec 2) = t := extract_last _ _
  simp only [slotD (no_mark ho (by decide)), decodeD, ho, f0]
  exact checked_ok hr hi
theorem Encoding.accexp (a : BitVec 5) (e : BitVec 1) (t : BitVec 2) : Encoding.Statement (.accexp a e t) := by
  intro k hk hi
  cases hk
  have ho : (encode (.accexp a e t)).extractLsb' 24 8 = 0x24#8 := extract_above (t : BitVec 2) (extract_above (e : BitVec 1) (extract_above (0x0#16 : BitVec 16) (extract_above (a : BitVec 5) (rfl))))
  have hr : encode (.accexp a e t) &&& 0x0007FFF8#32 = 0#32 := and_parts (and_parts (and_parts (and_parts ((rfl : 0x24#8 &&& 0x0#8 = 0#8)) (and_free a)) ((rfl : 0x0#16 &&& 0xffff#16 = 0#16))) (and_free e)) (and_free t)
  have f0 : (fld (encode (.accexp a e t)) 19 : BitVec 5) = a := extract_above (t : BitVec 2) (extract_above (e : BitVec 1) (extract_above (0x0#16 : BitVec 16) (extract_last _ _)))
  have f1 : (fld (encode (.accexp a e t)) 2 : BitVec 1) = e := extract_above (t : BitVec 2) (extract_last _ _)
  have f2 : (fld (encode (.accexp a e t)) 0 : BitVec 2) = t := extract_last _ _
  simp only [slotD (no_mark ho (by decide)), decodeD, ho, f0, f1, f2]
  exact checked_ok hr hi
theorem Encoding.rcal (a : BitVec 5) : Encoding.Statement (.rcal a) := by
  intro k hk hi
  cases hk
  have ho : (encode (.rcal a)).extractLsb' 24 8 = 0x30#8 := extract_above (0x0#19 : BitVec 19) (extract_above (a : BitVec 5) (rfl))
  have hr : encode (.rcal a) &&& 0x0007FFFF#32 = 0#32 := and_parts (and_parts ((rfl : 0x30#8 &&& 0x0#8 = 0#8)) (and_free a)) ((rfl : 0x0#19 &&& 0x7ffff#19 = 0#19))
  have f0 : (fld (encode (.rcal a)) 19 : BitVec 5) = a := extract_above (0x0#19 : BitVec 19) (extract_last _ _)
  simp only [slotD (no_mark ho (by decide)), decodeD, ho, f0]
  exact checked_ok hr hi
theorem Encoding.rtrimr (n : BitVec 6) : Encoding.Statement (.rtrimr n) := by
  intro k hk hi
  cases hk
  have ho : (encode (.rtrimr n)).extractLsb' 24 8 = 0x31#8 := extract_above (n : BitVec 6) (extract_above (0x0#18 : BitVec 18) (rfl))
  have hr : encode (.rtrimr n) &&& 0x00FFFFC0#32 = 0#32 := and_parts (and_parts ((rfl : 0x31#8 &&& 0x0#8 = 0#8)) ((rfl : 0x0#18 &&& 0x3ffff#18 = 0#18))) (and_free n)
  have f0 : (fld (encode (.rtrimr n)) 0 : BitVec 6) = n := extract_last _ _
  simp only [slotD (no_mark ho (by decide)), decodeD, ho, f0]
  exact checked_ok hr hi
theorem Encoding.rtrimw (a : BitVec 5) (n : BitVec 6) : Encoding.Statement (.rtrimw a n) := by
  intro k hk hi
  cases hk
  have ho : (encode (.rtrimw a n)).extractLsb' 24 8 = 0x32#8 := extract_above (n : BitVec 6) (extract_above (0x0#13 : BitVec 13) (extract_above (a : BitVec 5) (rfl)))
  have hr : encode (.rtrimw a n) &&& 0x0007FFC0#32 = 0#32 := and_parts (and_parts (and_parts ((rfl : 0x32#8 &&& 0x0#8 = 0#8)) (and_free a)) ((rfl : 0x0#13 &&& 0x1fff#13 = 0#13))) (and_free n)
  have f0 : (fld (encode (.rtrimw a n)) 19 : BitVec 5) = a := extract_above (n : BitVec 6) (extract_above (0x0#13 : BitVec 13) (extract_last _ _))
  have f1 : (fld (encode (.rtrimw a n)) 0 : BitVec 6) = n := extract_last _ _
  simp only [slotD (no_mark ho (by decide)), decodeD, ho, f0, f1]
  exact checked_ok hr hi
theorem Encoding.rstat (n : BitVec 6) : Encoding.Statement (.rstat n) := by
  intro k hk hi
  cases hk
  have ho : (encode (.rstat n)).extractLsb' 24 8 = 0x33#8 := extract_above (n : BitVec 6) (extract_above (0x0#18 : BitVec 18) (rfl))
  have hr : encode (.rstat n) &&& 0x00FFFFC0#32 = 0#32 := and_parts (and_parts ((rfl : 0x33#8 &&& 0x0#8 = 0#8)) ((rfl : 0x0#18 &&& 0x3ffff#18 = 0#18))) (and_free n)
  have f0 : (fld (encode (.rstat n)) 0 : BitVec 6) = n := extract_last _ _
  simp only [slotD (no_mark ho (by decide)), decodeD, ho, f0]
  exact checked_ok hr hi
theorem Encoding.bundleIssue (l k : Nat) : Encoding.Statement (.bundleIssue l k) := fun _ h => nomatch h
theorem Encoding.resultLanding (l k : Nat) : Encoding.Statement (.resultLanding l k) := fun _ h => nomatch h
theorem Encoding.landingSlotFill (l k c slot : Nat) : Encoding.Statement (.landingSlotFill l k c slot) := fun _ h => nomatch h
theorem Encoding.sectorLanding (l k r hod sector : Nat) (data : BitVec 256) : Encoding.Statement (.sectorLanding l k r hod sector data) := fun _ h => nomatch h
theorem Encoding.nbrRequestArrival (l k : Nat) : Encoding.Statement (.nbrRequestArrival l k) := fun _ h => nomatch h
theorem Encoding.dieCacheRequest (l : Nat) : Encoding.Statement (.dieCacheRequest l) := fun _ h => nomatch h
theorem Encoding.lineReadExpand (l line : Nat) (mask : BitVec 4) : Encoding.Statement (.lineReadExpand l line mask) := fun _ h => nomatch h
theorem Encoding.fullLineWrite (l line : Nat) (comp : Bool) (data : BitVec 1024) : Encoding.Statement (.fullLineWrite l line comp data) := fun _ h => nomatch h
theorem Encoding.partialLineWrite (l addr : Nat) (comp : Bool) (bytes : List (BitVec 8)) : Encoding.Statement (.partialLineWrite l addr comp bytes) := fun _ h => nomatch h
theorem Encoding.tableWalkStart (l : Nat) : Encoding.Statement (.tableWalkStart l) := fun _ h => nomatch h
theorem Encoding.tableWalkComplete (l : Nat) : Encoding.Statement (.tableWalkComplete l) := fun _ h => nomatch h
theorem Encoding.peerRequestCheck (l ipkg idie expidx gen : Nat) (rights : BitVec 3) (e kind : Nat) (bytes : List (BitVec 8)) : Encoding.Statement (.peerRequestCheck l ipkg idie expidx gen rights e kind bytes) := fun _ h => nomatch h
theorem Encoding.peerResponseTimeout (l k c slot : Nat) : Encoding.Statement (.peerResponseTimeout l k c slot) := fun _ h => nomatch h
theorem Encoding.xlinvPage (l : Nat) (vpage : BitVec 36) : Encoding.Statement (.xlinvPage l vpage) := fun _ h => nomatch h
theorem Encoding.xlinvRange (l : Nat) (vpage : BitVec 36) : Encoding.Statement (.xlinvRange l vpage) := fun _ h => nomatch h
theorem Encoding.xlinvAll (l : Nat) : Encoding.Statement (.xlinvAll l) := fun _ h => nomatch h
theorem Encoding.xlinvReject (l : Nat) (v : BitVec 64) : Encoding.Statement (.xlinvReject l v) := fun _ h => nomatch h
theorem Encoding.invalidationDone (l : Nat) : Encoding.Statement (.invalidationDone l) := fun _ h => nomatch h
theorem Encoding.shopenGrant (l k c : Nat) : Encoding.Statement (.shopenGrant l k c) := fun _ h => nomatch h
theorem Encoding.shpubExchange (l k c : Nat) : Encoding.Statement (.shpubExchange l k c) := fun _ h => nomatch h
theorem Encoding.claimGrant (l k : Nat) (tile : Bool) (n : Nat) : Encoding.Statement (.claimGrant l k tile n) := fun _ h => nomatch h
theorem Encoding.engineCommandAccept (l k c : Nat) : Encoding.Statement (.engineCommandAccept l k c) := fun _ h => nomatch h
theorem Encoding.copyChunkTranslate (l k c : Nat) : Encoding.Statement (.copyChunkTranslate l k c) := fun _ h => nomatch h
theorem Encoding.copyBlockWrite (l k c : Nat) : Encoding.Statement (.copyBlockWrite l k c) := fun _ h => nomatch h
theorem Encoding.copyComplete (l k c : Nat) : Encoding.Statement (.copyComplete l k c) := fun _ h => nomatch h
theorem Encoding.stampedCopyAck (l : Nat) : Encoding.Statement (.stampedCopyAck l) := fun _ h => nomatch h
theorem Encoding.transformChunkStart (l k c : Nat) : Encoding.Statement (.transformChunkStart l k c) := fun _ h => nomatch h
theorem Encoding.transformEcall (l k c : Nat) : Encoding.Statement (.transformEcall l k c) := fun _ h => nomatch h
theorem Encoding.transformTimeout (l k c : Nat) : Encoding.Statement (.transformTimeout l k c) := fun _ h => nomatch h
theorem Encoding.transformException (l k c : Nat) (access : Bool) : Encoding.Statement (.transformException l k c access) := fun _ h => nomatch h
theorem Encoding.engineFaultReport (l k c : Nat) : Encoding.Statement (.engineFaultReport l k c) := fun _ h => nomatch h
theorem Encoding.cbldEntryCommit (l k c : Nat) : Encoding.Statement (.cbldEntryCommit l k c) := fun _ h => nomatch h
theorem Encoding.cbvalCommit (l k c : Nat) : Encoding.Statement (.cbvalCommit l k c) := fun _ h => nomatch h
theorem Encoding.cbsaveComplete (l k c : Nat) : Encoding.Statement (.cbsaveComplete l k c) := fun _ h => nomatch h
theorem Encoding.codebookExchange (l k c : Nat) : Encoding.Statement (.codebookExchange l k c) := fun _ h => nomatch h
theorem Encoding.rldwCourseCommit (l k : Nat) : Encoding.Statement (.rldwCourseCommit l k) := fun _ h => nomatch h
theorem Encoding.passConverterRead (l k : Nat) (refused : BitVec 256) : Encoding.Statement (.passConverterRead l k refused) := fun _ h => nomatch h
theorem Encoding.reraceComplete (l k : Nat) (refused : BitVec 256) : Encoding.Statement (.reraceComplete l k refused) := fun _ h => nomatch h
theorem Encoding.passLanding (l k : Nat) : Encoding.Statement (.passLanding l k) := fun _ h => nomatch h
theorem Encoding.renormalisationStep (l k t : Nat) : Encoding.Statement (.renormalisationStep l k t) := fun _ h => nomatch h
theorem Encoding.combRead (l k : Nat) (refused : Bool) : Encoding.Statement (.combRead l k refused) := fun _ h => nomatch h
theorem Encoding.combResultLand (l k : Nat) : Encoding.Statement (.combResultLand l k) := fun _ h => nomatch h
theorem Encoding.rcalResult (l k : Nat) : Encoding.Statement (.rcalResult l k) := fun _ h => nomatch h
theorem Encoding.eccCorrectedCore (l k : Nat) : Encoding.Statement (.eccCorrectedCore l k) := fun _ h => nomatch h
theorem Encoding.eccFreezeEnd (l k : Nat) : Encoding.Statement (.eccFreezeEnd l k) := fun _ h => nomatch h
theorem Encoding.eccCorrectedMemory (l addr : Nat) : Encoding.Statement (.eccCorrectedMemory l addr) := fun _ h => nomatch h
theorem Encoding.uncorrectableError (l place k addr : Nat) : Encoding.Statement (.uncorrectableError l place k addr) := fun _ h => nomatch h
theorem Encoding.calibrationPeriodicTimer (l k : Nat) : Encoding.Statement (.calibrationPeriodicTimer l k) := fun _ h => nomatch h
theorem Encoding.temperatureSample (l k : Nat) (temp : BitVec 16) : Encoding.Statement (.temperatureSample l k temp) := fun _ h => nomatch h
theorem Encoding.calibrationStart (l k : Nat) : Encoding.Statement (.calibrationStart l k) := fun _ h => nomatch h
theorem Encoding.calibrationRoutine (l k : Nat) : Encoding.Statement (.calibrationRoutine l k) := fun _ h => nomatch h
theorem Encoding.doorbellWrite (l q : Nat) (tail : BitVec 32) : Encoding.Statement (.doorbellWrite l q tail) := fun _ h => nomatch h
theorem Encoding.openRegion (l q : Nat) : Encoding.Statement (.openRegion l q) := fun _ h => nomatch h
theorem Encoding.placeOperator (l q : Nat) : Encoding.Statement (.placeOperator l q) := fun _ h => nomatch h
theorem Encoding.refresh (l q : Nat) : Encoding.Statement (.refresh l q) := fun _ h => nomatch h
theorem Encoding.closeRegion (l q : Nat) : Encoding.Statement (.closeRegion l q) := fun _ h => nomatch h
theorem Encoding.killRegion (l q : Nat) : Encoding.Statement (.killRegion l q) := fun _ h => nomatch h
theorem Encoding.resume (l q : Nat) : Encoding.Statement (.resume l q) := fun _ h => nomatch h
theorem Encoding.launchRefused (l q : Nat) : Encoding.Statement (.launchRefused l q) := fun _ h => nomatch h
theorem Encoding.stepRelease (l w : Nat) : Encoding.Statement (.stepRelease l w) := fun _ h => nomatch h
theorem Encoding.switchThresholdExpiry (l k : Nat) : Encoding.Statement (.switchThresholdExpiry l k) := fun _ h => nomatch h
theorem Encoding.sliceExpiry (l k : Nat) : Encoding.Statement (.sliceExpiry l k) := fun _ h => nomatch h
theorem Encoding.priorityAgeing (l k c : Nat) : Encoding.Statement (.priorityAgeing l k c) := fun _ h => nomatch h
theorem Encoding.swapThresholdExpiry (l k c : Nat) : Encoding.Statement (.swapThresholdExpiry l k c) := fun _ h => nomatch h
theorem Encoding.swapOut (l k c : Nat) : Encoding.Statement (.swapOut l k c) := fun _ h => nomatch h
theorem Encoding.swapIn (l slot : Nat) : Encoding.Statement (.swapIn l slot) := fun _ h => nomatch h
theorem Encoding.waitingBudgetExhausted (l k c : Nat) : Encoding.Statement (.waitingBudgetExhausted l k c) := fun _ h => nomatch h
theorem Encoding.stepTimeBoundOverrun (l k c : Nat) : Encoding.Statement (.stepTimeBoundOverrun l k c) := fun _ h => nomatch h
theorem Encoding.waitcTimeout (l k c : Nat) : Encoding.Statement (.waitcTimeout l k c) := fun _ h => nomatch h
theorem Encoding.publicationComplete (l k c : Nat) : Encoding.Statement (.publicationComplete l k c) := fun _ h => nomatch h
theorem Encoding.fenceComplete (l k c : Nat) : Encoding.Statement (.fenceComplete l k c) := fun _ h => nomatch h
theorem Encoding.retirementComplete (l k c : Nat) : Encoding.Statement (.retirementComplete l k c) := fun _ h => nomatch h
theorem Encoding.scratchpadAllocationFree (l k : Nat) : Encoding.Statement (.scratchpadAllocationFree l k) := fun _ h => nomatch h
theorem Encoding.tokenArrival (l : Nat) : Encoding.Statement (.tokenArrival l) := fun _ h => nomatch h
theorem Encoding.tokenAcceptance (l : Nat) : Encoding.Statement (.tokenAcceptance l) := fun _ h => nomatch h
theorem Encoding.tokenRefusal (l : Nat) : Encoding.Statement (.tokenRefusal l) := fun _ h => nomatch h
theorem Encoding.ltEnable (l p : Nat) : Encoding.Statement (.ltEnable l p) := fun _ h => nomatch h
theorem Encoding.ltEnableComplete (l p : Nat) : Encoding.Statement (.ltEnableComplete l p) := fun _ h => nomatch h
theorem Encoding.ltAdvanceRoot (l p : Nat) : Encoding.Statement (.ltAdvanceRoot l p) := fun _ h => nomatch h
theorem Encoding.ltSeal (l p : Nat) : Encoding.Statement (.ltSeal l p) := fun _ h => nomatch h
theorem Encoding.ltDisable (l p : Nat) : Encoding.Statement (.ltDisable l p) := fun _ h => nomatch h
theorem Encoding.ltBadCommand (l : Nat) (v : BitVec 64) : Encoding.Statement (.ltBadCommand l v) := fun _ h => nomatch h
theorem Encoding.rootNoticeApply (l : Nat) : Encoding.Statement (.rootNoticeApply l) := fun _ h => nomatch h
theorem Encoding.rootNoticeReply (l : Nat) : Encoding.Statement (.rootNoticeReply l) := fun _ h => nomatch h
theorem Encoding.batchCloseTimeout (l : Nat) : Encoding.Statement (.batchCloseTimeout l) := fun _ h => nomatch h
theorem Encoding.batchApply (l : Nat) : Encoding.Statement (.batchApply l) := fun _ h => nomatch h
theorem Encoding.curfewNoticeApply (l : Nat) : Encoding.Statement (.curfewNoticeApply l) := fun _ h => nomatch h
theorem Encoding.spillReadback (l : Nat) : Encoding.Statement (.spillReadback l) := fun _ h => nomatch h
theorem Encoding.ltspszWrite (l : Nat) (v : BitVec 64) : Encoding.Statement (.ltspszWrite l v) := fun _ h => nomatch h
theorem Encoding.interleaveCommit (l : Nat) (v : BitVec 64) : Encoding.Statement (.interleaveCommit l v) := fun _ h => nomatch h
theorem Encoding.interleaveCommitDone (l : Nat) : Encoding.Statement (.interleaveCommitDone l) := fun _ h => nomatch h
theorem Encoding.faultRecordWrite (l : Nat) : Encoding.Statement (.faultRecordWrite l) := fun _ h => nomatch h
theorem Encoding.fqheadWrite (l : Nat) (v : BitVec 32) : Encoding.Statement (.fqheadWrite l v) := fun _ h => nomatch h
theorem Encoding.fqbaseWrite (l : Nat) (v : BitVec 64) : Encoding.Statement (.fqbaseWrite l v) := fun _ h => nomatch h
theorem Encoding.machineCheck (l unit : Nat) : Encoding.Statement (.machineCheck l unit) := fun _ h => nomatch h
theorem Encoding.functionLevelReset (l : Nat) : Encoding.Statement (.functionLevelReset l) := fun _ h => nomatch h
theorem Encoding.powerOnReset (p : Nat) : Encoding.Statement (.powerOnReset p) := fun _ h => nomatch h
theorem Encoding.startStageAdvance (l reason : Nat) : Encoding.Statement (.startStageAdvance l reason) := fun _ h => nomatch h
theorem Encoding.firmwareVerify (p : Nat) (flash : Option Signed) (manifests : List Manifest) (mailbox : Bool) :
    Encoding.Statement (.firmwareVerify p flash manifests mailbox) := fun _ h => nomatch h
theorem Encoding.doeImageWrite (p : Nat) (image : Signed) : Encoding.Statement (.doeImageWrite p image) := fun _ h => nomatch h
theorem Encoding.msixUnmask (l v : Nat) : Encoding.Statement (.msixUnmask l v) := fun _ h => nomatch h
theorem Encoding.hostCxlMemAccess (l : Nat) (write : Bool) (addr n : Nat) (bytes : List (BitVec 8)) : Encoding.Statement (.hostCxlMemAccess l write addr n bytes) := fun _ h => nomatch h
theorem Encoding.meshFlitReceive (p link seq : Nat) (good : Bool) : Encoding.Statement (.meshFlitReceive p link seq good) := fun _ h => nomatch h
theorem Encoding.meshLaneFailure (p link lane : Nat) : Encoding.Statement (.meshLaneFailure p link lane) := fun _ h => nomatch h
theorem Encoding.beyvexFlitReceive (p port seq ack : Nat) (good : Bool) : Encoding.Statement (.beyvexFlitReceive p port seq ack good) := fun _ h => nomatch h
theorem Encoding.beyvexNakReceive (p port seq : Nat) : Encoding.Statement (.beyvexNakReceive p port seq) := fun _ h => nomatch h
theorem Encoding.beyvexLaneFailure (p port lane : Nat) : Encoding.Statement (.beyvexLaneFailure p port lane) := fun _ h => nomatch h
theorem Encoding.beyvexRetrainDone (p port : Nat) : Encoding.Statement (.beyvexRetrainDone p port) := fun _ h => nomatch h
theorem Encoding.bxctlRetrain (l port : Nat) : Encoding.Statement (.bxctlRetrain l port) := fun _ h => nomatch h
theorem Encoding.peerRegionCommit (l : Nat) (v : BitVec 64) : Encoding.Statement (.peerRegionCommit l v) := fun _ h => nomatch h
theorem Encoding.peerRegionCommitDone (p : Nat) : Encoding.Statement (.peerRegionCommitDone p) := fun _ h => nomatch h
theorem Encoding.staggerMessage (p port base step modulus : Nat) : Encoding.Statement (.staggerMessage p port base step modulus) := fun _ h => nomatch h
theorem Encoding.powerEstimateTick (p watts : Nat) : Encoding.Statement (.powerEstimateTick p watts) := fun _ h => nomatch h
theorem Encoding.quietDetection (p : Nat) : Encoding.Statement (.quietDetection p) := fun _ h => nomatch h
theorem Encoding.floorHoldExpiry (p : Nat) : Encoding.Statement (.floorHoldExpiry p) := fun _ h => nomatch h
theorem Encoding.stagoffExpiry (p : Nat) : Encoding.Statement (.stagoffExpiry p) := fun _ h => nomatch h
theorem Encoding.fillerRaceStart (l k : Nat) : Encoding.Statement (.fillerRaceStart l k) := fun _ h => nomatch h
theorem Encoding.powerRegisterWrite (l off : Nat) (v : BitVec 64) : Encoding.Statement (.powerRegisterWrite l off v) := fun _ h => nomatch h
theorem Encoding.registerWrite (l block off : Nat) (v : BitVec 64) : Encoding.Statement (.registerWrite l block off v) := fun _ h => nomatch h
theorem Encoding.meshLaneSpareReplay (p link : Nat) : Encoding.Statement (.meshLaneSpareReplay p link) := fun _ h => nomatch h
theorem Encoding.linkPartnerRetrain (p port : Nat) : Encoding.Statement (.linkPartnerRetrain p port) := fun _ h => nomatch h
theorem Encoding.virtualHierarchyBinding (l : Nat) (host : Option Nat) : Encoding.Statement (.virtualHierarchyBinding l host) := fun _ h => nomatch h
theorem Encoding.spdmRequest (l request : Nat) : Encoding.Statement (.spdmRequest l request) := fun _ h => nomatch h

end Sys2Proof.Laws
end

