-- ==== Sys2Proof/Safety.lean ====
section
/-! DEFINITION. What counts as a safe run: no step of it faults or is refused. An event that names a unit the part does not have is the
only fault (log entry 8). -/

namespace Sys2Proof

/-- The outcome is a next state. -/
def Goes (o : Host.Outcome Machine.State Machine.Fault Machine.Refusal) : Prop := ∃ t, o = .next t

/-- `k` steps from `s` all answer a next state. -/
def SafeFor (k : Nat) (s : Machine.State) : Prop := Goes (core.run k s)

/-- Every event that the outside world has put on the agenda names units of the part. -/
def AgendaOk (s : Machine.State) : Prop := ∀ i ∈ s.agenda, i.unitsOk = true

end Sys2Proof
end

