-- ==== Sys2Proof/Certificates/Slice0/Obligations.lean ====
section
/-! DEFINITION. The statements about the model. A slot word's statement says what `exec` answers for the word issued alone in the
current context, under conditions on the state and the operands alone; an event's, when it is enabled and what it leaves. -/

namespace Sys2Proof.Claim

open Sys2Proof.Machine

/-! Words used by the statements -/

/-- The register that a scalar source code names (R260). -/
def scalarReg (x : Ctx) (c : BitVec 5) : Reg := if c.toNat < 16 then x.regs.b.getD c.toNat {} else x.regs.k.getD (c.toNat - 16) {}
/-- A valid register without poison that holds a value (R253). -/
def Has (r : Reg) (v : Word) : Prop := r.valid = true ∧ r.poison = false ∧ r.val = v
/-- The scalar source `c` of the current context reads `v`. -/
def ScalarIs (s : State) (c : BitVec 5) (v : Word) : Prop := Has (scalarReg s.me c) v
/-- The register that a vector source code names (R260). -/
def vectorReg (x : Ctx) (c : BitVec 4) : VReg := if c.toNat < 8 then x.regs.v.getD c.toNat {} else x.regs.w.getD (c.toNat - 8) {}
/-- The vector source `c` of the current context reads `v`. -/
def VectorIs (s : State) (c : BitVec 4) (v : VReg) : Prop := vectorReg s.me c = v ∧ v.valid = true ∧ v.poison = false
/-- An access source (R260, R272): a register, or for code 15 the filled head of the scalar data queue, which it pops: the value, and the
state after the read. -/
def accessSource (s : State) (c : BitVec 4) : Option (Word × State) :=
  if c = 15#4 then
    match s.me.st.sq with
    | e :: r => if e.poison then none else e.val.map fun v => (v, s.updMe fun x => { x with st.sq := r })
    | [] => none
  else if (s.me.regs.a.getD c.toNat {}).valid && !(s.me.regs.a.getD c.toNat {}).poison then some ((s.me.regs.a.getD c.toNat {}).val, s) else none
/-- Two access sources read in turn. -/
def accessTwo (s : State) (c d : BitVec 4) : Option (Word × Word × State) :=
  (accessSource s c).bind fun p => (accessSource p.2 d).map fun q => (p.1, q.1, q.2)
/-- A source of the E word (R375): the words that it has taken from the queue at its first test come before the queue's head. -/
def engineSource (s : State) (c : BitVec 4) : Option (Word × State) :=
  match s.me.st.popped with
  | v :: r => if c = 15#4 then some (v, s.updMe fun x => { x with st.popped := r }) else accessSource s c
  | [] => accessSource s c
/-- Two sources of the E word read in turn. -/
def engineTwo (s : State) (c d : BitVec 4) : Option (Word × Word × State) :=
  (engineSource s c).bind fun p => (engineSource p.2 d).map fun q => (p.1, q.1, q.2)
/-- An access register written (R272). -/
def withA (s : State) (d : BitVec 4) (v : Word) : State := s.updMe (·.setA d v)

/-- A result in flight (R256). -/
def inFlight (slot lat : Nat) (dest : Dest) (pay : Payload) (fl : Nat) (x : Ctx) : Ctx :=
  { x with st.flight := x.st.flight ++ [{ land := x.st.cc + lat, slot := slot, seq := x.st.cc, dest := dest, pay := pay, flags := BitVec.ofNat 7 fl }] }
/-- The state after a scalar result has been sent to destination `d` (R260): an age, an entry reserved in the scalar data queue (R249), or
a named register. -/
def sentX (s : State) (d : BitVec 5) (lat : Nat) (v : Word) (fl : Nat := 0) : State :=
  if d = 0#5 then s.updMe (inFlight 0 lat .age (.scalar v) fl)
  else if d = 1#5 then
    s.updMe fun x => { inFlight 0 lat (.queue x.st.nextId) (.scalar v) fl x with st.sq := x.st.sq ++ [{ id := x.st.nextId }], st.nextId := x.st.nextId + 1 }
  else s.updMe (inFlight 0 lat (.reg (d.toNat - 16)) (.scalar v) fl)
/-- A scalar destination code that an instruction may carry (R260); the scalar data queue has room when the result goes there (R249). -/
def RoomX (s : State) (d : BitVec 5) : Prop := (d = 0#5 ∨ d = 1#5 ∨ 16 ≤ d.toNat) ∧ (d = 1#5 → s.me.st.sq.length < 32)
/-- RMODE is free of poison (R437). -/
def RmodeOk (s : State) : Prop := s.me.sys.poison.has 7 = false
/-- The state after a vector result has been sent to destination `d` (R260, R304). -/
def sentV (s : State) (d : BitVec 4) (lat : Nat) (o : VOut) : State :=
  if d = 1#4 then s.updMe (inFlight 1 lat .none .flags o.fl)
  else s.updMe (inFlight 1 lat (if d = 0#4 then .age else .reg (d.toNat - 8)) (.vec (BitVec.ofNat 2048 o.data) (BitVec.ofNat 256 o.side)) o.fl)
/-- The state after a D result has been sent to the scalar ages (R347). -/
def sentD (s : State) (lat : Nat) (v : Word) : State := s.updMe (inFlight 2 lat .age (.scalar v) 0)

/-- A landing slot made Pending by a load (R68, R69). -/
def pendSlot (l : Nat) (y : BitVec 4) (sl : LSlot) (x : Ctx) : Ctx :=
  { x with regs.ls := x.regs.ls.set l { sl with st := .pending, visible := x.st.cc + x.st.run.length + arrivalOf y } }
/-- The landing slot is Free. -/
def SlotFree (s : State) (l : Nat) : Prop := (s.me.regs.ls.getD l {}).st = .free
/-- The effective address of a base value (R275). -/
def eaOf (v : Word) (disp : Int) (unit : Nat) : Nat := wrap 64 (v.toNat + disp * unit)
/-- An OWN (false) or NBR (true) access within its limits and aligned (R13, R275). -/
def LocalOk (nbr : Bool) (ea span align : Nat) : Prop :=
  (nbr = true → ea / 2 ^ 22 ≤ 47) ∧ (if nbr then ea % 2 ^ 22 else ea) + span ≤ spadEnd ∧ ea % align = 0
/-- A request sent to core `k`'s bank (R57). -/
def sentNbr (s : State) (k : Nat) (r : NbrReq) : State :=
  s.updLd s.cur.l fun x => x.updCore k fun y => { y with nbrQ := y.nbrQ ++ [{ r with src := s.cur.k, ctx := s.cur.c, sid := s.me.sid }] }
/-- The step may do what R433 keeps from restartable steps. -/
def NotRestart (s : State) : Prop := s.me.priv = true ∨ (s.opOf s.cur.l s.me.sys.opid).restart = false
/-- The current core, changed. -/
def updHere (s : State) (f : Core → Core) : State := s.updCore s.cur.l s.cur.k f
/-- The current core. -/
def here (s : State) : Core := s.core s.cur.l s.cur.k
/-- The filled, unpoisoned head of the vector data queue and the state after its pop (R278). -/
def vectorHead (s : State) : Option (VReg × State) :=
  match s.me.st.vq with
  | e :: r => e.val.bind fun v => if v.poison then none else some (v, s.updMe fun x => { x with st.vq := r })
  | [] => none
/-- The limits and alignment of a global address (R13, R275). -/
def GlobalOk (sp ea align : Nat) : Prop := ea < (if sp = 2 then 2 ^ 44 else 2 ^ 52) ∧ ea % align = 0
/-- Every piece of the access at `a` translates (R25 to R44): the places, and the state that TLBs, walks and BIE resolutions leave. -/
def Reach (s : State) (sp kind a : Nat) (ps : List (Nat × Nat)) (qs : List (Phys × Nat)) (t : State) : Prop := placesOf 1 sp kind a ps s = .ok (qs, t)
/-- The step's acquire of everything (R170, R173): loads still on their way belong to the interval that ends. -/
def acquired (s : State) : State := (s.settleLoads s.cur.l s.me.sid).updMe Ctx.acquire
/-- Code read from one address to another (R27, R109, R265): the TLBs hold the pages in between, the die caches the code and the tables' lines. -/
def scanned (s : State) (va v : Nat) : State := s.codeRead s.cur.l s.cur.k s.cur.c (min va v) (max va v)
/-- A ring control of the current core, changed. -/
def updRingS (s : State) (id : Nat) (f : Ring → Ring) : State :=
  updHere s fun y => { y with rings := mput y.rings id (f (mgetD y.rings id {})) }
/-- A handle without poison names ring control `id`, which stands at `r` (R59). -/
def RingIs (s : State) (t id : Nat) (r : Ring) : Prop := s.me.regs.rh.getD t none = some id ∧ mgetD (here s).rings id {} = r ∧ r.poison = false
/-- The hod count of a ring word, the field or an access source, and the state after its read (R283). -/
def hodCount (s : State) (a : BitVec 4) (c : BitVec 1) (n : BitVec 7) : Option (Nat × State) :=
  if c = 0#1 then some (n.toNat, s) else (accessSource s a).map fun p => (p.1.toNat, p.2)
/-- Reading hods that hold fresh tokens acquires once (R170). -/
def tagsRead (s : State) (id : Nat) (r : Ring) (hods : List Nat) : State :=
  if hods.any fun h => (mget r.tags h).any (·.fresh) then
    acquired (updRingS s id fun r => { r with tags := r.tags.map fun t => if hods.contains t.1 then (t.1, { t.2 with fresh := false }) else t })
  else s
/-- The current step's operator. -/
def myOp (s : State) : Op := s.opOf s.cur.l s.me.sys.opid
/-- The first `n` hods consumed (R62, R143). -/
def consumed (s : State) (id : Nat) (r : Ring) (n : Nat) : State :=
  (updRingS s id fun r => r.advance n).countRecs s.cur.l (myOp s).parish (tagRecs r (r.oldest n))
/-- A step's requests, one for each piece, queued at the homes of the pieces (R173, R176); where the fabric has lost a piece, the slot is
marked with the cause instead (R415). An atomic counts as one of the step's stores. -/
def queuedHome (ls : Nat) (y : BitVec 4) (qs : List (Phys × Nat)) (r : HomeReq) (t : State) : State :=
  match qs.findSome? fun e => e.1.lost with
  | some cause => t.updMe (pendSlot ls y { vec := r.vec, glob := true, here := true, due := (here t).clk + 1, mark := cause })
  | none =>
    let seq := if r.atom.isSome then t.me.stores + 1 else t.me.stores
    (reqsOf t.me { r with src := t.cur.l, core := t.cur.k, ctx := t.cur.c, sid := t.me.sid, slot := ls, seq := seq } 0 qs).foldl State.sendReq
      (t.updMe fun x => { pendSlot ls y { vec := r.vec, glob := true, due := 0, parts := qs.length } x with stores := seq })
/-- The bytes of a store put, in order, at the places of its pieces, unpublished (R165). -/
def storedAt : List (Phys × Nat) → List (BitVec 8) → State → State
  | [], _, s => s
  | (p, n) :: r, bs, s => storedAt r (bs.drop n) (s.updMe fun x => x.storeOwn p.home p.addr (bs.take n) p.comp p.ca p.page)

/-- An expandable operand (R88, R302): as it stands, or, for fmt 0xF, the entries that its indices name in a suitable bank, all valid and
without poison, with every scale 0x7F, in the bank's format, one cc later. -/
def Expands (s : State) (f x : BitVec 4) (suits : Bank → Bool) (v : VReg) (f' data side more : Nat) : Prop :=
  if f ≠ 15#4 then f' = f.toNat ∧ data = v.data.toNat ∧ side = v.side.toNat ∧ more = 0
  else
    let b := (s.core s.cur.l s.cur.k).banks.getD (x.toNat / 4) {}
    let w := indexWidth (x.toNat % 4)
    let is := if b.kind = 1 then indices w (2048 / fw b.elem) v.data.toNat else indices w 32 v.data.toNat
    suits b = true ∧ b.regsClean = true ∧ (∀ i ∈ is, b.valid i = true ∧ b.poison.has i = false) ∧
    data = packNat (if b.kind = 1 then fw b.elem else 64) (is.map b.entry) ∧ side = plainScales 32 ∧ f' = b.elem ∧ more = 1
/-- The number of element `e` of width `w` in a vector. -/
def elemOf (w : Nat) (v : VReg) (e : Nat) : Nat := v.data.toNat / 2 ^ (w * e) % 2 ^ w
/-- A finite value as a rational number. -/
def rational (n : Bool) (m : Nat) (e : Int) : ℚ := (if n then -1 else 1) * m * 2 ^ e
/-- A value among the rationals and the two infinities. -/
def extended : FV → WithBot (WithTop ℚ)
  | .inf true => ⊥
  | .inf false => ((⊤ : WithTop ℚ) : WithBot (WithTop ℚ))
  | .fin n m e => (((rational n m e : ℚ) : WithTop ℚ) : WithBot (WithTop ℚ))
  | .nan _ => ⊥
/-- How far a value `v` is from `a` (R317): the exact distance; from an infinity, the values count by their order. -/
def away (a v : FV) : WithBot (WithTop ℚ) :=
  match a, v with
  | .inf true, v => extended v
  | .inf false, v => extended v.neg
  | .fin n m e, .fin n' m' e' => (((|rational n m e - rational n' m' e'| : ℚ) : WithTop ℚ) : WithBot (WithTop ℚ))
  | _, _ => ((⊤ : WithTop ℚ) : WithBot (WithTop ℚ))
/-- `i` is the index of a candidate at the least distance from `a`, and the lowest such index (R317). -/
def Nearest (a : FV) (cs : List (Nat × FV)) (i : Nat) : Prop :=
  ∃ v, (i, v) ∈ cs ∧ ∀ c ∈ cs, away a v < away a c.2 ∨ (away a v = away a c.2 ∧ i ≤ c.1)
/-- The vector whose elements of width `w` a function gives. -/
def built (w : Nat) (g : Nat → Nat) : VOut := { data := packNat w ((List.range (2048 / w)).map g) }

/-- The context holds the object (R77, R349). -/
def Held (s : State) (tile : Bool) (n : Nat) : Prop := ((here s).claim tile n).st = .held ∧ ((here s).claim tile n).owner = s.me.sid
/-- The array is in service (R342). -/
def InService (s : State) : Prop := (here s).retired = false
/-- A delay configuration register reads `d` (R330). -/
def DcIs (s : State) (n d : Nat) : Prop := Has (s.me.regs.dc.getD n {}) (BitVec.ofNat 64 d) ∧ d < 2 ^ 64
/-- The bank and the index width that the selection names for a purpose (R89). -/
def selNo (s : State) (purpose : Nat) : Nat := s.me.sys.sel.toNat / 2 ^ (4 * purpose) % 4
def selWidth (s : State) (purpose : Nat) : Nat := indexWidth (s.me.sys.sel.toNat / 2 ^ (4 * purpose + 2) % 4)
def selBank (s : State) (purpose : Nat) : Bank := (here s).banks.getD (selNo s purpose) {}
/-- An expansion for a purpose may use the selection and the bank's registers: no poison is in them (R437). -/
def SelClean (s : State) (x : BitVec 1) (purpose : Nat) : Prop := x = 1#1 → s.me.sys.poison.has 32 = false ∧ (selBank s purpose).regsClean = true
/-- Index entries that read without a trap (R91, R100). -/
def Readable (b : Bank) (is : List Nat) : Prop := ∀ i ∈ is, b.valid i = true ∧ b.poison.has i = false
/-- A pass issued (R329, R331, R360): `a` are its activations, `ex` the activation exponent, `e` 1 with X; ROWPTR moves by STEP modulo 64. -/
def passIssued (s : State) (tile plane dcn d : Nat) (a : List Int) (ex : Int) (e : Nat) : State :=
  updHere (s.updMe fun c =>
    { c with
      passes := c.passes ++ [{
        seq := s.me.st.cc, va := s.me.exBundle.1, read := s.me.st.cc + 56 + e, land := s.me.st.cc + 64 + e,
        sums := columnSums ((here s).planes.getD plane {}) (dcNrow d) a, span := dcSpan d, tile := tile, row := dcRow d,
        exp := ex + ((here s).planes.getD plane {}).expo, claim := ((here s).claim true tile).gen }]
      regs.dc := c.regs.dc.modify dcn fun r => { r with val := BitVec.ofNat 64 (d - dcRow d * 2 ^ 8 + (dcRow d + dcStep d) % 64 * 2 ^ 8) } })
    fun y => { y with passes := y.passes + 1 }
/-- No word of the courses that the pass reads, 24 to a course, is poisoned, nor the exponent (1536), and no activation is the reserved code
(R101, R123, R415, R437). -/
def PassClean (s : State) (plane d : Nat) (a : List Int) : Prop :=
  (∀ v ∈ a, v ≠ -16) ∧ ∀ e ∈ ((here s).planes.getD plane {}).poison, dcNrow d ≤ e.1 / 24 ∧ e.1 ≠ 1536
/-- A comb operation issued (R333, R362). -/
def combIssued (s : State) (e : Nat) (p : Payload) : State :=
  s.updMe fun c => { c with combs := c.combs ++ [{ seq := s.me.st.cc, va := s.me.exBundle.1, read := s.me.st.cc + 32 + e, land := s.me.st.cc + 40 + e, pay := p }] }
/-- A tile of the current core. -/
def tileAt (s : State) (t : Nat) : Tile := (here s).tiles.getD t {}
def updTileS (s : State) (t : Nat) (f : Tile → Tile) : State := updHere s fun y => { y with tiles := y.tiles.modify t f }
/-- A command of the current step, with what its fault record would name (R427). -/
def ofStep (s : State) (c : Cmd) : Cmd :=
  { c with id := (s.ld s.cur.l).nextCmd, ctx := s.cur.c, sid := s.me.sid, opid := s.me.sys.opid, stamp := s.me.sys.stamp.toNat
           va := if c.kind = .accst then s.me.exBundle.1 else s.me.st.pc }
/-- A command at the tail of the core's queue (R377). -/
def queued (s : State) (c : Cmd) : State :=
  (s.updLd s.cur.l fun x => { x with nextCmd := x.nextCmd + 1 }).updCore s.cur.l s.cur.k fun y => { y with queue := y.queue ++ [ofStep s c] }
/-- The core's engine queue has an entry free (R377). -/
def QueueRoom (s : State) : Prop := (here s).queue.length < 16

/-- A geometry register reads `v` (R378). -/
def EgIs (s : State) (n : Nat) (v : Word) : Prop := Has (s.me.regs.eg.getD n {}) v
/-- A yard of a parish that the belfry holds enabled (R137). -/
def YardOk (s : State) (p y : Nat) : Prop := (s.parish s.cur.l p).enabled = true ∧ y ≤ (s.parish s.cur.l p).nym1
/-- The step may create an occurrence from one of the yards `from_` (R144), and its home has room for it (R160). -/
def MayCreate (s : State) (from_ : List Nat) (y t : Nat) : Prop :=
  isClosed t = false ∧ YardOk s (myOp s).parish y ∧
  (s.parish s.cur.l (myOp s).parish).mayCreate from_ s.me.sys.stamp.toNat y t = true ∧
  (s.parish (s.parish s.cur.l (myOp s).parish).home (s.parish s.cur.l (myOp s).parish).hpar).full = false
/-- The rules that a copy's descriptor meets (R16, R379, R380, R382). -/
def CopyOk (s : State) (kind : CmdKind) (w : List Word) (src dst : Word) : Prop :=
  let d := (w.getD 0 0#64).toNat
  let toRing := dRing d = true ∧ dDsp d = 1
  pairOk (dSsp d) (dDsp d) = true ∧ descOk kind w = true ∧
  (dSsp d = 3 ∨ src.toNat % dEsz d = 0) ∧ (dShp d = true ∨ ∀ v ∈ (descStrides w).1, v % (dEsz d : Int) = 0) ∧
  (toRing ∨ dst.toNat % dEsz d = 0) ∧ (dShp d = true ∨ ∀ v ∈ (descStrides w).2, v % (dEsz d : Int) = 0) ∧
  (toRing → ∃ id r, RingIs s (dRh d) id r) ∧ (kind = .cpyg → (w.getD 7 0#64).toNat % (if dIdx32 d then 4 else 2) = 0) ∧
  (dStmp d = true ∨ dDsp d = 2 → NotRestart s)
/-- The range of a cbld or cbsave (R390, R393). -/
def EntriesOk (e n : Nat) (lim : Option Nat) (addr sp len : Nat) : Prop :=
  n ≠ 0 ∧ e + n ≤ 256 ∧ (∀ m ∈ lim, e + n ≤ m) ∧ addr % 8 = 0 ∧ (sp = 1 ∨ addr + len ≤ spadEnd)
/-- The four conditions of a waitc: control word and stamp (R401). -/
def CondsAre (s : State) (g : Nat) (cs : List (Nat × Nat)) : Prop :=
  cs.length = 4 ∧ ∀ i < 4, ∃ w t : Word, EgIs s (8 * g + 2 * i) w ∧ (cKind w.toNat = 1 → EgIs s (8 * g + 2 * i + 1) t) ∧
    cs.getD i (0, 0) = (w.toNat, if cKind w.toNat = 1 then t.toNat else 0)
/-- A condition that passes its checks at issue (R401). -/
def CondLegal (s : State) (c : Nat × Nat) : Prop :=
  condOk c.1 = true ∧ (cKind c.1 = 1 → YardOk s (cParish c.1) (cSel c.1) ∧ isClosed c.2 = false) ∧
  (cKind c.1 = 2 → ∃ id r, RingIs s (cSel c.1) id r ∧ 1 ≤ cN c.1 ∧ cN c.1 ≤ ringCount r.cfg ∧ r.ovf = false) ∧
  (cKind c.1 = 3 → ∃ id r, RingIs s (cSel c.1) id r ∧ 1 ≤ cN c.1 ∧ cN c.1 ≤ ringCount r.cfg) ∧
  (cKind c.1 = 4 → (s.me.regs.ls.getD (cSel c.1) {}).st ≠ .free)

/-- A core, and a context of one, that exists (R2). -/
def OnCore (l k : Nat) : Prop := dieOk l = true ∧ k < 48
def OnCtx (l k c : Nat) : Prop := dieOk l = true ∧ k < 48 ∧ c < 4
/-- The context's oldest command, under way in an engine that no error holds (R122, R377). -/
def Running (s : State) (l k c : Nat) (q : Cmd) : Prop := (s.core l k).cmdOf c = some q ∧ q.st = .running ∧ (s.core l k).eccHold = 0
/-- The next record of a queue is well formed and of a kind (R189). -/
def RecordIs (s : State) (l q kind r : Nat) : Prop := s.nextRecord l q = some r ∧ recordBad r = false ∧ recKind r = kind ∧ s.blockHeld l r = false
/-- The state once the record at HEAD of a queue and the block that it names have been read. -/
def recordRead (s : State) (l q r : Nat) : State :=
  (s.readThrough 0 [(l, (s.ld l).recordAt q, 64)]).readVaDone l 48 0 1 (recBlock r) ((s.ld l).blockLen r)
/-- The active context of a core whose array no freeze and no calibration holds. -/
def ArrayOf (s : State) (l k c : Nat) (x : Ctx) : Prop :=
  (s.core l k).active = some c ∧ x = s.ctx l k c ∧ x.live = true ∧ (s.core l k).freeze = 0 ∧ (s.core l k).calRun = 0
/-- The time moved on to a tick that has not passed. -/
def timeTo (s : State) (t : Nat) : State := { s with ticks := max s.ticks t }

/-- Where an event of context `c` of a core acts (R208): for 0 to 3 at that context; from 4 up at the context of save slot c − 4, which has
left core `k` and goes back to its slot after it. -/
def At (s : State) (l k c : Nat) (t : State) (d : Nat) (back : State → State) : Prop :=
  (c < 4 ∧ t = s ∧ d = c ∧ back = id) ∨
  ∃ v, 4 ≤ c ∧ c < 65540 ∧ mget (s.ld l).saved (c - 4) = some v ∧ v.core = k ∧ t = s.seated l v ∧ d = v.seat ∧ back = fun u => u.unseated l (c - 4) v

/-- Every memory of the part is in canonical form: the host's, each die's and each core's. -/
def MemOk (s : State) : Prop :=
  s.host.wf = true ∧ (∀ l, (s.ld l).hbm.slots.wf = true) ∧ ∀ l k, (s.core l k).spad.wf = true

end Sys2Proof.Claim

open Sys2Proof Sys2Proof.Machine Sys2Proof.Claim

/-! The X slot -/

/-- R288, R290 (cmp, sel): an integer word with ready sources answers a state in which f of the sources is on its way to the destination, to
land after the latency of R287. -/
def Obligations.IntegerWords : Prop :=
  ∀ (s : State) (d a b : BitVec 5) (x y : Word), ScalarIs s a x → ScalarIs s b y → RoomX s d →
    exec (.add d a b) s = .next (sentX s d 1 (x + y)) ∧
    exec (.sub d a b) s = .next (sentX s d 1 (x - y)) ∧
    exec (.mul d a b) s = .next (sentX s d 3 (x * y)) ∧
    exec (.mulh d a b) s = .next (sentX s d 3 (BitVec.ofInt 64 (x.toInt * y.toInt / 2 ^ 64))) ∧
    exec (.mulhn d a b) s = .next (sentX s d 3 (BitVec.ofNat 64 (x.toNat * y.toNat / 2 ^ 64))) ∧
    exec (.and d a b) s = .next (sentX s d 1 (x &&& y)) ∧
    exec (.or d a b) s = .next (sentX s d 1 (x ||| y)) ∧
    exec (.xor d a b) s = .next (sentX s d 1 (x ^^^ y)) ∧
    exec (.andn d a b) s = .next (sentX s d 1 (x &&& ~~~y)) ∧
    exec (.shl d a b) s = .next (sentX s d 1 (x <<< (y.toNat % 64))) ∧
    exec (.shr d a b) s = .next (sentX s d 1 (x >>> (y.toNat % 64))) ∧
    exec (.sar d a b) s = .next (sentX s d 1 (x.sshiftRight (y.toNat % 64))) ∧
    exec (.rol d a b) s = .next (sentX s d 1 (x.rotateLeft (y.toNat % 64))) ∧
    exec (.min d a b) s = .next (sentX s d 1 (if x.toInt ≤ y.toInt then x else y)) ∧
    exec (.max d a b) s = .next (sentX s d 1 (if x.toInt ≤ y.toInt then y else x)) ∧
    exec (.minn d a b) s = .next (sentX s d 1 (if x.toNat ≤ y.toNat then x else y)) ∧
    exec (.maxn d a b) s = .next (sentX s d 1 (if x.toNat ≤ y.toNat then y else x)) ∧
    (∀ c, (Instr.cmp d a b c).ill = none → exec (.cmp d a b c) s = .next (sentX s d 1 (if condHolds c x y then 1#64 else 0#64))) ∧
    (∀ c z, ScalarIs s c z → exec (.sel d a b c) s = .next (sentX s d 1 (if z ≠ 0#64 then x else y)))

/-- R288 (counts), R291, R293 (push), R294 (mfs): the words of one source or none. -/
def Obligations.UnaryWords : Prop :=
  ∀ (s : State) (d a : BitVec 5) (x : Word), ScalarIs s a x → RoomX s d →
    (∀ n : Nat, n ≤ 64 → (∀ i, i < n → x.getMsbD i = false) → (n < 64 → x.getMsbD n = true) → exec (.clz d a) s = .next (sentX s d 1 (BitVec.ofNat 64 n))) ∧
    (∀ n : Nat, n ≤ 64 → (∀ i, i < n → x.getLsbD i = false) → (n < 64 → x.getLsbD n = true) → exec (.ctz d a) s = .next (sentX s d 1 (BitVec.ofNat 64 n))) ∧
    exec (.popc d a) s = .next (sentX s d 1 (BitVec.ofNat 64 ((List.range 64).countP fun i => x.getLsbD i))) ∧
    (∀ i, exec (.addi d a i) s = .next (sentX s d 1 (x + i.signExtend 64))) ∧
    (∀ i, exec (.andi d a i) s = .next (sentX s d 1 (x &&& i.signExtend 64))) ∧
    (∀ i, exec (.ori d a i) s = .next (sentX s d 1 (x ||| i.signExtend 64))) ∧
    (∀ i, exec (.xori d a i) s = .next (sentX s d 1 (x ^^^ i.signExtend 64))) ∧
    (∀ n, exec (.shli d a n) s = .next (sentX s d 1 (x <<< n.toNat))) ∧
    (∀ n, exec (.shri d a n) s = .next (sentX s d 1 (x >>> n.toNat))) ∧
    (∀ n, exec (.sari d a n) s = .next (sentX s d 1 (x.sshiftRight n.toNat))) ∧
    (s.me.st.sq.length < 32 → exec (.push a) s = .next (sentX s 1#5 1 x)) ∧
    (∀ n : BitVec 14, (Instr.mfs d n).ill = none → s.me.sys.poison.has n.toNat = false →
      exec (.mfs d n) s = .next (sentX s d 1 (BitVec.ofNat 64 (s.me.sysValue n.toNat s.ticks))))

/-- R292, stated whole: li, lih over the register that dst names (b0 when dst is 0), destination code 1 of lih illegal with reason 3, and
the example. -/
def Obligations.LongImmediates : Prop :=
  (∀ (s : State) (d : BitVec 5) (i : BitVec 19), RoomX s d → exec (.li d i) s = .next (sentX s d 1 (i.signExtend 64))) ∧
  (∀ (s : State) (d : BitVec 5) (i : BitVec 19) (x : Word), ScalarIs s d x → (Instr.lih d i).ill = none →
    exec (.lih d i) s = .next (sentX s d 1 ((x &&& 0x7FFFF#64) + i.signExtend 64 * 2 ^ 19))) ∧
  (∀ i : BitVec 19, decodeSlot 2 (encode (.lih 1#5 i)) = .error ⟨3, .dest⟩) ∧
  ((0x2345#19).signExtend 64 &&& 0x7FFFF#64) + (0x1#19).signExtend 64 * 2 ^ 19 = 0x82345#64

/-- R289: quotients truncated towards zero, remainders with the sign of x; y = 0 and −2^63 / −1 with Z = 0; with Z = 1 those two trap. -/
def Obligations.Division : Prop :=
  ∀ (s : State) (d a b : BitVec 5) (x y : Word), ScalarIs s a x → ScalarIs s b y → RoomX s d →
    (∀ z : BitVec 1, y ≠ 0#64 → ¬(x = 0x8000000000000000#64 ∧ y = BitVec.allOnes 64) →
      exec (.div d a b z) s = .next (sentX s d 24 (BitVec.ofInt 64 (x.toInt.tdiv y.toInt))) ∧
      exec (.rem d a b z) s = .next (sentX s d 24 (BitVec.ofInt 64 (x.toInt.tmod y.toInt)))) ∧
    (∀ z : BitVec 1, y ≠ 0#64 →
      exec (.divn d a b z) s = .next (sentX s d 24 (x / y)) ∧ exec (.remn d a b z) s = .next (sentX s d 24 (x % y))) ∧
    (y = 0#64 →
      exec (.div d a b 0#1) s = .next (sentX s d 24 (BitVec.allOnes 64)) ∧ exec (.divn d a b 0#1) s = .next (sentX s d 24 (BitVec.allOnes 64)) ∧
      exec (.rem d a b 0#1) s = .next (sentX s d 24 x) ∧ exec (.remn d a b 0#1) s = .next (sentX s d 24 x)) ∧
    (x = 0x8000000000000000#64 → y = BitVec.allOnes 64 →
      exec (.div d a b 0#1) s = .next (sentX s d 24 0x8000000000000000#64) ∧ exec (.rem d a b 0#1) s = .next (sentX s d 24 0#64)) ∧
    (y = 0#64 →
      exec (.div d a b 1#1) s = .next (takeMine { cause := 0x080, slot := 3 } s) ∧ exec (.divn d a b 1#1) s = .next (takeMine { cause := 0x080, slot := 3 } s) ∧
      exec (.rem d a b 1#1) s = .next (takeMine { cause := 0x080, slot := 3 } s) ∧ exec (.remn d a b 1#1) s = .next (takeMine { cause := 0x080, slot := 3 } s)) ∧
    (x = 0x8000000000000000#64 → y = BitVec.allOnes 64 →
      exec (.div d a b 1#1) s = .next (takeMine { cause := 0x081, slot := 3 } s) ∧ exec (.rem d a b 1#1) s = .next (takeMine { cause := 0x081, slot := 3 } s))

/-- R296, R297: scalar FP32 words send the rounded result with its flags, after 4 cc (fcvt 3). `scalarMode` is the field, or RMODE for 4. -/
def Obligations.ScalarFloat : Prop :=
  ∀ (s : State) (d a b : BitVec 5) (r : BitVec 3) (x y : Word) (m : Nat), ScalarIs s a x → ScalarIs s b y → RoomX s d →
    r.toNat ≤ 4 → (r = 4#3 → RmodeOk s) → m = (if r = 4#3 then s.me.sys.rmode.toNat else r.toNat) →
    (let nv := (asF32 x).isSnan || (asF32 y).isSnan
     let o := fpArith 0 m nv ((asF32 x).add (asF32 y) (m == 2))
     exec (.faddS d a b r) s = .next (sentX s d 4 (BitVec.ofNat 64 o.code) o.fl)) ∧
    (let nv := (asF32 x).isSnan || (asF32 y).isSnan
     let o := fpArith 0 m nv ((asF32 x).add (asF32 y).neg (m == 2))
     exec (.fsubS d a b r) s = .next (sentX s d 4 (BitVec.ofNat 64 o.code) o.fl)) ∧
    (let nv := (asF32 x).isSnan || (asF32 y).isSnan
     let o := fpArith 0 m nv ((asF32 x).mul (asF32 y))
     exec (.fmulS d a b r) s = .next (sentX s d 4 (BitVec.ofNat 64 o.code) o.fl)) ∧
    (∀ c z, ScalarIs s c z →
      let nv := (asF32 x).isSnan || (asF32 y).isSnan || (asF32 z).isSnan
      let o := fpArith 0 m nv (((asF32 x).mul (asF32 y)).add (asF32 z) (m == 2))
      exec (.fmaS d a b r c) s = .next (sentX s d 4 (BitVec.ofNat 64 o.code) o.fl)) ∧
    (∀ v : BitVec 4, v.toNat ≤ 9 → exec (.fcvt d a r v) s = .next (sentX s d 3 (BitVec.ofNat 64 (fcvtOf v.toNat m x).code) (fcvtOf v.toNat m x).fl))

/-- R69 (take), R294 and R255 (mts), R265 and R295 (bx, jx). A take of an Arrived scalar slot that its arrival code has made visible sends
its data and frees the slot; mts sends its value to the system register, privileged registers only from a privileged context, and
STAMP under R203; a branch resolves to its target or to what follows. -/
def Obligations.TakeMtsBranch : Prop :=
  (∀ (s : State) (d l : BitVec 5), (s.me.regs.ls.getD l.toNat {}).st = .arrived → (s.me.regs.ls.getD l.toNat {}).vec = false →
    (s.me.regs.ls.getD l.toNat {}).visible ≤ s.me.st.cc → (s.me.regs.ls.getD l.toNat {}).mark = 0 → RoomX s d →
    exec (.take d l) s =
      .next (sentX (s.updMe fun x => { x with regs.ls := x.regs.ls.set l.toNat {} }) d 1 (BitVec.ofNat 64 (s.me.regs.ls.getD l.toNat {}).data.toNat))) ∧
  (∀ (s : State) (a : BitVec 5) (n : BitVec 14) (x : Word), ScalarIs s a x → (Instr.mts a n).ill = none → n ≠ 2#14 →
    (s.me.priv = true ∨ ¬(n = 5#14 ∨ n = 6#14 ∨ n = 10#14 ∨ n = 11#14) →
      exec (.mts a n) s = .next (s.updMe (inFlight 0 1 (.sysreg n.toNat) (.scalar x) 0))) ∧
    (s.me.priv = false → (n = 5#14 ∨ n = 6#14 ∨ n = 10#14 ∨ n = 11#14) → exec (.mts a n) s = .next (takeMine { cause := 0x01E, slot := 3 } s))) ∧
  (∀ (s : State) (a : BitVec 5) (x : Word) (o : Op), ScalarIs s a x → o = s.opOf s.cur.l s.me.sys.opid → s.me.priv = false → o.pmode = 2 →
    isClosed x.toNat = false → s.me.sys.stamp.toNat ≤ x.toNat →
    exec (.mts a 2#14) s = .next ((s.countRecs s.cur.l o.parish
      ((o.outYards.map fun y => (y, x.toNat, (1 : Int))) ++ o.outYards.map fun y => (y, s.me.sys.stamp.toNat, (-1 : Int)))).updMe
        (inFlight 0 1 (.sysreg 2) (.scalar x) 0))) ∧
  (∀ (s : State) (c : BitVec 3) (a b : BitVec 5) (o : BitVec 11) (x y : Word), ScalarIs s a x → ScalarIs s b y → (Instr.bx c a b o).ill = none →
    (condHolds c x y = false → exec (.bx c a b o) s = .next (s.updMe (·.resolve none))) ∧
    (∀ va, condHolds c x y = true → s.target s.cur.l s.cur.k s.cur.c s.me.exBundle.1 o.toInt = .ok va →
      exec (.bx c a b o) s = .next ((scanned s s.me.exBundle.1 va).updMe (·.resolve (some va))))) ∧
  (∀ (s : State) (a : BitVec 5) (x : Word) (w : BitVec 32), ScalarIs s a x → x.toNat % 4 = 0 →
    s.codeWord s.cur.l s.cur.k s.cur.c x.toNat = .ok w → isMark w = true →
    exec (.jx a) s = .next ((scanned s x.toNat x.toNat).updMe (·.resolve (some x.toNat))))

/-! The A slot -/

/-- R272, R273: address arithmetic writes a[d] when its bundle issues; code 15 pops the scalar data queue, s before t. -/
def Obligations.AddressArithmetic : Prop :=
  ∀ (s t : State) (d a b : BitVec 4) (v w u : Word),
    (∀ i, exec (.lda d i) s = .next (withA s d (i.signExtend 64))) ∧
    (accessSource s a = some (v, t) →
      (∀ i, exec (.ldah d a i) s = .next (withA t d (v + i.signExtend 64 * 2 ^ 16))) ∧
      exec (.mova d a) s = .next (withA t d v) ∧
      (∀ i, exec (.addai d a i) s = .next (withA t d (v + i.signExtend 64))) ∧
      (∀ n, exec (.shla d a n) s = .next (withA t d (v * 2 ^ n.toNat)))) ∧
    (accessTwo s a b = some (v, w, t) →
      exec (.adda d a b) s = .next (withA t d (v + w)) ∧
      exec (.suba d a b) s = .next (withA t d (v - w)) ∧
      exec (.anda d a b) s = .next (withA t d (v &&& w))) ∧
    (∀ t', accessTwo s a b = some (v, w, t') → accessSource t' d = some (u, t) → exec (.mada d a b) s = .next (withA t d (u + v * w))) ∧
    (accessSource s 15#4 = some (v, t) → exec (.popq d) s = .next (withA t d v))

/-- R68 to R70, R275 to R277: a scratchpad load makes its Free slot Pending; an OWN load has its data at hand from this bundle's read, a NBR
load leaves as a message to the owning core's bank. -/
def Obligations.ScratchpadLoads : Prop :=
  ∀ (s t : State) (l : BitVec 5) (b y : BitVec 4) (v : Word), accessSource s b = some (v, t) → SlotFree s l.toNat →
    (∀ (w : BitVec 3) (x : BitVec 7) (ea : Nat), ea = eaOf v x.toInt (widthBytes w) →
      (LocalOk false ea (widthBytes w) (widthBytes w) →
        exec (.lds l b y w 0#1 x) s = .next (t.updMe (pendSlot l.toNat y {
          due := (here s).clk + 6, here := true, mark := if (here s).spBad 0 ea (widthBytes w) then 0x1C0 else 0,
          data := BitVec.ofNat 2048 (extendVal (widthSigned w) (widthBytes w) (leNat ((here s).spRead 0 ea (widthBytes w)))) }))) ∧
      (LocalOk true ea (widthBytes w) (widthBytes w) →
        exec (.lds l b y w 1#1 x) s = .next (sentNbr (t.updMe (pendSlot l.toNat y { due := (here s).clk + 23 })) (ea / 2 ^ 22) {
          src := 0, ctx := 0, sid := 0, kind := 0, off := ea % 2 ^ 22, n := widthBytes w, slot := l.toNat, sx := widthSigned w }))) ∧
    (∀ (z : BitVec 2) (r g : BitVec 1) (x : BitVec 6) (ea rl : Nat), ea = eaOf v x.toInt 256 → rl = rowLength z r →
      (LocalOk false ea (vecSpan rl (g == 1#1)) 4 →
        exec (.ldv l b y z r 0#1 g x) s = .next (t.updMe (pendSlot l.toNat y {
          vec := true, due := (here s).clk + 5 + vecTime z.toNat rl ea (g == 1#1), here := true,
          data := BitVec.ofNat 2048 ((here s).readVec z.toNat rl ea (g == 1#1)).1, side := BitVec.ofNat 256 ((here s).readVec z.toNat rl ea (g == 1#1)).2.1,
          mark := if ((here s).readVec z.toNat rl ea (g == 1#1)).2.2 then 0x1C0 else 0 }))) ∧
      (LocalOk true ea (vecSpan rl (g == 1#1)) 4 →
        exec (.ldv l b y z r 1#1 g x) s = .next (sentNbr (t.updMe (pendSlot l.toNat y { vec := true, due := (here s).clk + 23 })) (ea / 2 ^ 22) {
          src := 0, ctx := 0, sid := 0, kind := 1, off := ea % 2 ^ 22, slot := l.toNat, swz := z.toNat, rl := rl, side := g == 1#1 })))

/-- R275, R278, R433: a scratchpad store takes its data from a queue; an OWN store writes it at the address that the base and displacement
give, a NBR store of a step that is not restartable leaves as a message. -/
def Obligations.ScratchpadStores : Prop :=
  ∀ (s t : State) (b : BitVec 4) (v : Word),
    (∀ (w : BitVec 3) (x : BitVec 7) (u : Word) (ea : Nat), accessTwo s b 15#4 = some (v, u, t) → ea = eaOf v x.toInt (widthBytes w) →
      (LocalOk false ea (widthBytes w) (widthBytes w) →
        exec (.sts b w 0#1 x) s = .next (updHere t fun y => y.spWrite 0 ea (natLe (widthBytes w) u.toNat))) ∧
      (LocalOk true ea (widthBytes w) (widthBytes w) → NotRestart s →
        exec (.sts b w 1#1 x) s = .next (sentNbr t (ea / 2 ^ 22) {
          src := 0, ctx := 0, sid := 0, kind := 2, off := ea % 2 ^ 22, n := widthBytes w, data := natLe (widthBytes w) u.toNat }))) ∧
    (∀ (z : BitVec 2) (r g : BitVec 1) (x : BitVec 6) (d : VReg) (t' : State) (ea rl : Nat), accessSource s b = some (v, t) → vectorHead t = some (d, t') →
      ea = eaOf v x.toInt 256 → rl = rowLength z r →
      (LocalOk false ea (vecSpan rl (g == 1#1)) 4 →
        exec (.stv b z r 0#1 g x) s = .next (updHere t' fun y => y.writeVec z.toNat rl ea (g == 1#1) d)) ∧
      (LocalOk true ea (vecSpan rl (g == 1#1)) 4 → NotRestart s →
        exec (.stv b z r 1#1 g x) s = .next (sentNbr t' (ea / 2 ^ 22) {
          src := 0, ctx := 0, sid := 0, kind := 3, off := ea % 2 ^ 22, swz := z.toNat, rl := rl, side := g == 1#1,
          data := natLe 256 d.data.toNat ++ natLe 32 d.side.toNat })))

/-- R281, R282, R57: amos on an OWN address performs its operation on the bytes at a[s] and makes the slot Pending with the old value; a cas
(operation 9) pops its new value and writes only where the old value matches; in NBR space it leaves as a message. -/
def Obligations.ScratchpadAtomics : Prop :=
  ∀ (s t t' : State) (d a b o y : BitVec 4) (w h : BitVec 1) (ea v u : Word) (n : Nat), accessTwo s a b = some (ea, v, t') →
    (if o = 9#4 then accessSource t' 15#4 = some (u, t) else u = 0#64 ∧ t = t') → n = (if w = 1#1 then 8 else 4) → SlotFree s (atomSlot d h) →
    (∀ p : BitVec 2, (Instr.amos d a b o w p y h).ill = none → p ≠ 1#2 → LocalOk false ea.toNat n n →
      let old := leNat ((here s).spRead 0 ea.toNat n)
      let bad := (here s).spBad 0 ea.toNat n
      let pended := t.updMe (pendSlot (atomSlot d h) y { due := (here s).clk + 8, here := true, data := BitVec.ofNat 2048 old, mark := if bad then 0x1C0 else 0 })
      exec (.amos d a b o w p y h) s = .next (
        if bad = true ∨ (o = 9#4 ∧ old ≠ v.toNat % 2 ^ (8 * n)) then pended
        else updHere pended fun z => z.spWrite 0 ea.toNat (natLe n (atomNew o.toNat (8 * n) old (v.toNat % 2 ^ (8 * n)) (u.toNat % 2 ^ (8 * n)))))) ∧
    ((Instr.amos d a b o w 1#2 y h).ill = none → LocalOk true ea.toNat n n → NotRestart s →
      exec (.amos d a b o w 1#2 y h) s = .next (sentNbr (t.updMe (pendSlot (atomSlot d h) y { due := (here s).clk + 23 })) (ea.toNat / 2 ^ 22) {
        src := 0, ctx := 0, sid := 0, kind := 4, off := ea.toNat % 2 ^ 22, n := n, opn := o.toNat, v := v, w := u, slot := atomSlot d h }))

/-- R275, R276, R281, R415: a global load or atomic whose pieces all translate makes its Free slot Pending and queues one request for each
piece at the piece's home, or, where the fabric has lost a piece, marks the slot with the cause. -/
def Obligations.GlobalLoads : Prop :=
  ∀ (s t t' : State) (b y : BitVec 4) (p : BitVec 2) (qs : List (Phys × Nat)),
    (∀ (l : BitVec 5) (w : BitVec 3) (x : BitVec 6) (v : Word) (ea : Nat), accessSource s b = some (v, t) → SlotFree s l.toNat →
      ea = eaOf v x.toInt (widthBytes w) → GlobalOk p.toNat ea (widthBytes w) → Reach t p.toNat 1 ea [(ea, widthBytes w)] qs t' →
      exec (.ldg l b y w p x) s = .next (queuedHome l.toNat y qs { blankReq with sx := widthSigned w } t')) ∧
    (∀ (l : BitVec 5) (g : BitVec 1) (x : BitVec 6) (v : Word) (ea : Nat), accessSource s b = some (v, t) → SlotFree s l.toNat →
      ea = eaOf v x.toInt 256 → GlobalOk p.toNat ea 32 → Reach t p.toNat 1 ea (pagePieces p.toNat ea (if g = 1#1 then 288 else 256)) qs t' →
      exec (.ldvg l b y g p x) s = .next (queuedHome l.toNat y qs { blankReq with vec := true } t')) ∧
    (∀ (d a o : BitVec 4) (w h : BitVec 1) (ea v u : Word) (t2 : State), accessTwo s a b = some (ea, v, t) → NotRestart s → SlotFree s (atomSlot d h) →
      GlobalOk p.toNat ea.toNat (if w = 1#1 then 8 else 4) → Reach t p.toNat 3 ea.toNat [(ea.toNat, if w = 1#1 then 8 else 4)] qs t' →
      (if o = 9#4 then accessSource t' 15#4 = some (u, t2) else u = 0#64 ∧ t2 = t') →
      exec (.amog d a b o w p y h) s = .next (queuedHome (atomSlot d h) y qs { blankReq with atom := some o.toNat, v := v, w := u } t2))

/-- R165, R278, R279: a global store that translates puts its bytes, unpublished, at the places of its pieces. pref sends one request for its
line to the home when its translation succeeds, and then changes no register and no stored byte; otherwise it does nothing. While a commit holds
the tables (R114) it waits, which no clause speaks of. -/
def Obligations.GlobalStores : Prop :=
  ∀ (s t t' t2 : State) (b : BitVec 4) (p : BitVec 2) (x : BitVec 6) (v : Word) (ea : Nat) (qs : List (Phys × Nat)), accessSource s b = some (v, t) →
    (∀ (w : BitVec 3) (u : Word), ea = eaOf v x.toInt (widthBytes w) → GlobalOk p.toNat ea (widthBytes w) →
      Reach t p.toNat 2 ea [(ea, widthBytes w)] qs t' → accessSource t' 15#4 = some (u, t2) →
      exec (.stg b w p x) s = .next (storedAt qs (natLe (widthBytes w) u.toNat) t2)) ∧
    (∀ (g : BitVec 1) (d : VReg) (n : Nat), n = (if g = 1#1 then 288 else 256) → ea = eaOf v x.toInt 256 → GlobalOk p.toNat ea 32 →
      Reach t p.toNat 2 ea (pagePieces p.toNat ea n) qs t' → vectorHead t' = some (d, t2) →
      exec (.stvg b g p x) s = .next (storedAt qs ((natLe 256 d.data.toNat ++ natLe 32 d.side.toNat).take n) t2)) ∧
    (ea = eaOf v x.toInt 128 → t.translateNow t.cur.l t.cur.k t.cur.c p.toNat 1 ea 1 ≠ .lost heldCode →
      (p = 1#2 → exec (.pref b p x) s = .next t) ∧
      (p ≠ 1#2 → (∀ q, t.translateNow t.cur.l t.cur.k t.cur.c p.toNat 1 ea 1 ≠ .ok q) → exec (.pref b p x) s = .next t) ∧
      (∀ q, p ≠ 1#2 → t.translateNow t.cur.l t.cur.k t.cur.c p.toNat 1 ea 1 = .ok q → ∃ t', exec (.pref b p x) s = .next t' ∧
        t'.me = t.me ∧ t'.host = t.host ∧ (∀ l, (t'.ld l).hbm.slots = (t.ld l).hbm.slots ∧ (t'.ld l).hbm.tags = (t.ld l).hbm.tags) ∧
        (q.home ≠ hostKey → ∃ r ∈ (t'.ld q.home).homeQ, r.pref = true ∧ r.home = q.home ∧ r.addr = q.addr / 128 * 128 ∧ r.n = 128 ∧ r.ca = q.ca)))

/-- R60, R62, R64, R170, R283: ring words that need not wait. rget and rput return the offset of hod RP or WP, rget reads its tags; radv.r consumes n
full hods; radv.w counts n free hods full; rset sets the ring control and zeroes its status and what its sectors have had of their bytes. That
rset leaves the tags and the binding of the ring control as they stood is the model's choice (log entry 26, DEDUCED), no word of R60. -/
def Obligations.RingWords : Prop :=
  (∀ (s x : State) (d a t : BitVec 4) (c : BitVec 1) (n : BitVec 7) (id k : Nat) (r : Ring), RingIs s t.toNat id r →
    hodCount s a c n = some (k, x) → 1 ≤ k → k ≤ ringCount r.cfg →
    (r.ovf = false → r.getReady k = true →
      exec (.rget d a t c n) s = .next (withA (tagsRead x id r (r.oldest k)) d (BitVec.ofNat 64 (r.offset r.rp))) ∧
      exec (.radvR a t c n) s = .next (consumed x id r k)) ∧
    (k ≤ r.free →
      exec (.rput d a t c n) s = .next (withA x d (BitVec.ofNat 64 (r.offset r.wp))) ∧
      exec (.radvW a t c n) s = .next (updRingS x id fun r =>
        { r with
          wp := r.hod r.wp k, used := r.used + k
          counts := ((List.range k).map (r.hod r.wp)).foldl (fun m h => mput m h (ringSectors r.cfg)) r.counts }))) ∧
  (∀ (s x : State) (a t : BitVec 4) (v : Word), accessSource s a = some (v, x) →
    (ringOk v.toNat = true → ∀ id, id = (s.me.regs.rh.getD t.toNat none).getD (here s).newRing →
      exec (.rset a t) s = .next (updRingS (x.updMe fun y => { y with regs.rh := y.regs.rh.set t.toNat (some id) }) id fun r =>
        { r with cfg := v, poison := false, ovf := false, rp := 0, wp := 0, used := 0, counts := [], landed := [], rcur := 0 })) ∧
    (ringOk v.toNat = false → exec (.rset a t) s = .next (takeMine { cause := 0x208, access := true, slot := 1 } s)))

/-- R265 to R269, R284, R285: loop words open a level over the bundles after theirs, or skip the body when the count is 0; ba, a taken bca and call
send the access stream to their target, call with the return address on the stack; ret goes back to it, and from a trap entry it leaves
the handler (R420). -/
def Obligations.LoopAndTransferWords : Prop :=
  (∀ (s t : State) (n : Nat) (l : BitVec 12) (first last after : Nat),
    (let f (k : Nat) : Except Nat Nat := t.forward t.cur.l t.cur.k t.cur.c k t.me.st.pc
     f 1 = .ok first ∧ f (l.toNat + 1) = .ok last ∧ f (l.toNat + 2) = .ok after) →
    (∀ v ∈ t.me.st.loops, v.frame = t.me.st.rstack.length → last ≤ v.last) → (n ≠ 0 → t.me.st.loops.length < 4) →
    let u := scanned (scanned (scanned t t.me.st.pc first) t.me.st.pc last) t.me.st.pc after
    let opened : State := if n = 0 then u.updMe fun x => { x with st.goto := .skip last after }
      else u.updMe fun x => { x with st.loops := { first := first, last := last, exit := after, count := n, frame := t.me.st.rstack.length } :: x.st.loops }
    (∀ c : BitVec 12, c.toNat = n → t = s → exec (.loop c l) s = .next opened) ∧
    (∀ (a : BitVec 4) (v : Word), accessSource s a = some (v, t) → v.toNat = n → n < 2 ^ 32 → exec (.loopa a l) s = .next opened)) ∧
  (∀ (s : State) (o : BitVec 11) (va : Nat), s.target s.cur.l s.cur.k s.cur.c s.me.st.pc o.toInt = .ok va →
    exec (.ba o) s = .next ((scanned s s.me.st.pc va).updMe fun x => { x with st.goto := .taken va }) ∧
    (∀ after, s.forward s.cur.l s.cur.k s.cur.c 1 s.me.st.pc = .ok after → (∀ v ∈ s.me.st.loops, ¬(v.frame = s.me.st.rstack.length ∧ v.last = s.me.st.pc)) →
      s.me.st.rstack.length < 8 →
      exec (.call o) s = .next ((scanned (scanned s s.me.st.pc va) s.me.st.pc after).updMe fun x =>
        { x with st.rstack := { va := after, depth := s.me.st.loops.length } :: s.me.st.rstack, st.goto := .back va [] false }))) ∧
  (∀ (s t : State) (c : BitVec 3) (a b : BitVec 4) (o : BitVec 11) (v w : Word), accessTwo s a b = some (v, w, t) →
    (condHolds c v w = false → exec (.bca c a b o) s = .next t) ∧
    (∀ va, condHolds c v w = true → t.target t.cur.l t.cur.k t.cur.c t.me.st.pc o.toInt = .ok va →
      exec (.bca c a b o) s = .next ((scanned t t.me.st.pc va).updMe fun x => { x with st.goto := .taken va }))) ∧
  (∀ (s : State) (e : RetEntry) (r : List RetEntry), s.me.st.rstack = e :: r → (∀ v ∈ s.me.st.loops, v.frame ≠ s.me.st.rstack.length) →
    exec .ret s = .next (if e.trap then s.updMe (·.leaveHandler e) else s.updMe fun x => { x with st.rstack := r, st.goto := .back e.va [] false }))

/-- R178, R286: a fence whose condition holds passes. fence.s: no scratchpad store or atomic of the step is under way to another core;
fence.e: the execute stream has issued every earlier half, the step's plane loads have ended and the engine's queue holds no command of it;
fence.g: no store of it is still to be performed at its home, no request of it stands at a home and no landing slot waits for one. One whose
condition does not hold keeps the access stream waiting. -/
def Obligations.FenceWords : Prop :=
  ∀ s : State,
    ((∀ k ∈ (s.ld s.cur.l).cores, ∀ r ∈ k.2.nbrQ, r.sid = s.me.sid → r.kind < 2) →
      exec .fenceS s = .next (s.updMe fun x => { x with fence := none })) ∧
    (s.me.st.run = [] → s.me.loads = [] → (∀ q ∈ (here s).queue, q.sid ≠ s.me.sid) →
      exec .fenceE s = .next (s.updMe fun x => { x with fence := none })) ∧
    (s.storesDue s.cur.l s.cur.k s.cur.c (fun _ _ => true) = false → s.hasRequests s.cur.l s.me.sid (fun _ => true) = false →
      (∀ sl ∈ s.me.regs.ls, sl.glob = true → sl.st ≠ .pending) →
      exec .fenceG s = .next (s.updMe fun x => { x with fence := none })) ∧
    (s.fenceMet s.cur.l s.cur.k s.cur.c 0 = false → ∃ t w, exec .fenceS s = .next t ∧ t.me.fence = some 0 ∧ t.me.st.aWait = some w ∧ w.kind = 0x80#8) ∧
    (s.fenceMet s.cur.l s.cur.k s.cur.c 1 = false → ∃ t w, exec .fenceE s = .next t ∧ t.me.fence = some 1 ∧ t.me.st.aWait = some w ∧ w.kind = 0x80#8) ∧
    (s.fenceMet s.cur.l s.cur.k s.cur.c 2 = false → ∃ t w, exec .fenceG s = .next t ∧ t.me.fence = some 2 ∧ t.me.st.aWait = some w ∧ w.kind = 0x80#8)

/-! The V slot -/

/-- R306 to R309, R302, R437: the lane forms of one, two and three sources send the format's results, with their flags, after 4 cc (min, max, cmp,
abs and neg 2), one more for an expanded operand. That a BFP16 result of vabs or vneg is encoded as a block anew is the model's choice (log
entry 38, DEDUCED). -/
def Obligations.LaneArithmetic : Prop :=
  ∀ (s : State) (d a b f x : BitVec 4) (va vb : VReg) (f' bd bs more : Nat), VectorIs s a va → VectorIs s b vb → RmodeOk s →
    Expands s f x Bank.forArith vb f' bd bs more →
    (∀ z, exec (.vadd d a b z f x) s = .next (sentV s d (4 + more)
      (lane3 f' s.me.sys.rmode.toNat (z == 1#1) (fun p q _ => p.add q (s.me.sys.rmode.toNat == 2)) (fun p q _ => p + q)
        (va.data.toNat, va.side.toNat) (bd, bs) (bd, bs)))) ∧
    (∀ z, exec (.vsub d a b z f x) s = .next (sentV s d (4 + more)
      (lane3 f' s.me.sys.rmode.toNat (z == 1#1) (fun p q _ => p.add q.neg (s.me.sys.rmode.toNat == 2)) (fun p q _ => p - q)
        (va.data.toNat, va.side.toNat) (bd, bs) (bd, bs)))) ∧
    (∀ z, exec (.vmul d a b z f x) s = .next (sentV s d (4 + more)
      (lane3 f' s.me.sys.rmode.toNat (z == 1#1) (fun p q _ => p.mul q) (fun p q _ => p * q) (va.data.toNat, va.side.toNat) (bd, bs) (bd, bs)))) ∧
    (∀ c vc, VectorIs s c vc →
      exec (.vfma d a b c f x) s = .next (sentV s d (4 + more)
        (lane3 f' s.me.sys.rmode.toNat false (fun p q r => (p.mul q).add r (s.me.sys.rmode.toNat == 2)) (fun p q r => p * q + r)
          (va.data.toNat, va.side.toNat) (bd, bs) (vc.data.toNat, vc.side.toNat))) ∧
      exec (.vfms d a b c f x) s = .next (sentV s d (4 + more)
        (lane3 f' s.me.sys.rmode.toNat false (fun p q r => (p.mul q).add r.neg (s.me.sys.rmode.toNat == 2)) (fun p q r => p * q - r)
          (va.data.toNat, va.side.toNat) (bd, bs) (vc.data.toNat, vc.side.toNat)))) ∧
    exec (.vmin d a b f x) s = .next (sentV s d (2 + more) (pickV false f' (va.data.toNat, va.side.toNat) (bd, bs))) ∧
    exec (.vmax d a b f x) s = .next (sentV s d (2 + more) (pickV true f' (va.data.toNat, va.side.toNat) (bd, bs))) ∧
    (∀ c, exec (.vcmp d a b c f x) s = .next (sentV s d (2 + more)
      (packOuts f' (((values f' va.data.toNat va.side.toNat).zip (values f' bd bs)).map fun p =>
        { code := if cmpV c.toNat p.1 p.2 then 2 ^ fw f' - 1 else 0, fl := flagIf (p.1.isSnan || p.2.isSnan) fNV })))) ∧
    (Expands s f x Bank.forArith va f' bd bs more → ∀ z,
      exec (.vabs d a z f x) s = .next (sentV s d (2 + more)
        (lane3 f' 0 (z == 1#1) (fun p _ _ => p.abs) (fun p _ _ => (p.natAbs : Int)) (bd, bs) (bd, bs) (bd, bs))) ∧
      exec (.vneg d a z f x) s = .next (sentV s d (2 + more)
        (lane3 f' 0 (z == 1#1) (fun p _ _ => p.neg) (fun p _ _ => -p) (bd, bs) (bd, bs) (bd, bs))))

/-- R306 for the integer formats: element e of the result of vadd is A[e] + B[e], clamped to the format's range with S and wrapped without. -/
def Obligations.IntegerLanes : Prop :=
  ∀ (f m e : Nat) (z : Bool) (va vb : VReg), isInt f = true → e < 2048 / fw f →
    let x : Int := (if isSigned f then sext (elemOf (fw f) va e) (fw f) else (elemOf (fw f) va e : Int)) +
      (if isSigned f then sext (elemOf (fw f) vb e) (fw f) else (elemOf (fw f) vb e : Int))
    let lo : Int := if isSigned f then -2 ^ (fw f - 1) else 0
    let hi : Int := if isSigned f then 2 ^ (fw f - 1) - 1 else 2 ^ fw f - 1
    let o := lane3 f m z (fun p q _ => p.add q (m == 2)) (fun p q _ => p + q) (va.data.toNat, va.side.toNat) (vb.data.toNat, vb.side.toNat) (vb.data.toNat, vb.side.toNat)
    ((o.data / 2 ^ (fw f * e) % 2 ^ fw f : Nat) : Int) = (if z then (if x < lo then lo else if hi < x then hi else x) else x) % 2 ^ fw f ∧ o.side = 0

/-- R310, stated whole: vsel writes R[e] := (M[e] ≠ 0 ? A[e] : B[e]) over elements of the format's width, with a side word of zero. -/
def Obligations.VectorSelect : Prop :=
  ∀ (s : State) (d a b c f : BitVec 4) (va vb vm : VReg), VectorIs s a va → VectorIs s b vb → VectorIs s c vm →
    exec (.vsel d a b c f) s =
      .next (sentV s d 2 (built (fw f.toNat) fun e => if elemOf (fw f.toNat) vm e ≠ 0 then elemOf (fw f.toNat) va e else elemOf (fw f.toNat) vb e)) ∧
    (built (fw f.toNat) fun e => if elemOf (fw f.toNat) vm e ≠ 0 then elemOf (fw f.toNat) va e else elemOf (fw f.toNat) vb e).side = 0

/-- R312, stated whole, and the operation of R311: the bitwise words act on data bits and side word; the shifts move each element by the natural in B[e], filling with 0 or, for
vsar, the sign. -/
def Obligations.LogicAndShifts : Prop :=
  ∀ (s : State) (d a b : BitVec 4) (va vb : VReg), VectorIs s a va → VectorIs s b vb →
    exec (.vand d a b) s = .next (sentV s d 2 { data := (va.data &&& vb.data).toNat, side := (va.side &&& vb.side).toNat }) ∧
    exec (.vor d a b) s = .next (sentV s d 2 { data := (va.data ||| vb.data).toNat, side := (va.side ||| vb.side).toNat }) ∧
    exec (.vxor d a b) s = .next (sentV s d 2 { data := (va.data ^^^ vb.data).toNat, side := (va.side ^^^ vb.side).toNat }) ∧
    exec (.vnot d a) s = .next (sentV s d 2 { data := (~~~va.data).toNat, side := (~~~va.side).toNat }) ∧
    (∀ (f : BitVec 4) (w : Nat), w = fw f.toNat →
      exec (.vshl d a b f) s = .next (sentV s d 2 (built w fun e => if w ≤ elemOf w vb e then 0 else elemOf w va e * 2 ^ elemOf w vb e)) ∧
      exec (.vshr d a b f) s = .next (sentV s d 2 (built w fun e => if w ≤ elemOf w vb e then 0 else elemOf w va e / 2 ^ elemOf w vb e)) ∧
      exec (.vsar d a b f) s = .next (sentV s d 2 (built w fun e => wrap w (sext (elemOf w va e) w / 2 ^ min (elemOf w vb e) w))))

/-- R313 to R315, R318, R321: conversion of part P, quantisation, dequantisation, reduction and the transcendentals send their results after
3, 6, 4, 6 and 8 cc, one more for an expanded operand. -/
def Obligations.Conversions : Prop :=
  ∀ (s : State) (d a f x : BitVec 4) (va : VReg) (f' ad sd more : Nat), VectorIs s a va → RmodeOk s →
    (Expands s f x Bank.forCvt va f' ad sd more → ∀ (p : BitVec 3) (c : BitVec 4),
      (if countOf c.toNat ≤ countOf f' then p.toNat < countOf f' / countOf c.toNat else p = 0#3) →
      exec (.vcvt d a p c f x) s = .next (sentV s d (3 + more)
        { packOuts c.toNat (convertPart f' c.toNat s.me.sys.rmode.toNat p.toNat (values f' ad sd)) with side := cvtSide c.toNat })) ∧
    (Expands s f x Bank.forFloat va f' ad sd more →
      (∀ c : BitVec 4, exec (.vqnt d a 0#4 c f x) s = .next (sentV s d (6 + more) (quantise c.toNat none (values f' ad sd)))) ∧
      (∀ (w c : BitVec 4) (vw : VReg), w ≠ 0#4 → VectorIs s w vw →
        exec (.vqnt d a w c f x) s = .next (sentV s d (6 + more) (quantise c.toNat (some vw.side.toNat) (values f' ad sd)))) ∧
      exec (.vexp2 d a f x) s = .next (sentV s d (8 + more) (packOuts f' ((values f' ad sd).map (transcend 0 f' s.me.sys.rmode.toNat)))) ∧
      exec (.vlog2 d a f x) s = .next (sentV s d (8 + more) (packOuts f' ((values f' ad sd).map (transcend 1 f' s.me.sys.rmode.toNat)))) ∧
      exec (.vrcp d a f x) s = .next (sentV s d (8 + more) (packOuts f' ((values f' ad sd).map (transcend 2 f' s.me.sys.rmode.toNat)))) ∧
      exec (.vrsq d a f x) s = .next (sentV s d (8 + more) (packOuts f' ((values f' ad sd).map (transcend 3 f' s.me.sys.rmode.toNat))))) ∧
    (∀ (p : BitVec 3) (c : BitVec 4),
      exec (.vdqt d a p c f) s = .next (sentV s d 4
        (packOuts c.toNat (convertPart f.toNat c.toNat s.me.sys.rmode.toNat p.toNat (values f.toNat va.data.toNat va.side.toNat))))) ∧
    (Expands s f x Bank.forArith va f' ad sd more → ∀ (b : BitVec 4) (o : BitVec 2), vredDest o.toNat f' b.toNat = true →
      let ps := (values f' ad sd).map (convert f' b.toNat s.me.sys.rmode.toNat)
      let r := redTree o.toNat b.toNat s.me.sys.rmode.toNat (Nat.log2 (countOf f')) (ps.map (·.code)) (ps.foldl (fun a q => a ||| q.fl) 0)
      exec (.vred d a b o f x) s = .next (sentV s d (6 + more) { data := r.code, fl := r.fl }))

/-- R319, R320: permutation, broadcast, splat, slides and zips rearrange elements of the format's width. -/
def Obligations.Rearrangements : Prop :=
  ∀ (s : State) (d a b f : BitVec 4) (va vb : VReg) (w n : Nat), VectorIs s a va → VectorIs s b vb → w = fw f.toNat → n = 2048 / w →
    exec (.vperm d a b f) s = .next (sentV s d 2 (built w fun e => elemOf w va (elemOf w vb e % n))) ∧
    (∀ k : BitVec 8, exec (.vbcast d a k f) s = .next (sentV s d 2 (built w fun _ => elemOf w va k.toNat))) ∧
    (∀ h : BitVec 1, exec (.vzip d a b h f) s = .next (sentV s d 2 (built w fun e =>
      if e % 2 = 0 then elemOf w va (h.toNat * (n / 2) + e / 2) else elemOf w vb (h.toNat * (n / 2) + e / 2)))) ∧
    (∀ h : BitVec 1, exec (.vunzip d a b h f) s = .next (sentV s d 2 (built w fun e =>
      if e < n / 2 then elemOf w va (2 * e + h.toNat) else elemOf w vb (2 * (e - n / 2) + h.toNat)))) ∧
    (∀ (i : BitVec 12), RmodeOk s → exec (.vsplat d i f) s = .next (sentV s d 2 { built w fun _ =>
        (if isInt f.toNat then satInt f.toNat i.toInt else narrow f.toNat s.me.sys.rmode.toNat (ofInt i.toInt)).code with
      fl := (if isInt f.toNat then satInt f.toNat i.toInt else narrow f.toNat s.me.sys.rmode.toNat (ofInt i.toInt)).fl })) ∧
    (f ≠ 3#4 → f ≠ 4#4 → f ≠ 11#4 → f ≠ 12#4 → ∀ k : Nat, k = vb.data.toNat % 2 ^ 32 →
      exec (.vslide d a b 0#1 f) s = .next (sentV s d 2 (built w fun e => if e + k < n then elemOf w va (e + k) else 0)) ∧
      exec (.vslide d a b 1#1 f) s = .next (sentV s d 2 (built w fun e => if k ≤ e then elemOf w va (e - k) else 0))) ∧
    (f = 3#4 ∨ f = 4#4 ∨ f = 11#4 ∨ f = 12#4 → ∀ (k u : Nat), k = vb.data.toNat % 2 ^ 32 → u = 2048 / (32 * w) →
      let from_ (up : Bool) (g : Nat → Nat) (e : Nat) : Nat := if up then (if k ≤ e then g (e - k) else 0) else if e + k < u then g (e + k) else 0
      ∀ up : BitVec 1, exec (.vslide d a b up f) s = .next (sentV s d 2
        { built (32 * w) (from_ (up == 1#1) (elemOf (32 * w) va)) with
          side := packNat 8 ((List.range u).map (from_ (up == 1#1) fun e => va.side.toNat / 2 ^ (8 * e) % 256)) +
            (if f = 12#4 then 2 ^ 128 * packNat 8 ((List.range u).map (from_ (up == 1#1) fun e => va.side.toNat / 2 ^ (128 + 8 * e) % 256)) else 0) }))

/-- R91, R100, R316, R317: vcbx writes the expansion through a bank whose entries are valid and unpoisoned; vcbi writes, for each element, an index
of a valid entry that is no NaN at the least distance, the lowest such index, for a NaN the lowest valid NaN entry, or 0 with NV. Between infinities
the order of values stands for the distance (log entry 37, DEDUCED); that the expansion of an E4M3 or E5M2 bank has a side word of zero is log
entry 127 (DEDUCED). -/
def Obligations.CodebookVectors : Prop :=
  ∀ (s : State) (d a x : BitVec 4) (va : VReg) (b : Bank) (w : Nat), VectorIs s a va →
    b = (here s).banks.getD (x.toNat / 4) {} → b.regsClean = true → w = indexWidth (x.toNat % 4) →
    (∀ n : Nat, n = (if b.kind = 1 then 2048 / fw b.elem else if b.kind = 2 then 32 else 256) →
      (∀ i ∈ indices w n va.data.toNat, b.valid i = true ∧ b.poison.has i = false) →
      let es := (indices w n va.data.toNat).map b.entry
      (b.kind = 1 → exec (.vcbx d a x) s = .next (sentV s d 2 { data := packNat (fw b.elem) es })) ∧
      (b.kind = 2 → exec (.vcbx d a x) s = .next (sentV s d 2 { data := packNat 64 es })) ∧
      (b.kind = 3 → exec (.vcbx d a x) s = .next (sentV s d 2 { data := packNat 8 (es.map fun e => wrap 8 (sext e 6)) })) ∧
      (b.kind = 4 → exec (.vcbx d a x) s = .next (sentV s d 2 { data := packNat 8 (es.map fun e => wrap 8 (sext e 5)) }))) ∧
    (b.kind = 1 → ∀ valid : List Nat, valid = (List.range (2 ^ w)).filter b.valid → (∀ i ∈ valid, b.poison.has i = false) →
      let value (i : Nat) : FV := codeValue b.elem (b.entry i % 2 ^ fw b.elem)
      let vs := values b.elem va.data.toNat va.side.toNat
      let cands := (valid.map fun i => (i, value i)).filter fun e => !e.2.isNan
      let nan := valid.find? fun i => (value i).isNan
      (cands = [] → ∀ v ∈ vs, v.isNan = true) →
      ∃ idx : List Nat, idx.length = vs.length ∧
        (∀ e < vs.length, ((vs.getD e (.inf false)).isNan = true → idx.getD e 0 = nan.getD 0) ∧
          ((vs.getD e (.inf false)).isNan = false → Nearest (vs.getD e (.inf false)) cands (idx.getD e 0))) ∧
        exec (.vcbi d a x) s = .next (sentV s d 7 { data := packNat w idx, fl := flagIf (nan.isNone && vs.any FV.isNan) fNV }))

/-- R69, R323, R324: vtake sends the data of an Arrived vector slot and frees it; vpush sends a vector to the vector data queue, whose entry it
reserves. -/
def Obligations.VectorTakePush : Prop :=
  (∀ (s : State) (d l : BitVec 4) (h : BitVec 1) (sl : LSlot), sl = s.me.regs.ls.getD (16 * h.toNat + l.toNat) {} → sl.st = .arrived → sl.vec = true →
    sl.visible ≤ s.me.st.cc → sl.mark = 0 →
    exec (.vtake d l h) s = .next (sentV (s.updMe fun x => { x with regs.ls := x.regs.ls.set (16 * h.toNat + l.toNat) {} }) d 1
      { data := sl.data.toNat, side := sl.side.toNat })) ∧
  (∀ (s : State) (a : BitVec 4) (va : VReg), VectorIs s a va →
    (s.me.st.vq.length < 8 → exec (.vpush a) s = .next (s.updMe fun x =>
      { inFlight 1 1 (.queue x.st.nextId) (.vec va.data va.side) 0 x with st.vq := x.st.vq ++ [{ id := x.st.nextId }], st.nextId := x.st.nextId + 1 })) ∧
    (8 ≤ s.me.st.vq.length → exec (.vpush a) s = .next (takeMine { cause := 0x214, slot := 4 } s)))

/-! The D slot -/

/-- R340, R351, R361, R369, R370: delay registers, the saturation mask, trims, and a chain measurement set going, privileged only, on a chain that
exists and is not being measured. -/
def Obligations.ArrayRegisters : Prop :=
  (∀ (s : State) (a : BitVec 5) (n : BitVec 4) (v : Word), ScalarIs s a v →
    (dcOk v.toNat = true → exec (.dcw a n) s = .next (s.updMe fun x => { x with regs.dc := x.regs.dc.set n.toNat { val := v, valid := true } })) ∧
    (dcOk v.toNat = false → exec (.dcw a n) s = .next (takeMine { cause := 0x102, slot := 5 } s))) ∧
  (∀ (s : State) (n : BitVec 4) (v : Word), Has (s.me.regs.dc.getD n.toNat {}) v → exec (.dcr n) s = .next (sentD s 1 v)) ∧
  (∀ (s : State) (q : BitVec 2), s.me.sys.poison.has (64 + q.toNat) = false →
    let v := BitVec.ofNat 64 (s.me.sys.satmask.toNat / 2 ^ (64 * q.toNat) % 2 ^ 64)
    exec (.rsat 0#1 q) s = .next (sentD s 1 v) ∧
    exec (.rsat 1#1 q) s = .next (sentD (s.updMe fun x =>
      { x with sys.satmask := x.sys.satmask &&& ~~~((BitVec.ofNat 256 (2 ^ 64 - 1)) <<< (64 * q.toNat)) }) 1 v)) ∧
  (∀ (s : State) (n : BitVec 6),
    (n.toNat ≤ 33 → exec (.rtrimr n) s = .next (sentD s 1 ((here s).trimReg n.toNat))) ∧
    (33 < n.toNat → exec (.rtrimr n) s = .next (takeMine { cause := 0x104, slot := 5 } s))) ∧
  (∀ (s : State) (a : BitVec 5) (n : BitVec 6) (v : Word), ScalarIs s a v →
    (s.me.priv = false → exec (.rtrimw a n) s = .next (takeMine { cause := 0x02E, slot := 5 } s)) ∧
    (s.me.priv = true → n.toNat ≤ 32 → (here s).trimAccepts n.toNat v.toNat = true →
      exec (.rtrimw a n) s = .next (updHere s fun y => y.setTrim n.toNat v)) ∧
    (s.me.priv = true → 32 < n.toNat → exec (.rtrimw a n) s = .next (takeMine { cause := 0x104, slot := 5 } s)) ∧
    (s.me.priv = true → (here s).trimAccepts n.toNat v.toNat = false → exec (.rtrimw a n) s = .next (takeMine { cause := 0x104, slot := 5 } s))) ∧
  (∀ (s : State) (a : BitVec 5) (v : Word), ScalarIs s a v →
    (s.me.priv = false → exec (.rcal a) s = .next (takeMine { cause := 0x02E, slot := 5 } s)) ∧
    (s.me.priv = true → 263 < v.toNat → exec (.rcal a) s = .next (takeMine { cause := 0x104, slot := 5 } s)) ∧
    (s.me.priv = true → v.toNat ≤ 263 → (∀ r ∈ s.me.rcals, r.chain ≠ v.toNat) →
      exec (.rcal a) s = .next (({ s with draw := s.draw + 1 } : State).updMe fun x => { x with rcals := x.rcals ++ [{
        chain := v.toNat, land := s.me.st.cc + (64 + 128 * 2 ^ ((here s).calctl.toNat / 2 ^ 48 % 16)), seq := s.me.st.cc
        val := (here s).rcalCount s.cur.k v.toNat s.draw, ends := s.ticks + (here s).rcalTicks s.cur.k v.toNat s.draw }] })))

/-- R371, stated whole: rstat returns counter n of R345 as it stands at issue; 7 to 63 raise 0x104. -/
def Obligations.StatusCounters : Prop :=
  ∀ (s : State) (n : BitVec 6),
    (n = 0#6 → exec (.rstat n) s = .next (sentD s 1 (BitVec.ofNat 64 (here s).passes))) ∧
    (n = 1#6 → exec (.rstat n) s = .next (sentD s 1 (BitVec.ofNat 64 (here s).reraces))) ∧
    (n = 2#6 → exec (.rstat n) s = .next (sentD s 1 (BitVec.ofNat 64 (here s).margins))) ∧
    (n = 3#6 → exec (.rstat n) s = .next (sentD s 1 (BitVec.ofNat 64 (here s).cals))) ∧
    (n = 4#6 → exec (.rstat n) s = .next (sentD s 1 (BitVec.ofNat 64 (here s).caltime))) ∧
    (n = 5#6 → exec (.rstat n) s = .next (sentD s 1 ((here s).caltemp.signExtend 64))) ∧
    (n = 6#6 → exec (.rstat n) s = .next (sentD s 1 (BitVec.ofNat 64 (here s).satcols))) ∧
    (6 < n.toNat → exec (.rstat n) s = .next (takeMine { cause := 0x104, slot := 5 } s))

/-- R77, R78, R349, R352, R353: a free object whose other claimants on the core all come after the step, or one reserved for the step, becomes held,
its contents undefined; a claim that is not granted waits; a release frees the object, or leaves it Draining, or Held-faulted, while it has
readers; only the holder may release. That a release leaves Held-faulted at once where a reader has faulted before it is the model's choice
(log entry 99, DESIGN CHOICE, in `Claim.released`), no word of R77. -/
def Obligations.ClaimAndRelease : Prop :=
  ∀ (s : State) (o : BitVec 1) (n : BitVec 2) (c : Claim) (tile : Bool), tile = (o == 1#1) → c = (here s).claim tile n.toNat →
    let rival (e : Nat × Ctx) : Prop := e ∈ (here s).ctxs ∧ e.1 < 4 ∧ e.2.live = true ∧ e.2.sid ∈ c.waiting ∧ e.2.sid ≠ s.me.sid
    (c.st = .free → s.cur.c < 4 →
      (∀ e, rival e → e.2.effPri < s.me.effPri ∨ (e.2.effPri = s.me.effPri ∧ s.me.claimAt s.ticks ≤ e.2.claimAt s.ticks)) → exec (.rclaim o n) s =
      .next (updHere { s with draw := s.draw + 1 } fun y => (y.undefine tile n.toNat s.draw).setClaim tile n.toNat fun c =>
        { c with st := .held, owner := s.me.sid, gen := c.gen + 1, readers := 0, faulted := 0, again := 0, waiting := c.waiting.filter (· != s.me.sid) })) ∧
    (c.st = .reserved → c.owner = s.me.sid → exec (.rclaim o n) s =
      .next (updHere { s with draw := s.draw + 1 } fun y => (y.undefine tile n.toNat s.draw).setClaim tile n.toNat fun c =>
        { c with st := .held, gen := c.gen + 1, again := c.again - 1 })) ∧
    (Held s tile n.toNat → exec (.rclaim o n) s = .next (updHere s fun y => y.setClaim tile n.toNat fun c => { c with again := c.again - 1 })) ∧
    ((c.st = .free → ∃ e, rival e ∧ (s.me.effPri < e.2.effPri ∨ (e.2.effPri = s.me.effPri ∧ e.2.claimAt s.ticks < s.me.claimAt s.ticks))) →
      (c.owner = s.me.sid → c.st ≠ .held ∧ c.st ≠ .reserved) →
      exec (.rclaim o n) s = .next (s.updMe fun x => x.waitX (claimWait tile n.toNat) s.ticks)) ∧
    (Held s tile n.toNat → ∃ t, exec (.rrel o n) s = .next t ∧ (here t).claim tile n.toNat = c.released ∧ t.me.regs = s.me.regs ∧
      (tile = false → ∀ v ∈ t.me.loads, v.plane ≠ n.toNat) ∧ (tile = true → t.me = s.me)) ∧
    (¬Held s tile n.toNat → exec (.rrel o n) s = .next (takeMine { cause := if tile then 0x10B else 0x10A, slot := 5 } s))

/-- R348, R349, R354: rldw over a held plane with a legal image sets its load going; the misplaced images and the missing plane trap. -/
def Obligations.PlaneLoad : Prop :=
  ∀ (s : State) (a b : BitVec 5) (x : BitVec 1) (p : BitVec 2) (u v : Word), ScalarIs s a u → ScalarIs s b v →
    (¬Held s false p.toNat → exec (.rldw a b x p) s = .next (takeMine { cause := 0x108, slot := 5 } s)) ∧
    (Held s false p.toNat → InService s → SelClean s x 1 → (x = 1#1 → (selBank s 1).kind = 3) →
      let count := v.toNat / 2 ^ 16 % 64 + 1
      let size := if x = 1#1 then 32 * selWidth s 1 else 192
      (u.toNat % 4 = 0 → u.toNat + count * size ≤ 0x300000 → exec (.rldw a b x p) s = .next (s.updMe fun c =>
        { c with loads := c.loads ++ [{
          seq := s.me.st.cc, va := s.me.exBundle.1, plane := p.toNat, claim := ((here s).claim false p.toNat).gen, first := v.toNat / 2 ^ 8 % 64,
          count := count, off := u.toNat, exp := v.setWidth 8, bank := if x = 1#1 then some (selNo s 1) else none,
          book := selBank s 1, width := selWidth s 1 }] })) ∧
      (u.toNat % 4 ≠ 0 → exec (.rldw a b x p) s = .next (takeMine { cause := 0x202, slot := 5, addr := u.toNat } s)) ∧
      (u.toNat % 4 = 0 → 0x300000 < u.toNat + count * size → exec (.rldw a b x p) s = .next (takeMine { cause := 0x200, slot := 5, addr := u.toNat } s)))

/-- R348, R358 to R360: a pass over a held plane and tile takes its activations from the vector or from the ring's record, moves ROWPTR and will
add its column sums; rpassr moves its cursor and, when the hod is used up, returns it to 0 and with ADV consumes the hod. -/
def Obligations.RacePasses : Prop :=
  ∀ (s : State) (c : BitVec 4) (t p : BitVec 2) (x : BitVec 1) (d : Nat), DcIs s c.toNat d → Held s false p.toNat → Held s true t.toNat → InService s →
    SelClean s x 0 → (x = 1#1 → (selBank s 0).kind = 4) →
    let b := selBank s 0
    let w := selWidth s 0
    let e := if x = 1#1 then 1 else 0
    let ex : Int := if x = 1#1 then b.aexp else sext (d / 2 ^ 56) 8
    (∀ (v : BitVec 4) (va : VReg) (a : List Int), VectorIs s v va → (x = 1#1 → Readable b (indices w 64 va.data.toNat)) →
      a = (if x = 1#1 then (indices w 64 va.data.toNat).map fun i => sext (b.entry i) 5
        else (List.range 64).map fun k => sext (va.data.toNat / 2 ^ (8 * k) % 2 ^ 5) 5) →
      PassClean s p.toNat d a → exec (.rpass v c t p x) s = .next (passIssued s t.toNat p.toNat c.toNat d a ex e)) ∧
    (∀ (h : BitVec 4) (adv : BitVec 1) (id q rec_ : Nat) (r : Ring) (a : List Int), RingIs s h.toNat id r → r.ovf = false →
      q = (if x = 1#1 then 8 * w else 40) → r.rcur % q = 0 → 0 < r.used → r.fullHod r.rp = true → (here s).spBad 0 (r.offset r.rp + r.rcur) q = false →
      rec_ = leNat ((here s).spRead 0 (r.offset r.rp + r.rcur) q) → (x = 1#1 → Readable b (indices w 64 rec_)) →
      a = (if x = 1#1 then (indices w 64 rec_).map fun i => sext (b.entry i) 5 else (List.range 64).map fun k => sext (rec_ / 2 ^ (5 * k) % 2 ^ 5) 5) →
      PassClean s p.toNat d a →
      let u := tagsRead (passIssued s t.toNat p.toNat c.toNat d a ex e) id r [r.rp]
      exec (.rpassr h c t p x adv) s = .next (
        if r.rcur + q + q ≤ ringStage r.cfg then updRingS u id fun r' => { r' with rcur := r.rcur + q }
        else if adv = 1#1 then consumed (updRingS u id fun r' => { r' with rcur := 0 }) id r 1
        else updRingS u id fun r' => { r' with rcur := 0 }))

/-- R362: the comb orders the lanes by key and lane number and will send the least or greatest, the order, its first K lanes or the ranks. -/
def Obligations.CombWords : Prop :=
  ∀ (s : State) (v : BitVec 4) (x : BitVec 1) (va : VReg) (ls : List Nat), VectorIs s v va → InService s → SelClean s x 2 →
    (if x = 1#1 then
      (selBank s 2).kind = 1 ∧ ((selBank s 2).elem = 5 ∨ (selBank s 2).elem = 6) ∧ Readable (selBank s 2) (indices (selWidth s 2) 64 va.data.toNat) ∧
      ls = (indices (selWidth s 2) 64 va.data.toNat).map fun i => (max 0 (min 255 (sext ((selBank s 2).entry i) (fw (selBank s 2).elem)))).toNat
    else ls = (List.range 64).map fun l => va.data.toNat / 2 ^ (8 * l) % 256) →
    let e := if x = 1#1 then 1 else 0
    ∃ up down : List Nat,
      (∀ o ∈ [up, down], o.Perm (List.range 64)) ∧
      up.Pairwise (fun i j => ls.getD i 0 < ls.getD j 0 ∨ (ls.getD i 0 = ls.getD j 0 ∧ i < j)) ∧
      down.Pairwise (fun i j => ls.getD j 0 < ls.getD i 0 ∨ (ls.getD i 0 = ls.getD j 0 ∧ i < j)) ∧
      (let enc (l : Nat) : Nat := l * 256 + ls.getD l 0
       let vec (xs : List Nat) : Payload := .vec (BitVec.ofNat 2048 (packNat 32 xs)) 0#256
       exec (.rmin v x) s = .next (combIssued s e (.scalar (BitVec.ofNat 64 (enc (up.headD 0))))) ∧
       exec (.rmax v x) s = .next (combIssued s e (.scalar (BitVec.ofNat 64 (enc (down.headD 0))))) ∧
       (∀ (d : BitVec 1) (o : List Nat), o = (if d = 1#1 then down else up) →
         exec (.rsort v x d) s = .next (combIssued s e (vec (o.map enc))) ∧
         (∀ k : BitVec 6, exec (.rtopk v k x d) s = .next (combIssued s e (vec ((List.range 64).map fun j => if j < k.toNat + 1 then enc (o.getD j 0) else 0xFFFFFFFF)))) ∧
         exec (.rrank v x d) s = .next (combIssued s e (vec ((List.range 64).map fun l => o.idxOf l)))))

/-- R364, R367, R368: accz zeroes a held tile; accrd sends 64 converted columns of a row after 8 cc; accst queues the tile for the engine as it
stands and becomes its reader, and with REL releases it. -/
def Obligations.TileWords : Prop :=
  ∀ (s : State) (a : BitVec 5) (t : BitVec 2) (v : Word), ScalarIs s a v →
    (¬Held s true t.toNat → exec (.accz a t) s = .next (takeMine { cause := 0x109, slot := 5 } s)) ∧
    (Held s true t.toNat →
      exec (.accz a t) s = .next (updTileS s t.toNat fun x => { x with zero := true, rows := [], exp := some (sext v.toNat 16), poison := [] }) ∧
      (∀ f g : BitVec 2, f ≠ 3#2 → RmodeOk s →
        (∀ e ∈ (tileAt s t.toNat).poison, e.1 ≠ 16384 ∧ ¬(256 * (v.toNat % 64) + 64 * g.toNat ≤ e.1 ∧ e.1 < 256 * (v.toNat % 64) + 64 * g.toNat + 64)) →
        let vs := ((((tileAt s t.toNat).row (v.toNat % 64)).drop (64 * g.toNat)).take 64).map (tileValue (tileAt s t.toNat).expo)
        let o := if f = 0#2 then packOuts 0 (vs.map (narrow 0 s.me.sys.rmode.toNat)) else if f = 1#2 then packBfp vs
          else packOuts 5 (vs.map (narrow 5 s.me.sys.rmode.toNat))
        exec (.accrd a f g t) s = .next (s.updMe (inFlight 2 8 .age (.vec (BitVec.ofNat 2048 o.data) (BitVec.ofNat 256 o.side)) o.fl))) ∧
      (∀ (b : BitVec 5) (r p : BitVec 1) (f : BitVec 2) (w : Word), ScalarIs s b w → v.toNat % 256 = 0 → w.toNat % 256 = 0 → accRow f.toNat ≤ w.toNat →
        (p = 0#1 → v.toNat + 63 * w.toNat + accRow f.toNat ≤ 0x300000) → (tileAt s t.toNat).poison = [] → QueueRoom s → RmodeOk s →
        ∃ u, exec (.accst a b r p f t) s = .next u ∧ u.me.regs = s.me.regs ∧ (here u).queue = (here s).queue ++ [ofStep s {
            id := 0, ctx := 0, sid := 0, kind := .accst, dst := v, arg := w, sp := p.toNat,
            tile := some (tileAt s t.toNat), tileNo := t.toNat, tileFmt := f.toNat, reading := true, rm := s.me.sys.rmode.toNat }] ∧
          (let c := { (here s).claim true t.toNat with readers := ((here s).claim true t.toNat).readers + 1 }
           (here u).claim true t.toNat = if r = 1#1 then c.released else c)))

/-- R365 and R366, stated whole: accnorm lowers the exponent without rounding, a zero tile stays;
accexp returns the old exponent, and with add it adds, clamps and sets ACC_OVF. -/
def Obligations.TileScaling : Prop :=
  (∀ (s : State) (t : BitVec 2) (x : Tile), x = tileAt s t.toNat → Held s true t.toNat → x.poison = [] →
    ((∀ r < 64, ∀ m ∈ x.row r, m = 0) → exec (.accnorm t) s = .next s) ∧
    (∀ n : Nat, (∃ r < 64, ∃ m ∈ x.row r, m ≠ 0) →
      (let Fits (k : Nat) : Prop := k ≤ 46 ∧ (∀ r < 64, ∀ m ∈ x.row r, m.natAbs * 2 ^ k < 2 ^ 46) ∧ -32768 ≤ x.expo - (k : Int)
       Fits n ∧ ∀ k, Fits k → k ≤ n) →
      exec (.accnorm t) s = .next (updTileS s t.toNat fun y => { y.mapRows fun m => m * 2 ^ n with exp := some (y.expo - n) }))) ∧
  (∀ (s : State) (a : BitVec 5) (t : BitVec 2) (x : Tile), x = tileAt s t.toNat → Held s true t.toNat → x.poison.has 16384 = false →
    exec (.accexp a 0#1 t) s = .next (sentD s 1 (BitVec.ofInt 64 x.expo)) ∧
    (∀ v n, ScalarIs s a v → n = x.expo + sext v.toNat 16 →
      (-32768 ≤ n → n ≤ 32767 → exec (.accexp a 1#1 t) s = .next (sentD (updTileS s t.toNat fun y => { y with exp := some n }) 1 (BitVec.ofInt 64 x.expo))) ∧
      (n < -32768 → exec (.accexp a 1#1 t) s = .next (sentD
        ((updTileS s t.toNat fun y => { y with exp := some (-32768) }).updMe fun c => { c with sys.rflags := c.sys.rflags ||| 2#4 }) 1 (BitVec.ofInt 64 x.expo))) ∧
      (32767 < n → exec (.accexp a 1#1 t) s = .next (sentD
        ((updTileS s t.toNat fun y => { y with exp := some 32767 }).updMe fun c => { c with sys.rflags := c.sys.rflags ||| 2#4 }) 1 (BitVec.ofInt 64 x.expo)))))

/-! The E slot -/

/-- R378, R392, R407 to R411: geometry registers, selection, time, and the system words; a trap takes its trap with cause 0x340 + n, a brk up to 62
with 0x380 + n. That sysc leaves its pause to the boundary after its whole bundle (`st.atrap`) is the model's choice (log entry 80, DEDUCED). -/
def Obligations.GeometryAndSystem : Prop :=
  (∀ (s t : State) (a : BitVec 4) (n : BitVec 6) (v : Word), engineSource s a = some (v, t) →
    exec (.mte a n) s = .next (t.updMe fun x => { x with regs.eg := x.regs.eg.set n.toNat { val := v, valid := true } })) ∧
  (∀ (s : State) (b : BitVec 4) (n : BitVec 6) (v : Word), EgIs s n.toNat v → exec (.mfe b n) s = .next (withA s b v)) ∧
  (∀ (s t : State) (a : BitVec 4) (v : Word), engineSource s a = some (v, t) →
    exec (.cbsel a) s = .next (t.updMe fun x => { x with st.selNext := some (v.setWidth 12) })) ∧
  (∀ (s : State) (b : BitVec 4),
    exec (.rdtime b 1#1) s = .next (withA s b (BitVec.ofNat 64 (s.ticks / 70))) ∧ exec (.rdtime b 0#1) s = .next (withA s b (BitVec.ofNat 64 (s.ticks / 7)))) ∧
  (∀ s : State, exec .yield s = .next (updHere s fun y => { y with yieldReq := true })) ∧
  (∀ s : State, s.me.st.run = [] → exec .retire s = .next (s.updMe fun x => { x with retiring := 1 })) ∧
  (∀ (s : State) (n : BitVec 6),
    exec (.trap n) s = .next (takeMine { cause := 0x340 + n.toNat, access := true, slot := 2 } s) ∧
    (n ≠ 63#6 → exec (.brk n) s = .next (takeMine { cause := 0x380 + n.toNat, access := true, slot := 2 } s))) ∧
  (∀ (s t : State) (a b : BitVec 4) (sv : BitVec 8) (v w : Word), engineTwo s a b = some (v, w, t) →
    exec (.sysc a b sv) s = .next (t.updMe fun x =>
      { x with st.atrap := some { cause := 0x3BF, access := true, kind := 4, slot := 2, va := some x.st.pc, args := (v.toNat, w.toNat, sv.toNat) } }))

/-- R16, R379, R380, R382, R387: a copy whose descriptor is legal joins the engine's queue; a stamped one counts its occurrence; a held tile that it
reads gains a reader. -/
def Obligations.CopyWords : Prop :=
  ∀ (s t t' : State) (a b : BitVec 4) (g : BitVec 3) (i : Instr) (kind : CmdKind) (scat : Bool) (src dst : Word) (w : List Word) (d d1 tn : Nat),
    (i, kind, scat) ∈ [(Instr.cpy a b g, CmdKind.cpy, false), (Instr.cpyg a b 0#1 g, CmdKind.cpyg, false), (Instr.cpyg a b 1#1 g, CmdKind.cpyg, true), (Instr.cpyx a b g, CmdKind.cpyx, false)] →
    engineSource s a = some (src, t) → w.length = 8 → (∀ j < 8, EgIs t (8 * g.toNat + j) (w.getD j 0#64)) →
    d = (w.getD 0 0#64).toNat → d1 = (w.getD 1 0#64).toNat → tn = src.toNat / 2 ^ 14 % 4 →
    (if dRing d = true ∧ dDsp d = 1 then dst = 0#64 ∧ t' = t else engineSource t b = some (dst, t')) →
    CopyOk t' kind w src dst → QueueRoom t' → (dStmp d = true → MayCreate t' (myOp t').outYards (dYard d) d1) →
    let v := if dStmp d then t'.countAt t'.cur.l (myOp t').parish (dYard d) d1 1 else t'
    let reads := dSsp d = 3 ∧ Held v true tn
    let c (h : Bool) : Cmd := {
      id := 0, ctx := 0, sid := 0, kind := kind, d := w, src := src, dst := dst, scat := scat, tileNo := tn, reading := h
      ring := if dRing d = true ∧ dDsp d = 1 then (v.me.regs.rh.getD (dRh d) none).map fun r => (v.cur.k, r) else none
      xstamp := if dStmp d then d1 else 0, stamped := if dStmp d then some ((myOp t').parish, dYard d, d1) else none }
    (reads → exec i s = .next (updHere (queued v (c true)) fun y => y.setClaim true tn fun c => { c with readers := c.readers + 1 })) ∧
    (¬reads → exec i s = .next (queued v (c false)))

/-- R390, R391, R393: codebook words over a legal range and an unlocked bank join the engine's queue, with the bundle number that holds them back. -/
def Obligations.CodebookWords : Prop :=
  ∀ (s t : State) (a b : BitVec 4) (k : BitVec 2) (v n : Word), engineTwo s a b = some (v, n, t) → QueueRoom t →
    (∀ (e : BitVec 8) (p : BitVec 1), (here t).locked k.toNat = false →
      EntriesOk e.toNat n.toNat (some ((mget t.me.cblims k.toNat).getD ((here t).banks.getD k.toNat {}).lim.toNat)) v.toNat p.toNat (8 * n.toNat) →
      exec (.cbld a b e p k) s = .next (queued t {
        id := 0, ctx := 0, sid := 0, kind := .cbld, src := v, bank := k.toNat, sp := p.toNat, first := e.toNat, count := n.toNat,
        floor := t.me.st.cc + t.me.st.run.length + 8 })) ∧
    (∀ (j : BitVec 4) (m : BitVec 1) (vm : BitVec 256), (here t).locked k.toNat = false → cbBad v.toNat n.toNat = false →
      (if m = 1#1 then ∃ u0 u1 u2 u3, EgIs t (4 * j.toNat) u0 ∧ EgIs t (4 * j.toNat + 1) u1 ∧ EgIs t (4 * j.toNat + 2) u2 ∧ EgIs t (4 * j.toNat + 3) u3 ∧
        vm = u3 ++ u2 ++ u1 ++ u0 else vm = BitVec.allOnes 256) →
      exec (.cbval a b j m k) s = .next ((queued t {
        id := 0, ctx := 0, sid := 0, kind := .cbval, bank := k.toNat, fmt := v, lim := n, vm := some vm,
        floor := t.me.st.cc + t.me.st.run.length + 8 }).updMe fun x => { x with cblims := mput x.cblims k.toNat n.toNat })) ∧
    (∀ (r : BitVec 1) (e : BitVec 8) (p : BitVec 1), (r = 1#1 → e = 0#8 ∧ n = 256#64) →
      EntriesOk e.toNat n.toNat none v.toNat p.toNat (if r = 1#1 then 2112 else 8 * n.toNat) →
      exec (.cbsave a b r e p k) s = .next (queued t {
        id := 0, ctx := 0, sid := 0, kind := .cbsave, dst := v, bank := k.toNat, sp := p.toNat, first := e.toNat, count := n.toNat, regOut := r == 1#1 }))

/-- R394, R395, R399: a legal token is counted at its destination yard and leaves for its die with the payload as it stands; a restartable step
keeps it until it retires. -/
def Obligations.TokenWord : Prop :=
  ∀ (s t : State) (a b : BitVec 4) (l : BitVec 8) (m : BitVec 2) (g : BitVec 6) (stamp off rt : Word) (r : Nat), engineTwo s a b = some (stamp, off, t) →
    EgIs t g.toNat rt → r = rt.toNat → rtDie r ≤ 7 → r % 2 ^ 30 = 0 → portV ((myOp t).oport m.toNat) = true →
    MayCreate t [portYard ((myOp t).oport m.toNat)] (rtYard r) stamp.toNat → off.toNat % 64 = 0 → off.toNat + 64 * l.toNat ≤ spadEnd →
    (t.ld t.cur.l).nbrBusy t.me.sid = false →
    (if (myOp t).restart then t.me.kept.length < 16 else t.me.pending < 4) →
    let pa := t.parish t.cur.l (myOp t).parish
    let v := t.countAt t.cur.l (myOp t).parish (rtYard r) stamp.toNat 1
    let u := v.updLd v.cur.l fun x => { x with nextCmd := x.nextCmd + 1 }
    let tok : Token := {
      id := (v.ld v.cur.l).nextCmd, src := t.cur.l, core := t.cur.k, sid := t.me.sid, pkg := rtPkg r, die := rtDie r, opid := rtOpid r, port := rtPort r,
      dyard := rtYard r, stamp := stamp, parish := (myOp t).parish, home := pa.home, hpar := pa.hpar,
      expidx := ((pa.authTo (ldNo (rtPkg r) (rtDie r))).map (·.1)).getD 0, gen := ((pa.authTo (ldNo (rtPkg r) (rtDie r))).map (·.2)).getD 0,
      local_ := (pa.authTo (ldNo (rtPkg r) (rtDie r))).isNone, route := rt, payload := (here v).spRead 0 off.toNat (64 * l.toNat),
      bad := (List.range (64 * l.toNat / 4)).filter fun i => (here v).spBad 0 (off.toNat + 4 * i) 4 }
    exec (.tsend a b l m g) s = .next (if (myOp t).restart then u.updMe fun x => { x with kept := x.kept ++ [tok] } else u.sendToken t.cur.l tok)

/-- R378, R400 to R402: a curfew wait passes when the stamp lies before the curfew, with an acquire, and waits otherwise; cft answers at once. waitc
reads and checks its conditions at its issue and keeps them; it goes on when any, or with L every, present condition holds, or its time is over,
and writes which held. -/
def Obligations.WaitWords : Prop :=
  (∀ (s t : State) (a : BitVec 4) (p : BitVec 6) (y : BitVec 8) (v : Word), engineSource s a = some (v, t) → YardOk t p.toNat y.toNat → isClosed v.toNat = false →
    ((t.parish t.cur.l p.toNat).passed y.toNat v.toNat = true →
      exec (.cfw a p y) s = .next (acquired t) ∧ ∀ b, exec (.cft a b p y) s = .next (withA (acquired t) b 1#64)) ∧
    ((t.parish t.cur.l p.toNat).passed y.toNat v.toNat = false →
      exec (.cfw a p y) s = .next (s.updMe fun x => x.waitA { kindWait 0 with stamp := v, yard := y.toNat, parish := p.toNat } s.ticks) ∧
      ∀ b, exec (.cft a b p y) s = .next (withA t b 0#64))) ∧
  (∀ (s t : State) (a b : BitVec 4) (l : BitVec 1) (g : BitVec 3) (timeout : Word) (cs : List (Nat × Nat)) (now : List Bool) (late : Bool),
    engineSource s a = some (timeout, t) → cs.length = 4 →
    (t.me.waitc = none → CondsAre t g.toNat cs ∧ (∀ c ∈ cs, CondLegal t c) ∧ ∃ c ∈ cs, cKind c.1 ≠ 0) →
    (∀ w, t.me.waitc = some w → w.conds = cs ∧ ∀ c ∈ cs,
      (cKind c.1 = 1 → YardOk t (cParish c.1) (cSel c.1) ∧ isClosed c.2 = false) ∧ (cKind c.1 = 2 → ∃ id r, RingIs t (cSel c.1) id r)) →
    let start := (t.me.waitc.map (·.since)).getD t.ticks
    now = cs.map (fun c => t.condNow c.1 c.2) → late = decide (timeout.toNat * 70 ≤ t.ticks - start) →
    let done := if l = 1#1 then ∀ i < 4, cKind (cs.getD i (0, 0)).1 = 0 ∨ now.getD i false = true else true ∈ now
    (done ∨ late = true → ∃ u, exec (.waitc a b l g) s = .next u ∧ u.me.waitc = none ∧
      u.me.regs.a = t.me.regs.a.set b.toNat { val := BitVec.ofNat 64 (packNat 1 (now.map Bool.toNat) + 16 * late.toNat), valid := true }) ∧
    (¬done → late = false → ∃ u w, exec (.waitc a b l g) s = .next u ∧ u.me.st.aWait = some w ∧ w.kind = 0x40#8 ∧
      u.me.waitc = some { since := start, ends := start + 70 * timeout.toNat, conds := cs }))

/-- R403, R137, R145: caph counts and holds a capability that the step may create; capd gives one up that it holds, and traps with 0x240 for a yard
above NYM1 and with 0x243 for a capability that it does not hold. That 0x240 comes first, and that no 0x245 stands beside them, is the model's
choice (log entry 121). -/
def Obligations.CapabilityWords : Prop :=
  ∀ (s t : State) (a : BitVec 4) (y : BitVec 8) (v : Word), engineSource s a = some (v, t) →
    (NotRestart t → MayCreate t (myOp t).outYards y.toNat v.toNat → t.me.caps.length < 8 →
      exec (.caph a y) s = .next ((t.countAt t.cur.l (myOp t).parish y.toNat v.toNat 1).updMe fun x => { x with caps := x.caps ++ [(y.toNat, v.toNat)] })) ∧
    let nym1 := (t.parish t.cur.l (myOp t).parish).nym1
    (y.toNat ≤ nym1 → (y.toNat, v.toNat) ∈ t.me.caps →
      exec (.capd a y) s =
        .next ((t.updMe fun x => { x with caps := x.caps.erase (y.toNat, v.toNat) }).countAt t.cur.l (myOp t).parish y.toNat v.toNat (-1))) ∧
    (y.toNat ≤ nym1 → (y.toNat, v.toNat) ∉ t.me.caps → exec (.capd a y) s = .next (takeMine { cause := 0x243, access := true, slot := 2 } s)) ∧
    (nym1 < y.toNat → exec (.capd a y) s = .next (takeMine { cause := 0x240, access := true, slot := 2 } s))

/-- R45 to R47, R114, R166, R169, R170, R404 to R406: publication with nothing to publish completes at once, otherwise it waits for the service it asks
for and completes when that is done; an acquire whose reads are performed discards what its scope reaches; a BIE of Base state without older
readers opens, one whose bounds, fields or state forbid it traps, and one whose entry a commit holds waits. -/
def Obligations.PublicationWords : Prop :=
  (∀ (s : State) (sc : BitVec 3),
    (NotRestart s → s.me.pubDone = true → exec (.pub sc) s = .next (s.updMe fun x => { x with pubReq := none, pubDone := false })) ∧
    (let busy := s.me.hasUnpub (fun h _ => scopeReach s.cur.l sc.toNat h) = true ∨
       s.hasRequests s.cur.l s.me.sid (fun r => r.atom.isSome && scopeReach s.cur.l sc.toNat r.home) = true ∨
       s.copying s.cur.l s.cur.k s.me.sid (fun h _ => scopeReach s.cur.l sc.toNat h) = true
     (NotRestart s → s.me.pubDone = false → ¬busy → exec (.pub sc) s = .next s) ∧
     (NotRestart s → s.me.pubDone = false → busy → ∃ u w, exec (.pub sc) s = .next u ∧ u.me.pubReq = some sc.toNat ∧ u.me.st.aWait = some w)) ∧
    (s.fenceMet s.cur.l s.cur.k s.cur.c 2 = true → exec (.acq sc) s = .next (s.updMe fun x => x.acquireAt (scopeReach s.cur.l sc.toNat))) ∧
    (s.fenceMet s.cur.l s.cur.k s.cur.c 2 = false → ∃ u w, exec (.acq sc) s = .next u ∧ u.me.st.aWait = some w)) ∧
  (∀ (s t u : State) (a : BitVec 4) (v : Word) (i r : Nat), engineSource s a = some (v, t) → i = v.toNat % 2 ^ 17 → r = (t.ld t.cur.l).bie i →
    u = t.readThrough 0 [(t.cur.l, (t.ld t.cur.l).bieAddr i, 32)] →
    (t.commitHolds t.cur.l ((t.ld t.cur.l).bieAddr i) 32 = true → ∃ z w, exec (.shopen a) s = .next z ∧ z.me.st.aWait = some w) ∧
    (t.commitHolds t.cur.l ((t.ld t.cur.l).bieAddr i) 32 = false →
    (∀ e, bieCause (t.ld t.cur.l) i = some e → exec (.shopen a) s = .next (takeMine { cause := e, access := true, slot := 2 } s)) ∧
    (bieCause (t.ld t.cur.l) i = none →
      let mine := bieOwned r t.cur.k t.cur.c = true ∧ t.me.openBies.has i = true
      (mine → exec (.shopen a) s = .next u) ∧
      (¬mine → bieState r ≠ 2 → t.oldReader t.cur.l i = false → exec (.shopen a) s = .next (u.openBie t.cur.l t.cur.k t.cur.c i)) ∧
      (¬mine → bieState r = 2 ∨ t.oldReader t.cur.l i = true →
        ∃ z w, exec (.shopen a) s = .next z ∧ z.me.shWait = some i ∧ z.me.st.aWait = some w))) ∧
    (t.me.pubDone = true → exec (.shpub a) s = .next (t.updMe fun x => { x with pubReq := none, pubDone := false })) ∧
    (t.me.pubDone = false → i < (t.ld t.cur.l).regs.bielim.toNat % 2 ^ 17 → bieOwned r t.cur.k t.cur.c = true → t.me.openBies.has i = true →
      ∃ z w, exec (.shpub a) s = .next z ∧ z.me.pubReq = some (8 + i) ∧ z.me.st.aWait = some w))

/-! Operations and events. Each clause says when an event has its effect and what it leaves; an event that is not enabled leaves the state. -/

/-- R56, R57, R70, R78, R122, R178, R246, R248, R251, R256, R276, R401, R402, R416 to R418: one clock of a core, landings, the grant of an object to the
waiter on the core of the highest priority that asked first, what a bank does with each kind of request, and the ends of a fence, of a waitc and of
an error's freeze. The model's choices in it: the access stream goes on in a fixed freeze (log entry 18), and an event of a context that has left
its core names it from 4 up (log entry 8). -/
def Obligations.CoreEvents : Prop :=
  ∀ (s : State) (l k c : Nat), OnCtx l k c →
    (let t := { s with ticks := max s.ticks (4 * max ((s.core l k).clk + 1) (s.ticks / 4)) }.updCore l k fun y =>
        { y with clk := max ((s.core l k).clk + 1) (s.ticks / 4), eccHold := y.eccHold - 1 }
     let r := t.retestOthers l k
     let u := if (r.core l k).switching = 0 then r.reschedule l k else r
     let y := u.core l k
     let thaw (v : State) : State := v.updCore l k fun y => { y with freeze := y.freeze - 1 }
     let ends (v : State) : State :=
       let x := v.ctx l k c
       if x.live = true ∧ x.retiring = 1 ∧ x.st.run = [] ∧ x.paused = none ∧ (∀ f ∈ x.st.dtraps, x.st.cc < f.after) then v.beginRetire l k c else v
     (y.switching ≠ 0 → exec (.bundleIssue l k) s = .next (u.updCore l k fun y => { y with switching := y.switching - 1, freeze := y.freeze - 1 })) ∧
     (y.switching = 0 → y.active = none → exec (.bundleIssue l k) s = .next (thaw u)) ∧
     (y.switching = 0 → y.active = some c →
       ((y.ctx c).live = false ∨ (y.ctx c).paused.isSome = true ∨ y.hasSet (y.ctx c) = false → exec (.bundleIssue l k) s = .next (thaw u)) ∧
       ((y.ctx c).live = true → (y.ctx c).paused = none → y.hasSet (y.ctx c) = true →
         (y.freeze ≠ 0 → exec (.bundleIssue l k) s = .next (ends (((thaw u).updCtx l k c fun x => x.countFreeze false).accessAlone l k c))) ∧
         (y.freeze = 0 →
           let v := (u.landNow l k c).arrayClock l k c
           ((v.core l k).freeze ≠ 0 → exec (.bundleIssue l k) s = .next (ends (((thaw v).updCtx l k c fun x => x.countFreeze false).accessAlone l k c))) ∧
           ((v.core l k).freeze = 0 → exec (.bundleIssue l k) s = .next (ends (v.streams l k c))))))) ∧
    (let x := s.ctx l k c
     (∀ t, x.dueTrap = some t → s.streams l k c = s.takeDetected l k c t) ∧
     (∀ t, x.dueTrap = none → x.st.atrap = some t → x.st.run = [] → s.streams l k c = takeTrap l k c t s) ∧
     (x.dueTrap = none → (x.st.atrap = none ∨ x.st.run ≠ []) →
       ∀ (landed s1 s2 : State) (a : AccessEnd) (e : ExecEnd), landed = s.landNow l k c →
         (if x.mayAccess = true ∧ x.st.run.length ≤ 16 then landed.accessTry l k c = (s1, a) else s1 = landed ∧ a = .stalled) →
         s1.execTry l k c = (s2, e) →
         let full := x.st.run.length = 16
         let synced := full ∨ (a = .issued ∧ ((s1.ctx l k c).st.run.getLast?.map (·.sync)).getD false = true)
         (e = .issued → s.streams l k c = (s2.noteStart l k c).updCore l k fun y => { y with issuing := y.issuing + 1 }) ∧
         (∀ w late, e = .frozen w late → s.streams l k c = (if synced then landed else s2).updCtx l k c fun x => (x.waitX w landed.ticks).countFreeze late) ∧
         (∀ t, e = .trapped t → s.streams l k c =
           takeTrap l k c { t with access := false } ((if full then landed else s2).updCtx l k c fun x => { x with st.atrap := x.st.keepSysc })) ∧
         (e = .catchUp →
           let v := s2.updCtx l k c fun x => x.countFreeze false
           ((v.ctx l k c).deadlock = none → s.streams l k c = v) ∧ ∀ t, (v.ctx l k c).deadlock = some t → s.streams l k c = takeTrap l k c t v))) ∧
    ((s.core l k).active = some c → (s.ctx l k c).live = true → (∃ f ∈ (s.ctx l k c).st.flight, f.land ≤ (s.ctx l k c).st.cc) →
      exec (.resultLanding l k) s = .next (s.updCtx l k c fun x => x.landAll s.ticks)) ∧
    (∀ (e d n : Nat) (u : State) (back : State → State), At s l k e u d back → n < 32 → (u.ctx l k d).live = true →
      ((u.ctx l k d).regs.ls.getD n {}).st = .pending → ((u.ctx l k d).regs.ls.getD n {}).here = true →
      ((u.ctx l k d).regs.ls.getD n {}).due ≤ (u.core l k).clk + 1 →
      exec (.landingSlotFill l k e n) s = .next (back (u.updCtx l k d fun x => { x with regs.ls := x.regs.ls.modify n fun sl => { sl with st := .arrived } }))) ∧
    (∀ n, (s.ctx l k c).fence = some n → (s.ctx l k c).live = true → s.fenceMet l k c n = true →
      exec (.fenceComplete l k c) s = .next (s.updCtx l k c fun x =>
        { x.endWaitA (s.chargeTick l k c) with fence := none, readyAt := s.ticks, agedAt := s.ticks })) ∧
    (∀ w, (s.ctx l k c).waitc = some w → (s.ctx l k c).mayAccess = true → (s.core l k).active = some c → (s.core l k).calRun = 0 →
      (s.core l k).switching = 0 →
      ((s.ctx l k c).st.run.length ≤ 15 → exec (.waitcTimeout l k c) s = .next ((timeTo s w.ends).accessTry l k c false).1) ∧
      (15 < (s.ctx l k c).st.run.length → exec (.waitcTimeout l k c) s = .next (timeTo s w.ends))) ∧
    (∀ (tile : Bool) (n : Nat) (e : Nat × Ctx), n < 4 → ((s.core l k).claim tile n).st = .free →
      let waits (q : Nat × Ctx) : Prop := q ∈ (s.core l k).ctxs ∧ q.1 < 4 ∧ q.2.live = true ∧ q.2.sid ∈ ((s.core l k).claim tile n).waiting
      waits e →
      (∀ q, waits q → q = e ∨ q.2.effPri < e.2.effPri ∨ (q.2.effPri = e.2.effPri ∧ e.2.claimAt s.ticks < q.2.claimAt s.ticks)) →
      let t := s.updCore l k fun y => y.setClaim tile n fun c =>
        { c with st := .reserved, owner := e.2.sid, readers := 0, faulted := 0, again := 0, waiting := c.waiting.filter (· != e.2.sid) }
      exec (.claimGrant l k tile n) s = .next (t.updCtx l k e.1 fun x =>
        { x.endClaimWaits (t.chargeTick l k e.1) with claimWait := none, readyAt := t.ticks, agedAt := t.ticks })) ∧
    (∀ r rest, (s.core l k).nbrQ = r :: rest →
      let t := s.updCore l k fun y => { y with nbrQ := rest }
      let y := t.core l k
      let v := r.v.toNat % 2 ^ (8 * r.n)
      let old := leNat (y.spRead 0 r.off r.n)
      let bad := y.spBad 0 r.off r.n
      let answer (u : State) (data side : Nat) (bad : Bool) (time : Nat) : State :=
        u.updStep l r.sid fun x => x.fillSlot r.slot data side (if bad then 0x1C0 else 0) time
      (r.kind = 0 → exec (.nbrRequestArrival l k) s = .next (answer t (extendVal r.sx r.n old) 0 bad 1)) ∧
      (r.kind = 1 → exec (.nbrRequestArrival l k) s = .next (answer t (y.readVec r.swz r.rl r.off r.side).1 (y.readVec r.swz r.rl r.off r.side).2.1
        (y.readVec r.swz r.rl r.off r.side).2.2 (vecTime r.swz r.rl r.off r.side))) ∧
      (r.kind = 2 → exec (.nbrRequestArrival l k) s = .next (t.updCore l k fun y => y.spWrite 0 r.off r.data)) ∧
      (r.kind = 3 → exec (.nbrRequestArrival l k) s = .next (t.updCore l k fun y => y.writeVec r.swz r.rl r.off r.side
        { data := BitVec.ofNat 2048 (leNat (r.data.take 256)), side := BitVec.ofNat 256 (leNat (r.data.drop 256)) })) ∧
      (4 ≤ r.kind → exec (.nbrRequestArrival l k) s = .next (answer
        (if bad = true ∨ (r.opn = 9 ∧ old ≠ v) then t
         else t.updCore l k fun y => y.spWrite 0 r.off (natLe r.n (atomNew r.opn (8 * r.n) old v (r.w.toNat % 2 ^ (8 * r.n)))))
        old 0 bad 1))) ∧
    ((s.core l k).eccHold ≠ 0 → exec (.eccFreezeEnd l k) s = .next (s.clocks l k (s.core l k).eccHold))

/-- R109, R111, R117, R118, R119, R124, R125, R139, R163, R174, R176, R183, R282, R415, R441, R442: what a home does with a load, an atomic and a
prefetch; lines read and written, the host's accesses, a peer's request and the loss of an answer. The model's choices in it: a write of the host is
stored as through C = 0 (log entry 58), a peer's bytes are stored as published (log entry 60), an atomic's result replaces the step's own store
(log entry 21), a request is given up when its event comes (log entry 75), and what a home's packet brings stands in the slot as the packet leaves
(log entry 131). -/
def Obligations.MemoryEvents : Prop :=
  ∀ (s : State) (l : Nat), dieOk l = true →
    (∀ r rest, s.servable [] (s.ld l).homeQ = r :: rest →
      let i := (s.ld l).homeQ.findIdx (· == r)
      let t := if r.isLoad && r.fixed.isNone then s.fixImage r.src r.sid r.home r.addr r.n else s
      let q := (t.ld l).homeQ.getD i r
      let t' := t.updLd l fun x => { x with homeQ := x.homeQ.eraseIdx i }
      let u := t'.serveHome q
      exec (.dieCacheRequest l) s = .next (
        if (u.stepOf q.src q.sid).isNone && !q.pref && (u.answerCause q).isSome then u.notice l 6 2 10 0x304 q.src else u) ∧
      (q.atom = none → q.pref = true → u = t'.readThrough q.ca [(q.home, q.addr, q.n)]) ∧
      (q.atom = none → q.pref = false → t'.stepOf q.src q.sid = none → u = t') ∧
      (∀ x got, q.atom = none → q.pref = false → t'.stepOf q.src q.sid = some x →
        got = q.fixed.getD (seenBytes ((List.range q.n).map fun j => t'.overImage x q.home (q.addr + j) (mget q.mine (q.addr + j)))) →
        let mark := (t'.answerCause q).getD (if got.2 = 0 then (if q.poison then 0x1C0 else 0) else got.2)
        u = ((t'.updStep q.src q.sid fun x => x.fillPart q.slot q.part (if q.vec then leNat got.1 else extendVal q.sx q.n (leNat got.1)) mark).readThrough
          q.ca [(q.home, q.addr, q.n)] x).answered q got.1) ∧
      (∀ op, q.atom = some op →
        let old := leNat (t'.homeBytes q.home q.addr q.n)
        let bad := if q.home = hostKey then 0 else (t'.ld q.home).hbm.badRange q.addr q.n
        let mark := if bad = 0 then (if q.poison then 0x1C0 else 0) else bad
        let v := q.v.toNat % 2 ^ (8 * q.n)
        let bs := natLe q.n (atomNew op (8 * q.n) old v (q.w.toNat % 2 ^ (8 * q.n)))
        let a := t'.readThrough q.ca [(q.home, q.addr, q.n)]
        let b := if q.home = hostKey then { a with host := Mem.setBytes a.host q.addr bs }
          else a.updLd q.home fun x => { x with hbm := x.hbm.write q.addr bs q.comp }.touch q.addr q.n q.ca true
        (mark = 0 ∧ ¬(op = 9 ∧ old ≠ v) →
          let d := b.updLd (homeDie q.src q.home) fun d => { d with homeQ := d.homeQ.map fun p => p.after q bs }
          u = (d.updStep q.src q.sid fun x => (x.storeAtomic q.home q.addr q.seq bs).fillPart q.slot 0 old ((d.answerCause q).getD mark)).answered q (natLe q.n old)) ∧
        (¬(mark = 0 ∧ ¬(op = 9 ∧ old ≠ v)) →
          u = (a.updStep q.src q.sid fun x => x.fillPart q.slot 0 old ((a.answerCause q).getD mark)).answered q (natLe q.n old)))) ∧
    (∀ (line : Nat) (mask : BitVec 4), line < 2 ^ 29 →
      ∃ t, exec (.lineReadExpand l line mask) s = .next t ∧ t = s.readThrough 0 ((setBits mask.toNat 4).map fun q => (l, 128 * line + 32 * q, 32)) ∧
        (∀ q < 4, mask.getLsbD q = true → 6 ≤ mgetD (s.ld l).hbm.tags line 0 → (t.ld l).hbm.poison.has (4 * line + q) = true)) ∧
    (∀ (line : Nat) (comp : Bool) (data : BitVec 1024), line < 2 ^ 29 →
      exec (.fullLineWrite l line comp data) s = .next (s.updLd l fun x =>
        { x with hbm := x.hbm.mergeLine line comp fun i => some (BitVec.ofNat 8 (data.toNat / 2 ^ (8 * i) % 2 ^ 8), false) })) ∧
    (∀ (addr : Nat) (comp : Bool) (bytes : List (BitVec 8)), addr < 2 ^ 36 → bytes ≠ [] → bytes.length < 128 → addr % 128 + bytes.length ≤ 128 →
      exec (.partialLineWrite l addr comp bytes) s = .next (s.pokeLd l addr bytes comp)) ∧
    (∀ (addr : Nat) (bs : List (BitVec 8)) (comp : Bool) (ca : Nat), s.pokeLd l addr bs comp ca =
      (s.noteBroken l addr bs.length).updLd l fun x => { x with hbm := x.hbm.writeBad addr (bs.map fun b => (b, false)) comp }.touch addr bs.length ca true) ∧
    (l % 16 < 8 → (s.ld l).host.isSome = true → ∀ (addr n : Nat) (bytes : List (BitVec 8)),
      (1 ≤ bytes.length → bytes.length ≤ 64 → addr + bytes.length ≤ 2 ^ 36 → s.commitHolds l addr bytes.length = false → s.linesFree l addr bytes.length = true →
        exec (.hostCxlMemAccess l true addr n bytes) s = .next ((s.updLd l fun x => x.hostHolds addr bytes.length false).pokeLd l addr bytes)) ∧
      (1 ≤ n → n ≤ 64 → addr + n ≤ 2 ^ 36 → s.commitHolds l addr n = false → s.linesFree l addr n = true →
        exec (.hostCxlMemAccess l false addr n bytes) s = .next
          (((s.updLd l fun x => { x with
              lastRead := (s.peekAt { home := l, addr := addr } n).map (·.1), lastBad := (s.peekAt { home := l, addr := addr } n).map fun v => v.2 != 0 }).readThrough
            0 [(l, addr, n)]).updLd l fun x => x.hostHolds addr n true))) ∧
    (l % 16 = 8 → ∀ (addr n : Nat) (bytes : List (BitVec 8)),
      (1 ≤ bytes.length → bytes.length ≤ 64 → exec (.hostCxlMemAccess l true addr n bytes) s = .next (s.hostWrites addr bytes)) ∧
      (1 ≤ n → n ≤ 64 → exec (.hostCxlMemAccess l false addr n bytes) s = .next s)) ∧
    (∀ (ipkg idie expidx gen : Nat) (rights : BitVec 3) (e kind : Nat) (bytes : List (BitVec 8)), 1 ≤ kind → kind ≤ 5 → bytes ≠ [] → bytes.length ≤ 256 →
      s.anyHeld (s.exportReads l expidx e) = false →
      let i : Instr := .peerRequestCheck l ipkg idie expidx gen rights e kind bytes
      let r := s.exportCheck l ipkg idie expidx gen rights e kind bytes.length
      let t := (s.readThrough 0 (s.exportReads l expidx e)).afterXl l 64 0 e
      (∀ c, r = .fault c ∨ r = .lost c → exec i s = .next (t.updLd l fun x => { x with peerAns := some (c, 0), lastRead := [], lastBad := [] })) ∧
      (∀ p, r = .ok p → s.commitHolds p.home p.addr bytes.length = false → s.linesFree p.home p.addr bytes.length = true →
        let got := t.peekAt p bytes.length
        (kind ≠ 2 → kind ≠ 5 → exec i s = .next ((t.updLd l fun x =>
          { x with peerAns := some (0, p.addr), lastRead := got.map (·.1), lastBad := got.map fun v => v.2 != 0 }).readThrough p.ca [(p.home, p.addr, bytes.length)])) ∧
        (kind = 2 ∨ kind = 5 →
          let u := t.updLd l fun x => { x with peerAns := some (0, p.addr), lastRead := [], lastBad := [] }
          exec i s = .next (if p.home = hostKey then { u with host := Mem.setBytes u.host p.addr bytes } else u.pokeLd p.home p.addr bytes p.comp p.ca)))) ∧
    (∀ (p : Phys) (n j : Nat), j < n → (s.peekAt p n).getD j (0#8, 0) =
      ((s.homeBytes p.home p.addr n).getD j 0#8,
        let bad := if p.home = hostKey then 0 else (s.ld p.home).hbm.bad (p.addr + j)
        if bad = 0 ∧ p.pr = true then 0x1C0 else bad)) ∧
    (∀ (k e d n : Nat) (u : State) (back : State → State), k < 48 → n < 32 → At s l k e u d back → (u.ctx l k d).live = true →
      ((u.ctx l k d).regs.ls.getD n {}).st = .pending →
      let mine (r : HomeReq) : Bool := r.ofStep l (u.ctx l k d).sid && !r.pref && r.slot == n
      (∃ e ∈ u.lds, e.1 ≠ l ∧ ∃ r ∈ e.2.homeQ, mine r = true ∧ r.home ≠ hostKey) →
      exec (.peerResponseTimeout l k e n) s = .next (back
        ({ u with lds := u.lds.map (fun (e : Nat × Ld) => (e.1, { e.2 with homeQ := e.2.homeQ.filter fun r => !mine r })), ticks := u.ticks + 700000 }.updCtx
          l k d fun x => x.fillSlot n 0 0 0x300 0))) ∧
    (∀ k c q a, k < 48 → c < 4 → Running s l k c q → q.chunked = true → (q.chunk.isSome = true ∨ (q.input = none ∧ 4096 * q.chix < q.total)) →
      s.farChunk l k q = some a → exec (.peerResponseTimeout l k c 32) s = .next ({ s with ticks := s.ticks + 700000 }.stopCmd l k q 0x300 a))

/-- R17 to R20, R27 to R35, R113, R114: walks start in arrival order, read the tables once, and end in a leaf that the TLBs then hold or in a fault;
invalidations start, are refused and complete, and an interleave commit ends. The model's choices in it: DONE and ERR at a start (log entry 51), what an
invalidation waits for (log entry 59), the time of a walk (log entry 94). -/
def Obligations.TranslationEvents : Prop :=
  ∀ (s : State) (l : Nat), dieOk l = true →
    (∀ w rest, (s.ld l).missQ = w :: rest → (s.ld l).walks.length < 64 →
      let v := { w with level := ((s.ld l).walkStart w.page).1, table := ((s.ld l).walkStart w.page).2 }
      let t := s.updLd l fun x => { x with missQ := rest, walks := x.walks ++ [v] }
      ∃ u, exec (.tableWalkStart l) s = .next u ∧
        (v.found = none → t.anyHeld (v.reads (t.ld l) l) = true → u = t) ∧
        (v.found = none → t.anyHeld (v.reads (t.ld l) l) = false →
          u = (t.readThrough 0 (v.reads (t.ld l) l)).updLd l fun x => { x with walks := x.walks.map fun w => if w.page = v.page then v.look x else w })) ∧
    (∀ ws w rest, (s.ld l).walks = ws ++ w :: rest → (∀ v ∈ ws, v.found = none ∧ s.anyHeld (v.reads (s.ld l) l) = true) →
      (∀ v ∈ ws, v.page ≠ w.page) →
      (w.found.isSome = true → exec (.tableWalkComplete l) s = .next (s.updLd l fun x => x.walkEnds w)) ∧
      (w.found = none → s.anyHeld (w.reads (s.ld l) l) = false → exec (.tableWalkComplete l) s =
        .next ((((s.readThrough 0 (w.reads (s.ld l) l)).updLd l fun x => { x with walks := x.walks.map fun v => if v.page = w.page then w.look x else v })).updLd
          l fun x => x.walkEnds (w.look (s.readThrough 0 (w.reads (s.ld l) l) |>.ld l))))) ∧
    (∀ v : BitVec 36, exec (.xlinvPage l v) s = .next (s.updLd l fun x => x.writeXlinv (v.toNat % 2 ^ 36 * 2 ^ 16))) ∧
    (∀ v : BitVec 36, exec (.xlinvRange l v) s = .next (s.updLd l fun x => x.writeXlinv (v.toNat % 2 ^ 36 * 2 ^ 16 + 1))) ∧
    exec (.xlinvAll l) s = .next (s.updLd l fun x => x.writeXlinv 2) ∧
    (∀ v : BitVec 64, (s.ld l).invalRange v.toNat = none → exec (.xlinvReject l v) s = .next (s.updLd l fun x => x.writeXlinv v.toNat)) ∧
    (∀ p n, (s.ld l).inval = some (p, n) → (∀ w ∈ (s.ld l).walks, w.meets p n = false) → (s.ld l).homeQ = [] →
      (∀ e ∈ s.lds, ∀ r ∈ e.2.homeQ, r.src ≠ l) → (∀ e ∈ s.lds, ∀ y ∈ e.2.cores, ∀ q ∈ y.2.queue, q.owesWrites = false) →
      exec (.invalidationDone l) s = .next (s.updLd l fun x => { x.purge p n with inval := none, regs.xlinvst := stEnd x.regs.xlinvst })) ∧
    (∀ v : BitVec 64, exec (.interleaveCommit l v) s = .next (s.updLd l fun x => x.writeIvcmt s.ticks v.toNat)) ∧
    (∀ a m, (s.ld l).commit = some (a, m) → ∃ t, exec (.interleaveCommitDone l) s = .next t ∧ (t.ld l).commit = none ∧
      (t.ld l).regs.ivst = stEnd (s.ld l).regs.ivst ∧
      ∀ i < m / 2 ^ 30, mgetD (t.ld l).regs.ivact (a / 2 ^ 30 + i) ivReset = mgetD (s.ld l).regs.ivstg (a / 2 ^ 30 + i) ivReset)

/-- R97, R105 to R107, R126 to R132, R164, R381 to R393, R408, R423: the copy engine accepts, translates, transforms and writes chunks, completes and
reports; codebook commands commit; a context's codebook set is exchanged. The model's choices in it: what an instruction of a routine does (log entry 16),
the floor of a cbval at a fence.e (log entry 39), which of two values a word takes (log entry 89), a copy whose step has ended (log entries 76, 98), the
fault of a step that is paused already (log entry 78). -/
def Obligations.EngineEvents : Prop :=
  ∀ (s : State) (l k c : Nat), OnCtx l k c →
    (∀ q, (s.core l k).cmdOf c = some q → q.st = .waiting → (s.core l k).eccHold = 0 →
      ((s.pkg (pkgOf l)).holding = true → bit (s.regionOf l (s.ctx l k c).sys.opid).rcb.toNat 234 = true) →
      (q.isCopy = true → dSsp q.d0 = 3 → (s.core l k).renorming q.tileNo = false) →
      (q.isCopy = true → exec (.engineCommandAccept l k c) s = .next (s.acceptCopy l k q)) ∧
      (q.isCopy = false → exec (.engineCommandAccept l k c) s = .next ((s.fixView l k q).updCmd l k q.id fun q =>
        { q with accepted := true, st := .running, total := if q.kind = .accst then 64 * accRow q.tileFmt else q.total }))) ∧
    (∀ q, Running s l k c q →
      (q.chunked = true → q.chunk = none → q.input = none → 4096 * q.chix < q.total →
        (∀ e, s.chunkSrc l k q = .error e → exec (.copyChunkTranslate l k c) s = .next (s.stopOr l k q e)) ∧
        (∀ bs ahead v, s.chunkSrc l k q = .ok (bs, ahead, v) →
          (s.wayHeld l (farDies l (v.reads.map (·.1))) = true → exec (.copyChunkTranslate l k c) s = .next s) ∧
          (s.wayHeld l (farDies l (v.reads.map (·.1))) = false →
            let t := (s.keepView l k q v).updCmd l k q.id fun q => { q with ahead := ahead }
            let r : Cmd := { q with view := v }
            (q.kind = .cpyx → exec (.copyChunkTranslate l k c) s = .next (t.updCmd l k q.id fun q => { q with input := some (bs.map (·.1), bs.any (·.2)) })) ∧
            (∀ e, q.kind ≠ .cpyx → t.dstRun l k r (4096 * q.chix) bs = .error e → exec (.copyChunkTranslate l k c) s = .next (s.stopOr l k r e)) ∧
            (∀ ds, q.kind ≠ .cpyx → t.dstRun l k r (4096 * q.chix) bs = .ok ds →
              exec (.copyChunkTranslate l k c) s = .next (t.chunkReady l k r (4096 * (q.chix + 1)) ds))))) ∧
      (∀ bs bad, q.kind = .cpyx → q.input = some (bs, bad) → q.started = false → q.chunk = none → exec (.transformChunkStart l k c) s =
        .next (if bad then s.stopCmd l k q 0x1C2 0 else s.updCmd l k q.id fun q => { q with started := true })) ∧
      (q.started = true →
        (q.outcome.ending = 3 → exec (.transformTimeout l k c) s = .next (s.stopCmd l k q 0x28A 0)) ∧
        (q.outcome.ending = 1 → exec (.transformException l k c true) s = .next (s.stopCmd l k q 0x289 0)) ∧
        (q.outcome.ending = 2 → exec (.transformException l k c false) s = .next (s.stopCmd l k q 0x28B 0)) ∧
        (q.outcome.ending = 0 → 4096 < q.outcome.a0.toNat → exec (.transformEcall l k c) s = .next (s.stopCmd l k q 0x28C 0)) ∧
        (q.outcome.ending = 0 → q.outcome.a0.toNat ≤ 4096 →
          let out := (List.range q.outcome.a0.toNat).map fun i => (q.outcome.out.getD i 0#8, false)
          let olen := (q.d.getD 7 0#64).toNat / 2 ^ 32
          let fit := if olen = 0 then out else out.take (olen - q.outPos)
          (∀ e, s.dstRun l k q q.outPos fit = .error e → exec (.transformEcall l k c) s = .next (s.stopOr l k q e)) ∧
          (∀ ds, s.dstRun l k q q.outPos fit = .ok ds →
            let b := decide (fit.length < q.outcome.a0.toNat)
            exec (.transformEcall l k c) s = .next ((s.updCmd l k q.id fun r => { r with outLen := fit.length, beyond := b }).chunkReady
              l k { q with outLen := fit.length, beyond := b } (q.outPos + fit.length) ds)))) ∧
      (∀ bs b, q.chunk = some bs → b < bs.length → bit q.issued b = false → (∀ i < b, bit q.issued i = true) → s.wayHeld l (blockDies l (bs.getD b [])) = false →
        (∀ e, (blockDies l (bs.getD b [])).findSome? (s.roundTrip l) = some e →
          exec (.copyBlockWrite l k c) s = .next (s.stopCmd l k q e q.dst.toNat)) ∧
        (∀ ds w, (blockDies l (bs.getD b [])).findSome? (s.roundTrip l) = none → s.eitherWrite l q (bs.getD b []) q.wrote = (ds, w) →
          let t := { s with draw := s.draw + 1 }.updCmd l k q.id fun q => { q with issued := q.issued ||| 2 ^ b, wrote := w }
          (q.isCopy = true → dRing q.d0 = true →
            exec (.copyBlockWrite l k c) s = .next (t.updLd l fun x => { x with landing := x.landing ++ landingsOf q.id b (q.ring.getD (0, 0)).1 ds })) ∧
          (q.isCopy = false ∨ dRing q.d0 = false → exec (.copyBlockWrite l k c) s = .next ((t.writeBytes l k q ds).blockDone l k q.id b)))) ∧
      (q.chunked = true → q.total ≤ 4096 * q.chix → q.chunk = none → (s.ld l).settled q.id = true →
        let s' := s.flushTail l k q
        (q.kind = .cpyx → q.total ≠ 0 → q.outPos < (q.d.getD 7 0#64).toNat / 2 ^ 32 → exec (.copyComplete l k c) s = .next (s'.stopCmd l k q 0x284 0)) ∧
        (¬(q.kind = .cpyx ∧ q.total ≠ 0 ∧ q.outPos < (q.d.getD 7 0#64).toNat / 2 ^ 32) →
          let t := if q.stamped.isSome || !s'.cmdAlive l k q then s'.publishCopy l k q else s'
          let u := match q.stamped with
            | some (p, y, v) => t.updLd l fun x => { x with acksDue := x.acksDue ++ [(p, y, v, k)] }
            | none => t
          exec (.copyComplete l k c) s = .next ((u.readerPast l k q).dropCmd l k q.id))) ∧
      (q.kind = .cbld → s.floorMet l k q q.next = true →
        ∀ a, a = wrap 64 ((q.src.toNat : Int) + 8 * q.next) →
        (∀ e, s.cbRead l k q a = .error e → exec (.cbldEntryCommit l k c) s = .next (s.stopOr l k q e)) ∧
        (∀ v w, s.cbRead l k q a = .ok (v, true, w) → exec (.cbldEntryCommit l k c) s = .next ((s.keepView l k q w).stopCmd l k q 0x1C2 a)) ∧
        (∀ v w, s.cbRead l k q a = .ok (v, false, w) →
          let t := (s.keepView l k q w).updCore l k fun y =>
            y.updBank q.bank fun b => { b with entries := mset b.entries (q.first + q.next) (BitVec.ofNat 64 v) 0#64, poison := b.poison.upd (q.first + q.next) false }
          exec (.cbldEntryCommit l k c) s = .next (if q.next + 1 = q.count then t.dropCmd l k q.id else t.updCmd l k q.id fun q => { q with next := q.next + 1 }))) ∧
      (q.kind = .cbval → s.floorMet l k q 0 = true → exec (.cbvalCommit l k c) s = .next
        ((s.updCore l k fun y => y.updBank q.bank fun b =>
          { b with vmap := q.vm.getD (BitVec.allOnes 256), fmt := q.fmt, lim := q.lim, poison := b.poison.filter fun e => decide (e.1 < 256) }).dropCmd l k q.id)) ∧
      (q.kind = .cbsave → (s.cmdAlive l k q = true → (s.core l k).cbOwner = some (s.ctx l k q.ctx).setKey) →
        let b := (s.core l k).banks.getD q.bank {}
        let word (i n v : Nat) : List (BitVec 8 × Bool) := (natLe n v).map fun x => (x, b.poison.has i)
        let bytes := (((List.range q.count).map fun i => q.first + i).flatMap fun i => word i 8 (b.entry i)) ++
          if q.regOut then word 256 32 b.vmap.toNat ++ word 257 8 b.fmt.toNat ++ word 258 8 b.lim.toNat ++ List.replicate 16 (0#8, false) else []
        let put (v : (BitVec 8 × Bool) × Nat) : Except (Nat × Nat) DstB :=
          s.dstByte l k q (if q.sp = 1 then 0 else 1) 0 (wrap 64 ((q.dst.toNat : Int) + v.2)) v.1.1 v.1.2
        ∀ ds : List DstB, bytes.zipIdx.map put = ds.map .ok →
          let t := s.writeBytes l k q ds
          exec (.cbsaveComplete l k c) s = .next (
            (if t.cmdAlive l k q then t else t.publishCopy l k (((t.core l k).queue.find? fun r => r.id == q.id).getD q)).dropCmd l k q.id))) ∧
    (∀ q cause addr, (s.core l k).cmdOf c = some q → q.fault = some (cause, addr) → (s.ld l).settled q.id = true →
      let tile := if q.heldF && ((s.core l (q.readAt.getD k)).claim true q.tileNo).st == .faulted then 2 ^ q.tileNo else 0
      let hi := engineHalf addr q.smask q.chix q.kind.code tile q.xstamp
      (s.cmdAlive l k q = true → (s.ctx l k q.ctx).paused = none →
          let t := s.flushTail l k q
          exec (.engineFaultReport l k c) s = .next
          ((if q.refused then t.dropCmd l k q.id else t.updCmd l k q.id fun q => { q with fault := none }).engineFault l q.sid cause hi)) ∧
      (s.cmdAlive l k q = false →
        let t := (((s.flushTail l k q).uncount l q).readerPast l k q).dropCmd l k q.id
        exec (.engineFaultReport l k c) s = .next ((t.queueRecord l 0 (faultRecord t.ns (dieOf l)
          { stamp := q.stamp, trapb := q.va, opid := q.opid, core := k, ctx := q.ctx, kind := 2, act := 3, cause := cause } hi)).countFault l q.opid cause))) ∧
    (∀ p y t j r, (s.ld l).acksDue = (p, y, t, j) :: r →
      exec (.stampedCopyAck l) s = .next ((s.updLd l fun x => { x with acksDue := r }).countAt l p y t (-1))) ∧
    (∀ (r hod sector : Nat) (data : BitVec 256) (w : Landing), hod < 64 → sector < 512 →
      ((s.ld l).landing.find? fun w => w.core == k && w.ring == r && w.hod == hod && w.sector == sector) = some w →
      exec (.sectorLanding l k r hod sector data) s = .next ((s.updLd l fun x => { x with landing := x.landing.erase w }).landSector l w)) ∧
    (∀ (x : Ctx) (bs : List Bank), x = s.ctx l k c → x.live = true → x.priv = false → x.paused = none → (s.core l k).active = some c →
        (s.core l k).hasSet x = false → (s.core l k).exchangeFree = true → s.exchangeHeld l k c = false → ((s.storeSet l k).ctx l k c).banks = some bs → ((s.storeSet l k).ctx l k c).badBanks = false →
      exec (.codebookExchange l k c) s = .next (((s.storeSet l k).updCore l k fun y =>
        { y with banks := bs, cbOwner := some ((s.storeSet l k).ctx l k c).setKey, switching := y.switching + 1200 }).updCtx l k c fun x => { x with banks := none })) ∧
    (∀ (q : Cmd) (ds : List DstB), ds ≠ [] →
      (∀ j, (∀ d ∈ ds, d.core = some j) → s.writeBytes l k q ds = s.updCore l j fun y => y.writePlaces ds) ∧
      (∀ (y : Core) (a : Nat), y.spad.wf = true → Mem.get (y.writePlaces ds).spad a = ((ds.reverse.find? fun d => d.addr == a).map (·.val)).getD (Mem.get y.spad a)) ∧
      ((∀ d ∈ ds, d.core = none) → farDies l (ds.map (·.home)) = [] → s.cmdAlive l k q = true →
        let x := s.ctx l k q.ctx
        ∃ t, s.writeBytes l k q ds = t ∧ (∃ m, t = s.updCtx l k q.ctx fun x => { x with stores := x.stores + 1, own := m }) ∧
          ∀ h a, mget (mgetD (t.ctx l k q.ctx).own h []) a = match ds.reverse.find? fun d => d.home == h && d.addr == a with
            | some d => some { val := d.val, seq := x.stores + 1, comp := d.comp, poison := d.bad, copy := some q.id }
            | none => mget (mgetD x.own h []) a)) ∧
    (∀ q : Cmd, s.cmdAlive l k q = true → s.publishCopy l k q = s.publish l k q.ctx fun _ o => o.copy == some q.id) ∧
    (∀ (q : Cmd) (next : Nat) (ds : List DstB) (p y : Nat), q.isCopy = true → dRing q.d0 = true → q.tail = [] → q.smask = 0 →
      ds ≠ [] → ds.length ≤ 4096 → (∀ d ∈ ds, d.page = none) → (s.core l k).cmdOf c = some q → q.chunk = none → 4096 * (q.chix + 1) < q.total → p < (ds.length + 255) / 256 → y < 256 →
      ∃ r bs, ((s.chunkReady l k q next ds).core l k).cmdOf c = some r ∧ r.chunk = some bs ∧ r.tail = [] ∧ r.issued = 0 ∧
        bs.length = (ds.length + 255) / 256 ∧ (bs.getD p [])[y]? = ds[256 * p + y]?)

/-- R77, R121 to R125, R240, R241, R251, R326 to R328, R333, R340 to R345, R355, R357, R359, R437: what the array does on its own, errors, and
calibration. The model's choices in it: a reading's refusal comes with its event (log entry 90), INDEX of a comb's margin fault (log entry 40), floors when
the execute stream cannot move (log entry 39), the names of words of core storage and their entries (log entries 32, 67, 118), temperatures (log entry 62),
the 24 µs of a calibration and where it starts (log entries 61, 64). -/
def Obligations.ArrayEvents : Prop :=
  ∀ (s : State) (l k c : Nat) (x : Ctx), OnCtx l k c →
    (ArrayOf s l k c x →
      let now := s.updCtx l k c fun x => x.landAll s.ticks
      (∀ (refused : BitVec 256) (p : Pass), (s.core l k).rerace = none → x.dueRead = some p →
        let out := (List.range 256).filter fun i => 2 ^ p.span - 1 < (p.sums.getD i 0).natAbs
        let bad := refused &&& ~~~p.clamped
        let t := now.updCtx l k c fun x => x.updPass p.seq fun q =>
          { q with sums := q.sums.map (clampSum q.span), ok := ~~~bad, done := bad == 0#256, races := if bad == 0#256 then 0 else 1 }
        let u := (if p.clamped = 0#256 then t else t.updCtx l k c fun x => { x.orR rSAT with sys.satmask := x.sys.satmask ||| p.clamped }).updCore l k fun y =>
          { y with satcols := y.satcols + (List.range 256).countP p.clamped.getLsbD }
        (p.sums.length = 256 → ∀ i < 256, p.clamped.getLsbD i = decide (i ∈ out)) ∧
        (bad = 0#256 → exec (.passConverterRead l k refused) s = .next u) ∧
        (bad ≠ 0#256 → exec (.passConverterRead l k refused) s = .next ((u.updCtx l k c fun x => x.orR rRR).updCore l k fun y =>
          { y with rerace := some (c, false, p.seq), freeze := y.freeze + 16, reraces := y.reraces + 1 }))) ∧
      (∀ p, (s.core l k).rerace = none → (s.core l k).renorm = none → x.duePass = some p →
        let t := (s.core l k).tiles.getD p.tile {}
        let gone (s : State) : State := s.updCtx l k c fun x => { x with passes := x.passes.filter fun q => q.seq != p.seq }
        let sums := ((t.row p.row).zip p.sums).map fun m => m.1 + alignSum m.2 (p.exp - t.expo)
        let put (vs : List Int) : State := now.updCore l k fun y => { y with tiles := y.tiles.modify p.tile fun t =>
          { t with rows := mput t.rows p.row vs, exp := some t.expo
                   poison := if p.poison then (List.range 256).foldl (fun (m : Nset) i => m.upd (256 * p.row + i) true) t.poison else t.poison } }
        let free := t.claim.gen ≠ p.claim ∨ t.claim.st = .free ∨ t.claim.st = .reserved
        (free → exec (.passLanding l k) s = .next (gone now)) ∧
        (¬free → (∀ v ∈ sums, v.natAbs < 2 ^ 46) → exec (.passLanding l k) s = .next (gone (put sums))) ∧
        (¬free → (∃ v ∈ sums, 2 ^ 46 ≤ v.natAbs) → p.steps = 16 ∨ t.expo = 32767 → exec (.passLanding l k) s = .next
          ((gone (put (sums.map fun v => if v.natAbs < 2 ^ 46 then v else if v < 0 then -(2 ^ 47 - 1) else 2 ^ 47 - 1))).updCtx l k c fun x => x.orR rACCOVF)) ∧
        (¬free → (∃ v ∈ sums, 2 ^ 46 ≤ v.natAbs) → p.steps ≠ 16 → t.expo ≠ 32767 →
          exec (.passLanding l k) s = .next (now.updCore l k fun y => { y with renorm := some p.tile }))) ∧
      (∀ t < 4, (s.core l k).renorm = some t →
        let u := s.updCore l k fun y => { y with
          renorm := none, freeze := y.freeze + 64
          tiles := y.tiles.modify t fun x => { x.mapRows fun m => rneShift m 1 with exp := some (x.expo + 1) } }
        let mine (p : Pass) : Prop := p.tile = t ∧ p.done = true ∧ p.land ≤ x.st.cc
        ((∀ p ∈ x.passes, ¬mine p) → exec (.renormalisationStep l k t) s = .next u) ∧
        (∀ ps p qs, x.passes = ps ++ p :: qs → mine p → (∀ q ∈ ps, ¬mine q) → exec (.renormalisationStep l k t) s = .next
          (u.updCtx l k c fun x => { x with passes := x.passes.map fun q => if q.seq = p.seq then { q with steps := q.steps + 1 } else q }))) ∧
      (∀ (refused : Bool) (p : Comb), (s.core l k).rerace = none → x.dueComb = some p →
        let t := now.updCtx l k c fun x => x.updComb p.seq fun q => { q with done := !refused, races := if refused then 1 else 0 }
        (refused = false → exec (.combRead l k refused) s = .next t) ∧
        (refused = true → exec (.combRead l k refused) s = .next ((t.updCtx l k c fun x => x.orR rRR).updCore l k fun y =>
          { y with rerace := some (c, true, p.seq), freeze := y.freeze + 16, reraces := y.reraces + 1 }))) ∧
      ((∃ p ∈ x.combs, p.done = true ∧ p.land ≤ x.st.cc) → exec (.combResultLand l k) s = .next now) ∧
      ((∃ r ∈ x.rcals, r.land ≤ x.st.cc) → exec (.rcalResult l k) s = .next now)) ∧
    (∀ (refused : BitVec 256) (d : Nat) (comb : Bool) (seq : Nat), (s.core l k).rerace = some (d, comb, seq) → (s.core l k).freeze = 0 →
      exec (.reraceComplete l k refused) s = .next ((s.updCtx l k d fun x => x.landAll s.ticks).endRerace l k refused)) ∧
    (∀ (refused : BitVec 256) (comb : Bool) (seq : Nat), (s.core l k).rerace = some (c, comb, seq) →
      let t := s.updCore l k fun y => { y with rerace := none }
      let again (u : State) : State := (u.updCtx l k c fun x => x.orR rRR).updCore l k fun y =>
        { y with rerace := some (c, comb, seq), freeze := y.freeze + 16, reraces := y.reraces + 1 }
      (∀ p, comb = false → (x.passes.find? fun p => p.seq == seq) = some p → x = s.ctx l k c →
        let bad := refused &&& ~~~p.ok
        (bad = 0#256 → s.endRerace l k refused = t.updCtx l k c fun x => x.updPass seq fun q => { q with ok := BitVec.allOnes 256, done := true }) ∧
        (bad ≠ 0#256 → p.races < 2 → s.endRerace l k refused = again (t.updCtx l k c fun x => x.updPass seq fun q => { q with ok := ~~~bad, races := 2 })) ∧
        (bad ≠ 0#256 → 2 ≤ p.races → ∃ i, bad.getLsbD i = true ∧ (∀ j < i, bad.getLsbD j = false) ∧
          s.endRerace l k refused = t.marginFault l k c false seq p.va i)) ∧
      (∀ p, comb = true → (x.combs.find? fun p => p.seq == seq) = some p → x = s.ctx l k c →
        (refused = 0#256 → s.endRerace l k refused = t.updCtx l k c fun x => x.updComb seq fun q => { q with done := true }) ∧
        (refused ≠ 0#256 → p.races < 2 → s.endRerace l k refused = again (t.updCtx l k c fun x => x.updComb seq fun q => { q with races := 2 })) ∧
        (refused ≠ 0#256 → 2 ≤ p.races → s.endRerace l k refused = t.marginFault l k c true seq p.va 0))) ∧
    (∀ (comb : Bool) (seq va col : Nat), s.marginFault l k c comb seq va col =
      (s.updCtx l k c fun x =>
        { x with sys.rflags := x.sys.rflags ||| rMRG
                 st.dtraps := x.st.dtraps ++ [{ cause := if comb then 0x101 else 0x100, kind := 1, va := some va, slot := 5, index := col, after := x.st.cc + 1, from_ := seq }] }).updCore
        l k fun y => { y with margins := y.margins + 1, calReq := true, rerace := none }) ∧
    (∀ v, (s.core l k).freeze = 0 → (s.core l k).eccHold = 0 →
      (((s.core l k).ctxs.filter fun e => e.2.live && e.2.paused.isNone).findSome? fun e => e.2.nextLoad.map fun v => (e.1, v)) = some (c, v) →
      let y := s.core l k
      let size := if v.bank.isSome then 32 * v.width else 192
      let off := v.off + v.next * size
      let at_ := (v.first + v.next) % 64
      let read := v.course (fun col => y.spBad 0 (off + v.colBits * col / 8) ((v.colBits * col % 8 + v.colBits + 7) / 8)) (leNat (y.spRead 0 off size))
      let same (u : Load) : Bool := u.seq == v.seq && u.plane == v.plane
      let ends (t : State) : State := t.updCtx l k c fun x => { x with loads := x.loads.filter fun u => !same u }
      (∀ img, read = .ok img →
        let t := s.updCore l k fun y => { y with planes := y.planes.modify v.plane fun p =>
          { p with courses := mput p.courses at_ (BitVec.ofNat 1536 img), exp := if v.next = 0 then some v.exp else p.exp
                   poison := p.poison.filter fun w => w.1 / 24 != at_ && !(w.1 == 1536 && v.next == 0) } }
        (v.next + 1 = v.count → exec (.rldwCourseCommit l k) s = .next (ends t)) ∧
        (v.next + 1 ≠ v.count → exec (.rldwCourseCommit l k) s = .next
          (t.updCtx l k c fun x => { x with loads := x.loads.map fun u => if same u then { u with next := u.next + 1 } else u }))) ∧
      (∀ col cause, read = .error (col, cause) →
        let t : State := { ends s with draw := s.draw + 1 }
        exec (.rldwCourseCommit l k) s = .next ((t.updCore l k fun y => y.undefine false v.plane t.draw).updCtx l k c fun x =>
          { x with st.dtraps := x.st.dtraps ++ [{ cause := cause, kind := 1, va := some v.va, slot := 5, index := col, course := at_ }] }))) ∧
    (let t : State := { s with draw := s.draw + 1 }
     exec (.eccCorrectedCore l k) s = .next (((t.countEcc l true).errCorrected l 0 (Config.eccPlace s.draw).toNat).updCore l k fun y =>
      { y with freeze := y.freeze + 12, eccHold := y.eccHold + 12 })) ∧
    (∀ addr < 2 ^ 36, exec (.eccCorrectedMemory l addr) s = .next ((s.countEcc l false).errCorrected l 7 addr)) ∧
    (∀ addr,
      exec (.uncorrectableError l 0 k addr) s = .next
        ((s.updLd l fun x => { x with hbm := { x.hbm with poison := x.hbm.poison.upd (addr % 2 ^ 36 / 32) true } }).errLog l 1 7 0x1C0 (addr % 2 ^ 36) true) ∧
      exec (.uncorrectableError l 1 k addr) s = .next
        ((s.updCore l k fun y => { y with spadPoison := y.spadPoison.upd (addr % 0x300000 / 4) true }).errLog l 1 1 0x1C0 addr true) ∧
      (addr / 2 ^ 24 % 16 < 4 → exec (.uncorrectableError l 2 k addr) s = .next ((s.updCore l k fun y => y.poisonWord addr).errLog l 1 0 0x1C3 addr true))) ∧
    (∀ (y : Core) (file d n : Nat), file < 16 → d < 16 → n < 2 ^ 24 →
      let t := y.poisonWord (2 ^ 28 * file + 2 ^ 24 * d + n)
      let mark (r : Reg) : Reg := { r with poison := true }
      let markV (r : VReg) : VReg := { r with poison := true }
      (file = 0 → t = y.updCtx d fun x => { x with regs.a := x.regs.a.modify n mark }) ∧ (file = 1 → t = y.updCtx d fun x => { x with regs.b := x.regs.b.modify n mark }) ∧
      (file = 2 → t = y.updCtx d fun x => { x with regs.k := x.regs.k.modify n mark }) ∧ (file = 3 → t = y.updCtx d fun x => { x with regs.v := x.regs.v.modify n markV }) ∧
      (file = 4 → t = y.updCtx d fun x => { x with regs.w := x.regs.w.modify n markV }) ∧ (file = 5 → t = y.updCtx d fun x => { x with regs.eg := x.regs.eg.modify n mark }) ∧
      (file = 6 → t = y.updCtx d fun x => { x with regs.dc := x.regs.dc.modify n mark }) ∧
      (file = 7 → t = y.updCtx d fun x => { x with regs.ls := x.regs.ls.modify n fun sl => { sl with mark := 0x1C3 } }) ∧
      (file = 8 → t = { y with banks := y.banks.modify (n / 259) fun b => { b with poison := b.poison.upd (n % 259) true } }) ∧
      (file = 9 → t = { y with planes := y.planes.modify (n / 1537) fun p => { p with poison := p.poison.upd (n % 1537) true } }) ∧
      (file = 10 → t = y.updCtx d fun x => { x with st.sq := x.st.sq.modify n fun e => { e with poison := true } }) ∧
      (file = 11 → t = y.updCtx d fun x => { x with st.vq := x.st.vq.modify n fun e => { e with val := e.val.map markV } }) ∧
      (file = 12 → t = { y with rings := y.rings.map fun r => if r.1 = n then (n, { r.2 with poison := true }) else r }) ∧
      (file = 13 → t = { y with tiles := y.tiles.modify (n / 16385) fun t => { t with poison := t.poison.upd (n % 16385) true } }) ∧
      (14 ≤ file → t = y.updCtx d fun x => { x with sys.poison := x.sys.poison.upd (n % 128) true })) ∧
    ((s.core l k).calAt ≠ 0 → (s.core l k).calDue = false →
      exec (.calibrationPeriodicTimer l k) s = .next ((timeTo s (7 * ((s.core l k).calAt - 1))).updCore l k fun y => { y with calDue := true })) ∧
    (∀ v : BitVec 16, exec (.temperatureSample l k v) s = .next
      (s.updCore l k fun y => { y with temp := v, calReq := y.calReq || decide (32 ≤ (v.toInt - y.caltemp.toInt).natAbs) })) ∧
    (s.calWanted l k = true → ((s.core l k).freeCtxs ≠ [] ∨ ∃ v, (s.core l k).victim = some v ∧ s.mayLeave l k v.1 = true) →
      ∃ t, exec (.calibrationStart l k) s = .next t ∧ (t.core l k).calRun ≠ 0 ∧ (t.core l k).active = none ∧ (t.core l k).switching = 0 ∧
        ∃ r, t.ctx l k r = routineCtx l k r) ∧
    ((s.core l k).calRun ≠ 0 → ∃ t, exec (.calibrationRoutine l k) s = .next t ∧ (t.core l k).calRun = 0 ∧ (t.core l k).calReq = false ∧
      (t.core l k).caltemp = (s.core l k).temp ∧ (t.core l k).cals = (s.core l k).cals + 1 ∧ t.ticks = max s.ticks (7 * ((s.core l k).calRun - 1) + 168000))

/-- R183 to R192, R195 to R198, R434: a doorbell is noted; the next record of a queue is processed by its kind, refused when it may not run, and passed.
The model's choices in it: what a Refresh means by a block of several operators (log entry 123), a top region's SPADK above 3,072 (log entry 124), what
check 7 of a placement adds up (log entry 125), a Resume's record of a step that has been swapped out (log entry 135). -/
def Obligations.QueueEvents : Prop :=
  ∀ (s : State) (l q : Nat), dieOk l = true → q < 8192 →
    (∀ tail : BitVec 32, (s.ld l).host.isSome = true →
      let t := s.updLd l fun x => { x with regs.wqdb := mput x.regs.wqdb q (tail.setWidth 64) }
      exec (.doorbellWrite l q tail) s = .next (if (t.ld l).stage = 3 ∧ (t.ld l).out = false then t.takeDoorbell l q
        else t.updLd l fun x => { x with wqWork := x.wqWork.upd q true })) ∧
    (∀ r, s.nextRecord l q = some r → recordBad r = true → s.blockHeld l r = false →
      exec (.launchRefused l q) s = .next (((recordRead s l q r).refuseRecord l r 0x2C2).advanceHead l q)) ∧
    (∀ r, RecordIs s l q 1 r →
      let u := recordRead s l q r
      (∀ c, u.readBlock l (recBlock r) 256 = .error c → exec (.openRegion l q) s = .next ((u.refuseRecord l r c).advanceHead l q)) ∧
      (∀ v c, u.readBlock l (recBlock r) 256 = .ok v → (u.ld l).openCause v = some c → exec (.openRegion l q) s = .next ((u.refuseRecord l r c).advanceHead l q)) ∧
      (∀ v, u.readBlock l (recBlock r) 256 = .ok v → (u.ld l).openCause v = none →
        let par := if v % 2 ^ 64 = 0 then none else (u.ld l).openAt (v % 2 ^ 64)
        let e := rcbEffective v ((par.map (·.eff)).getD 0#2048).toNat
        let cores := if bit v 234 then ((u.ld l).unreserved (bits e 64 48)).take (rcbResc v) else []
        exec (.openRegion l q) s = .next ((u.updLd l fun x => { x with regions := mput x.regions (recBlock r) {
          rcb := BitVec.ofNat 2048 v, eff := BitVec.ofNat 2048 e, depth := (par.map (·.depth + 1)).getD 1
          reserved := cores.foldl (fun m k => m ||| 2 ^ k) 0, launch := launchOf r } }).advanceHead l q))) ∧
    (∀ r, RecordIs s l q 2 r → s.placeWaits l r = false →
      let u := recordRead s l q r
      (∀ c, u.readBlock l (recBlock r) 512 = .error c → exec (.placeOperator l q) s = .next ((u.refuseRecord l r c).advanceHead l q)) ∧
      (∀ v c, u.readBlock l (recBlock r) 512 = .ok v → u.placeCause l r { opb := BitVec.ofNat 4096 v } = some c →
        exec (.placeOperator l q) s = .next ((u.refuseRecord l r c).advanceHead l q)) ∧
      (∀ v g opid, u.readBlock l (recBlock r) 512 = .ok v → u.placeCause l r { opb := BitVec.ofNat 4096 v } = none →
        (u.ld l).openAt (Op.rcbVa { opb := BitVec.ofNat 4096 v }) = some g → (u.ld l).freeOpid = some opid →
        exec (.placeOperator l q) s = .next ((u.place l r opid { opb := BitVec.ofNat 4096 v } g).advanceHead l q))) ∧
    (∀ r, RecordIs s l q 3 r →
      let u := recordRead s l q r
      (∀ g v, (mget (u.ld l).regions (recBlock r)) = some g → g.complete = false → u.readBlock l (recBlock r) 256 = .ok v →
        exec (.refresh l q) s = .next ((u.refreshRcb l r g v).advanceHead l q)) ∧
      ((mget (u.ld l).regions (recBlock r)).filter (fun g => !g.complete) = none → ∀ o v,
        ((u.ld l).ops.find? fun o => o.2.va == recBlock r && !o.2.complete) = some o → u.readBlock l (recBlock r) 512 = .ok v →
        exec (.refresh l q) s = .next ((if sameOutside o.2.opb.toNat v 128 68 then (u.updOp l o.1 fun o => { o with opb := BitVec.ofNat 4096 v }).recordDone l r
          else u.refuseRecord l r 0x2C8).advanceHead l q)) ∧
      ((mget (u.ld l).regions (recBlock r)).filter (fun g => !g.complete) = none →
        ((u.ld l).ops.find? fun o => o.2.va == recBlock r && !o.2.complete) = none → exec (.refresh l q) s = .next ((u.refuseRecord l r 0x2C3).advanceHead l q))) ∧
    (∀ r, RecordIs s l q 4 r →
      let u := recordRead s l q r
      (∀ g, mget (u.ld l).regions (recBlock r) = some g → g.killed = false →
        exec (.closeRegion l q) s = .next ((((u.updRegion l (recBlock r) fun g => { g with closed := true }).recordDone l r).completeRegions l).advanceHead l q)) ∧
      ((∀ g, mget (u.ld l).regions (recBlock r) = some g → g.killed = true) →
        exec (.closeRegion l q) s = .next ((u.refuseRecord l r 0x2C3).advanceHead l q))) ∧
    (∀ r, RecordIs s l q 5 r →
      let u := recordRead s l q r
      exec (.killRegion l q) s = .next
      ((if (mget (u.ld l).regions (recBlock r)).isSome then (u.killRegionAll l (recBlock r)).recordDone l r else u.refuseRecord l r 0x2C3).advanceHead l q)) ∧
    (∀ r, RecordIs s l q 6 r →
      let u := recordRead s l q r
      (∀ c, u.translateNow l 48 0 0 1 (recBlock r) 64 = .fault c → exec (.resume l q) s = .next ((u.refuseRecord l r c).advanceHead l q)) ∧
      (∀ p tag f t, u.translateNow l 48 0 0 1 (recBlock r) 64 = .ok p → p.home = l → mget (u.ld l).pausedRecs p.addr = some (tag, f) →
        faultRsvSet ((u.ld l).num p.addr 64) = false →
        (let ract := (u.ld l).num p.addr 64 / 2 ^ 70 % 2 ^ 2
         (if bit f.toNat 28 then u.rerunStep l f.toNat r else if 2 ≤ ract then none else u.resumeStep l (tag - 1) r (ract == 1)) = some t) →
        exec (.resume l q) s = .next ((t.updLd l fun x => { x with pausedRecs := mdel x.pausedRecs p.addr }).advanceHead l q)) ∧
      (∀ p, u.translateNow l 48 0 0 1 (recBlock r) 64 = .ok p → p.home = l → (mget (u.ld l).pausedRecs p.addr = none ∨ faultRsvSet ((u.ld l).num p.addr 64) = true) →
        exec (.resume l q) s = .next ((u.refuseRecord l r 0x2C2).advanceHead l q)))

/-- R46, R47, R114, R166, R167, R169, R199 to R204, R210, R211, R214, R408, R459: walkers release steps, a retirement ends its context, allocations
free, publications, shadow buffers, budgets and bounds end. The model's choices in it: KIND is 0 for a token's wait alone (log entry 117); CTX is 0 in
the record of a step out of its core (log entry 116). -/
def Obligations.StepEvents : Prop :=
  ∀ (s : State) (l k c : Nat), OnCtx l k c →
    (let quiet : Prop := (s.pkg (pkgOf l)).quiet = true ∨ ∃ t, (s.pkg (pkgOf l)).idleAt = some t ∧ t + 700000 ≤ s.ticks
     (∀ w < 4, ¬quiet → ∀ opid t j src, s.walkerPick l w true = some (opid, t, j, src) →
       exec (.stepRelease l w) s = .next (s.releaseStep l opid t j src)) ∧
     (∀ w < 4, quiet → (s.pkg (pkgOf l)).stagAt = none → s.walkerPick l w false ≠ none →
       exec (.stepRelease l w) s = .next (s.updPkg (pkgOf l) fun p => { p with quiet := true, stagAt := some s.ticks }))) ∧
    ((s.ctx l k c).live = true → (s.ctx l k c).paused = none → (s.ctx l k c).retiring = 2 → (s.ctx l k c).pending = 0 →
      s.storesDue l k c (fun _ _ => true) = false → s.hasRequests l (s.ctx l k c).sid (fun r => r.atom.isSome) = false →
      ∃ t, exec (.retirementComplete l k c) s = .next t ∧ t.ctx l k c = {}) ∧
    (∀ a, (s.core l k).allocs.find? (s.freeable l k) = some a →
      exec (.scratchpadAllocationFree l k) s = .next (s.updCore l k fun y => { y with allocs := y.allocs.erase a, rings := y.rings.filter fun r => !a.rings.contains r.1 })) ∧
    (∀ i, (s.ctx l k c).shWait = some i → (s.ctx l k c).live = true → bieState ((s.ld l).bie i) = 1 → s.oldReader l i = false →
      s.commitHolds l ((s.ld l).bieAddr i) 32 = false → s.linesFree l ((s.ld l).bieAddr i) 32 = true →
      exec (.shopenGrant l k c) s = .next ((s.openBie l k c i).updCtx l k c fun x => x.metA (s.chargeTick l k c) s.ticks)) ∧
    (∀ (e d : Nat) (u : State) (back : State → State), At s l k e u d back → (u.ctx l k d).live = true →
      (∀ sc < 8, (u.ctx l k d).pubReq = some sc → (u.ctx l k d).pubDone = false →
        u.copying l k (u.ctx l k d).sid (fun h _ => scopeReach l sc h) = false → u.storesDue l k d (fun h _ => scopeReach l sc h) = false →
        u.hasRequests l (u.ctx l k d).sid (fun r => r.atom.isSome && scopeReach l sc r.home) = false →
        let v := u.publish l k d fun h _ => scopeReach l sc h
        exec (.publicationComplete l k e) s = .next (back (v.updCtx l k d fun x => { x.metA (u.chargeTick l k d) u.ticks with pubDone := true }))) ∧
      (∀ (i r : Nat), (u.ctx l k d).pubReq = some (8 + i) → r = (u.ld l).bie i → (u.ctx l k d).pubDone = false →
        (u.ctx l k d).openBies.has i = true → bieState r = 2 → u.copying l k (u.ctx l k d).sid (inShadow l r) = false → u.storesDue l k d (inShadow l r) = false →
        u.commitHolds l ((u.ld l).bieAddr i) 32 = false → u.linesFree l ((u.ld l).bieAddr i) 32 = true →
        u.hasRequests l (u.ctx l k d).sid (fun q => q.atom.isSome && inShadow l r q.home q.addr) = false →
        let v := (u.publishShadow l k d r).exchangeBie l k d i
        exec (.shpubExchange l k e) s = .next (back (v.updCtx l k d fun y => { y.metA (u.chargeTick l k d) u.ticks with pubDone := true }))) ∧
      (∀ t, (u.ctx l k d).boundEnd = some t → (d = 4 ∨ (u.core l k).calRun = 0) →
        let f : TrapInfo := { cause := 0x2C5, kind := 1 }
        let v := (timeTo u t).updCtx l k d fun x => { x with overrun := true, st.dtraps := x.st.dtraps ++ [f] }
        ((u.ctx l k d).paused.isSome = true ∨ (u.core l k).active = some d → exec (.stepTimeBoundOverrun l k e) s = .next (back v)) ∧
        ((u.ctx l k d).paused = none → (u.core l k).active ≠ some d → exec (.stepTimeBoundOverrun l k e) s = .next (back (v.takeDetected l k d f))))) ∧
    (∀ t, (s.ctx l k c).budgetEnd = some t → (s.ctx l k c).live = true → (s.ctx l k c).paused = none →
      (∀ u, (s.core l k).calFrom = some u → t ≤ u) → (∀ u, s.heldFrom l (s.ctx l k c) = some u → t ≤ u) →
      exec (.waitingBudgetExhausted l k c) s = .next
        (((timeTo s t).finishReads l k c).spendBudget l k (.at_ k c) (s.ctx l k c).sid (s.ctx l k c).waits)) ∧
    (∀ n v t, n < 65536 → mget (s.ld l).saved n = some v → v.core = k → v.ctx.budgetEnd = some t → v.ctx.paused = none →
      (∀ u, v.cal = true → (s.core l k).calFrom = some u → t ≤ u) → (∀ u, s.heldFrom l v.ctx = some u → t ≤ u) →
      exec (.waitingBudgetExhausted l k (n + 4)) s = .next ((timeTo s t).spendBudget l k (.slot n) v.ctx.sid v.ctx.waits)) ∧
    (∀ p sid waits x, s.stepOf l sid = some x →
      let now := s.chargeAt l sid
      let waited := x.charge + (x.waitFrom.map fun t => now - t).getD 0
      let y := { x.endWaits now with st.checked := false }
      let va := ((y.st.run.head?).map (·.va)).getD y.st.pc
      s.spendBudget l k p sid waits = (s.updStep l sid fun _ => y).faultStep l p k y 3 0x2C6 0 (waitHalf waits (waited / 70)) false va
        { cause := 0x2C6, kind := 3, va := some va })

/-- R78, R105, R114, R131, R206, R207, R208, R212, R429, R432: switches on a long wait or a spent slice, ageing of ready contexts, and contexts that
leave and come back. The model's choices in it: an active step whose retire waits for its tokens is neither ready nor waiting (log entry 126); a
context leaves once its codebook commands and rldw locks have ended (log entry 115); what comes back is what stands in the slot (log entry 15). -/
def Obligations.ScheduleEvents : Prop :=
  ∀ (s : State) (l k c : Nat) (x : Ctx), OnCtx l k c → x = s.ctx l k c →
    (∀ t b, (s.core l k).active = some c → x.live = true → x.waiting = true → x.waitSince = some t →
      (s.core l k).bestReady (fun e => e.1 != c && (s.core l k).mayTake e.2) = some b →
      exec (.switchThresholdExpiry l k) s = .next ((timeTo s (t + 4 * x.swth + 1)).switchTo l k b.1)) ∧
    (∀ b, (s.core l k).active = some c → x.live = true → x.slice ≠ 0 → 1750 * x.slice ≤ (s.core l k).issuing →
      (s.core l k).bestReady (fun e => e.1 != c && e.2.effPri == x.effPri && (s.core l k).mayTake e.2) = some b → exec (.sliceExpiry l k) s = .next (s.switchTo l k b.1)) ∧
    (x.ready = true → x.effPri < x.maxPri →
      exec (.priorityAgeing l k c) s = .next ((timeTo s (x.agedAt + 7000000)).updCtx l k c fun y => { y with ageing := y.ageing + 1, agedAt := y.agedAt + 7000000 })) ∧
    (∀ (n : Nat) (v : Saved), n < 65536 → mget (s.ld l).saved n = some v → v.core = k → v.ctx.ready = true → v.ctx.effPri < v.ctx.maxPri →
      exec (.priorityAgeing l k (n + 4)) s = .next ((timeTo s (v.ctx.agedAt + 7000000)).updLd l fun z =>
        { z with saved := mput z.saved n { v with ctx := { v.ctx with ageing := v.ctx.ageing + 1, agedAt := v.ctx.agedAt + 7000000 } } })) ∧
    (let mayGo := x.live = true ∧ x.priv = false ∧
       ((∃ n, (s.ld l).freeSlot = some n ∧ s.commitHolds l ((s.ld l).slotAt n) (2 ^ 20) = false) ∨ (x.op.restart = true ∧ x.paused = none)) ∧
       (∀ v ∈ x.loads, v.bank = none) ∧ ∀ q ∈ (s.core l k).queue, q.sid = x.sid → (s.ld l).settled q.id = true ∧ q.onSet = false
     (∀ t, mayGo → x.waitSince = some t → x.waiting = true → x.paused = none → s.wanting l k ≠ [] →
       exec (.swapThresholdExpiry l k c) s = .next ((timeTo s (t + 70 * x.swapth + 1)).leaveCore l k c)) ∧
     (mayGo → (x.paused.isSome = true ∨ s.displaced l k c = true ∨ s.evicted l k x = true) → (∀ r ∈ (s.ld l).faultQ, r.1 ≠ x.sid + 1) →
       exec (.swapOut l k c) s = .next (s.leaveCore l k c))) ∧
    (∀ (slot j : Nat) (v : Saved), slot < 65536 → mget (s.ld l).saved slot = some v → s.returnCore l v = some j →
      s.commitHolds l ((s.ld l).slotAt slot) (2 ^ 20) = false →
      (∀ w ∈ (s.ld l).saved, w.1 = slot ∨ s.returnCore l w.2 ≠ some j ∨ savedBefore v w.2 = true) →
      ∃ t r, exec (.swapIn l slot) s = .next t ∧
        (let y := t.ctx l j r
         let w := ((s.readSlot l slot v).ld l).restored slot v
         y.sid = w.ctx.sid ∧ y.live = w.ctx.live ∧ y.st = w.ctx.st ∧ y.sys.stamp = w.ctx.sys.stamp ∧ y.residAt = s.ticks ∧ y.resumed = [] ∧
         (j = w.core → y.regs = w.ctx.regs)))

/-- R137, R139, R143 to R160, R202, R394 to R399, R408, R416, R426, R474: tokens arrive, are accepted into rings and refused, and pause their step; notices,
batches and spilled entries are applied. The model's choices in it: the number expected after a discarded batch (log entry 52), a batch of a disabled
parish (log entry 55), which counts are spilled (log entry 56), the home's own notice (log entry 54), what a packet brings stands there as it leaves
(log entry 131). -/
def Obligations.TokenAndBelfryEvents : Prop :=
  ∀ (s : State) (l : Nat), dieOk l = true →
    (∀ t, ((s.ld l).tokIn.find? fun t => t.way.isNone) = some t →
      let u := s.updLd l fun x => { x with tokIn := x.tokIn.erase t }
      let o := u.opOf l t.opid
      exec (.tokenArrival l) s = .next (
        if u.tokenOk l t = false then u.refuseToken t
        else if portRing (o.inport t.port) then (u.updLd l fun x => { x with tokWait := x.tokWait ++ [{ t with at_ := s.ticks }] }).testTokens t.src t.sid
        else (u.countAt l o.parish t.dyard t.stamp.toNat (-1)).tokenSettled t)) ∧
    (∀ t k r, s.nextToken l [] (s.ld l).tokWait = some t → s.tokenRing l t = some (k, r) →
      let g := mgetD (s.core l k).rings r {}
      let o := s.opOf l t.opid
      ∃ u, exec (.tokenAcceptance l) s = .next u ∧ (u.ld l).tokWait = (s.ld l).tokWait.erase t ∧
        (u.ld l).landing.length = (s.ld l).landing.length + ringStage g.cfg / 32 ∧
        mgetD (u.core l k).rings r {} = { g with
          wp := g.hod g.wp 1, used := g.used + 1, tags := mput g.tags g.wp { parish := o.parish, yard := o.yard, stamp := t.stamp, port := t.dyard }
          bound := if o.pmode = 2 then none else some (o.ord t.stamp.toNat) }) ∧
    (∀ t, ((s.ld l).tokBack.find? fun t => !(s.stepOf l t.sid).any fun x => x.paused.isSome) = some t →
      let u := ((s.updLd l fun x => { x with tokBack := x.tokBack.erase t }).countAt l t.parish t.dyard t.stamp.toNat (-1)).tokenSettled t
      ((u.ld l).findStep t.sid = none → exec (.tokenRefusal l) s = .next u) ∧
      (∀ p k x, (u.ld l).findStep t.sid = some (p, k, x) →
        let half := engineHalf t.route.toNat 0 0 7 0 t.stamp.toNat
        (x.retiring = 0 → exec (.tokenRefusal l) s = .next (u.engineFault l t.sid 0x285 half)) ∧
        (x.retiring ≠ 0 →
          let v := u.countFault l x.sys.opid 0x285
          exec (.tokenRefusal l) s = .next (v.queueRecord l 0 (faultRecord v.ns (dieOf l) {
            stamp := x.sys.stamp.toNat, trapb := x.st.pc, opid := x.sys.opid, core := k, ctx := p.ctxNo, kind := 2, act := 3, cause := 0x285 } half))))) ∧
    (∀ (sid cause hi : Nat) (p : Place) (k : Nat) (x : Ctx), (s.ld l).findStep sid = some (p, k, x) →
      let va := ((x.st.run.head?).map (·.va)).getD x.st.pc
      let t : TrapInfo := { cause := cause, kind := 2, va := some va }
      let u := s.updStep l sid fun y => (y.endWaits (s.chargeAt l sid)).stopAt t
      (∀ j c, p = .at_ j c → s.engineFault l sid cause hi =
        (u.finishReads l j c).faultStep l p k (((u.finishReads l j c).stepOf l sid).getD x) 2 cause (x.policy cause) hi false va t) ∧
      (∀ n, p = .slot n → s.engineFault l sid cause hi = u.faultStep l p k ((u.stepOf l sid).getD x) 2 cause (x.policy cause) hi false va t)) ∧
    (∀ b r, (s.ld l).belfry.openB = b :: r →
      exec (.batchCloseTimeout l) s = .next (((timeTo s (b.at_ + 70)).updLd l fun x => { x with belfry.openB := r }).sendBatch b)) ∧
    (∀ b, ((s.ld l).belfry.inbox.find? fun b => b.way.isNone) = some b →
      let t := s.updLd l fun x => { x with belfry.inbox := x.belfry.inbox.erase b, belfry.seqIn := mput x.belfry.seqIn b.src ((b.seq + 1) % 2 ^ 32) }
      (s.batchCause l b = none → exec (.batchApply l) s = .next (t.applyRecs l b.recs (t.announced l))) ∧
      (∀ c, s.batchCause l b = some c → exec (.batchApply l) s = .next (((b.recs.map (·.parish)).eraseDups).foldl
        (fun s p => s.updParish l p fun q => { q with stopped := true }) (t.errLog l 2 4 c b.src true)))) ∧
    (∀ n p, (s.ld l).nextNotice = some (n, p) → n.root = false →
      let t := s.updLd l fun x => { x with belfry.notices := x.belfry.notices.erase n }
      exec (.curfewNoticeApply l) s = .next (
        if (t.parish l p).enabled = false then t
        else if t.authOk l n.src n.auth = false then t.noticeRefused l p
        else if (t.parish l p).stopped then t
        else ((t.updParish l p fun q => { q with curfews := mput q.curfews n.yard (max (q.curfew n.yard) n.value) }).completeOps l p).completeRegions l)) ∧
    (∀ n p, (s.ld l).nextNotice = some (n, p) → n.root = true →
      let t := s.updLd l fun x => { x with belfry.notices := x.belfry.notices.erase n }
      (t.authOk l n.src n.auth = false → exec (.rootNoticeApply l) s = .next (t.noticeRefused l p)) ∧
      (t.authOk l n.src n.auth = true →
        let u := (t.updParish l p fun q => if n.sealN then { q with isSealed := true } else { q with root := n.value }).closeBatch l n.src
        let v := u.updLd n.src fun y => { y with
          belfry.replies := y.belfry.replies ++ [{ src := l, parish := n.parish, value := mgetD (u.ld l).belfry.seqOut n.src 0, way := if l = n.src then none else some u.draw }] }
        exec (.rootNoticeApply l) s = .next (v.post l n.src 2 (Config.packetBody u.draw)))) ∧
    (∀ r, ((s.ld l).belfry.replies.find? fun r => r.way.isNone && seqReached r.value (mgetD (s.ld l).belfry.seqIn r.src 0)) = some r →
      let u := s.updLd l fun x => { x with belfry.replies := x.belfry.replies.erase r }
      let t := u.updParish l r.parish fun q => { q with replies := q.replies + 1 }
      (r.src = l → exec (.rootNoticeReply l) s = .next (u.updLd l Ld.ltDone)) ∧
      (r.src ≠ l → exec (.rootNoticeReply l) s = .next (
        if (t.parish l r.parish).cmd.isSome = true ∧ ((t.parish l r.parish).others l).length ≤ (t.parish l r.parish).replies then t.sendRoot l r.parish else t))) ∧
    (∀ p e, ((s.ld l).parishes.findSome? fun p => p.2.spilled.head?.map fun e => (p.1, e)) = some (p, e) → (s.ld l).resident < residentMax →
      exec (.spillReadback l) s = .next ((s.updParish l p fun q =>
        { q with spilled := q.spilled.erase e, counts := addCount e.2.1 e.2.2.1 e.2.2.2 q.counts }).endFull l)) ∧
    (∀ v : BitVec 64, exec (.ltspszWrite l v) s = .next (
      if v.toNat % 2 ^ 16 < (s.ld l).regs.ltspsz.toNat % 2 ^ 16 ∧ (∃ p ∈ (s.ld l).parishes, p.2.spilled ≠ []) then s
      else ((s.updLd l fun x => { x with regs.ltspsz := v &&& 0xFFFF#64 }).makeRoom l).endFull l)) ∧
    (∀ (home : Nat) (auth : Option (Nat × Nat)) (rs : List Rec),
      let mine (b : Batch) : Bool := b.home == home && b.auth == auth
      let keep (u : State) (b : Batch) : State :=
        if 256 ≤ b.recs.length then (u.updLd l fun x => { x with belfry.openB := x.belfry.openB.filter fun y => !mine y }).sendBatch b
        else u.updLd l fun x => { x with
          belfry.openB := if x.belfry.openB.any mine then (x.belfry.openB.map fun y => if mine y then b else y) else x.belfry.openB ++ [b] }
      let new : Batch := { src := l, home := home, recs := rs, at_ := s.ticks, auth := auth }
      ((s.ld l).belfry.openB.find? mine = none → s.addRecs l home auth rs = keep s new) ∧
      (∀ a, (s.ld l).belfry.openB.find? mine = some a → a.src = l →
        (a.recs.length + rs.length ≤ 256 → s.addRecs l home auth rs = keep s { a with recs := a.recs ++ rs }) ∧
        (256 < a.recs.length + rs.length → s.addRecs l home auth rs =
          keep ((s.updLd l fun x => { x with belfry.openB := x.belfry.openB.filter fun y => !mine y }).sendBatch a) new)))

/-- R141, R142, R152, R474: the commands of LTCMD start, are refused, ignored, and complete. The model's choices in it: Enable of an enabled parish
(log entry 50), DONE and ERR at a start (log entry 51), LTCMD after a refusal (log entry 104), a reserved summary (log entry 111), a Disable that finds a
root notice queued (log entry 122). -/
def Obligations.LogicalTimeCommands : Prop :=
  ∀ (s : State) (l p : Nat), dieOk l = true → p < 64 →
    (∀ v : BitVec 64, (s.ld l).ltBusy = true ∨ v.toNat / 2 ^ 8 % 16 = 0 ∨ 4 < v.toNat / 2 ^ 8 % 16 → exec (.ltBadCommand l v) s = .next (s.updLd l Ld.ltIgnored)) ∧
    ((s.ld l).ltBusy = true → ∀ i ∈ [Instr.ltEnable l p, .ltAdvanceRoot l p, .ltSeal l p, .ltDisable l p], exec i s = .next (s.updLd l Ld.ltIgnored)) ∧
    ((s.ld l).ltBusy = false →
      (∀ c, (s.ld l).enableCause p = some c → exec (.ltEnable l p) s = .next (s.updLd l fun x => (x.ltStart 1 p).ltRefused c)) ∧
      ((s.ld l).enableCause p = none → ∃ t, exec (.ltEnable l p) s = .next t ∧ (t.parish l p).enabling = true ∧ (t.parish l p).enabled = false ∧
        (t.parish l p).pst = (s.ld l).readPst ((s.ld l).parDesc p) ∧
        (t.parish l p).desc = BitVec.ofNat 256 ((s.ld l).parDesc p) ∧ (t.parish l p).curfews = []) ∧
      (let t (n : Nat) := s.updLd l fun x => x.ltStart n p
       let arg := (s.ld l).regs.ltarg.toNat
       ((t 2).rootRefusal l p = true → exec (.ltAdvanceRoot l p) s = .next ((t 2).updLd l fun x => x.ltRefused 0x245)) ∧
       ((t 2).rootRefusal l p = false → isClosed arg = true → exec (.ltAdvanceRoot l p) s = .next ((t 2).updLd l fun x => x.ltRefused 0x241)) ∧
       ((t 2).rootRefusal l p = false → isClosed arg = false → arg < ((t 2).parish l p).root →
         exec (.ltAdvanceRoot l p) s = .next ((t 2).updLd l fun x => x.ltRefused 0x242)) ∧
       ((t 2).rootRefusal l p = false → isClosed arg = false → ((t 2).parish l p).root ≤ arg → exec (.ltAdvanceRoot l p) s = .next ((t 2).startRoot l p 2 arg)) ∧
       ((t 3).rootRefusal l p = true → exec (.ltSeal l p) s = .next ((t 3).updLd l fun x => x.ltRefused 0x245)) ∧
       ((t 3).rootRefusal l p = false → exec (.ltSeal l p) s = .next ((t 3).startRoot l p 3 0)) ∧
       (((t 4).parish l p).enabled = false → exec (.ltDisable l p) s = .next ((t 4).updLd l fun x => x.ltRefused 0x245)) ∧
       (((t 4).parish l p).enabled = true → ¬(((t 4).parish l p).home = l ∧ ((t 4).parish l p).hpar = p) →
         ∃ u, exec (.ltDisable l p) s = .next u ∧ (u.parish l p).enabled = false ∧ (u.ld l).regs.ltst = stEnd ((t 4).ld l).regs.ltst) ∧
       (((t 4).parish l p).enabled = true → ((t 4).parish l p).home = l → ((t 4).parish l p).hpar = p →
         (((t 4).parish l p).isSealed = false ∨ ((t 4).parish l p).allCounts ≠ [] → exec (.ltDisable l p) s = .next ((t 4).updLd l fun x => x.ltRefused 0x243)) ∧
         (((t 4).parish l p).isSealed = true → ((t 4).parish l p).allCounts = [] → ∃ u, exec (.ltDisable l p) s = .next u ∧ (u.parish l p).enabled = false)))) ∧
    ((s.parish l p).enabling = true →
      let t := (s.updParish l p fun q => { q with enabling := false, enabled := true }).updLd l Ld.ltDone
      let pa := t.parish l p
      exec (.ltEnableComplete l p) s = .next (
        if pa.home = l ∧ pa.hpar = p then t.applyRecs l [{ parish := p, yard := pa.rooty, stamp := 0, delta := 1 }] (fun _ _ => 0) else t))

/-- R114, R217, R424 to R428, R439, R441 to R448: fault records and their queue's registers, machine checks, interrupts, resets, start stages, firmware and
binding. The model's choices in it: the layout and the masks of the MSI-X table (log entries 57, 134), what a power-on and a function-level reset leave
(log entries 73, 74), what verifies a signature (log entry 136). -/
def Obligations.ReportAndStartEvents : Prop :=
  ∀ (s : State) (l : Nat), dieOk l = true →
    (∀ tag r rest, (s.ld l).faultQ = (tag, r) :: rest → (s.ld l).fqRoom = true →
      let base := (s.ld l).regs.fqbase.toNat
      let a := 4096 * (base / 2 ^ 12 % 2 ^ 40) + 64 * ((s.ld l).regs.fqtail.toNat % 2 ^ (base % 2 ^ 6))
      s.commitHolds l a 64 = false →
      let t := (s.pokeLd l a (natLe 64 r.toNat)).updLd l fun x => { x with
        faultQ := rest, pausedRecs := if resumable tag r then mput x.pausedRecs a (tag, r) else mdel x.pausedRecs a
        regs.fqtail := BitVec.ofNat 64 ((x.regs.fqtail.toNat + 1) % 2 ^ 32) }
      let u := if (t.ld l).regs.fqmsi.getLsbD 11 then t.msix l ((t.ld l).regs.fqmsi.toNat % 2 ^ 11) else t
      (tag = 0 → exec (.faultRecordWrite l) s = .next u) ∧ (tag ≠ 0 → exec (.faultRecordWrite l) s = .next (u.afterRecord l (tag - 1) r))) ∧
    (∀ v : BitVec 32, exec (.fqheadWrite l v) s = .next (s.updLd l fun x => { x with regs.fqhead := v.setWidth 64 })) ∧
    (∀ v : BitVec 64, exec (.fqbaseWrite l v) s = .next (s.updLd l fun x => { x with regs.fqbase := v &&& fqbaseMask })) ∧
    (∀ unit < 12, l % 16 < 8 → exec (.machineCheck l unit) s = .next (s.machineStop l unit true)) ∧
    (∀ v < 2048,
      let e : MsixEntry := { mgetD (s.ld l).msix v {} with masked := false }
      let t := s.updLd l fun x => { x with msix := mput x.msix v e }
      ((s.ld l).msixPend.has v = false → exec (.msixUnmask l v) s = .next t) ∧
      ((s.ld l).msixPend.has v = true → exec (.msixUnmask l v) s = .next (t.updLd l fun x =>
        { x with msixPend := x.msixPend.upd v false, msixSent := x.msixSent ++ [(v, e.addr, e.data)] })) ∧
      ((mgetD (s.ld l).msix v {}).masked = true → s.msix l v = s.updLd l fun x => { x with msixPend := x.msixPend.upd v true }) ∧
      ((mgetD (s.ld l).msix v {}).masked = false → s.msix l v = s.updLd l fun x =>
        { x with msixSent := x.msixSent ++ [(v, (mgetD x.msix v {}).addr, (mgetD x.msix v {}).data)] })) ∧
    (∀ r, exec (.spdmRequest l r) s = .next { s with spdm := s.spdm ++ [(l, r, true, true)] }) ∧
    exec (.functionLevelReset l) s = .next (s.flr l) ∧
    (l % 16 < 8 →
      (∀ h < 2 ^ 32, (s.ld l).host = none ∨ (s.ld l).host = some h → exec (.virtualHierarchyBinding l (some h)) s = .next (s.updLd l fun x => { x with host := some h })) ∧
      (∀ h g, h < 2 ^ 32 → (s.ld l).host = some g → g ≠ h →
        exec (.virtualHierarchyBinding l (some h)) s = .next ((s.flr l).updLd l fun x => { x with host := some h })) ∧
      exec (.virtualHierarchyBinding l none) s = .next ((s.flr l).updLd l fun x => { x with host := none })) ∧
    (l % 16 < 8 → (s.ld l).stage < 3 → (s.ld l).failed = 0 ∨ ((s.ld l).stage = 0 ∧ (s.ld l).failed ≤ 2) →
      (s.stageReady l = true → exec (.startStageAdvance l 0) s = .next (s.enterStage l)) ∧
      (∀ r, 1 ≤ r → r ≤ 5 → exec (.startStageAdvance l r) s = .next (s.updLd l fun x => { x with failed := r }))) ∧
    (∀ p < 1024,
      (∃ t, exec (.powerOnReset p) s = .next t ∧ t.pkg p = { idleAt := some s.ticks } ∧ ∀ d < 9, t.ld (ldNo p d) = {}) ∧
      (∀ image, (s.pkg p).fwOk = none → exec (.doeImageWrite p image) s = .next (s.updPkg p fun g => { g with mailbox := some image })) ∧
      (∀ (flash : Option Signed) (ms : List Manifest) (fromHost : Bool), (s.pkg p).fwOk = none →
        (if fromHost then (s.pkg p).mailbox ≠ none else (s.pkg p).fwRefused = false) →
        let signed (i : Signed) (e m : List (BitVec 8)) : Prop := Config.verifies false e i.image i.ed25519 = true ∧ Config.verifies true m i.image i.mldsa65 = true
        let good (m : Manifest) : Prop :=
          Config.verifies false Config.rootKeys.1 (Config.manifestText m.version m.edKey m.mlKey) m.ed25519 = true ∧
          Config.verifies true Config.rootKeys.2 (Config.manifestText m.version m.edKey m.mlKey) m.mldsa65 = true
        let runs (i : Signed) : Prop := signed i Config.rootKeys.1 Config.rootKeys.2 ∨
          ∃ m, newestManifest ms = some m ∧ signed i m.edKey m.mlKey
        let waits (u : State) (why : Nat) : Prop := (u.pkg p).fwRefused = true ∧ (u.pkg p).mailbox = none ∧ (u.pkg p).fwOk = none ∧
          ∀ d < 8, (s.ld (ldNo p d)).stage = 0 → (u.ld (ldNo p d)).failed = why
        (∀ m, newestManifest ms = some m → m ∈ ms ∧ good m ∧ ∀ w ∈ ms, good w → w.version ≤ m.version) ∧
        (newestManifest ms = none → ∀ w ∈ ms, ¬good w) ∧
        (∀ i, (if fromHost then (s.pkg p).mailbox else flash) = some i →
          (runs i → exec (.firmwareVerify p flash ms fromHost) s = .next (s.updPkg p fun g => { g with fwOk := some i, fwRefused := false, mailbox := none })) ∧
          (¬runs i → ∃ u, exec (.firmwareVerify p flash ms fromHost) s = .next u ∧ waits u 1)) ∧
        ((if fromHost then (s.pkg p).mailbox else flash) = none → ∃ u, exec (.firmwareVerify p flash ms fromHost) s = .next u ∧ waits u 2)))

/-- R440, R443, R445, R449 to R460, R469, R470: flits, lanes and retraining of the mesh and the beyvex, the peer region table, the stagger, the power
limiter, and register writes by the host. The model's choices in it: the cable is the machine's (log entry 129); idle and ACK flits carry no number of
their own (log entry 130); SENT and ACKED of a fallen port (log entry 132); which stage links a block into the list (log entry 133); the layout of the
MSI-X table (log entry 134). -/
def Obligations.LinkPowerAndRegisterEvents : Prop :=
  ∀ (s : State) (p l : Nat), p < 1024 → dieOk l = true →
    (∀ link < 12,
      let k := (s.pkg p).links.getD link {}
      (∀ back : Bool, k.up = true → k.paused = false →
        let d := k.dir back
        let no := link + if back then 12 else 0
        let upd (f : LinkDir → LinkDir) : State := s.updPkg p fun g => g.updLink link fun k => k.updDir back f
        (∀ seq, seq % 2 ^ 16 = (d.recv + 1) % 2 ^ 16 →
          let t := upd fun d => { d with recv := seq % 2 ^ 16, nak := none, buf := d.buf.filter fun f => f.seq != seq % 2 ^ 16 }
          let ends := (d.buf.find? fun f => f.seq == seq % 2 ^ 16).bind (·.last)
          (ends = none → exec (.meshFlitReceive p no seq true) s = .next (t.release p)) ∧
          (∀ k, ends = some k → exec (.meshFlitReceive p no seq true) s = .next ((t.hop p k).release p))) ∧
        (∀ seq good, good = false ∨ seq % 2 ^ 16 ≠ (d.recv + 1) % 2 ^ 16 →
          exec (.meshFlitReceive p no seq good) s = .next (upd fun d => { d with nak := some d.recv }))) ∧
      (∀ lane < 136, k.bad.has lane = false →
        let t := s.updPkg p fun g => g.updLink link fun k => { k with bad := k.bad.upd lane true }
        let k := (t.pkg p).links.getD link {}
        (k.up = false → exec (.meshLaneFailure p link lane) s = .next t) ∧
        (k.up = true → 5 ≤ k.badIn (lane / 68) → exec (.meshLaneFailure p link lane) s = .next ((t.linkFell p link).linkLost p link)) ∧
        (k.up = true → k.badIn (lane / 68) < 5 →
          exec (.meshLaneFailure p link lane) s = .next (t.updPkg p fun g => g.updLink link fun k => { k with paused := true }))) ∧
      (k.paused = true → exec (.meshLaneSpareReplay p link) s = .next ((s.updPkg p fun g => g.updLink link fun k =>
        { k with paused := false, fore := { k.fore with nak := none }, back := { k.back with nak := none } }).release p))) ∧
    (∀ port < 12,
      let q := s.port p port
      let both (u : State) (f : Port → Port) : State := match farEnd p port with
        | some (r, m) => (u.updPort p port f).updPort r m f
        | none => u.updPort p port f
      let relink (u : State) (f : Port → Port) : State :=
        if (u.port p port).up = true ∧ ((both u f).port p port).up = false then (both u f).linkDown p port else both u f
      (q.up = true → q.training = false →
        (∀ typ seq ack good, typ < 4 → seq < 2 ^ 16 → ack < 2 ^ 16 →
          let taken := good = true ∧ (typ = 1 ∨ typ = 3) ∧ seq = (q.recv + 1) % 2 ^ 16
          let t : State := match farEnd p port with
            | some (r, m) => (match ((s.port r m).buf.find? fun (f : Flit) => f.seq == seq).bind (·.last) with
              | some k => s.hop p k
              | none => s)
            | none => s
          (taken → exec (.beyvexFlitReceive p port (2 ^ 16 * ((typ + 3) % 4) + seq) ack good) s = .next ((t.updPort p port fun x => x.receive typ seq ack good).release p)) ∧
          (¬taken → exec (.beyvexFlitReceive p port (2 ^ 16 * ((typ + 3) % 4) + seq) ack good) s = .next ((s.updPort p port fun x => x.receive typ seq ack good).release p))) ∧
        (∀ typ seq ack good,
          (good = false ∨ ((typ = 1 ∨ typ = 3) ∧ seq ≠ (q.recv + 1) % 2 ^ 16) → q.receive typ seq ack good = { q with nak := some q.recv, drop := true }) ∧
          (good = true → (typ = 1 ∨ typ = 3) → seq = (q.recv + 1) % 2 ^ 16 →
            q.receive typ seq ack good = ({ q with recv := seq, nak := none, drop := false } : Port).acknowledged ack) ∧
          (good = true → typ ≠ 1 → typ ≠ 3 → q.receive typ seq ack good = q.acknowledged ack)) ∧
        (∀ seq n, n = (q.sent + 2 ^ 16 - seq % 2 ^ 16) % 2 ^ 16 → n ≤ q.behind →
          let t := s.updPort p port fun q => (q.acknowledged (seq % 2 ^ 16)).replayed n 1
          (farEnd p port = none → exec (.beyvexNakReceive p port seq) s = .next (t.release p)) ∧
          (∀ r m, farEnd p port = some (r, m) → exec (.beyvexNakReceive p port seq) s = .next ((t.updPort r m fun x => { x with nak := none }).release p)))) ∧
      (∀ lane < 16, exec (.beyvexLaneFailure p port lane) s = .next (relink s fun q => q.laneFails lane)) ∧
      (q.training = true → exec (.beyvexRetrainDone p port) s = .next ((both s Port.trained).releaseEnds p port)) ∧
      (let t := relink { s with draw := s.draw + 1 } (Port.retrain (Config.laneLocks s.draw).toNat)
       exec (.linkPartnerRetrain p port) s = .next t ∧
       (l % 16 = 0 → pkgOf l = p → exec (.bxctlRetrain l port) s = .next (t.updPort p port fun q => { q with ctl := setField q.ctl 1 1 q.training.toNat }))) ∧
      (∀ base step modulus,
        (bit q.ctl.toNat 2 = true → exec (.staggerMessage p port base step modulus) s = .next (s.updPkg p fun g =>
          { g with stagoff := (base % 2 ^ 16 + step % 2 ^ 8 * (p % (modulus % 2 ^ 10 + 1))) % 2 ^ 24 })) ∧
        (bit q.ctl.toNat 2 = false → exec (.staggerMessage p port base step modulus) s = .next (s.notice (ldNo p 0) 6 2 10 0x304 port)))) ∧
    (l % 16 = 0 → ∀ v : BitVec 64, exec (.peerRegionCommit l v) s = .next (s.updPkg (pkgOf l) fun g => g.writePrcmt v.toNat)) ∧
    (∀ a n, (s.pkg p).prRun = some (a, n) →
      (∀ q ∈ (s.pkg p).ports, ∀ f ∈ q.buf, ∀ t ∈ f.last, ¬(a ≤ pkgOf t.pkt.dst ∧ pkgOf t.pkt.dst < a + n)) →
      exec (.peerRegionCommitDone p) s = .next ((s.updPkg p fun g =>
        { g with prRun := none, prst := stEnd g.prst, table := (List.range n).foldl (fun (t : Smap Word) i => mput t (a + i) (mgetD g.staged (a + i) 0#64)) g.table }).release p)) ∧
    (∀ watts,
      let g := s.pkg p
      let e := g.nextEnvelope watts (s.forced p)
      (g.idleAt = none →
        (g.envelope ≤ 100 * watts → e = max (g.envelope - g.rampdn) (min (g.envelope + g.rampup) (100 * g.pwcap))) ∧
        (100 * watts < g.envelope → e = max (g.envelope - g.rampdn) (min (100 * watts) (100 * g.pwcap)))) ∧
      (g.idleAt ≠ none → g.floorDone = false → s.forced p = true →
        e = max (g.envelope - g.rampdn) (min (min (100 * g.floor) (g.envelope + g.rampup)) (100 * g.pwcap))) ∧
      ∃ t, exec (.powerEstimateTick p watts) s = .next t ∧ t.ticks = s.ticks + 7000 ∧ (t.pkg p).pwnow = watts % 2 ^ 11 ∧
        (t.pkg p).envelope = e ∧ ((t.pkg p).holding = true ↔ min e (100 * g.pwcap) ≤ 100 * watts) ∧
        ((t.pkg p).fillers = true ↔ 100 * watts < e) ∧
        (g.idleAt ≠ none → e ≤ 100 * g.floor → g.floorAt = none → (t.pkg p).floorAt = some (s.ticks + 7000))) ∧
    ((s.pkg p).quiet = false → s.stepsGone p = true →
      ((s.pkg p).idleAt = none → exec (.quietDetection p) s = .next (s.updPkg p fun g => { g with idleAt := some s.ticks })) ∧
      (∀ t, (s.pkg p).idleAt = some t → exec (.quietDetection p) s = .next ((timeTo s (t + 700000)).updPkg p fun g => { g with quiet := true, stagAt := none }))) ∧
    (∀ t, (s.pkg p).floorAt = some t → (s.pkg p).floorDone = false →
      exec (.floorHoldExpiry p) s = .next ((timeTo s (t + 7000 * (s.pkg p).flhold)).updPkg p fun g => { g with floorDone := true })) ∧
    (∀ t, (s.pkg p).stagAt = some t → (s.pkg p).quiet = true →
      let u := timeTo s (t + 7000 * (s.pkg p).stagoff)
      exec (.stagoffExpiry p) s = .next (u.updPkg p fun g => { g with quiet := false, stagAt := none, idleAt := some u.ticks })) ∧
    (∀ k < 48, (s.pkg (pkgOf l)).fillers = true → (s.core l k).calRun = 0 → (∀ e ∈ (s.core l k).ctxs, e.2.ready = false) → (s.core l k).hasFree = true →
      ((s.core l k).filler = true → exec (.fillerRaceStart l k) s = .next s) ∧
      ((s.core l k).filler = false → exec (.fillerRaceStart l k) s = .next (s.updCore l k fun y =>
        { y with filler := true, ctxs := mput y.ctxs (y.freeCtxs.headD 3) (routineCtx l k (y.freeCtxs.headD 3)) }))) ∧
    (l % 16 = 0 → ∀ (off : Nat) (v : BitVec 64),
      (∀ g, (s.pkg (pkgOf l)).writePower off v.toNat = some (some g) → exec (.powerRegisterWrite l off v) s = .next (s.updPkg (pkgOf l) fun _ => g)) ∧
      ((s.pkg (pkgOf l)).writePower off v.toNat = some none → exec (.powerRegisterWrite l off v) s = .next (s.errLog l 2 9 0x304 off true)) ∧
      ((s.pkg (pkgOf l)).writePower off v.toNat = none → exec (.powerRegisterWrite l off v) s = .next s)) ∧
    (∀ (g : Pkg) (v : Nat),
      let w := v % 2 ^ 11
      (g.writePower 0x000 v = some (if 100 ≤ w ∧ w ≤ 1500 then some { g with pwcap := w } else none)) ∧
      (g.writePower 0x008 v = some (if 10 ≤ w ∧ w ≤ 1500 then some { g with rampup := w } else none)) ∧
      (g.writePower 0x010 v = some (if 10 ≤ w ∧ w ≤ 1500 then some { g with rampdn := w } else none)) ∧
      (g.writePower 0x018 v = some (if w ≤ g.pwcap then some { g with floor := w } else none)) ∧
      g.writePower 0x020 v = some (some { g with flhold := v % 2 ^ 32 }) ∧ g.writePower 0x028 v = some (some { g with stagoff := v % 2 ^ 24 })) ∧
    (l % 16 < 8 → (s.ld l).host.isSome = true → ∀ v : BitVec 64,
      (∀ n, n % 8 = 0 → n < 2 ^ 15 →
        let e := mgetD (s.ld l).msix (n / 16) {}
        exec (.registerWrite l 0 n v) s = .next (s.updLd l fun x => x.setMsix (n / 16)
          (if n % 16 = 0 then { e with addr := v.toNat } else { e with data := v.toNat % 2 ^ 32, masked := bit v.toNat 32 }))) ∧
      ((s.ld l).stage = 0 → ∀ block ∈ [0x10, 0x11, 0x12, 0x13, 0x14, 0x17], ∀ n, exec (.registerWrite l block n v) s = .next s) ∧
      ((s.ld l).stage ≠ 0 →
      exec (.registerWrite l 0x10 0x010 v) s = .next (s.updLd l fun x => x.writeXlinv v.toNat) ∧
      exec (.registerWrite l 0x14 0x000 v) s = exec (.fqbaseWrite l v) s ∧
      exec (.registerWrite l 0x12 0x010 v) s = exec (.ltspszWrite l v) s ∧
      exec (.registerWrite l 0x11 0x400 v) s = exec (.interleaveCommit l v) s ∧
      (∀ n, n % 8 = 0 → n < 0x10000 → exec (.registerWrite l 0x13 n v) s = .next (s.updLd l fun x => { x with regs := x.regs.write 0x13 n v })) ∧
      (∀ n q, q < 8192 → n = 0x10000 + 8 * q → exec (.registerWrite l 0x13 n v) s = exec (.doorbellWrite l q (v.setWidth 32)) s)))

/-! Encodings, steps, invariants, traps -/

/-- R243 to R261: decoding the encoding of a legal slot instruction gives it back, with every operand at every value. -/
def Obligations.DecodeOfEncode : Prop :=
  ∀ (i : Instr) (k : Nat), i.slot = some k → i.ill = none → decodeSlot k (encode i) = .ok i

/-- R253, R260 to R264: a word that a slot accepts is the encoding of a legal instruction of that slot, no bit of it dropped. -/
def Obligations.EncodeOfDecode : Prop :=
  ∀ (k : Nat) (w : BitVec 32) (i : Instr), k < 5 → decodeSlot k w = .ok i → i.slot = some k ∧ i.ill = none ∧ encode i = w

/-- R244, R261 to R264: words that the spec's worked cases write out, and the words that no slot accepts: opcode 0x00 and every word that carries
MARK are illegal with reason 0. -/
def Obligations.WrittenWords : Prop :=
  decodeSlot 0 0x01301000#32 = .ok (.lda 3#4 0x1000#16) ∧
  decodeSlot 0 0x1111A500#32 = .ok (.lds 2#5 3#4 4#4 5#3 0#1 0#7) ∧
  decodeSlot 0 0x1119A203#32 = .ok (.lds 3#5 3#4 4#4 2#3 0#1 3#7) ∧
  decodeSlot 0 0x21020500#32 = .ok (.sts 4#4 5#3 0#1 0#7) ∧
  decodeSlot 0 0x40034000#32 = .ok (.loop 52#12 0#12) ∧
  decodeSlot 0 0x4170000A#32 = .ok (.loopa 7#4 10#12) ∧
  decodeSlot 1 0x08670002#32 = .ok (.cpy 6#4 7#4 2#3) ∧
  decodeSlot 1 0x22450001#32 = .ok (.waitc 4#4 5#4 0#1 1#3) ∧
  decodeSlot 1 0x18504000#32 = .ok (.tsend 5#4 0#4 64#8 0#2 0#6) ∧
  decodeSlot 2 0x01002000#32 = .ok (.add 0#5 0#5 16#5) ∧
  decodeSlot 2 0x27C80003#32 = .ok (.li 25#5 3#19) ∧
  decodeSlot 2 0x3800C803#32 = .ok (.bx 0#3 0#5 25#5 3#11) ∧
  decodeSlot 2 0x33064002#32 = .ok (.mts 25#5 2#14) ∧
  decodeSlot 3 0x1CB000F4#32 = .ok (.vcbi 11#4 0#4 4#4) ∧
  decodeSlot 3 0x0CB9D000#32 = .ok (.vand 11#4 9#4 13#4) ∧
  decodeSlot 3 0x0B89CAA0#32 = .ok (.vsel 8#4 9#4 12#4 10#4 10#4) ∧
  decodeSlot 4 0x1B002834#32 = .ok (.rtopk 10#4 3#6 0#1 1#1) ∧
  decodeSlot 4 0x11000485#32 = .ok (.rpassr 1#4 2#4 0#2 1#2 0#1 1#1) ∧
  decodeSlot 4 0x22DF0038#32 = .ok (.accst 27#5 28#5 1#1 1#1 2#2 0#2) ∧
  decodeHeader 0xB4A00000#32 = .ok { slots := 5#5, hold := 0#5, sync := 0#2 } ∧
  (∀ (k : Nat) (w : BitVec 32), k < 5 → (w.extractLsb' 24 8 = 0#8 ∨ w.extractLsb' 26 6 = 0b101101#6) → decodeSlot k w = .error ⟨k + 1, .opcode⟩)

/-- The step of this model: the head of the agenda runs, else the part's own next event or core clock; a slot word runs as its slot's operation; a
bundle's lone A word, its lone E word, and a lone X, V or D half run as decoded from their bits, with the moves of the access position or of the
execute stream around them (log entries 4, 9, 10); a bundle with an illegal word pends the class 0 trap of its lowest illegal place, and neither of
its halves takes effect (R263, R264, R416). -/
def Obligations.StepRunsDecoded : Prop :=
  (∀ (s : State) (i : Instr) (r : List Instr), s.agenda = i :: r → step s = exec i { s with agenda := r }) ∧
  (∀ s : State, s.agenda = [] → step s = .next s.selfStep) ∧
  (∀ (i : Instr) (s : State) (k : Nat), i.slot = some k → exec i s = runSlot (slotOp i) s) ∧
  (∀ (l k c : Nat) (s t u : State) (b : Bundle) (w : BitVec 32) (i : Instr), { s with cur := { l := l, k := k, c := c } } = s → s.me.st.passOver = false →
    fetchBundle s = .ok (b, t) → b.words = [some w, none, none, none, none] → b.hold = 0#5 → b.sync = 0#2 → decodeSlot 0 w = .ok i →
    (let f := ({ t.me with st.goto := .fall } : Ctx).fallsTo b
     slotOp i (t.updMe fun x => { x with st.goto := .fall, st.skipTo := f.1, st.skipLoops := f.2 }) = .ok ((), u)) →
    (needsPriv i = false ∨ t.me.priv = true) → t.me.st.half = none →
    ∃ x0 : Ctx, x0.st.loops = t.me.st.loops ∧ x0.st.handler = t.me.st.handler ∧
      s.accessTry l k c = (u.updMe fun x =>
        (({ x with st.half := none } : Ctx).advance x0 b [some i, none, none, none, none]).endWaitA u.ticks, .issued)) ∧
  (∀ (l k c : Nat) (s t v u : State) (b : Bundle) (w : BitVec 32) (i : Instr) (vs : List Word), { s with cur := { l := l, k := k, c := c } } = s →
    s.me.st.passOver = false → fetchBundle s = .ok (b, t) → b.words = [none, some w, none, none, none] → b.hold = 0#5 → b.sync = 0#2 → decodeSlot 1 w = .ok i →
    t.me.st.half = none →
    (let f := ({ t.me with st.goto := .fall } : Ctx).fallsTo b
     let t1 := t.updMe fun x => { x with st.goto := .fall, st.skipTo := f.1, st.skipLoops := f.2 }
     takeQueued (eSources t1.me i) (t1.updMe fun x => { x with regs.a := t1.me.regs.a }) = .ok (vs, v)) →
    slotOp i (v.updMe fun x => { x with st.popped := vs }) = .ok ((), u) →
    ∃ x0 : Ctx, x0.st.loops = t.me.st.loops ∧ x0.st.handler = t.me.st.handler ∧
      s.accessTry l k c = (u.updMe fun x =>
        (({ x with
              st.popped := [], st.half := none
              regs.a := match eResult i with
                | some d => t.me.regs.a.set d.toNat (x.regs.a.getD d.toNat {})
                | none => t.me.regs.a } : Ctx).advance x0 b [none, some i, none, none, none]).endWaitA u.ticks, .issued)) ∧
  (∀ (l k c n : Nat) (s t u : State) (b : RunB) (r : List RunB) (w : BitVec 32) (i : Instr),
    t = { s with cur := { l := l, k := k, c := c } }.updCtx l k c (fun x => x.landAll s.ticks) → t.me.st.run = b :: r → b.hold = 0#5 →
    (n = 2 ∧ b.x = some w ∧ b.v = none ∧ b.d = none) ∨ (n = 3 ∧ b.x = none ∧ b.v = some w ∧ b.d = none) ∨ (n = 4 ∧ b.x = none ∧ b.v = none ∧ b.d = some w) →
    decodeSlot n w = .ok i → slotOp i (t.updMe fun x => { x with st.last := x.st.last.set n (some w) }) = .ok ((), u) →
    s.execTry l k c = (u.updMe fun x => x.issuedX b t.ticks, .issued)) ∧
  (∀ (l k c i : Nat) (s t : State) (b : Bundle) (w : BitVec 32) (e : DecodeError), { s with cur := { l := l, k := k, c := c } } = s →
    s.me.st.passOver = false → fetchBundle s = .ok (b, t) → t.cur = s.cur → t.me.st.half = none → b.hold = 0#5 → i < 5 →
    b.words.getD i none = some w → decodeSlot i w = .error e →
    (∀ j < i, ∀ v, b.words.getD j none = some v → ∃ ins, decodeSlot j v = .ok ins ∧ needsPriv ins = false) →
    e.place = i + 1 ∧
    (let f := ({ t.me with st.goto := .fall } : Ctx).fallsTo b
     let t1 := t.updMe fun x => { x with st.goto := .fall, st.skipTo := f.1, st.skipLoops := f.2 }
     s.accessTry l k c = (t1.updMe fun x =>
       { x.endWaitA t.ticks with st.atrap := some { cause := 8 * (i + 1) + e.reason.code, access := true, slot := i + 1, va := some x.st.pc } }, .trapped)))

/-- The canonical form of every memory of the part: the host's, each die's device memory and each core's scratchpad. -/
def Obligations.StepKeepsMemory : Prop :=
  ∀ s t : State, MemOk s → step s = .next t → MemOk t

/-- R2, R252, R254, R335, R338, R446: reset: memory lists nothing, the eight LDs of package 0 stand at stage 0, trims at 0x88, CALCTL at its reset value, and
nothing is pending (log entries 1, 3). -/
def Obligations.ResetState : Prop :=
  MemOk State.reset ∧ State.reset.host = [] ∧ State.reset.agenda = [] ∧ State.reset.ticks = 0 ∧
  (∀ l < 8, (State.reset.ld l).stage = 0 ∧ (State.reset.ld l).hbm.slots = [] ∧ (State.reset.ld l).regs.xlroot = 0#64 ∧
    ∀ k < 48, (State.reset.core l k).calctl = 0x000400020009861F#64 ∧ (State.reset.core l k).trim = List.replicate 16 0x88#64 ∧
      (State.reset.core l k).spad = [] ∧ (State.reset.core l k).active = none)

/-- R194, R195, R416, R417, R419, R420, R422, R424, R427: a trap of a class that HCLS enables, outside a handler, with room on the return stack and
outside privileged mode, sets TRAPC and TRAPB, pushes one entry and continues at HANDLER; leaving pops it and continues where it says. A trap that no
handler takes has its fault record queued, with the action that the policy gives, and the step stands paused; once the record is written the operator
or the region is killed, or the step stays paused. -/
def Obligations.HandlerEntryAndReturn : Prop :=
  (∀ (s : State) (t : TrapInfo) (o : Op) (b : Nat), o = { opb := s.me.opb } → handlerBit (t.cause / 64) = some b → bit o.hcls b = true →
    s.me.priv = false → s.me.st.rstack.length < 8 → (if t.access then s.me.st.handler else ((s.me.st.run.head?).map (·.inH)).getD s.me.st.handler) = false →
    ∃ e, (takeMine t s).me.st.rstack = e :: s.me.st.rstack ∧ e.trap = true ∧ (takeMine t s).me.st.pc = o.handler ∧ (takeMine t s).me.st.handler = true ∧
      (takeMine t s).me.sys.trapc = BitVec.ofNat 10 t.cause ∧ (takeMine t s).me.sys.trapb = BitVec.ofNat 52 (s.me.trapVa t) ∧
      (takeMine t s).me.regs = s.me.regs ∧ (takeMine t s).me.st.run = [] ∧ e.depth = s.me.st.loops.length) ∧
  (∀ (x : Ctx) (e : RetEntry) (r : List RetEntry), x.st.rstack = e :: r →
    (x.leaveHandler e).st.rstack = r ∧ (x.leaveHandler e).st.handler = false ∧ (x.leaveHandler e).st.loops = e.loops ∧
    (x.leaveHandler e).st.goto = .back e.va e.run e.await ∧ (x.leaveHandler e).regs = x.regs ∧ (x.leaveHandler e).sys = x.sys) ∧
  (∀ (s : State) (t : TrapInfo) (o : Op), o = { opb := s.me.opb } → s.cur.c < 4 →
    ((∀ b, handlerBit (t.cause / 64) = some b → bit o.hcls b = false ∨ s.me.priv = true ∨ 8 ≤ s.me.st.rstack.length ∨
      (if t.access then s.me.st.handler else ((s.me.st.run.head?).map (·.inH)).getD s.me.st.handler) = true)) →
    let x := s.me
    let u := ((s.updMe fun y => y.endWaits (s.chargeTick s.cur.l s.cur.k s.cur.c)).updMe fun y => y.stopAt t).finishReads s.cur.l s.cur.k s.cur.c
    let act := if t.kind = 4 ∨ isPageFault t.cause = true then 0 else x.eff.toNat / 2 ^ 232 % 4
    let hi := if t.kind = 4 then syscHalf t.args.1 t.args.2.1 t.args.2.2 else trapHalf t
    let href := match handlerBit (t.cause / 64) with
      | some b => bit o.hcls b
      | none => false
    takeMine t s = u.faultStep s.cur.l (.at_ s.cur.k s.cur.c) s.cur.k (u.ctx s.cur.l s.cur.k s.cur.c) t.kind t.cause act hi href (x.trapVa t) t) ∧
  (∀ (s : State) (l k kind cause act hi trapb : Nat) (p : Place) (x : Ctx) (href : Bool) (t : TrapInfo),
    let r := faultRecord s.ns (dieOf l) {
      stamp := x.sys.stamp.toNat, trapb := trapb, slip := x.st.run.length, opid := x.sys.opid, core := k, ctx := p.ctxNo, kind := kind, act := act
      href := href, rst := (s.opOf l x.sys.opid).restart && act == 0, ndisc := t.ndisc, cause := cause } hi
    let u := s.updLd l fun z => { z with faultQ := z.faultQ ++ [(x.sid + 1, r)] }
    s.faultStep l p k x kind cause act hi href trapb t =
      (if kind ≤ 3 then u.countFault l x.sys.opid cause else u).updStep l x.sid fun x => { x with paused := some t }) ∧
  (∀ (ns die hi : Nat) (h : RecordHead),
    let r := faultRecord ns die h hi
    r.extractLsb' 0 10 = BitVec.ofNat 10 h.cause ∧ r.extractLsb' 10 12 = 0#12 ∧ r.extractLsb' 22 6 = BitVec.ofNat 6 h.ndisc ∧
    r.getLsbD 28 = h.rst ∧ r.getLsbD 29 = h.href ∧ r.extractLsb' 30 2 = BitVec.ofNat 2 h.act ∧ r.extractLsb' 32 4 = BitVec.ofNat 4 h.kind ∧
    r.extractLsb' 36 2 = BitVec.ofNat 2 h.ctx ∧ r.extractLsb' 38 6 = BitVec.ofNat 6 h.core ∧ r.extractLsb' 44 4 = BitVec.ofNat 4 die ∧
    r.extractLsb' 48 16 = BitVec.ofNat 16 h.opid ∧ r.extractLsb' 64 6 = BitVec.ofNat 6 h.slip ∧ r.extractLsb' 70 6 = 0#6 ∧
    r.extractLsb' 76 52 = BitVec.ofNat 52 h.trapb ∧ r.extractLsb' 128 64 = BitVec.ofNat 64 h.stamp ∧ r.extractLsb' 192 64 = BitVec.ofNat 64 ns ∧
    r.extractLsb' 256 256 = BitVec.ofNat 256 hi) ∧
  (∀ (s : State) (l sid k : Nat) (r : BitVec 512) (p : Place) (x : Ctx), (s.ld l).findStep sid = some (p, k, x) →
    (r.extractLsb' 30 2 = 1#2 → s.afterRecord l sid r = (s.killOp l x.sys.opid).completeRegions l) ∧
    (r.extractLsb' 30 2 = 2#2 → s.afterRecord l sid r = s.killRegionAll l (s.opOf l x.sys.opid).region) ∧
    (r.extractLsb' 30 2 = 0#2 ∨ r.extractLsb' 30 2 = 3#2 →
      (r.getLsbD 28 = true → s.afterRecord l sid r = s.discardStep l p k x false) ∧ (r.getLsbD 28 = false → s.afterRecord l sid r = s)))

/-- R233, R256 to R258, R294: results land earliest cc first, in one cc system registers before the slots X, V, D, and those of one slot in issue order;
a scalar or a vector enters age 0 of its file and the older ages move up, or its named register, where of two the later stands; an mts to VFLAGS writes
it before the flags that land in its cc are ORed in, and clears those of an earlier cc. -/
def Obligations.Landing : Prop :=
  ∀ (x : Ctx) (f g : Fly), x.st.flight = [f, g] ∨ x.st.flight = [g, f] → f.land ≤ x.st.cc → g.land ≤ x.st.cc →
    let rank (f : Fly) : Nat := match f.dest with
      | .sysreg _ => 0
      | _ => f.slot + 1
    f.land < g.land ∨ (f.land = g.land ∧ (rank f < rank g ∨ (rank f = rank g ∧ f.seq < g.seq))) →
    let y := x.landDue
    y.st.flight = [] ∧
    (∀ v w, f.dest = .age → g.dest = .age → f.pay = .scalar v → g.pay = .scalar w →
      y.regs.b = [{ val := w, valid := true, poison := g.poison }, { val := v, valid := true, poison := f.poison }] ++ x.regs.b.take 14) ∧
    (∀ d1 s1 d2 s2, f.dest = .age → g.dest = .age → f.pay = .vec d1 s1 → g.pay = .vec d2 s2 →
      y.regs.v = [{ data := d2, side := s2, valid := true, poison := g.poison }, { data := d1, side := s1, valid := true, poison := f.poison }] ++ x.regs.v.take 6) ∧
    (∀ n v w, f.dest = .reg n → g.dest = .reg n → f.pay = .scalar v → g.pay = .scalar w →
      y.regs.k = x.regs.k.set n { val := w, valid := true, poison := g.poison }) ∧
    (∀ n d1 s1 d2 s2, f.dest = .reg n → g.dest = .reg n → f.pay = .vec d1 s1 → g.pay = .vec d2 s2 →
      y.regs.w = x.regs.w.set n { data := d2, side := s2, valid := true, poison := g.poison }) ∧
    (∀ n v w, f.dest = .reg n → g.dest = .age → f.pay = .scalar v → g.pay = .scalar w →
      y.regs.k = x.regs.k.set n { val := v, valid := true, poison := f.poison } ∧ y.regs.b = { val := w, valid := true, poison := g.poison } :: x.regs.b.take 15) ∧
    (∀ v w, f.dest = .sysreg 8 → g.dest = .age → f.pay = .scalar v → g.pay = .scalar w →
      y.sys.vflags = BitVec.ofNat 7 v.toNat ||| f.flags ||| g.flags ∧ y.regs.b = { val := w, valid := true, poison := g.poison } :: x.regs.b.take 15) ∧
    (∀ v w, f.dest = .age → g.dest = .sysreg 8 → f.pay = .scalar v → g.pay = .scalar w → y.sys.vflags = BitVec.ofNat 7 w.toNat ||| g.flags) ∧
    (∀ v, f.dest = .sysreg 9 → f.pay = .scalar v → g.dest = .age → y.sys.rflags = BitVec.ofNat 4 v.toNat) ∧
    ((∀ n, f.dest ≠ .sysreg n) → (∀ n, g.dest ≠ .sysreg n) → y.sys.vflags = x.sys.vflags ||| f.flags ||| g.flags)

/-- What words with a register destination leave: a result on its way changes no register, no system register and no memory; an access result changes its
one register (R256, R272). -/
def Obligations.RegisterFrames : Prop :=
  ∀ (s : State) (d : BitVec 5) (e : BitVec 4) (lat fl : Nat) (v : Word) (o : VOut),
    (∀ t ∈ [sentX s d lat v fl, sentV s e lat o, sentD s lat v],
      t.me.regs = s.me.regs ∧ t.me.sys = s.me.sys ∧ t.me.st.loops = s.me.st.loops ∧ t.me.st.rstack = s.me.st.rstack ∧ t.me.st.pc = s.me.st.pc ∧
      t.host = s.host ∧ (∀ l a n, (t.ld l).hbm.read a n = (s.ld l).hbm.read a n) ∧ ∀ l k a n, (t.core l k).spRead 0 a n = (s.core l k).spRead 0 a n) ∧
    (let t := withA s e v
     (∀ f : Nat, f ≠ e.toNat → t.me.regs.a.getD f {} = s.me.regs.a.getD f {}) ∧ { t.me.regs with a := s.me.regs.a } = s.me.regs ∧ t.me.sys = s.me.sys ∧
      t.me.st = s.me.st ∧ t.host = s.host ∧ (∀ l a n, (t.ld l).hbm.read a n = (s.ld l).hbm.read a n) ∧ ∀ l k a n, (t.core l k).spRead 0 a n = (s.core l k).spRead 0 a n)

/-- What an OWN scalar store leaves (R275, R278): the addressed bytes read as the value's, every other byte of the scratchpad as before, and as before
too every other core, device memory of every die and the host's, the core's banks, planes, tiles, rings and queue, its other contexts, and of the
context its registers, its system registers and its own stores. -/
def Obligations.StoreFrame : Prop :=
  ∀ (s t u : State) (b : BitVec 4) (w : BitVec 3) (x : BitVec 7) (v d : Word) (ea : Nat), accessTwo s b 15#4 = some (v, d, t) →
    ea = eaOf v x.toInt (widthBytes w) → LocalOk false ea (widthBytes w) (widthBytes w) → exec (.sts b w 0#1 x) s = .next u →
    (here t).spad.wf = true →
    (here u).spRead 0 ea (widthBytes w) = natLe (widthBytes w) d.toNat ∧
    (∀ a, a < ea ∨ ea + widthBytes w ≤ a → (here u).spRead 0 a 1 = (here t).spRead 0 a 1) ∧
    (∀ l k, ¬(l = s.cur.l ∧ k = s.cur.k) → u.core l k = t.core l k) ∧ u.host = s.host ∧ u.me.regs = s.me.regs ∧ u.me.sys = s.me.sys ∧
    (∀ l, (u.ld l).hbm = (s.ld l).hbm) ∧ u.me.own = s.me.own ∧ u.me.caps = s.me.caps ∧
    (∀ c, c ≠ s.cur.c → (here u).ctx c = (here s).ctx c) ∧
    (here u).banks = (here s).banks ∧ (here u).planes = (here s).planes ∧ (here u).tiles = (here s).tiles ∧ (here u).rings = (here s).rings ∧
    (here u).queue = (here s).queue
end

