-- ==== Sys2Proof/Laws/Map.lean ====
section
/-! SUPPORT. Laws of sparse tables and of byte memories: reading after a write, and the canonical form kept by every write. -/

namespace Sys2Proof.Machine

@[simp] theorem mget_nil {α : Type} (n : Nat) : mget ([] : Smap α) n = none := rfl

/-- What is listed at `n` is read there. -/
@[simp] theorem mget_mput_same {α : Type} (m : Smap α) (n : Nat) (v : α) : mget (mput m n v) n = some v := by
  induction m with
  | nil => simp [mput, mget]
  | cons e r ih =>
    obtain ⟨k, w⟩ := e
    simp only [mput]
    split
    · simp [mget]
    · split
      · simp [mget]
      · rename_i h1 h2
        simp only [mget]
        rw [if_neg (by omega), ih]

/-- A write leaves every other number alone. -/
theorem mget_mput_other {α : Type} (m : Smap α) (n k : Nat) (v : α) (h : k ≠ n) : mget (mput m n v) k = mget m k := by
  induction m with
  | nil => simp [mput, mget, Ne.symm h]
  | cons e r ih =>
    obtain ⟨j, w⟩ := e
    simp only [mput]
    split
    · rw [mget, if_neg (Ne.symm h)]
    · split
      · rename_i h1 h2
        subst h2
        simp [mget, Ne.symm h]
      · simp only [mget]
        rw [ih]

/-- The later of two writes to one number stands. -/
@[simp] theorem mput_mput {α : Type} (m : Smap α) (n : Nat) (v w : α) : mput (mput m n v) n w = mput m n w := by
  induction m with
  | nil => simp [mput]
  | cons e r ih =>
    obtain ⟨k, u⟩ := e
    simp only [mput]
    split
    · simp [mput]
    · split
      · simp [mput]
      · rename_i h1 h2
        simp only [mput]
        rw [if_neg h1, if_neg h2, ih]

@[simp] theorem mgetD_mput_same {α : Type} (m : Smap α) (n : Nat) (v d : α) : mgetD (mput m n v) n d = v := by simp [mgetD]
theorem mgetD_mput_other {α : Type} (m : Smap α) (n k : Nat) (v d : α) (h : k ≠ n) : mgetD (mput m n v) k d = mgetD m k d := by
  simp [mgetD, mget_mput_other m n k v h]

/-- The numbers of a table that lie above its head. -/
theorem rising_tail {α : Type} {e : Nat × α} {r : Smap α} (h : rising (e :: r) = true) : rising r = true := by
  cases r with
  | nil => rfl
  | cons f t => simp [rising] at h; exact h.2

theorem rising_cons {α : Type} {k : Nat} {v : α} {r : Smap α} (hr : rising r = true) (h : ∀ e ∈ r, k < e.1) : rising ((k, v) :: r) = true := by
  cases r with
  | nil => rfl
  | cons f t =>
    obtain ⟨b, w⟩ := f
    have hb : k < b := h (b, w) (by simp)
    simp [rising, hr, hb]

theorem rising_head {α : Type} {k : Nat} {v : α} {r : Smap α} (h : rising ((k, v) :: r) = true) : ∀ e ∈ r, k < e.1 := by
  induction r generalizing k v with
  | nil => simp
  | cons f t ih =>
    obtain ⟨b, w⟩ := f
    simp [rising] at h
    intro e he
    rcases List.mem_cons.mp he with rfl | he
    · exact h.1
    · exact Nat.lt_trans h.1 (ih h.2 e he)

theorem mem_mput {α : Type} (m : Smap α) (n : Nat) (v : α) : ∀ e ∈ mput m n v, e = (n, v) ∨ e ∈ m := by
  induction m with
  | nil => simp [mput]
  | cons f r ih =>
    obtain ⟨k, w⟩ := f
    simp only [mput]
    split
    · simp
    · split
      · simp; tauto
      · intro e he
        rcases List.mem_cons.mp he with rfl | he
        · simp
        · rcases ih e he with h | h <;> simp [h]

theorem mem_mdel {α : Type} (m : Smap α) (n : Nat) : ∀ e ∈ mdel m n, e ∈ m := by
  induction m with
  | nil => simp [mdel]
  | cons f r ih =>
    obtain ⟨k, w⟩ := f
    simp only [mdel]
    split
    · intro e he; simp [he]
    · intro e he
      rcases List.mem_cons.mp he with rfl | he
      · simp
      · simp [ih e he]

/-- Listing a value keeps the numbers rising. -/
theorem rising_mput {α : Type} (m : Smap α) (n : Nat) (v : α) (h : rising m = true) : rising (mput m n v) = true := by
  induction m with
  | nil => rfl
  | cons f r ih =>
    obtain ⟨k, w⟩ := f
    simp only [mput]
    split
    · rename_i hlt
      refine rising_cons h fun e he => ?_
      rcases List.mem_cons.mp he with rfl | he
      · exact hlt
      · exact Nat.lt_trans hlt (rising_head h e he)
    · split
      · rename_i _ heq
        subst heq
        exact rising_cons (rising_tail h) (rising_head h)
      · refine rising_cons (ih (rising_tail h)) fun e he => ?_
        rcases mem_mput r n v e he with rfl | he
        · simp only; omega
        · exact rising_head h e he

/-- Removing an entry keeps the numbers rising. -/
theorem rising_mdel {α : Type} (m : Smap α) (n : Nat) (h : rising m = true) : rising (mdel m n) = true := by
  induction m with
  | nil => rfl
  | cons f r ih =>
    obtain ⟨k, w⟩ := f
    simp only [mdel]
    split
    · exact rising_tail h
    · exact rising_cons (ih (rising_tail h)) fun e he => rising_head h e (mem_mdel r n e he)

theorem noneDefault_iff {α : Type} [DecidableEq α] (d : α) (m : Smap α) : noneDefault d m = true ↔ ∀ e ∈ m, e.2 ≠ d := by
  induction m with
  | nil => simp [noneDefault]
  | cons f r ih => obtain ⟨k, w⟩ := f; simp [noneDefault, ih]

/-- Writing through `mset` keeps the default unlisted. -/
theorem noneDefault_mset {α : Type} [DecidableEq α] (m : Smap α) (n : Nat) (v d : α) (h : noneDefault d m = true) : noneDefault d (mset m n v d) = true := by
  rw [noneDefault_iff] at h ⊢
  unfold mset
  split
  · exact fun e he => h e (mem_mdel m n e he)
  · intro e he
    rcases mem_mput m n v e he with rfl | he
    · assumption
    · exact h e he

theorem rising_mset {α : Type} [DecidableEq α] (m : Smap α) (n : Nat) (v d : α) (h : rising m = true) : rising (mset m n v d) = true := by
  unfold mset
  split
  · exact rising_mdel m n h
  · exact rising_mput m n v h

theorem mget_none_of_lt {α : Type} (m : Smap α) (n : Nat) (h : ∀ e ∈ m, n < e.1) : mget m n = none := by
  induction m with
  | nil => rfl
  | cons f r ih =>
    obtain ⟨k, w⟩ := f
    have : n < k := h (k, w) (by simp)
    rw [mget, if_neg (by omega), ih fun e he => h e (by simp [he])]

theorem mget_mdel_same {α : Type} (m : Smap α) (n : Nat) (h : rising m = true) : mget (mdel m n) n = none := by
  induction m with
  | nil => rfl
  | cons f r ih =>
    obtain ⟨k, w⟩ := f
    simp only [mdel]
    split
    · rename_i hk
      subst hk
      exact mget_none_of_lt r k (rising_head h)
    · rename_i hk
      rw [mget, if_neg hk, ih (rising_tail h)]

theorem mget_mdel_other {α : Type} (m : Smap α) (n k : Nat) (h : k ≠ n) : mget (mdel m n) k = mget m k := by
  induction m with
  | nil => rfl
  | cons f r ih =>
    obtain ⟨j, w⟩ := f
    simp only [mdel]
    split
    · rename_i hj
      subst hj
      rw [mget, if_neg (Ne.symm h)]
    · rw [mget, mget, ih]

theorem mgetD_mset_same {α : Type} [DecidableEq α] (m : Smap α) (n : Nat) (v d : α) (h : rising m = true) : mgetD (mset m n v d) n d = v := by
  unfold mset
  split
  · rename_i hv
    simp [mgetD, mget_mdel_same m n h, hv]
  · simp

theorem mgetD_mset_other {α : Type} [DecidableEq α] (m : Smap α) (n k : Nat) (v d : α) (h : k ≠ n) : mgetD (mset m n v d) k d = mgetD m k d := by
  unfold mset
  split
  · simp [mgetD, mget_mdel_other m n k h]
  · exact mgetD_mput_other m n k v d h

/-! Byte memories -/

/-- One byte written is read back. -/
theorem Mem.get_set_same (m : Mem) (a : Nat) (b : BitVec 8) (h : m.wf = true) : Mem.get (Mem.set m a b) a = b := by
  simp [Mem.wf] at h
  exact mgetD_mset_same m a b emptyByte h.1

/-- Every other byte is as it was. -/
theorem Mem.get_set_other (m : Mem) (a c : Nat) (b : BitVec 8) (h : c ≠ a) : Mem.get (Mem.set m a b) c = Mem.get m c :=
  mgetD_mset_other m a c b emptyByte h

/-- A write of one byte keeps the canonical form. -/
theorem Mem.wf_set (m : Mem) (a : Nat) (b : BitVec 8) (h : m.wf = true) : (Mem.set m a b).wf = true := by
  simp [Mem.wf] at h ⊢
  exact ⟨rising_mset m a b emptyByte h.1, noneDefault_mset m a b emptyByte h.2⟩

/-- A write of bytes keeps the canonical form. -/
theorem Mem.wf_setBytes (m : Mem) (a : Nat) (bs : List (BitVec 8)) (h : m.wf = true) : (Mem.setBytes m a bs).wf = true := by
  induction bs generalizing m a with
  | nil => exact h
  | cons b r ih => exact ih _ _ (Mem.wf_set m a b h)

/-- Bytes outside the written range are as they were. -/
theorem Mem.get_setBytes_outside (m : Mem) (a c : Nat) (bs : List (BitVec 8)) (h : c < a ∨ a + bs.length ≤ c) :
    Mem.get (Mem.setBytes m a bs) c = Mem.get m c := by
  induction bs generalizing m a with
  | nil => rfl
  | cons b r ih =>
    simp only [List.length_cons] at h
    rw [Mem.setBytes, ih _ _ (by omega), Mem.get_set_other _ _ _ _ (by omega)]

/-- Bytes inside the written range read as written. -/
theorem Mem.get_setBytes_inside (m : Mem) (a i : Nat) (bs : List (BitVec 8)) (h : i < bs.length) (hw : m.wf = true) :
    Mem.get (Mem.setBytes m a bs) (a + i) = bs.getD i 0#8 := by
  induction bs generalizing m a i with
  | nil => simp at h
  | cons b r ih =>
    rw [Mem.setBytes]
    cases i with
    | zero => rw [Mem.get_setBytes_outside _ _ _ _ (by omega)]; simpa using Mem.get_set_same m a b hw
    | succ j =>
      have := ih (Mem.set m a b) (a + 1) j (by simpa using h) (Mem.wf_set m a b hw)
      rw [show a + (j + 1) = a + 1 + j by omega, this]
      simp

/-! Blocks of bytes written in one pass -/

/-- A table rises exactly when its numbers do, pair by pair. -/
theorem rising_iff {α : Type} (m : Smap α) : rising m = true ↔ m.Pairwise fun a b => a.1 < b.1 := by
  induction m with
  | nil => simp [rising]
  | cons e r ih =>
    rw [List.pairwise_cons, ← ih]
    constructor
    · intro h
      exact ⟨rising_head h, rising_tail h⟩
    · rintro ⟨h1, h2⟩
      cases r with
      | nil => rfl
      | cons f r =>
        obtain ⟨a, v⟩ := e
        obtain ⟨b, w⟩ := f
        simp only [rising, Bool.and_eq_true, decide_eq_true_eq]
        exact ⟨h1 (b, w) (by simp), h2⟩

/-- The cells of bytes lie in their range and are none of them empty. -/
theorem Mem.mem_cells (a : Nat) (bs : List (BitVec 8)) : ∀ e ∈ Mem.cells a bs, a ≤ e.1 ∧ e.1 < a + bs.length ∧ e.2 ≠ emptyByte := by
  induction bs generalizing a with
  | nil => simp [Mem.cells]
  | cons b r ih =>
    intro e he
    rw [Mem.cells] at he
    have tail : e ∈ Mem.cells (a + 1) r → a ≤ e.1 ∧ e.1 < a + (b :: r).length ∧ e.2 ≠ emptyByte := by
      intro h
      obtain ⟨h1, h2, h3⟩ := ih (a + 1) e h
      simp only [List.length_cons]
      exact ⟨by omega, by omega, h3⟩
    split at he
    · exact tail he
    · rename_i hb
      rcases List.mem_cons.mp he with rfl | he
      · simp [hb]
      · exact tail he

theorem Mem.pairwise_cells (a : Nat) (bs : List (BitVec 8)) : (Mem.cells a bs).Pairwise fun x y => x.1 < y.1 := by
  induction bs generalizing a with
  | nil => simp [Mem.cells]
  | cons b r ih =>
    rw [Mem.cells]
    split
    · exact ih (a + 1)
    · rw [List.pairwise_cons]
      exact ⟨fun e he => (Mem.mem_cells (a + 1) r e he).1, ih (a + 1)⟩

/-- A block write keeps the canonical form. -/
theorem Mem.wf_putBlock (m : Mem) (a : Nat) (bs : List (BitVec 8)) (h : m.wf = true) : (Mem.putBlock m a bs).wf = true := by
  simp only [Mem.wf, Bool.and_eq_true] at h ⊢
  obtain ⟨h1, h2⟩ := h
  rw [rising_iff] at h1 ⊢
  rw [noneDefault_iff] at h2 ⊢
  simp only [Mem.putBlock, List.pairwise_append, List.mem_append, List.mem_filter, decide_eq_true_eq]
  refine ⟨⟨h1.filter _, ⟨Mem.pairwise_cells a bs, h1.filter _, ?_⟩, ?_⟩, ?_⟩
  · intro x hx y hy
    have := Mem.mem_cells a bs x hx
    omega
  · rintro x ⟨-, hx⟩ y (hy | ⟨-, hy⟩)
    · have := Mem.mem_cells a bs y hy
      omega
    · omega
  · rintro e (⟨he, -⟩ | he | ⟨he, -⟩)
    · exact h2 e he
    · exact (Mem.mem_cells a bs e he).2.2
    · exact h2 e he

theorem mget_append {α : Type} (m r : Smap α) (n : Nat) : mget (m ++ r) n = (mget m n).or (mget r n) := by
  induction m with
  | nil => simp
  | cons e m ih =>
    obtain ⟨k, v⟩ := e
    rw [List.cons_append, mget, mget]
    split
    · simp
    · exact ih

theorem mget_filter {α : Type} (m : Smap α) (p : Nat → Bool) (n : Nat) : mget (m.filter fun e => p e.1) n = if p n then mget m n else none := by
  induction m with
  | nil => simp
  | cons e m ih =>
    obtain ⟨k, v⟩ := e
    by_cases hk : k = n
    · subst hk
      by_cases hp : p k <;> simp [List.filter, hp, mget, ih]
    · by_cases hp : p k <;> simp [List.filter, hp, mget, ih, hk]

/-- The cells of bytes read as the bytes, and as nothing elsewhere. -/
theorem Mem.mget_cells (a : Nat) (bs : List (BitVec 8)) (n : Nat) :
    mget (Mem.cells a bs) n = if a ≤ n ∧ n < a + bs.length ∧ bs.getD (n - a) emptyByte ≠ emptyByte then some (bs.getD (n - a) emptyByte) else none := by
  induction bs generalizing a with
  | nil => simp [Mem.cells]
  | cons b r ih =>
    rw [Mem.cells]
    by_cases hn : n = a
    · subst hn
      have later : mget (Mem.cells (n + 1) r) n = none := by rw [ih]; simp
      split <;> rename_i hb
      · simp [later, hb]
      · simp [mget, hb]
    · have shift : a ≤ n ∧ n < a + (b :: r).length ∧ (b :: r).getD (n - a) emptyByte ≠ emptyByte ↔
          a + 1 ≤ n ∧ n < a + 1 + r.length ∧ r.getD (n - (a + 1)) emptyByte ≠ emptyByte := by
        by_cases h : a + 1 ≤ n
        · rw [show n - a = n - (a + 1) + 1 by omega, List.getD_cons_succ, List.length_cons]
          constructor
          · exact fun ⟨_, h2, h3⟩ => ⟨h, by omega, h3⟩
          · exact fun ⟨_, h2, h3⟩ => ⟨by omega, by omega, h3⟩
        · constructor
          · exact fun ⟨h1, _⟩ => absurd h1 (by omega)
          · exact fun ⟨h1, _⟩ => absurd h1 h
      have skip : mget (Mem.cells (a + 1) r) n =
          if a ≤ n ∧ n < a + (b :: r).length ∧ (b :: r).getD (n - a) emptyByte ≠ emptyByte then some ((b :: r).getD (n - a) emptyByte) else none := by
        rw [ih (a + 1), if_congr shift rfl rfl]
        split
        · rename_i h
          rw [show n - a = n - (a + 1) + 1 by omega, List.getD_cons_succ]
        · rfl
      split
      · exact skip
      · rw [mget, if_neg (Ne.symm hn)]
        exact skip

/-- Bytes outside a block are as they were. -/
theorem Mem.get_putBlock_outside (m : Mem) (a c : Nat) (bs : List (BitVec 8)) (h : c < a ∨ a + bs.length ≤ c) :
    Mem.get (Mem.putBlock m a bs) c = Mem.get m c := by
  have none : mget (Mem.cells a bs) c = none := by rw [Mem.mget_cells, if_neg (by omega)]
  simp only [Mem.get, mgetD, Mem.putBlock, mget_append, none, mget_filter m (fun n => decide (n < a)),
    mget_filter m (fun n => decide (a + bs.length ≤ n))]
  rcases h with h | h
  · simp [h]; cases mget m c <;> simp
  · rw [if_neg (by simp; omega)]; simp [h]

/-- Bytes inside a block read as written. -/
theorem Mem.get_putBlock_inside (m : Mem) (a i : Nat) (bs : List (BitVec 8)) (h : i < bs.length) :
    Mem.get (Mem.putBlock m a bs) (a + i) = bs.getD i emptyByte := by
  simp only [Mem.get, mgetD, Mem.putBlock, mget_append, Mem.mget_cells, mget_filter m (fun n => decide (n < a)),
    mget_filter m (fun n => decide (a + bs.length ≤ n))]
  have hi : ¬ bs.length ≤ i := by omega
  by_cases hb : bs[i] = emptyByte <;> simp [h, hi, hb]

end Sys2Proof.Machine
end

