-- ==== Sys2Proof/Laws/State.lean ====
section
/-! SUPPORT. Reading one unit of the part after a change of a unit: what was changed, and that nothing else was. -/

namespace Sys2Proof.Machine

@[simp] theorem ld_updLd_same (s : State) (l : Nat) (f : Ld → Ld) : (s.updLd l f).ld l = f (s.ld l) := by simp [State.ld, State.updLd, State.putLd]
theorem ld_updLd_other (s : State) (l j : Nat) (f : Ld → Ld) (h : j ≠ l) : (s.updLd l f).ld j = s.ld j := by
  simp [State.ld, State.updLd, State.putLd, mgetD_mput_other _ _ _ _ _ h]
@[simp] theorem updLd_host (s : State) (l : Nat) (f : Ld → Ld) : (s.updLd l f).host = s.host := rfl
@[simp] theorem updLd_pkgs (s : State) (l : Nat) (f : Ld → Ld) : (s.updLd l f).pkgs = s.pkgs := rfl
@[simp] theorem updLd_ticks (s : State) (l : Nat) (f : Ld → Ld) : (s.updLd l f).ticks = s.ticks := rfl
@[simp] theorem updLd_agenda (s : State) (l : Nat) (f : Ld → Ld) : (s.updLd l f).agenda = s.agenda := rfl
@[simp] theorem updLd_turn (s : State) (l : Nat) (f : Ld → Ld) : (s.updLd l f).turn = s.turn := rfl
@[simp] theorem updLd_cur (s : State) (l : Nat) (f : Ld → Ld) : (s.updLd l f).cur = s.cur := rfl
@[simp] theorem updLd_draw (s : State) (l : Nat) (f : Ld → Ld) : (s.updLd l f).draw = s.draw := rfl
@[simp] theorem updLd_spdm (s : State) (l : Nat) (f : Ld → Ld) : (s.updLd l f).spdm = s.spdm := rfl

@[simp] theorem core_updCore_same (x : Ld) (k : Nat) (f : Core → Core) : (x.updCore k f).core k = f (x.core k) := by simp [Ld.core, Ld.updCore]
theorem core_updCore_other (x : Ld) (k j : Nat) (f : Core → Core) (h : j ≠ k) : (x.updCore k f).core j = x.core j := by
  simp [Ld.core, Ld.updCore, mgetD_mput_other _ _ _ _ _ h]
@[simp] theorem updCore_hbm (x : Ld) (k : Nat) (f : Core → Core) : (x.updCore k f).hbm = x.hbm := rfl
@[simp] theorem updCore_regs (x : Ld) (k : Nat) (f : Core → Core) : (x.updCore k f).regs = x.regs := rfl
@[simp] theorem updCore_parishes (x : Ld) (k : Nat) (f : Core → Core) : (x.updCore k f).parishes = x.parishes := rfl

@[simp] theorem ctx_updCtx_same (x : Core) (c : Nat) (f : Ctx → Ctx) : (x.updCtx c f).ctx c = f (x.ctx c) := by simp [Core.ctx, Core.updCtx]
theorem ctx_updCtx_other (x : Core) (c j : Nat) (f : Ctx → Ctx) (h : j ≠ c) : (x.updCtx c f).ctx j = x.ctx j := by
  simp [Core.ctx, Core.updCtx, mgetD_mput_other _ _ _ _ _ h]
@[simp] theorem updCtx_spad (x : Core) (c : Nat) (f : Ctx → Ctx) : (x.updCtx c f).spad = x.spad := rfl
@[simp] theorem updCtx_banks (x : Core) (c : Nat) (f : Ctx → Ctx) : (x.updCtx c f).banks = x.banks := rfl
@[simp] theorem updCtx_planes (x : Core) (c : Nat) (f : Ctx → Ctx) : (x.updCtx c f).planes = x.planes := rfl
@[simp] theorem updCtx_tiles (x : Core) (c : Nat) (f : Ctx → Ctx) : (x.updCtx c f).tiles = x.tiles := rfl
@[simp] theorem updCtx_rings (x : Core) (c : Nat) (f : Ctx → Ctx) : (x.updCtx c f).rings = x.rings := rfl
@[simp] theorem updCtx_queue (x : Core) (c : Nat) (f : Ctx → Ctx) : (x.updCtx c f).queue = x.queue := rfl

@[simp] theorem score_updCore_same (s : State) (l k : Nat) (f : Core → Core) : (s.updCore l k f).core l k = f (s.core l k) := by
  simp [State.core, State.updCore]
@[simp] theorem sctx_updCtx_same (s : State) (l k c : Nat) (f : Ctx → Ctx) : (s.updCtx l k c f).ctx l k c = f (s.ctx l k c) := by
  simp [State.ctx, State.updCtx]
theorem sctx_updCtx_otherCtx (s : State) (l k c d : Nat) (f : Ctx → Ctx) (h : d ≠ c) : (s.updCtx l k c f).ctx l k d = s.ctx l k d := by
  simp [State.ctx, State.updCtx, ctx_updCtx_other _ _ _ _ h]
theorem score_updCore_otherCore (s : State) (l k j : Nat) (f : Core → Core) (h : j ≠ k) : (s.updCore l k f).core l j = s.core l j := by
  simp [State.core, State.updCore, core_updCore_other _ _ _ _ h]
theorem score_updCore_otherLd (s : State) (l k i j : Nat) (f : Core → Core) (h : i ≠ l) : (s.updCore l k f).core i j = s.core i j := by
  simp [State.core, State.updCore, ld_updLd_other _ _ _ _ h]
@[simp] theorem updCore_host (s : State) (l k : Nat) (f : Core → Core) : (s.updCore l k f).host = s.host := rfl
@[simp] theorem updCore_cur (s : State) (l k : Nat) (f : Core → Core) : (s.updCore l k f).cur = s.cur := rfl
@[simp] theorem updCore_ticks (s : State) (l k : Nat) (f : Core → Core) : (s.updCore l k f).ticks = s.ticks := rfl
@[simp] theorem updCore_draw (s : State) (l k : Nat) (f : Core → Core) : (s.updCore l k f).draw = s.draw := rfl
@[simp] theorem updCtx_host (s : State) (l k c : Nat) (f : Ctx → Ctx) : (s.updCtx l k c f).host = s.host := rfl
@[simp] theorem updCtx_cur (s : State) (l k c : Nat) (f : Ctx → Ctx) : (s.updCtx l k c f).cur = s.cur := rfl
@[simp] theorem updCtx_ticks (s : State) (l k c : Nat) (f : Ctx → Ctx) : (s.updCtx l k c f).ticks = s.ticks := rfl
@[simp] theorem updCtx_draw (s : State) (l k c : Nat) (f : Ctx → Ctx) : (s.updCtx l k c f).draw = s.draw := rfl
/-- A change of a context leaves every die's memory and registers alone. -/
@[simp] theorem updCtx_hbm (s : State) (l k c i : Nat) (f : Ctx → Ctx) : ((s.updCtx l k c f).ld i).hbm = (s.ld i).hbm := by
  by_cases h : i = l
  · subst h; simp [State.updCtx, State.updCore]
  · simp [State.updCtx, State.updCore, ld_updLd_other _ _ _ _ h]

/-! Packages, operators, regions -/

@[simp] theorem pkg_updPkg_same (s : State) (p : Nat) (f : Pkg → Pkg) : (s.updPkg p f).pkg p = f (s.pkg p) := by simp [State.pkg, State.updPkg]
theorem pkg_updPkg_other (s : State) (p q : Nat) (f : Pkg → Pkg) (h : q ≠ p) : (s.updPkg p f).pkg q = s.pkg q := by
  simp [State.pkg, State.updPkg, mgetD_mput_other _ _ _ _ _ h]
@[simp] theorem updPkg_ld (s : State) (p l : Nat) (f : Pkg → Pkg) : (s.updPkg p f).ld l = s.ld l := rfl
@[simp] theorem updPkg_host (s : State) (p : Nat) (f : Pkg → Pkg) : (s.updPkg p f).host = s.host := rfl
@[simp] theorem updPkg_ticks (s : State) (p : Nat) (f : Pkg → Pkg) : (s.updPkg p f).ticks = s.ticks := rfl
@[simp] theorem updPkg_cur (s : State) (p : Nat) (f : Pkg → Pkg) : (s.updPkg p f).cur = s.cur := rfl
@[simp] theorem updPkg_draw (s : State) (p : Nat) (f : Pkg → Pkg) : (s.updPkg p f).draw = s.draw := rfl
/-- A change of an operator or of a region leaves the die's memory and registers, and every core, alone. -/
@[simp] theorem updOp_hbm (s : State) (l opid : Nat) (f : Op → Op) : ((s.updOp l opid f).ld l).hbm = (s.ld l).hbm := by simp [State.updOp]
@[simp] theorem updOp_regs (s : State) (l opid : Nat) (f : Op → Op) : ((s.updOp l opid f).ld l).regs = (s.ld l).regs := by simp [State.updOp]
@[simp] theorem updOp_core (s : State) (l opid k : Nat) (f : Op → Op) : (s.updOp l opid f).core l k = s.core l k := by
  simp [State.updOp, State.core, Ld.core]
@[simp] theorem updRegion_hbm (s : State) (l r : Nat) (f : Region → Region) : ((s.updRegion l r f).ld l).hbm = (s.ld l).hbm := by simp [State.updRegion]
@[simp] theorem updRegion_regs (s : State) (l r : Nat) (f : Region → Region) : ((s.updRegion l r f).ld l).regs = (s.ld l).regs := by simp [State.updRegion]
@[simp] theorem updRegion_core (s : State) (l r k : Nat) (f : Region → Region) : (s.updRegion l r f).core l k = s.core l k := by
  simp [State.updRegion, State.core, Ld.core]

/-! The current context -/

@[simp] theorem me_updMe (s : State) (f : Ctx → Ctx) : (s.updMe f).me = f s.me := by simp [State.me, State.updMe]
/-- Two changes of one unit are one change. -/
theorem updLd_updLd (s : State) (l : Nat) (f g : Ld → Ld) : (s.updLd l f).updLd l g = s.updLd l fun x => g (f x) := by
  simp [State.updLd, State.putLd, State.ld]
theorem ldUpdCore_updCore (x : Ld) (k : Nat) (f g : Core → Core) : (x.updCore k f).updCore k g = x.updCore k fun y => g (f y) := by
  simp [Ld.updCore, Ld.core]
theorem coreUpdCtx_updCtx (x : Core) (c : Nat) (f g : Ctx → Ctx) : (x.updCtx c f).updCtx c g = x.updCtx c fun y => g (f y) := by
  simp [Core.updCtx, Core.ctx]
theorem updCore_updCore (s : State) (l k : Nat) (f g : Core → Core) : (s.updCore l k f).updCore l k g = s.updCore l k fun y => g (f y) := by
  simp [State.updCore, updLd_updLd, ldUpdCore_updCore]
theorem updCtx_updCtx (s : State) (l k c : Nat) (f g : Ctx → Ctx) : (s.updCtx l k c f).updCtx l k c g = s.updCtx l k c fun y => g (f y) := by
  simp [State.updCtx, updCore_updCore, coreUpdCtx_updCtx]
theorem updMe_updMe (s : State) (f g : Ctx → Ctx) : (s.updMe f).updMe g = s.updMe fun y => g (f y) := by
  simp [State.updMe, updCtx_updCtx]
/-- A change of the current context depends on what it makes of the context as it stands. -/
theorem updMe_congr (s : State) (f g : Ctx → Ctx) (h : f s.me = g s.me) : s.updMe f = s.updMe g := by
  have h' : f (((s.ld s.cur.l).core s.cur.k).ctx s.cur.c) = g (((s.ld s.cur.l).core s.cur.k).ctx s.cur.c) := h
  simp [State.updMe, State.updCtx, State.updCore, State.updLd, Ld.updCore, Core.updCtx, h']
@[simp] theorem updMe_cur (s : State) (f : Ctx → Ctx) : (s.updMe f).cur = s.cur := rfl
@[simp] theorem updMe_host (s : State) (f : Ctx → Ctx) : (s.updMe f).host = s.host := rfl
@[simp] theorem updMe_ticks (s : State) (f : Ctx → Ctx) : (s.updMe f).ticks = s.ticks := rfl
@[simp] theorem updMe_draw (s : State) (f : Ctx → Ctx) : (s.updMe f).draw = s.draw := rfl

/-! Operations -/

@[simp] theorem getMe_run (s : State) : getMe s = .ok (s.me, s) := rfl
@[simp] theorem getS_run (s : State) : getS s = .ok (s, s) := rfl
@[simp] theorem getCore_run (s : State) : getCore s = .ok (s.core s.cur.l s.cur.k, s) := rfl
@[simp] theorem getLd_run (s : State) : getLd s = .ok (s.ld s.cur.l, s) := rfl
@[simp] theorem updMe_run (s : State) (f : Ctx → Ctx) : updMe f s = .ok ((), s.updMe f) := rfl
@[simp] theorem updCore_run (s : State) (f : Core → Core) : updCore f s = .ok ((), s.updCore s.cur.l s.cur.k f) := rfl
@[simp] theorem updLd_run (s : State) (f : Ld → Ld) : updLd f s = .ok ((), s.updLd s.cur.l f) := rfl
@[simp] theorem updS_run (s : State) (f : State → State) : updS f s = .ok ((), f s) := rfl
@[simp] theorem fresh_run (s : State) : fresh s = .ok (s.draw, { s with draw := s.draw + 1 }) := rfl
@[simp] theorem need_true (s : State) : need true s = .ok ((), s) := rfl
@[simp] theorem need_false (s : State) : need false s = .error .idle := rfl
@[simp] theorem check_true (slot cause addr : Nat) (s : State) : check true slot cause addr s = .ok ((), s) := rfl

/-- One operation after another: the second runs from what the first leaves. -/
theorem M_bind {α β : Type} (m : M α) (f : α → M β) (s : State) :
    (m >>= f) s = match m s with | .ok (a, t) => f a t | .error e => .error e := by
  show (StateT.bind m f) s = _
  unfold StateT.bind
  simp only [bind, Except.bind]
  cases m s <;> rfl
theorem M_map {α β : Type} (f : α → β) (m : M α) (s : State) :
    (f <$> m) s = match m s with | .ok (a, t) => .ok (f a, t) | .error e => .error e := by
  show (StateT.map f m) s = _
  unfold StateT.map
  simp only [bind, Except.bind, pure, Except.pure]
  cases m s <;> rfl
@[simp] theorem M_pure {α : Type} (a : α) (s : State) : (pure a : M α) s = .ok (a, s) := rfl

/-- An event answers a next state at every unit that exists. -/
theorem runEv_next (m : M Unit) (s : State) : ∃ t, runEv true m s = .next t := by
  unfold runEv
  cases m s with
  | ok p => exact ⟨p.2, by simp⟩
  | error e => exact ⟨s, by simp⟩

/-! Every other field, update by update -/

@[simp] theorem ldUpdCore_cache (x : Ld) (k : Nat) (f : Core → Core) : (x.updCore k f).cache = x.cache := rfl
@[simp] theorem ldUpdCore_cacheAt (x : Ld) (k : Nat) (f : Core → Core) : (x.updCore k f).cacheAt = x.cacheAt := rfl
@[simp] theorem ldUpdCore_units (x : Ld) (k : Nat) (f : Core → Core) : (x.updCore k f).units = x.units := rfl
@[simp] theorem ldUpdCore_epochs (x : Ld) (k : Nat) (f : Core → Core) : (x.updCore k f).epochs = x.epochs := rfl
@[simp] theorem ldUpdCore_l2 (x : Ld) (k : Nat) (f : Core → Core) : (x.updCore k f).l2 = x.l2 := rfl
@[simp] theorem ldUpdCore_psc (x : Ld) (k : Nat) (f : Core → Core) : (x.updCore k f).psc = x.psc := rfl
@[simp] theorem ldUpdCore_missQ (x : Ld) (k : Nat) (f : Core → Core) : (x.updCore k f).missQ = x.missQ := rfl
@[simp] theorem ldUpdCore_walks (x : Ld) (k : Nat) (f : Core → Core) : (x.updCore k f).walks = x.walks := rfl
@[simp] theorem ldUpdCore_inval (x : Ld) (k : Nat) (f : Core → Core) : (x.updCore k f).inval = x.inval := rfl
@[simp] theorem ldUpdCore_commit (x : Ld) (k : Nat) (f : Core → Core) : (x.updCore k f).commit = x.commit := rfl
@[simp] theorem ldUpdCore_commitAt (x : Ld) (k : Nat) (f : Core → Core) : (x.updCore k f).commitAt = x.commitAt := rfl
@[simp] theorem ldUpdCore_homeQ (x : Ld) (k : Nat) (f : Core → Core) : (x.updCore k f).homeQ = x.homeQ := rfl
@[simp] theorem ldUpdCore_belfry (x : Ld) (k : Nat) (f : Core → Core) : (x.updCore k f).belfry = x.belfry := rfl
@[simp] theorem ldUpdCore_tokIn (x : Ld) (k : Nat) (f : Core → Core) : (x.updCore k f).tokIn = x.tokIn := rfl
@[simp] theorem ldUpdCore_tokWait (x : Ld) (k : Nat) (f : Core → Core) : (x.updCore k f).tokWait = x.tokWait := rfl
@[simp] theorem ldUpdCore_tokBack (x : Ld) (k : Nat) (f : Core → Core) : (x.updCore k f).tokBack = x.tokBack := rfl
@[simp] theorem ldUpdCore_landing (x : Ld) (k : Nat) (f : Core → Core) : (x.updCore k f).landing = x.landing := rfl
@[simp] theorem ldUpdCore_acksDue (x : Ld) (k : Nat) (f : Core → Core) : (x.updCore k f).acksDue = x.acksDue := rfl
@[simp] theorem ldUpdCore_regions (x : Ld) (k : Nat) (f : Core → Core) : (x.updCore k f).regions = x.regions := rfl
@[simp] theorem ldUpdCore_ops (x : Ld) (k : Nat) (f : Core → Core) : (x.updCore k f).ops = x.ops := rfl
@[simp] theorem ldUpdCore_saved (x : Ld) (k : Nat) (f : Core → Core) : (x.updCore k f).saved = x.saved := rfl
@[simp] theorem ldUpdCore_wqEn (x : Ld) (k : Nat) (f : Core → Core) : (x.updCore k f).wqEn = x.wqEn := rfl
@[simp] theorem ldUpdCore_wqDesc (x : Ld) (k : Nat) (f : Core → Core) : (x.updCore k f).wqDesc = x.wqDesc := rfl
@[simp] theorem ldUpdCore_wqWork (x : Ld) (k : Nat) (f : Core → Core) : (x.updCore k f).wqWork = x.wqWork := rfl
@[simp] theorem ldUpdCore_faultQ (x : Ld) (k : Nat) (f : Core → Core) : (x.updCore k f).faultQ = x.faultQ := rfl
@[simp] theorem ldUpdCore_crecs (x : Ld) (k : Nat) (f : Core → Core) : (x.updCore k f).crecs = x.crecs := rfl
@[simp] theorem ldUpdCore_bells (x : Ld) (k : Nat) (f : Core → Core) : (x.updCore k f).bells = x.bells := rfl
@[simp] theorem ldUpdCore_pausedRecs (x : Ld) (k : Nat) (f : Core → Core) : (x.updCore k f).pausedRecs = x.pausedRecs := rfl
@[simp] theorem ldUpdCore_errs (x : Ld) (k : Nat) (f : Core → Core) : (x.updCore k f).errs = x.errs := rfl
@[simp] theorem ldUpdCore_msix (x : Ld) (k : Nat) (f : Core → Core) : (x.updCore k f).msix = x.msix := rfl
@[simp] theorem ldUpdCore_msixPend (x : Ld) (k : Nat) (f : Core → Core) : (x.updCore k f).msixPend = x.msixPend := rfl
@[simp] theorem ldUpdCore_msixSent (x : Ld) (k : Nat) (f : Core → Core) : (x.updCore k f).msixSent = x.msixSent := rfl
@[simp] theorem ldUpdCore_stage (x : Ld) (k : Nat) (f : Core → Core) : (x.updCore k f).stage = x.stage := rfl
@[simp] theorem ldUpdCore_failed (x : Ld) (k : Nat) (f : Core → Core) : (x.updCore k f).failed = x.failed := rfl
@[simp] theorem ldUpdCore_out (x : Ld) (k : Nat) (f : Core → Core) : (x.updCore k f).out = x.out := rfl
@[simp] theorem ldUpdCore_host (x : Ld) (k : Nat) (f : Core → Core) : (x.updCore k f).host = x.host := rfl
@[simp] theorem ldUpdCore_hostHeld (x : Ld) (k : Nat) (f : Core → Core) : (x.updCore k f).hostHeld = x.hostHeld := rfl
@[simp] theorem ldUpdCore_snooped (x : Ld) (k : Nat) (f : Core → Core) : (x.updCore k f).snooped = x.snooped := rfl
@[simp] theorem ldUpdCore_viral (x : Ld) (k : Nat) (f : Core → Core) : (x.updCore k f).viral = x.viral := rfl
@[simp] theorem ldUpdCore_nextSid (x : Ld) (k : Nat) (f : Core → Core) : (x.updCore k f).nextSid = x.nextSid := rfl
@[simp] theorem ldUpdCore_nextCmd (x : Ld) (k : Nat) (f : Core → Core) : (x.updCore k f).nextCmd = x.nextCmd := rfl
@[simp] theorem ldUpdCore_peerAns (x : Ld) (k : Nat) (f : Core → Core) : (x.updCore k f).peerAns = x.peerAns := rfl
@[simp] theorem ldUpdCore_lastRead (x : Ld) (k : Nat) (f : Core → Core) : (x.updCore k f).lastRead = x.lastRead := rfl
@[simp] theorem ldUpdCore_lastBad (x : Ld) (k : Nat) (f : Core → Core) : (x.updCore k f).lastBad = x.lastBad := rfl

@[simp] theorem coreUpdCtx_spadPoison (x : Core) (c : Nat) (f : Ctx → Ctx) : (x.updCtx c f).spadPoison = x.spadPoison := rfl
@[simp] theorem coreUpdCtx_cbOwner (x : Core) (c : Nat) (f : Ctx → Ctx) : (x.updCtx c f).cbOwner = x.cbOwner := rfl
@[simp] theorem coreUpdCtx_trim (x : Core) (c : Nat) (f : Ctx → Ctx) : (x.updCtx c f).trim = x.trim := rfl
@[simp] theorem coreUpdCtx_strim (x : Core) (c : Nat) (f : Ctx → Ctx) : (x.updCtx c f).strim = x.strim := rfl
@[simp] theorem coreUpdCtx_smap (x : Core) (c : Nat) (f : Ctx → Ctx) : (x.updCtx c f).smap = x.smap := rfl
@[simp] theorem coreUpdCtx_calctl (x : Core) (c : Nat) (f : Ctx → Ctx) : (x.updCtx c f).calctl = x.calctl := rfl
@[simp] theorem coreUpdCtx_calstat (x : Core) (c : Nat) (f : Ctx → Ctx) : (x.updCtx c f).calstat = x.calstat := rfl
@[simp] theorem coreUpdCtx_passes (x : Core) (c : Nat) (f : Ctx → Ctx) : (x.updCtx c f).passes = x.passes := rfl
@[simp] theorem coreUpdCtx_reraces (x : Core) (c : Nat) (f : Ctx → Ctx) : (x.updCtx c f).reraces = x.reraces := rfl
@[simp] theorem coreUpdCtx_margins (x : Core) (c : Nat) (f : Ctx → Ctx) : (x.updCtx c f).margins = x.margins := rfl
@[simp] theorem coreUpdCtx_cals (x : Core) (c : Nat) (f : Ctx → Ctx) : (x.updCtx c f).cals = x.cals := rfl
@[simp] theorem coreUpdCtx_caltime (x : Core) (c : Nat) (f : Ctx → Ctx) : (x.updCtx c f).caltime = x.caltime := rfl
@[simp] theorem coreUpdCtx_caltemp (x : Core) (c : Nat) (f : Ctx → Ctx) : (x.updCtx c f).caltemp = x.caltemp := rfl
@[simp] theorem coreUpdCtx_satcols (x : Core) (c : Nat) (f : Ctx → Ctx) : (x.updCtx c f).satcols = x.satcols := rfl
@[simp] theorem coreUpdCtx_temp (x : Core) (c : Nat) (f : Ctx → Ctx) : (x.updCtx c f).temp = x.temp := rfl
@[simp] theorem coreUpdCtx_ports (x : Core) (c : Nat) (f : Ctx → Ctx) : (x.updCtx c f).ports = x.ports := rfl
@[simp] theorem coreUpdCtx_allocs (x : Core) (c : Nat) (f : Ctx → Ctx) : (x.updCtx c f).allocs = x.allocs := rfl
@[simp] theorem coreUpdCtx_nbrQ (x : Core) (c : Nat) (f : Ctx → Ctx) : (x.updCtx c f).nbrQ = x.nbrQ := rfl
@[simp] theorem coreUpdCtx_l1 (x : Core) (c : Nat) (f : Ctx → Ctx) : (x.updCtx c f).l1 = x.l1 := rfl
@[simp] theorem coreUpdCtx_misses (x : Core) (c : Nat) (f : Ctx → Ctx) : (x.updCtx c f).misses = x.misses := rfl
@[simp] theorem coreUpdCtx_clk (x : Core) (c : Nat) (f : Ctx → Ctx) : (x.updCtx c f).clk = x.clk := rfl
@[simp] theorem coreUpdCtx_active (x : Core) (c : Nat) (f : Ctx → Ctx) : (x.updCtx c f).active = x.active := rfl
@[simp] theorem coreUpdCtx_switching (x : Core) (c : Nat) (f : Ctx → Ctx) : (x.updCtx c f).switching = x.switching := rfl
@[simp] theorem coreUpdCtx_freeze (x : Core) (c : Nat) (f : Ctx → Ctx) : (x.updCtx c f).freeze = x.freeze := rfl
@[simp] theorem coreUpdCtx_rerace (x : Core) (c : Nat) (f : Ctx → Ctx) : (x.updCtx c f).rerace = x.rerace := rfl
@[simp] theorem coreUpdCtx_renorm (x : Core) (c : Nat) (f : Ctx → Ctx) : (x.updCtx c f).renorm = x.renorm := rfl
@[simp] theorem coreUpdCtx_calReq (x : Core) (c : Nat) (f : Ctx → Ctx) : (x.updCtx c f).calReq = x.calReq := rfl
@[simp] theorem coreUpdCtx_calDue (x : Core) (c : Nat) (f : Ctx → Ctx) : (x.updCtx c f).calDue = x.calDue := rfl
@[simp] theorem coreUpdCtx_calAt (x : Core) (c : Nat) (f : Ctx → Ctx) : (x.updCtx c f).calAt = x.calAt := rfl
@[simp] theorem coreUpdCtx_calRun (x : Core) (c : Nat) (f : Ctx → Ctx) : (x.updCtx c f).calRun = x.calRun := rfl
@[simp] theorem coreUpdCtx_yieldReq (x : Core) (c : Nat) (f : Ctx → Ctx) : (x.updCtx c f).yieldReq = x.yieldReq := rfl
@[simp] theorem coreUpdCtx_filler (x : Core) (c : Nat) (f : Ctx → Ctx) : (x.updCtx c f).filler = x.filler := rfl
@[simp] theorem coreUpdCtx_issuing (x : Core) (c : Nat) (f : Ctx → Ctx) : (x.updCtx c f).issuing = x.issuing := rfl
@[simp] theorem coreUpdCtx_eccHold (x : Core) (c : Nat) (f : Ctx → Ctx) : (x.updCtx c f).eccHold = x.eccHold := rfl

@[simp] theorem updCore_pkgs (s : State) (l k : Nat) (f : Core → Core) : (s.updCore l k f).pkgs = s.pkgs := rfl
@[simp] theorem updCore_spdm (s : State) (l k : Nat) (f : Core → Core) : (s.updCore l k f).spdm = s.spdm := rfl
@[simp] theorem updCore_agenda (s : State) (l k : Nat) (f : Core → Core) : (s.updCore l k f).agenda = s.agenda := rfl
@[simp] theorem updCore_turn (s : State) (l k : Nat) (f : Core → Core) : (s.updCore l k f).turn = s.turn := rfl

@[simp] theorem updCtx_pkgs (s : State) (l k c : Nat) (f : Ctx → Ctx) : (s.updCtx l k c f).pkgs = s.pkgs := rfl
@[simp] theorem updCtx_spdm (s : State) (l k c : Nat) (f : Ctx → Ctx) : (s.updCtx l k c f).spdm = s.spdm := rfl
@[simp] theorem updCtx_agenda (s : State) (l k c : Nat) (f : Ctx → Ctx) : (s.updCtx l k c f).agenda = s.agenda := rfl
@[simp] theorem updCtx_turn (s : State) (l k c : Nat) (f : Ctx → Ctx) : (s.updCtx l k c f).turn = s.turn := rfl

@[simp] theorem updMe_pkgs (s : State) (f : Ctx → Ctx) : (s.updMe f).pkgs = s.pkgs := rfl
@[simp] theorem updMe_spdm (s : State) (f : Ctx → Ctx) : (s.updMe f).spdm = s.spdm := rfl
@[simp] theorem updMe_agenda (s : State) (f : Ctx → Ctx) : (s.updMe f).agenda = s.agenda := rfl
@[simp] theorem updMe_turn (s : State) (f : Ctx → Ctx) : (s.updMe f).turn = s.turn := rfl

@[simp] theorem updPkg_lds (s : State) (p : Nat) (f : Pkg → Pkg) : (s.updPkg p f).lds = s.lds := rfl
@[simp] theorem updPkg_spdm (s : State) (p : Nat) (f : Pkg → Pkg) : (s.updPkg p f).spdm = s.spdm := rfl
@[simp] theorem updPkg_agenda (s : State) (p : Nat) (f : Pkg → Pkg) : (s.updPkg p f).agenda = s.agenda := rfl
@[simp] theorem updPkg_turn (s : State) (p : Nat) (f : Pkg → Pkg) : (s.updPkg p f).turn = s.turn := rfl

@[simp] theorem updOp_pkgs (s : State) (l opid : Nat) (f : Op → Op) : (s.updOp l opid f).pkgs = s.pkgs := rfl
@[simp] theorem updOp_host (s : State) (l opid : Nat) (f : Op → Op) : (s.updOp l opid f).host = s.host := rfl
@[simp] theorem updOp_ticks (s : State) (l opid : Nat) (f : Op → Op) : (s.updOp l opid f).ticks = s.ticks := rfl
@[simp] theorem updOp_spdm (s : State) (l opid : Nat) (f : Op → Op) : (s.updOp l opid f).spdm = s.spdm := rfl
@[simp] theorem updOp_agenda (s : State) (l opid : Nat) (f : Op → Op) : (s.updOp l opid f).agenda = s.agenda := rfl
@[simp] theorem updOp_turn (s : State) (l opid : Nat) (f : Op → Op) : (s.updOp l opid f).turn = s.turn := rfl
@[simp] theorem updOp_cur (s : State) (l opid : Nat) (f : Op → Op) : (s.updOp l opid f).cur = s.cur := rfl
@[simp] theorem updOp_draw (s : State) (l opid : Nat) (f : Op → Op) : (s.updOp l opid f).draw = s.draw := rfl

@[simp] theorem updRegion_pkgs (s : State) (l r : Nat) (f : Region → Region) : (s.updRegion l r f).pkgs = s.pkgs := rfl
@[simp] theorem updRegion_host (s : State) (l r : Nat) (f : Region → Region) : (s.updRegion l r f).host = s.host := rfl
@[simp] theorem updRegion_ticks (s : State) (l r : Nat) (f : Region → Region) : (s.updRegion l r f).ticks = s.ticks := rfl
@[simp] theorem updRegion_spdm (s : State) (l r : Nat) (f : Region → Region) : (s.updRegion l r f).spdm = s.spdm := rfl
@[simp] theorem updRegion_agenda (s : State) (l r : Nat) (f : Region → Region) : (s.updRegion l r f).agenda = s.agenda := rfl
@[simp] theorem updRegion_turn (s : State) (l r : Nat) (f : Region → Region) : (s.updRegion l r f).turn = s.turn := rfl
@[simp] theorem updRegion_cur (s : State) (l r : Nat) (f : Region → Region) : (s.updRegion l r f).cur = s.cur := rfl
@[simp] theorem updRegion_draw (s : State) (l r : Nat) (f : Region → Region) : (s.updRegion l r f).draw = s.draw := rfl

end Sys2Proof.Machine
end

