-- ==== Sys2Proof/Laws/Operands.lean ====
section
/-! SUPPORT. What the shared operand operations answer: ready registers are read and nothing changes, a result is put on its way, a slot
word that succeeds answers its state. -/

namespace Sys2Proof.Machine

theorem useReg_ok (slot detail index : Nat) (r : Reg) (s : State) (hv : r.valid = true) (hp : r.poison = false) :
    useReg slot detail index r s = .ok (r.val, s) := by simp [useReg, hv, hp]

/-- A ready scalar source is read. -/
theorem readScalar_ok (slot : Nat) (c : BitVec 5) (s : State) (r : Reg)
    (hr : (if c.toNat < 16 then s.me.regs.b.getD c.toNat {} else s.me.regs.k.getD (c.toNat - 16) {}) = r)
    (hv : r.valid = true) (hp : r.poison = false) : readScalar slot c s = .ok (r.val, s) := by
  subst hr
  simp only [readScalar, M_bind, getMe_run]
  split <;> rename_i h <;> simp only [h, if_true, if_false] at hv hp ⊢ <;> exact useReg_ok _ _ _ _ s hv hp

/-- A ready vector source is read. -/
theorem readVector_ok (slot : Nat) (c : BitVec 4) (s : State) (r : VReg)
    (hr : (if c.toNat < 8 then s.me.regs.v.getD c.toNat {} else s.me.regs.w.getD (c.toNat - 8) {}) = r)
    (hv : r.valid = true) (hp : r.poison = false) : readVector slot c s = .ok (r, s) := by
  simp only [readVector, M_bind, getMe_run, hr, hv, hp]
  rfl

theorem sendResult_run (slot lat : Nat) (dest : Dest) (pay : Payload) (fl : Nat) (s : State) :
    sendResult slot lat dest pay fl s = .ok ((), s.updMe fun x =>
      { x with st.flight := x.st.flight ++ [{ land := x.st.cc + lat, slot := slot, seq := x.st.cc, dest := dest, pay := pay, flags := BitVec.ofNat 7 fl }] }) := rfl

/-- An entry of the scalar data queue is reserved while there is room (R249). -/
theorem reserveScalar_ok (slot : Nat) (s : State) (h : s.me.st.sq.length < 32) :
    reserveScalar slot s = .ok (s.me.st.nextId, s.updMe fun x => { x with st.sq := x.st.sq ++ [{ id := x.st.nextId }], st.nextId := x.st.nextId + 1 }) := by
  simp [reserveScalar, M_bind, M_map, Nat.not_le.mpr h]

@[simp] theorem runSlot_ok (m : M Unit) (s t : State) (h : m s = .ok ((), t)) : runSlot m s = .next t := by simp [runSlot, h]
theorem runSlot_trap (m : M Unit) (s : State) (t : TrapInfo) (h : m s = .error (.trap t)) : runSlot m s = .next (takeMine t s) := by simp [runSlot, h]

/-- A slot word issued alone always answers a next state: its effect, its trap taken, or its wait noted. -/
theorem runSlot_next (m : M Unit) (s : State) : ∃ t, runSlot m s = .next t := by
  unfold runSlot
  split <;> exact ⟨_, rfl⟩

end Sys2Proof.Machine
end

