-- ==== Sys2Proof/Laws/Units.lean ====
section
/-! SUPPORT. Reading a parish, a port, a pass, a comb operation, a bank or a command after a change of one of them: what was changed, and
that nothing else was. -/

namespace Sys2Proof.Machine

@[simp] theorem parish_updParish_same (s : State) (l p : Nat) (f : Parish → Parish) : (s.updParish l p f).parish l p = f (s.parish l p) := by
  simp [State.parish, State.updParish, Ld.parish]
theorem parish_updParish_other (s : State) (l p q : Nat) (f : Parish → Parish) (h : q ≠ p) : (s.updParish l p f).parish l q = s.parish l q := by
  simp [State.parish, State.updParish, Ld.parish, mgetD_mput_other _ _ _ _ _ h]
@[simp] theorem updParish_hbm (s : State) (l p : Nat) (f : Parish → Parish) : ((s.updParish l p f).ld l).hbm = (s.ld l).hbm := by simp [State.updParish]
@[simp] theorem updParish_regs (s : State) (l p : Nat) (f : Parish → Parish) : ((s.updParish l p f).ld l).regs = (s.ld l).regs := by simp [State.updParish]
@[simp] theorem updParish_core (s : State) (l p k : Nat) (f : Parish → Parish) : (s.updParish l p f).core l k = s.core l k := by
  simp [State.updParish, State.core, Ld.core]
theorem port_updPort_same (s : State) (p n : Nat) (f : Port → Port) (h : n < (s.pkg p).ports.length) :
    (s.updPort p n f).port p n = f (s.port p n) := by
  simp [State.port, State.updPort, Pkg.updPort, List.getD_eq_getElem?_getD, h]
theorem port_updPort_other (s : State) (p n m : Nat) (f : Port → Port) (h : m ≠ n) : (s.updPort p n f).port p m = s.port p m := by
  simp [State.port, State.updPort, Pkg.updPort, List.getD_eq_getElem?_getD, Ne.symm h]
@[simp] theorem updCmd_spad (s : State) (l k id : Nat) (f : Cmd → Cmd) : ((s.updCmd l k id f).core l k).spad = (s.core l k).spad := by simp [State.updCmd]
@[simp] theorem updCmd_ctxs (s : State) (l k id : Nat) (f : Cmd → Cmd) : ((s.updCmd l k id f).core l k).ctxs = (s.core l k).ctxs := by simp [State.updCmd]

/-! Changes of a parish, a command, a port, a link, a pass, a comb operation and a bank -/

@[simp] theorem updParish_pkgs (s : State) (l p : Nat) (f : Parish → Parish) : (s.updParish l p f).pkgs = s.pkgs := rfl
@[simp] theorem updParish_host (s : State) (l p : Nat) (f : Parish → Parish) : (s.updParish l p f).host = s.host := rfl
@[simp] theorem updParish_ticks (s : State) (l p : Nat) (f : Parish → Parish) : (s.updParish l p f).ticks = s.ticks := rfl
@[simp] theorem updParish_spdm (s : State) (l p : Nat) (f : Parish → Parish) : (s.updParish l p f).spdm = s.spdm := rfl
@[simp] theorem updParish_agenda (s : State) (l p : Nat) (f : Parish → Parish) : (s.updParish l p f).agenda = s.agenda := rfl
@[simp] theorem updParish_turn (s : State) (l p : Nat) (f : Parish → Parish) : (s.updParish l p f).turn = s.turn := rfl
@[simp] theorem updParish_cur (s : State) (l p : Nat) (f : Parish → Parish) : (s.updParish l p f).cur = s.cur := rfl
@[simp] theorem updParish_draw (s : State) (l p : Nat) (f : Parish → Parish) : (s.updParish l p f).draw = s.draw := rfl

@[simp] theorem updCmd_pkgs (s : State) (l k id : Nat) (f : Cmd → Cmd) : (s.updCmd l k id f).pkgs = s.pkgs := rfl
@[simp] theorem updCmd_host (s : State) (l k id : Nat) (f : Cmd → Cmd) : (s.updCmd l k id f).host = s.host := rfl
@[simp] theorem updCmd_ticks (s : State) (l k id : Nat) (f : Cmd → Cmd) : (s.updCmd l k id f).ticks = s.ticks := rfl
@[simp] theorem updCmd_spdm (s : State) (l k id : Nat) (f : Cmd → Cmd) : (s.updCmd l k id f).spdm = s.spdm := rfl
@[simp] theorem updCmd_agenda (s : State) (l k id : Nat) (f : Cmd → Cmd) : (s.updCmd l k id f).agenda = s.agenda := rfl
@[simp] theorem updCmd_turn (s : State) (l k id : Nat) (f : Cmd → Cmd) : (s.updCmd l k id f).turn = s.turn := rfl
@[simp] theorem updCmd_cur (s : State) (l k id : Nat) (f : Cmd → Cmd) : (s.updCmd l k id f).cur = s.cur := rfl
@[simp] theorem updCmd_draw (s : State) (l k id : Nat) (f : Cmd → Cmd) : (s.updCmd l k id f).draw = s.draw := rfl

@[simp] theorem updPort_lds (s : State) (p n : Nat) (f : Port → Port) : (s.updPort p n f).lds = s.lds := rfl
@[simp] theorem updPort_host (s : State) (p n : Nat) (f : Port → Port) : (s.updPort p n f).host = s.host := rfl
@[simp] theorem updPort_ticks (s : State) (p n : Nat) (f : Port → Port) : (s.updPort p n f).ticks = s.ticks := rfl
@[simp] theorem updPort_spdm (s : State) (p n : Nat) (f : Port → Port) : (s.updPort p n f).spdm = s.spdm := rfl
@[simp] theorem updPort_agenda (s : State) (p n : Nat) (f : Port → Port) : (s.updPort p n f).agenda = s.agenda := rfl
@[simp] theorem updPort_turn (s : State) (p n : Nat) (f : Port → Port) : (s.updPort p n f).turn = s.turn := rfl
@[simp] theorem updPort_cur (s : State) (p n : Nat) (f : Port → Port) : (s.updPort p n f).cur = s.cur := rfl
@[simp] theorem updPort_draw (s : State) (p n : Nat) (f : Port → Port) : (s.updPort p n f).draw = s.draw := rfl

@[simp] theorem pkgUpdPort_links (g : Pkg) (n : Nat) (f : Port → Port) : (g.updPort n f).links = g.links := rfl
@[simp] theorem pkgUpdPort_waits (g : Pkg) (n : Nat) (f : Port → Port) : (g.updPort n f).waits = g.waits := rfl
@[simp] theorem pkgUpdPort_staged (g : Pkg) (n : Nat) (f : Port → Port) : (g.updPort n f).staged = g.staged := rfl
@[simp] theorem pkgUpdPort_table (g : Pkg) (n : Nat) (f : Port → Port) : (g.updPort n f).table = g.table := rfl
@[simp] theorem pkgUpdPort_prcmt (g : Pkg) (n : Nat) (f : Port → Port) : (g.updPort n f).prcmt = g.prcmt := rfl
@[simp] theorem pkgUpdPort_prst (g : Pkg) (n : Nat) (f : Port → Port) : (g.updPort n f).prst = g.prst := rfl
@[simp] theorem pkgUpdPort_prRun (g : Pkg) (n : Nat) (f : Port → Port) : (g.updPort n f).prRun = g.prRun := rfl
@[simp] theorem pkgUpdPort_pwcap (g : Pkg) (n : Nat) (f : Port → Port) : (g.updPort n f).pwcap = g.pwcap := rfl
@[simp] theorem pkgUpdPort_rampup (g : Pkg) (n : Nat) (f : Port → Port) : (g.updPort n f).rampup = g.rampup := rfl
@[simp] theorem pkgUpdPort_rampdn (g : Pkg) (n : Nat) (f : Port → Port) : (g.updPort n f).rampdn = g.rampdn := rfl
@[simp] theorem pkgUpdPort_floor (g : Pkg) (n : Nat) (f : Port → Port) : (g.updPort n f).floor = g.floor := rfl
@[simp] theorem pkgUpdPort_flhold (g : Pkg) (n : Nat) (f : Port → Port) : (g.updPort n f).flhold = g.flhold := rfl
@[simp] theorem pkgUpdPort_stagoff (g : Pkg) (n : Nat) (f : Port → Port) : (g.updPort n f).stagoff = g.stagoff := rfl
@[simp] theorem pkgUpdPort_pwnow (g : Pkg) (n : Nat) (f : Port → Port) : (g.updPort n f).pwnow = g.pwnow := rfl
@[simp] theorem pkgUpdPort_envelope (g : Pkg) (n : Nat) (f : Port → Port) : (g.updPort n f).envelope = g.envelope := rfl
@[simp] theorem pkgUpdPort_holding (g : Pkg) (n : Nat) (f : Port → Port) : (g.updPort n f).holding = g.holding := rfl
@[simp] theorem pkgUpdPort_fillers (g : Pkg) (n : Nat) (f : Port → Port) : (g.updPort n f).fillers = g.fillers := rfl
@[simp] theorem pkgUpdPort_idleAt (g : Pkg) (n : Nat) (f : Port → Port) : (g.updPort n f).idleAt = g.idleAt := rfl
@[simp] theorem pkgUpdPort_floorAt (g : Pkg) (n : Nat) (f : Port → Port) : (g.updPort n f).floorAt = g.floorAt := rfl
@[simp] theorem pkgUpdPort_floorDone (g : Pkg) (n : Nat) (f : Port → Port) : (g.updPort n f).floorDone = g.floorDone := rfl
@[simp] theorem pkgUpdPort_quiet (g : Pkg) (n : Nat) (f : Port → Port) : (g.updPort n f).quiet = g.quiet := rfl
@[simp] theorem pkgUpdPort_stagAt (g : Pkg) (n : Nat) (f : Port → Port) : (g.updPort n f).stagAt = g.stagAt := rfl
@[simp] theorem pkgUpdPort_fwOk (g : Pkg) (n : Nat) (f : Port → Port) : (g.updPort n f).fwOk = g.fwOk := rfl
@[simp] theorem pkgUpdPort_fwRefused (g : Pkg) (n : Nat) (f : Port → Port) : (g.updPort n f).fwRefused = g.fwRefused := rfl
@[simp] theorem pkgUpdPort_mailbox (g : Pkg) (n : Nat) (f : Port → Port) : (g.updPort n f).mailbox = g.mailbox := rfl

@[simp] theorem pkgUpdLink_ports (g : Pkg) (n : Nat) (f : Link → Link) : (g.updLink n f).ports = g.ports := rfl
@[simp] theorem pkgUpdLink_waits (g : Pkg) (n : Nat) (f : Link → Link) : (g.updLink n f).waits = g.waits := rfl
@[simp] theorem pkgUpdLink_staged (g : Pkg) (n : Nat) (f : Link → Link) : (g.updLink n f).staged = g.staged := rfl
@[simp] theorem pkgUpdLink_table (g : Pkg) (n : Nat) (f : Link → Link) : (g.updLink n f).table = g.table := rfl
@[simp] theorem pkgUpdLink_prcmt (g : Pkg) (n : Nat) (f : Link → Link) : (g.updLink n f).prcmt = g.prcmt := rfl
@[simp] theorem pkgUpdLink_prst (g : Pkg) (n : Nat) (f : Link → Link) : (g.updLink n f).prst = g.prst := rfl
@[simp] theorem pkgUpdLink_prRun (g : Pkg) (n : Nat) (f : Link → Link) : (g.updLink n f).prRun = g.prRun := rfl
@[simp] theorem pkgUpdLink_pwcap (g : Pkg) (n : Nat) (f : Link → Link) : (g.updLink n f).pwcap = g.pwcap := rfl
@[simp] theorem pkgUpdLink_rampup (g : Pkg) (n : Nat) (f : Link → Link) : (g.updLink n f).rampup = g.rampup := rfl
@[simp] theorem pkgUpdLink_rampdn (g : Pkg) (n : Nat) (f : Link → Link) : (g.updLink n f).rampdn = g.rampdn := rfl
@[simp] theorem pkgUpdLink_floor (g : Pkg) (n : Nat) (f : Link → Link) : (g.updLink n f).floor = g.floor := rfl
@[simp] theorem pkgUpdLink_flhold (g : Pkg) (n : Nat) (f : Link → Link) : (g.updLink n f).flhold = g.flhold := rfl
@[simp] theorem pkgUpdLink_stagoff (g : Pkg) (n : Nat) (f : Link → Link) : (g.updLink n f).stagoff = g.stagoff := rfl
@[simp] theorem pkgUpdLink_pwnow (g : Pkg) (n : Nat) (f : Link → Link) : (g.updLink n f).pwnow = g.pwnow := rfl
@[simp] theorem pkgUpdLink_envelope (g : Pkg) (n : Nat) (f : Link → Link) : (g.updLink n f).envelope = g.envelope := rfl
@[simp] theorem pkgUpdLink_holding (g : Pkg) (n : Nat) (f : Link → Link) : (g.updLink n f).holding = g.holding := rfl
@[simp] theorem pkgUpdLink_fillers (g : Pkg) (n : Nat) (f : Link → Link) : (g.updLink n f).fillers = g.fillers := rfl
@[simp] theorem pkgUpdLink_idleAt (g : Pkg) (n : Nat) (f : Link → Link) : (g.updLink n f).idleAt = g.idleAt := rfl
@[simp] theorem pkgUpdLink_floorAt (g : Pkg) (n : Nat) (f : Link → Link) : (g.updLink n f).floorAt = g.floorAt := rfl
@[simp] theorem pkgUpdLink_floorDone (g : Pkg) (n : Nat) (f : Link → Link) : (g.updLink n f).floorDone = g.floorDone := rfl
@[simp] theorem pkgUpdLink_quiet (g : Pkg) (n : Nat) (f : Link → Link) : (g.updLink n f).quiet = g.quiet := rfl
@[simp] theorem pkgUpdLink_stagAt (g : Pkg) (n : Nat) (f : Link → Link) : (g.updLink n f).stagAt = g.stagAt := rfl
@[simp] theorem pkgUpdLink_fwOk (g : Pkg) (n : Nat) (f : Link → Link) : (g.updLink n f).fwOk = g.fwOk := rfl
@[simp] theorem pkgUpdLink_fwRefused (g : Pkg) (n : Nat) (f : Link → Link) : (g.updLink n f).fwRefused = g.fwRefused := rfl
@[simp] theorem pkgUpdLink_mailbox (g : Pkg) (n : Nat) (f : Link → Link) : (g.updLink n f).mailbox = g.mailbox := rfl

@[simp] theorem updPass_live (x : Ctx) (seq : Nat) (f : Pass → Pass) : (x.updPass seq f).live = x.live := rfl
@[simp] theorem updPass_priv (x : Ctx) (seq : Nat) (f : Pass → Pass) : (x.updPass seq f).priv = x.priv := rfl
@[simp] theorem updPass_sid (x : Ctx) (seq : Nat) (f : Pass → Pass) : (x.updPass seq f).sid = x.sid := rfl
@[simp] theorem updPass_regs (x : Ctx) (seq : Nat) (f : Pass → Pass) : (x.updPass seq f).regs = x.regs := rfl
@[simp] theorem updPass_sys (x : Ctx) (seq : Nat) (f : Pass → Pass) : (x.updPass seq f).sys = x.sys := rfl
@[simp] theorem updPass_st (x : Ctx) (seq : Nat) (f : Pass → Pass) : (x.updPass seq f).st = x.st := rfl
@[simp] theorem updPass_combs (x : Ctx) (seq : Nat) (f : Pass → Pass) : (x.updPass seq f).combs = x.combs := rfl
@[simp] theorem updPass_loads (x : Ctx) (seq : Nat) (f : Pass → Pass) : (x.updPass seq f).loads = x.loads := rfl
@[simp] theorem updPass_rcals (x : Ctx) (seq : Nat) (f : Pass → Pass) : (x.updPass seq f).rcals = x.rcals := rfl
@[simp] theorem updPass_caps (x : Ctx) (seq : Nat) (f : Pass → Pass) : (x.updPass seq f).caps = x.caps := rfl
@[simp] theorem updPass_pending (x : Ctx) (seq : Nat) (f : Pass → Pass) : (x.updPass seq f).pending = x.pending := rfl
@[simp] theorem updPass_kept (x : Ctx) (seq : Nat) (f : Pass → Pass) : (x.updPass seq f).kept = x.kept := rfl
@[simp] theorem updPass_snap (x : Ctx) (seq : Nat) (f : Pass → Pass) : (x.updPass seq f).snap = x.snap := rfl
@[simp] theorem updPass_hostImg (x : Ctx) (seq : Nat) (f : Pass → Pass) : (x.updPass seq f).hostImg = x.hostImg := rfl
@[simp] theorem updPass_hostSnap (x : Ctx) (seq : Nat) (f : Pass → Pass) : (x.updPass seq f).hostSnap = x.hostSnap := rfl
@[simp] theorem updPass_own (x : Ctx) (seq : Nat) (f : Pass → Pass) : (x.updPass seq f).own = x.own := rfl
@[simp] theorem updPass_atoms (x : Ctx) (seq : Nat) (f : Pass → Pass) : (x.updPass seq f).atoms = x.atoms := rfl
@[simp] theorem updPass_stores (x : Ctx) (seq : Nat) (f : Pass → Pass) : (x.updPass seq f).stores = x.stores := rfl
@[simp] theorem updPass_acquires (x : Ctx) (seq : Nat) (f : Pass → Pass) : (x.updPass seq f).acquires = x.acquires := rfl
@[simp] theorem updPass_bies (x : Ctx) (seq : Nat) (f : Pass → Pass) : (x.updPass seq f).bies = x.bies := rfl
@[simp] theorem updPass_oldBies (x : Ctx) (seq : Nat) (f : Pass → Pass) : (x.updPass seq f).oldBies = x.oldBies := rfl
@[simp] theorem updPass_openBies (x : Ctx) (seq : Nat) (f : Pass → Pass) : (x.updPass seq f).openBies = x.openBies := rfl
@[simp] theorem updPass_pubReq (x : Ctx) (seq : Nat) (f : Pass → Pass) : (x.updPass seq f).pubReq = x.pubReq := rfl
@[simp] theorem updPass_pubDone (x : Ctx) (seq : Nat) (f : Pass → Pass) : (x.updPass seq f).pubDone = x.pubDone := rfl
@[simp] theorem updPass_fence (x : Ctx) (seq : Nat) (f : Pass → Pass) : (x.updPass seq f).fence = x.fence := rfl
@[simp] theorem updPass_xlAsk (x : Ctx) (seq : Nat) (f : Pass → Pass) : (x.updPass seq f).xlAsk = x.xlAsk := rfl
@[simp] theorem updPass_xlFault (x : Ctx) (seq : Nat) (f : Pass → Pass) : (x.updPass seq f).xlFault = x.xlFault := rfl
@[simp] theorem updPass_reads (x : Ctx) (seq : Nat) (f : Pass → Pass) : (x.updPass seq f).reads = x.reads := rfl
@[simp] theorem updPass_pages (x : Ctx) (seq : Nat) (f : Pass → Pass) : (x.updPass seq f).pages = x.pages := rfl
@[simp] theorem updPass_shWait (x : Ctx) (seq : Nat) (f : Pass → Pass) : (x.updPass seq f).shWait = x.shWait := rfl
@[simp] theorem updPass_claimWait (x : Ctx) (seq : Nat) (f : Pass → Pass) : (x.updPass seq f).claimWait = x.claimWait := rfl
@[simp] theorem updPass_retiring (x : Ctx) (seq : Nat) (f : Pass → Pass) : (x.updPass seq f).retiring = x.retiring := rfl
@[simp] theorem updPass_paused (x : Ctx) (seq : Nat) (f : Pass → Pass) : (x.updPass seq f).paused = x.paused := rfl
@[simp] theorem updPass_overrun (x : Ctx) (seq : Nat) (f : Pass → Pass) : (x.updPass seq f).overrun = x.overrun := rfl
@[simp] theorem updPass_charge (x : Ctx) (seq : Nat) (f : Pass → Pass) : (x.updPass seq f).charge = x.charge := rfl
@[simp] theorem updPass_waitFrom (x : Ctx) (seq : Nat) (f : Pass → Pass) : (x.updPass seq f).waitFrom = x.waitFrom := rfl
@[simp] theorem updPass_tokWaits (x : Ctx) (seq : Nat) (f : Pass → Pass) : (x.updPass seq f).tokWaits = x.tokWaits := rfl
@[simp] theorem updPass_resumed (x : Ctx) (seq : Nat) (f : Pass → Pass) : (x.updPass seq f).resumed = x.resumed := rfl
@[simp] theorem updPass_started (x : Ctx) (seq : Nat) (f : Pass → Pass) : (x.updPass seq f).started = x.started := rfl
@[simp] theorem updPass_held (x : Ctx) (seq : Nat) (f : Pass → Pass) : (x.updPass seq f).held = x.held := rfl
@[simp] theorem updPass_readyAt (x : Ctx) (seq : Nat) (f : Pass → Pass) : (x.updPass seq f).readyAt = x.readyAt := rfl
@[simp] theorem updPass_ageing (x : Ctx) (seq : Nat) (f : Pass → Pass) : (x.updPass seq f).ageing = x.ageing := rfl
@[simp] theorem updPass_agedAt (x : Ctx) (seq : Nat) (f : Pass → Pass) : (x.updPass seq f).agedAt = x.agedAt := rfl
@[simp] theorem updPass_residAt (x : Ctx) (seq : Nat) (f : Pass → Pass) : (x.updPass seq f).residAt = x.residAt := rfl
@[simp] theorem updPass_waitc (x : Ctx) (seq : Nat) (f : Pass → Pass) : (x.updPass seq f).waitc = x.waitc := rfl
@[simp] theorem updPass_cblims (x : Ctx) (seq : Nat) (f : Pass → Pass) : (x.updPass seq f).cblims = x.cblims := rfl
@[simp] theorem updPass_eff (x : Ctx) (seq : Nat) (f : Pass → Pass) : (x.updPass seq f).eff = x.eff := rfl
@[simp] theorem updPass_opb (x : Ctx) (seq : Nat) (f : Pass → Pass) : (x.updPass seq f).opb = x.opb := rfl
@[simp] theorem updPass_banks (x : Ctx) (seq : Nat) (f : Pass → Pass) : (x.updPass seq f).banks = x.banks := rfl
@[simp] theorem updPass_badBanks (x : Ctx) (seq : Nat) (f : Pass → Pass) : (x.updPass seq f).badBanks = x.badBanks := rfl

@[simp] theorem updComb_live (x : Ctx) (seq : Nat) (f : Comb → Comb) : (x.updComb seq f).live = x.live := rfl
@[simp] theorem updComb_priv (x : Ctx) (seq : Nat) (f : Comb → Comb) : (x.updComb seq f).priv = x.priv := rfl
@[simp] theorem updComb_sid (x : Ctx) (seq : Nat) (f : Comb → Comb) : (x.updComb seq f).sid = x.sid := rfl
@[simp] theorem updComb_regs (x : Ctx) (seq : Nat) (f : Comb → Comb) : (x.updComb seq f).regs = x.regs := rfl
@[simp] theorem updComb_sys (x : Ctx) (seq : Nat) (f : Comb → Comb) : (x.updComb seq f).sys = x.sys := rfl
@[simp] theorem updComb_st (x : Ctx) (seq : Nat) (f : Comb → Comb) : (x.updComb seq f).st = x.st := rfl
@[simp] theorem updComb_passes (x : Ctx) (seq : Nat) (f : Comb → Comb) : (x.updComb seq f).passes = x.passes := rfl
@[simp] theorem updComb_loads (x : Ctx) (seq : Nat) (f : Comb → Comb) : (x.updComb seq f).loads = x.loads := rfl
@[simp] theorem updComb_rcals (x : Ctx) (seq : Nat) (f : Comb → Comb) : (x.updComb seq f).rcals = x.rcals := rfl
@[simp] theorem updComb_caps (x : Ctx) (seq : Nat) (f : Comb → Comb) : (x.updComb seq f).caps = x.caps := rfl
@[simp] theorem updComb_pending (x : Ctx) (seq : Nat) (f : Comb → Comb) : (x.updComb seq f).pending = x.pending := rfl
@[simp] theorem updComb_kept (x : Ctx) (seq : Nat) (f : Comb → Comb) : (x.updComb seq f).kept = x.kept := rfl
@[simp] theorem updComb_snap (x : Ctx) (seq : Nat) (f : Comb → Comb) : (x.updComb seq f).snap = x.snap := rfl
@[simp] theorem updComb_hostImg (x : Ctx) (seq : Nat) (f : Comb → Comb) : (x.updComb seq f).hostImg = x.hostImg := rfl
@[simp] theorem updComb_hostSnap (x : Ctx) (seq : Nat) (f : Comb → Comb) : (x.updComb seq f).hostSnap = x.hostSnap := rfl
@[simp] theorem updComb_own (x : Ctx) (seq : Nat) (f : Comb → Comb) : (x.updComb seq f).own = x.own := rfl
@[simp] theorem updComb_atoms (x : Ctx) (seq : Nat) (f : Comb → Comb) : (x.updComb seq f).atoms = x.atoms := rfl
@[simp] theorem updComb_stores (x : Ctx) (seq : Nat) (f : Comb → Comb) : (x.updComb seq f).stores = x.stores := rfl
@[simp] theorem updComb_acquires (x : Ctx) (seq : Nat) (f : Comb → Comb) : (x.updComb seq f).acquires = x.acquires := rfl
@[simp] theorem updComb_bies (x : Ctx) (seq : Nat) (f : Comb → Comb) : (x.updComb seq f).bies = x.bies := rfl
@[simp] theorem updComb_oldBies (x : Ctx) (seq : Nat) (f : Comb → Comb) : (x.updComb seq f).oldBies = x.oldBies := rfl
@[simp] theorem updComb_openBies (x : Ctx) (seq : Nat) (f : Comb → Comb) : (x.updComb seq f).openBies = x.openBies := rfl
@[simp] theorem updComb_pubReq (x : Ctx) (seq : Nat) (f : Comb → Comb) : (x.updComb seq f).pubReq = x.pubReq := rfl
@[simp] theorem updComb_pubDone (x : Ctx) (seq : Nat) (f : Comb → Comb) : (x.updComb seq f).pubDone = x.pubDone := rfl
@[simp] theorem updComb_fence (x : Ctx) (seq : Nat) (f : Comb → Comb) : (x.updComb seq f).fence = x.fence := rfl
@[simp] theorem updComb_xlAsk (x : Ctx) (seq : Nat) (f : Comb → Comb) : (x.updComb seq f).xlAsk = x.xlAsk := rfl
@[simp] theorem updComb_xlFault (x : Ctx) (seq : Nat) (f : Comb → Comb) : (x.updComb seq f).xlFault = x.xlFault := rfl
@[simp] theorem updComb_reads (x : Ctx) (seq : Nat) (f : Comb → Comb) : (x.updComb seq f).reads = x.reads := rfl
@[simp] theorem updComb_pages (x : Ctx) (seq : Nat) (f : Comb → Comb) : (x.updComb seq f).pages = x.pages := rfl
@[simp] theorem updComb_shWait (x : Ctx) (seq : Nat) (f : Comb → Comb) : (x.updComb seq f).shWait = x.shWait := rfl
@[simp] theorem updComb_claimWait (x : Ctx) (seq : Nat) (f : Comb → Comb) : (x.updComb seq f).claimWait = x.claimWait := rfl
@[simp] theorem updComb_retiring (x : Ctx) (seq : Nat) (f : Comb → Comb) : (x.updComb seq f).retiring = x.retiring := rfl
@[simp] theorem updComb_paused (x : Ctx) (seq : Nat) (f : Comb → Comb) : (x.updComb seq f).paused = x.paused := rfl
@[simp] theorem updComb_overrun (x : Ctx) (seq : Nat) (f : Comb → Comb) : (x.updComb seq f).overrun = x.overrun := rfl
@[simp] theorem updComb_charge (x : Ctx) (seq : Nat) (f : Comb → Comb) : (x.updComb seq f).charge = x.charge := rfl
@[simp] theorem updComb_waitFrom (x : Ctx) (seq : Nat) (f : Comb → Comb) : (x.updComb seq f).waitFrom = x.waitFrom := rfl
@[simp] theorem updComb_tokWaits (x : Ctx) (seq : Nat) (f : Comb → Comb) : (x.updComb seq f).tokWaits = x.tokWaits := rfl
@[simp] theorem updComb_resumed (x : Ctx) (seq : Nat) (f : Comb → Comb) : (x.updComb seq f).resumed = x.resumed := rfl
@[simp] theorem updComb_started (x : Ctx) (seq : Nat) (f : Comb → Comb) : (x.updComb seq f).started = x.started := rfl
@[simp] theorem updComb_held (x : Ctx) (seq : Nat) (f : Comb → Comb) : (x.updComb seq f).held = x.held := rfl
@[simp] theorem updComb_readyAt (x : Ctx) (seq : Nat) (f : Comb → Comb) : (x.updComb seq f).readyAt = x.readyAt := rfl
@[simp] theorem updComb_ageing (x : Ctx) (seq : Nat) (f : Comb → Comb) : (x.updComb seq f).ageing = x.ageing := rfl
@[simp] theorem updComb_agedAt (x : Ctx) (seq : Nat) (f : Comb → Comb) : (x.updComb seq f).agedAt = x.agedAt := rfl
@[simp] theorem updComb_residAt (x : Ctx) (seq : Nat) (f : Comb → Comb) : (x.updComb seq f).residAt = x.residAt := rfl
@[simp] theorem updComb_waitc (x : Ctx) (seq : Nat) (f : Comb → Comb) : (x.updComb seq f).waitc = x.waitc := rfl
@[simp] theorem updComb_cblims (x : Ctx) (seq : Nat) (f : Comb → Comb) : (x.updComb seq f).cblims = x.cblims := rfl
@[simp] theorem updComb_eff (x : Ctx) (seq : Nat) (f : Comb → Comb) : (x.updComb seq f).eff = x.eff := rfl
@[simp] theorem updComb_opb (x : Ctx) (seq : Nat) (f : Comb → Comb) : (x.updComb seq f).opb = x.opb := rfl
@[simp] theorem updComb_banks (x : Ctx) (seq : Nat) (f : Comb → Comb) : (x.updComb seq f).banks = x.banks := rfl
@[simp] theorem updComb_badBanks (x : Ctx) (seq : Nat) (f : Comb → Comb) : (x.updComb seq f).badBanks = x.badBanks := rfl

@[simp] theorem updBank_ctxs (x : Core) (n : Nat) (f : Bank → Bank) : (x.updBank n f).ctxs = x.ctxs := rfl
@[simp] theorem updBank_spad (x : Core) (n : Nat) (f : Bank → Bank) : (x.updBank n f).spad = x.spad := rfl
@[simp] theorem updBank_spadPoison (x : Core) (n : Nat) (f : Bank → Bank) : (x.updBank n f).spadPoison = x.spadPoison := rfl
@[simp] theorem updBank_cbOwner (x : Core) (n : Nat) (f : Bank → Bank) : (x.updBank n f).cbOwner = x.cbOwner := rfl
@[simp] theorem updBank_planes (x : Core) (n : Nat) (f : Bank → Bank) : (x.updBank n f).planes = x.planes := rfl
@[simp] theorem updBank_tiles (x : Core) (n : Nat) (f : Bank → Bank) : (x.updBank n f).tiles = x.tiles := rfl
@[simp] theorem updBank_trim (x : Core) (n : Nat) (f : Bank → Bank) : (x.updBank n f).trim = x.trim := rfl
@[simp] theorem updBank_strim (x : Core) (n : Nat) (f : Bank → Bank) : (x.updBank n f).strim = x.strim := rfl
@[simp] theorem updBank_smap (x : Core) (n : Nat) (f : Bank → Bank) : (x.updBank n f).smap = x.smap := rfl
@[simp] theorem updBank_calctl (x : Core) (n : Nat) (f : Bank → Bank) : (x.updBank n f).calctl = x.calctl := rfl
@[simp] theorem updBank_calstat (x : Core) (n : Nat) (f : Bank → Bank) : (x.updBank n f).calstat = x.calstat := rfl
@[simp] theorem updBank_passes (x : Core) (n : Nat) (f : Bank → Bank) : (x.updBank n f).passes = x.passes := rfl
@[simp] theorem updBank_reraces (x : Core) (n : Nat) (f : Bank → Bank) : (x.updBank n f).reraces = x.reraces := rfl
@[simp] theorem updBank_margins (x : Core) (n : Nat) (f : Bank → Bank) : (x.updBank n f).margins = x.margins := rfl
@[simp] theorem updBank_cals (x : Core) (n : Nat) (f : Bank → Bank) : (x.updBank n f).cals = x.cals := rfl
@[simp] theorem updBank_caltime (x : Core) (n : Nat) (f : Bank → Bank) : (x.updBank n f).caltime = x.caltime := rfl
@[simp] theorem updBank_caltemp (x : Core) (n : Nat) (f : Bank → Bank) : (x.updBank n f).caltemp = x.caltemp := rfl
@[simp] theorem updBank_satcols (x : Core) (n : Nat) (f : Bank → Bank) : (x.updBank n f).satcols = x.satcols := rfl
@[simp] theorem updBank_temp (x : Core) (n : Nat) (f : Bank → Bank) : (x.updBank n f).temp = x.temp := rfl
@[simp] theorem updBank_rings (x : Core) (n : Nat) (f : Bank → Bank) : (x.updBank n f).rings = x.rings := rfl
@[simp] theorem updBank_ports (x : Core) (n : Nat) (f : Bank → Bank) : (x.updBank n f).ports = x.ports := rfl
@[simp] theorem updBank_allocs (x : Core) (n : Nat) (f : Bank → Bank) : (x.updBank n f).allocs = x.allocs := rfl
@[simp] theorem updBank_queue (x : Core) (n : Nat) (f : Bank → Bank) : (x.updBank n f).queue = x.queue := rfl
@[simp] theorem updBank_nbrQ (x : Core) (n : Nat) (f : Bank → Bank) : (x.updBank n f).nbrQ = x.nbrQ := rfl
@[simp] theorem updBank_l1 (x : Core) (n : Nat) (f : Bank → Bank) : (x.updBank n f).l1 = x.l1 := rfl
@[simp] theorem updBank_misses (x : Core) (n : Nat) (f : Bank → Bank) : (x.updBank n f).misses = x.misses := rfl
@[simp] theorem updBank_clk (x : Core) (n : Nat) (f : Bank → Bank) : (x.updBank n f).clk = x.clk := rfl
@[simp] theorem updBank_active (x : Core) (n : Nat) (f : Bank → Bank) : (x.updBank n f).active = x.active := rfl
@[simp] theorem updBank_switching (x : Core) (n : Nat) (f : Bank → Bank) : (x.updBank n f).switching = x.switching := rfl
@[simp] theorem updBank_freeze (x : Core) (n : Nat) (f : Bank → Bank) : (x.updBank n f).freeze = x.freeze := rfl
@[simp] theorem updBank_rerace (x : Core) (n : Nat) (f : Bank → Bank) : (x.updBank n f).rerace = x.rerace := rfl
@[simp] theorem updBank_renorm (x : Core) (n : Nat) (f : Bank → Bank) : (x.updBank n f).renorm = x.renorm := rfl
@[simp] theorem updBank_calReq (x : Core) (n : Nat) (f : Bank → Bank) : (x.updBank n f).calReq = x.calReq := rfl
@[simp] theorem updBank_calDue (x : Core) (n : Nat) (f : Bank → Bank) : (x.updBank n f).calDue = x.calDue := rfl
@[simp] theorem updBank_calAt (x : Core) (n : Nat) (f : Bank → Bank) : (x.updBank n f).calAt = x.calAt := rfl
@[simp] theorem updBank_calRun (x : Core) (n : Nat) (f : Bank → Bank) : (x.updBank n f).calRun = x.calRun := rfl
@[simp] theorem updBank_yieldReq (x : Core) (n : Nat) (f : Bank → Bank) : (x.updBank n f).yieldReq = x.yieldReq := rfl
@[simp] theorem updBank_filler (x : Core) (n : Nat) (f : Bank → Bank) : (x.updBank n f).filler = x.filler := rfl
@[simp] theorem updBank_issuing (x : Core) (n : Nat) (f : Bank → Bank) : (x.updBank n f).issuing = x.issuing := rfl
@[simp] theorem updBank_eccHold (x : Core) (n : Nat) (f : Bank → Bank) : (x.updBank n f).eccHold = x.eccHold := rfl

end Sys2Proof.Machine
end

