-- ==== Sys2Proof/Tests/Slice0.lean ====
section
/-! SUPPORT. Tests: ill-formed terms that the checks refuse, words written out from the spec's encodings, single steps whose results the
spec gives, and, for each statement with hypotheses, states and operands that meet them. -/

namespace Sys2Proof.Tests

open Sys2Proof.Machine Sys2Proof.Claim

set_option Elab.async false

/-! Ill-formed terms, one for each check (R253, R260, R264, R274, R281, R300, R301, R347, R374) -/

/-- Destination codes (R260): a15, scalar 2 to 15, vector 2 to 7, and 1 for lih (R292). -/
theorem test_ill_destinations :
    (Instr.lda 15#4 0#16).ill = some .dest ∧ (Instr.lda 14#4 0#16).ill = none ∧ (Instr.popq 15#4).ill = some .dest ∧
    (Instr.mfe 15#4 0#6).ill = some .dest ∧ (Instr.waitc 0#4 15#4 0#1 0#3).ill = some .dest ∧
    (Instr.add 2#5 0#5 0#5).ill = some .dest ∧ (Instr.add 15#5 0#5 0#5).ill = some .dest ∧ (Instr.add 16#5 0#5 0#5).ill = none ∧
    (Instr.lih 1#5 0#19).ill = some .dest ∧ (Instr.li 1#5 0#19).ill = none ∧
    (Instr.vand 7#4 0#4 0#4).ill = some .dest ∧ (Instr.vand 1#4 0#4 0#4).ill = none ∧ (Instr.vtake 2#4 0#4 0#1).ill = some .dest := by
  decide +kernel

/-- Widths, spaces, transpose with side words, and the operations of atomics (R274, R281). -/
theorem test_ill_access_values :
    (Instr.ldg 0#5 0#4 0#4 7#3 0#2 0#6).ill = some .value ∧ (Instr.ldg 0#5 0#4 0#4 6#3 3#2 0#6).ill = some .value ∧
    (Instr.lds 0#5 0#4 0#4 7#3 0#1 0#7).ill = some .value ∧ (Instr.ldv 0#5 0#4 0#4 0#2 1#1 0#1 1#1 0#6).ill = some .value ∧
    (Instr.ldvg 0#5 0#4 0#4 0#1 3#2 0#6).ill = some .value ∧ (Instr.pref 0#4 3#2 0#6).ill = some .value ∧
    (Instr.stg 0#4 7#3 0#2 0#6).ill = some .value ∧ (Instr.sts 0#4 7#3 0#1 0#7).ill = some .value ∧
    (Instr.stv 0#4 0#2 1#1 0#1 1#1 0#6).ill = some .value ∧ (Instr.stvg 0#4 0#1 3#2 0#6).ill = some .value ∧
    (Instr.amos 0#4 0#4 0#4 10#4 0#1 0#2 0#4 0#1).ill = some .value ∧ (Instr.amos 0#4 0#4 0#4 9#4 0#1 2#2 0#4 0#1).ill = some .value ∧
    (Instr.amog 0#4 0#4 0#4 9#4 0#1 3#2 0#4 0#1).ill = some .value ∧ (Instr.amog 0#4 0#4 0#4 9#4 0#1 2#2 0#4 0#1).ill = none := by
  decide +kernel

/-- Ring counts, condition codes, codebook and publication fields, brk 63 (R261, R283, R391, R404, R409). -/
theorem test_ill_control_and_engine_fields :
    (Instr.rget 0#4 1#4 0#4 0#1 1#7).ill = some .reserved ∧ (Instr.radvR 1#4 0#4 1#1 1#7).ill = some .reserved ∧
    (Instr.rput 15#4 0#4 0#4 0#1 1#7).ill = some .dest ∧ (Instr.radvW 0#4 0#4 0#1 1#7).ill = none ∧
    (Instr.bca 6#3 0#4 0#4 0#11).ill = some .value ∧ (Instr.bx 7#3 0#5 0#5 0#11).ill = some .value ∧
    (Instr.cbval 0#4 0#4 1#4 0#1 0#2).ill = some .reserved ∧ (Instr.pub 0#3).ill = some .value ∧ (Instr.acq 5#3).ill = some .value ∧
    (Instr.brk 63#6).ill = some .value ∧ (Instr.rdtime 15#4 0#1).ill = some .dest ∧ (Instr.cft 0#4 15#4 0#6 0#8).ill = some .dest := by
  decide +kernel

/-- Conditions, system registers, rounding and conversion codes (R254, R290, R296, R297). -/
theorem test_ill_scalar_values :
    (Instr.cmp 0#5 0#5 0#5 6#3).ill = some .value ∧ (Instr.mfs 0#5 17#14).ill = some .value ∧ (Instr.mts 0#5 3#14).ill = some .value ∧
    (Instr.faddS 0#5 0#5 0#5 5#3).ill = some .value ∧ (Instr.fcvt 0#5 0#5 0#3 10#4).ill = some .value ∧ (Instr.fcvt 0#5 0#5 4#3 9#4).ill = none := by
  decide +kernel

/-- Formats, saturation, expansion, parts, reductions and scales (R300, R301, R306 to R315, R318 to R321). -/
theorem test_ill_vector_fields :
    (Instr.vadd 0#4 0#4 0#4 1#1 0#4 0#4).ill = some .reserved ∧ (Instr.vadd 0#4 0#4 0#4 1#1 5#4 0#4).ill = none ∧
    (Instr.vadd 0#4 0#4 0#4 0#1 0#4 1#4).ill = some .reserved ∧ (Instr.vfma 0#4 0#4 0#4 0#4 3#4 0#4).ill = some .value ∧
    (Instr.vabs 0#4 0#4 0#1 8#4 0#4).ill = some .value ∧ (Instr.vsel 0#4 0#4 0#4 0#4 13#4).ill = some .value ∧
    (Instr.vshl 0#4 0#4 0#4 0#4).ill = some .value ∧ (Instr.vcvt 0#4 0#4 2#3 0#4 1#4 0#4).ill = some .value ∧
    (Instr.vcvt 0#4 0#4 1#3 0#4 1#4 0#4).ill = none ∧ (Instr.vcvt 0#4 0#4 0#3 12#4 1#4 0#4).ill = some .value ∧
    (Instr.vqnt 0#4 0#4 1#4 3#4 0#4 0#4).ill = some .source ∧ (Instr.vqnt 0#4 0#4 0#4 5#4 0#4 0#4).ill = some .value ∧
    (Instr.vdqt 0#4 0#4 0#3 5#4 3#4).ill = some .value ∧ (Instr.vred 0#4 0#4 0#4 3#2 0#4 0#4).ill = some .value ∧
    (Instr.vred 0#4 0#4 5#4 0#2 0#4 0#4).ill = some .value ∧ (Instr.vbcast 0#4 0#4 64#8 0#4).ill = some .value ∧
    (Instr.vexp2 0#4 0#4 5#4 0#4).ill = some .value := by
  decide +kernel

/-- The D slot (R347, R366, R367) and the units of events (R2). -/
theorem test_ill_array_fields_and_units :
    (Instr.accrd 0#5 3#2 0#2 0#2).ill = some .value ∧ (Instr.accexp 1#5 0#1 0#2).ill = some .reserved ∧ (Instr.accexp 1#5 1#1 0#2).ill = none ∧
    (Instr.bundleIssue 9 0).wf = false ∧ (Instr.bundleIssue 7 48).wf = false ∧ (Instr.bundleIssue 7 47).wf = true ∧
    (Instr.swapOut 0 0 4).wf = false ∧ (Instr.ltSeal 0 64).wf = false ∧ (Instr.doorbellWrite 0 8192 0#32).wf = false ∧
    (Instr.machineCheck 0 12).wf = false ∧ (Instr.powerOnReset 1024).wf = false ∧ (Instr.meshLaneFailure 0 0 136).wf = false := by
  decide +kernel

/-! Words written out from R261, R262 and the worked cases -/

/-- A words of the worked cases: AI, AM, ALP. -/
theorem test_decode_access_words :
    decodeSlot 0 0x01401010#32 = .ok (.lda 4#4 0x1010#16) ∧ decodeSlot 0 0x01800003#32 = .ok (.lda 8#4 3#16) ∧
    decodeSlot 0 0x12022300#32 = .ok (.ldv 0#5 4#4 4#4 1#2 1#1 0#1 0#1 0#6) ∧ decodeSlot 0 0x05440004#32 = .ok (.addai 4#4 4#4 4#16) ∧
    decodeSlot 0 0x2202803F#32 = .ok (.stv 5#4 0#2 0#1 0#1 0#1 63#6) ∧ decodeSlot 0 0x20030500#32 = .ok (.stg 6#4 5#3 0#2 0#6) ∧
    decodeSlot 0 0x4002000C#32 = .ok (.loop 32#12 12#12) ∧ decodeSlot 0 0x4170000A#32 = .ok (.loopa 7#4 10#12) := by
  decide +kernel

/-- A words written out field by field (AR: d 23:20, s 19:16, t 15:12, fn; AB: cond 23:21, s 20:17, t 16:13, off). -/
theorem test_decode_more_access_words :
    decodeSlot 0 0x04123000#32 = .ok (.adda 1#4 2#4 3#4) ∧ decodeSlot 0 0x0A200000#32 = .ok (.popq 2#4) ∧
    decodeSlot 0 0x141239A7#32 = .ok (.amos 1#4 2#4 3#4 9#4 1#1 1#2 3#4 1#1) ∧
    decodeSlot 0 0x151230C0#32 = .ok (.amog 1#4 2#4 3#4 0#4 1#1 2#2 0#4 0#1) ∧
    decodeSlot 0 0x160180BF#32 = .ok (.pref 3#4 2#2 63#6) ∧ decodeSlot 0 0x30120005#32 = .error ⟨1, .reserved⟩ ∧
    decodeSlot 0 0x43248005#32 = .ok (.bca 1#3 2#4 4#4 5#11) ∧ decodeSlot 0 0x420007FF#32 = .ok (.ba 0x7FF#11) ∧
    decodeSlot 0 0x45000000#32 = .ok .ret ∧ decodeSlot 0 0x46000001#32 = .ok .fenceE ∧ decodeSlot 0 0x46000003#32 = .error ⟨1, .value⟩ := by
  decide +kernel

/-- E words (EC: ea 23:20, eb 19:16, sub). -/
theorem test_decode_engine_words :
    decodeSlot 1 0x08F30000#32 = .ok (.cpy 15#4 3#4 0#3) ∧ decodeSlot 1 0x083D0000#32 = .ok (.cpy 3#4 13#4 0#3) ∧
    decodeSlot 1 0x20D00902#32 = .ok (.cfw 13#4 9#6 2#8) ∧ decodeSlot 1 0x22450001#32 = .ok (.waitc 4#4 5#4 0#1 1#3) ∧
    decodeSlot 1 0x01300005#32 = .ok (.mte 3#4 5#6) ∧ decodeSlot 1 0x28000001#32 = .ok (.pub 1#3) ∧
    decodeSlot 1 0x31000000#32 = .ok .retire ∧ decodeSlot 1 0x32000007#32 = .ok (.trap 7#6) ∧ decodeSlot 1 0x30100000#32 = .error ⟨2, .reserved⟩ := by
  decide +kernel

/-- X words of the worked cases, and XR, XI and XL words written out (dst 23:19, sa 18:14, sb 13:9, fn; imm 13:0 or 18:0). -/
theorem test_decode_scalar_words :
    decodeSlot 2 0x30000002#32 = .ok (.take 0#5 2#5) ∧ decodeSlot 2 0x01080200#32 = .ok (.add 1#5 0#5 1#5) ∧
    decodeSlot 2 0x24DEC006#32 = .ok (.shli 27#5 27#5 6#6) ∧ decodeSlot 2 0x27F80000#32 = .ok (.li 31#5 0#19) ∧
    decodeSlot 2 0x27082000#32 = .ok (.li 1#5 0x2000#19) ∧ decodeSlot 2 0x06800201#32 = .ok (.div 16#5 0#5 1#5 1#1) ∧
    decodeSlot 2 0x40000280#32 = .ok (.faddS 0#5 0#5 1#5 4#3) ∧ decodeSlot 2 0x44000082#32 = .ok (.fcvt 0#5 0#5 4#3 2#4) ∧
    decodeSlot 2 0x3200000A#32 = .ok (.mfs 0#5 10#14) ∧ decodeSlot 2 0x1B000000#32 = .error ⟨3, .opcode⟩ := by
  decide +kernel

/-- V words of the worked cases (VR: vd 23:20, va 19:16, vb 15:12, vc 11:8, fmt 7:4, xp). -/
theorem test_decode_vector_words :
    decodeSlot 3 0x1C9800F1#32 = .ok (.vcbi 9#4 8#4 1#4) ∧ decodeSlot 3 0x1BCB00F4#32 = .ok (.vcbx 12#4 11#4 4#4) ∧
    decodeSlot 3 0x0DDDB000#32 = .ok (.vor 13#4 13#4 11#4) ∧ decodeSlot 3 0x0298F0A0#32 = .ok (.vsub 9#4 8#4 15#4 0#1 10#4 0#4) ∧
    decodeSlot 3 0x0AA9F2A0#32 = .ok (.vcmp 10#4 9#4 15#4 2#2 10#4 0#4) ∧ decodeSlot 3 0x2498F060#32 = .ok (.vslide 9#4 8#4 15#4 0#1 6#4) ∧
    decodeSlot 3 0x30800000#32 = .ok (.vtake 8#4 0#4 0#1) ∧ decodeSlot 3 0x310A0000#32 = .ok (.vpush 10#4) := by
  decide +kernel

/-- D words of the worked cases (DC: sa 23:19, sb 18:14, sub). -/
theorem test_decode_delay_words :
    decodeSlot 4 0x0AD6C004#32 = .ok (.rldw 26#5 27#5 1#1 0#2) ∧ decodeSlot 4 0x10002000#32 = .ok (.rpass 8#4 0#4 0#2 0#2 0#1) ∧
    decodeSlot 4 0x12000004#32 = .ok (.rsat 1#1 0#2) ∧ decodeSlot 4 0x33000007#32 = .ok (.rstat 7#6) ∧
    decodeSlot 4 0x24000004#32 = .ok (.accexp 0#5 1#1 0#2) ∧ decodeSlot 4 0x08000004#32 = .ok (.rclaim 1#1 0#2) ∧
    decodeSlot 4 0x22DF0038#32 = .ok (.accst 27#5 28#5 1#1 1#1 2#2 0#2) := by
  decide +kernel

/-- Headers (R243, R244): presence bits, hold bits, SYNC; reserved bits and SYNC 3 are class 0. -/
theorem test_decode_headers :
    decodeHeader 0xB4600000#32 = .ok ⟨3#5, 0#5, 0#2⟩ ∧ decodeHeader 0xB4040000#32 = .ok ⟨0#5, 4#5, 0#2⟩ ∧ decodeHeader 0xB4100000#32 = .ok ⟨0#5, 16#5, 0#2⟩ ∧
    decodeHeader 0xB4204000#32 = .ok ⟨1#5, 0#5, 1#2⟩ ∧ decodeHeader 0xB420C000#32 = .error ⟨0, .value⟩ ∧ decodeHeader 0xB4200001#32 = .error ⟨0, .reserved⟩ := by
  decide +kernel

/-! States for the witnesses -/

/-- Whether a translation succeeds, and its fault. -/
def xlIsOk : Xl → Bool
  | .ok _ => true
  | _ => false
def xlFaultOf : Xl → Option Nat
  | .fault c => some c
  | _ => none
theorem xl_ok {x : Xl} (h : xlIsOk x = true) : ∃ p, x = .ok p := by
  cases x with
  | ok p => exact ⟨p, rfl⟩
  | fault _ => cases h
  | lost _ => cases h
theorem xl_fault {x : Xl} {c : Nat} (h : xlFaultOf x = some c) : x = .fault c := by
  cases x with
  | ok _ => cases h
  | fault _ => simp only [xlFaultOf, Option.some.injEq] at h; rw [h]
  | lost _ => cases h
/-- A valid register. -/
def rg (v : Nat) : Reg := { val := BitVec.ofNat 64 v, valid := true }
/-- A valid vector register. -/
def vr (v : Nat) (side : Nat := 0) : VReg := { data := BitVec.ofNat 2048 v, side := BitVec.ofNat 256 side, valid := true }
/-- A running context: small numbers in its registers, one filled entry in each data queue, ring 0 in rh1, two landed loads. -/
def ctxT : Ctx := {
  live := true
  regs := {
    a := [rg 5, rg 7, rg 0x100, rg 0x400000, rg 1, rg (2 ^ 43), rg 1600, rg 3, rg 0, rg 0, rg 0, rg 0, rg 0, rg 0, rg 0]
    b := [rg 5, rg 7, rg 0, rg (2 ^ 63), rg (2 ^ 64 - 1), rg 1600, rg 256, rg 0x40000, rg 0, rg 0, rg 0, rg 0, rg 0, rg 0, rg 0, rg 0]
    k := List.replicate 16 (rg 1)
    v := [vr 0x0102030405060708, vr 3, vr 1, vr 0, vr 0, vr 0, vr 0, vr 0]
    w := List.replicate 8 (vr 2)
    eg := List.replicate 64 (rg 0)
    dc := List.replicate 16 (rg 0)
    ls := ((List.replicate 32 ({} : LSlot)).set 4 { st := .arrived, data := 9#2048 }).set 5 { st := .arrived, vec := true, data := 9#2048 }
    rh := (List.replicate 16 none).set 1 (some 0) }
  st := { sq := [{ id := 0, val := some 9#64 }, { id := 1, val := some 8#64 }], vq := [{ id := 0, val := some (vr 6) }], pc := 0x10000 } }
/-- A core that runs the context: ring 0 of four 64-byte hods, one of them full; planes 0 and tiles 0 held; banks of the four kinds. -/
def coreT : Core := {
  active := some 0, ctxs := [(0, ctxT)]
  rings := [(0, { cfg := BitVec.ofNat 64 (3 * 2 ^ 50), used := 1, wp := 1, counts := [(0, 2)] })]
  planes := [{ claim := { st := .held } }, {}, {}, {}]
  tiles := [{ zero := true, claim := { st := .held } }, {}, {}, {}] }
/-- The part with that core as core 0 of die 0. -/
def part (f : Ctx → Ctx := id) (g : Core → Core := id) (h : Ld → Ld := id) : State :=
  { State.reset with lds := [(0, h { cores := [(0, g { coreT with ctxs := [(0, f ctxT)] })], stage := 3 })] }

/-- An operator with an output port of yard 0, and parish 0 enabled on this die with yards 0 to 2 and a path from yard 0 to itself. -/
def opT : Op := { opb := BitVec.ofNat 4096 (2 ^ (1472 + 8)) }
def parT : Parish := { enabled := true, desc := BitVec.ofNat 256 (2 * 2 ^ 96), pst := [(0, 0)], curfews := [(0, 6)] }
def engT (f : Ctx → Ctx := id) (g : Core → Core := id) (h : Ld → Ld := id) : State := part f g fun x => h { x with ops := [(0, opT)], parishes := [(0, parT)] }

/-! X slot witnesses -/

theorem witness_IntegerWords : ScalarIs (part) 0#5 5#64 ∧ ScalarIs (part) 1#5 7#64 ∧ ScalarIs (part) 31#5 1#64 ∧ RoomX (part) 0#5 ∧ RoomX (part) 1#5 ∧
    (Instr.cmp 0#5 0#5 1#5 5#3).ill = none := by
  unfold ScalarIs Has RoomX; decide +kernel
/-- clz and ctz at 0 and at a single bit. -/
theorem witness_UnaryWords :
    (∀ n, n ≤ 64 → n = 64 → (∀ i, i < n → (0#64).getMsbD i = false) ∧ (∀ i, i < n → (0#64).getLsbD i = false)) ∧
    (5#64).getMsbD 61 = true ∧ (5#64).getLsbD 0 = true ∧ (part).me.st.sq.length < 32 ∧ ScalarIs (part) 2#5 0#64 ∧
    (Instr.mfs 0#5 16#14).ill = none ∧ (part).me.sys.poison.has (16#14).toNat = false := by
  refine ⟨?_, by decide, by decide, by decide +kernel, by unfold ScalarIs Has; decide +kernel, by decide, by decide +kernel⟩
  intro n _ h; subst h; simp
theorem witness_LongImmediates : ScalarIs (part) 16#5 1#64 ∧ RoomX (part) 16#5 ∧ (Instr.lih 16#5 1#19).ill = none ∧
    (Instr.lih 0#5 1#19).ill = none ∧ ScalarIs (part) 0#5 5#64 := by
  unfold ScalarIs Has RoomX; decide +kernel
/-- Division by 7, by 0 and of −2^63 by −1. -/
theorem witness_Division : ScalarIs (part) 0#5 5#64 ∧ ScalarIs (part) 1#5 7#64 ∧ ScalarIs (part) 2#5 0#64 ∧ ScalarIs (part) 3#5 0x8000000000000000#64 ∧
    ScalarIs (part) 4#5 (BitVec.allOnes 64) ∧ RoomX (part) 0#5 := by
  unfold ScalarIs Has RoomX; decide +kernel
theorem witness_ScalarFloat : ScalarIs (part) 0#5 5#64 ∧ ScalarIs (part) 1#5 7#64 ∧ RoomX (part) 1#5 ∧ RmodeOk (part) ∧ (4#3).toNat ≤ 4 ∧
    (∃ m, m = (if 4#3 = 4#3 then (part).me.sys.rmode.toNat else (4#3).toNat)) := by
  refine ⟨by unfold ScalarIs Has; decide +kernel, by unfold ScalarIs Has; decide +kernel, by unfold RoomX; decide +kernel, by unfold RmodeOk; decide +kernel, by decide, _, rfl⟩
/-- A landed slot; both privileges; a source operator of stamped output; branches not taken and taken; a jump to a header. -/
def privT : State := part fun x => { x with priv := true }
def stampT : State := part id id fun x => { x with ops := [(0, { opb := BitVec.ofNat 4096 (2 * 2 ^ 200) })] }
/-- Code of empty bundles from 0x10000 on, in a page that may be read and written (R22: V, R, W, frame 1). -/
def code (f : Ctx → Ctx := id) (g : Core → Core := id) (h : Ld → Ld := id) : State :=
  (part f (fun y => g { y with l1 := [{ page := 1, pages := 1, leaf := 0x1000D }] })
    fun x => h { x with regs.xlroot := 1#64, l2 := [{ page := 1, pages := 1, leaf := 0x1000D }] }).pokeLd 0 0x10000
    (((List.replicate 8 (natLe 4 0xB4000000)).flatten))
theorem witness_TakeMtsBranch :
    ((part).me.regs.ls.getD (4#5).toNat {}).st = .arrived ∧ ((part).me.regs.ls.getD (4#5).toNat {}).vec = false ∧
    ((part).me.regs.ls.getD (4#5).toNat {}).visible ≤ (part).me.st.cc ∧ ((part).me.regs.ls.getD (4#5).toNat {}).mark = 0 ∧ RoomX (part) 0#5 ∧
    privT.me.priv = true ∧ ScalarIs privT 0#5 5#64 ∧ (part).me.priv = false ∧ ScalarIs (part) 0#5 5#64 ∧
    (stampT.opOf stampT.cur.l stampT.me.sys.opid).pmode = 2 ∧ isClosed (5#64).toNat = false ∧ stampT.me.sys.stamp.toNat ≤ (5#64).toNat ∧ ScalarIs stampT 0#5 5#64 ∧
    condHolds 0#3 5#64 7#64 = false ∧ condHolds 0#3 5#64 5#64 = true ∧
    (Instr.mts 0#5 5#14).ill = none ∧ (Instr.mts 0#5 16#14).ill ≠ none ∧ (Instr.bx 5#3 0#5 0#5 0#11).ill = none := by
  unfold ScalarIs Has RoomX; decide +kernel
/-- A branch forward and back, and a jump, to headers. -/
theorem witness_TakeMtsBranch_targets :
    (code).target 0 0 0 0x10000 2 = .ok 0x10008 ∧ (code).target 0 0 0 0x10008 (-1) = .ok 0x10004 ∧
    (code fun x => { x with regs.b := x.regs.b.set 0 (rg 0x10004) }).codeWord 0 0 0 0x10004 = .ok 0xB4000000#32 ∧ isMark 0xB4000000#32 = true ∧
    ScalarIs (code fun x => { x with regs.b := x.regs.b.set 0 (rg 0x10004) }) 0#5 0x10004#64 := by
  unfold ScalarIs Has; decide +kernel

/-! A slot witnesses -/

/-- An operation that completes gives a result. -/
theorem exists_of_ok {ε α : Type} {e : Except ε α} (h : (match e with | .ok _ => true | .error _ => false) = true) : ∃ a, e = .ok a := by
  cases e with
  | ok a => exact ⟨a, rfl⟩
  | error _ => cases h

/-- An operation that completes gives a result that passes a test. -/
theorem ok_and {ε α : Type} {e : Except ε α} {P : α → Bool} (h : (match e with | .ok a => P a | .error _ => false) = true) : ∃ a, e = .ok a ∧ P a = true := by
  cases e with
  | ok a => exact ⟨a, rfl, h⟩
  | error _ => cases h

/-- Registers and queue pops, one, two and three of them. -/
theorem witness_AddressArithmetic :
    accessSource (part) 0#4 = some (5#64, part) ∧ accessTwo (part) 0#4 1#4 = some (5#64, 7#64, part) ∧ accessSource (part) 2#4 = some (0x100#64, part) ∧
    accessSource (part) 15#4 = some (9#64, part fun x => { x with st.sq := [{ id := 1, val := some 8#64 }] }) := by
  decide +kernel
/-- An OWN address at the end of the scratchpad, a NBR address in core 1, a vector address. -/
theorem witness_ScratchpadLoads :
    accessSource (part) 2#4 = some (0x100#64, part) ∧ SlotFree (part) 0 ∧ eaOf 0x100#64 (-1) 4 = 0xFC ∧ LocalOk false 0xFC 4 4 ∧ LocalOk false 0x2FFFFC 4 4 ∧
    accessSource (part) 3#4 = some (0x400000#64, part) ∧ LocalOk true 0x400000 8 8 ∧ rowLength 0#2 0#1 = 4 ∧ LocalOk false 0x100 (vecSpan 4 true) 4 ∧
    LocalOk true 0x400000 (vecSpan 256 false) 4 ∧ eaOf 0x100#64 0 256 = 0x100 := by
  unfold SlotFree LocalOk; decide +kernel
theorem witness_ScratchpadStores :
    accessTwo (part) 2#4 15#4 = some (0x100#64, 9#64, part fun x => { x with st.sq := [{ id := 1, val := some 8#64 }] }) ∧
    accessTwo (part) 3#4 15#4 = some (0x400000#64, 9#64, part fun x => { x with st.sq := [{ id := 1, val := some 8#64 }] }) ∧
    vectorHead (part) = some (vr 6, part fun x => { x with st.vq := [] }) ∧ NotRestart (part) ∧ NotRestart privT ∧ LocalOk false 0x100 8 8 ∧ LocalOk true 0x400000 8 8 ∧
    LocalOk false 0x100 (vecSpan 4 true) 4 ∧ LocalOk true 0x400000 (vecSpan 64 false) 4 := by
  unfold NotRestart LocalOk; decide +kernel
/-- An add, and a cas that pops its new value; OWN and NBR. -/
theorem witness_ScratchpadAtomics :
    accessTwo (part) 2#4 1#4 = some (0x100#64, 7#64, part) ∧ accessTwo (part) 3#4 1#4 = some (0x400000#64, 7#64, part) ∧
    accessSource (part) 15#4 = some (9#64, part fun x => { x with st.sq := [{ id := 1, val := some 8#64 }] }) ∧ SlotFree (part) (atomSlot 1#4 1#1) ∧ 0#2 ≠ 1#2 ∧
    (Instr.amos 1#4 2#4 1#4 9#4 1#1 0#2 0#4 1#1).ill = none ∧ (Instr.amos 1#4 2#4 1#4 0#4 0#1 1#2 0#4 1#1).ill = none ∧
    LocalOk false 0x100 8 8 ∧ LocalOk true 0x400000 4 4 ∧ NotRestart (part) := by
  unfold SlotFree NotRestart LocalOk; decide +kernel
/-- Addresses in the mapped page. -/
def glob : State := code fun x => { x with regs.a := x.regs.a.set 2 (rg 0x10100) }
theorem witness_GlobalLoads :
    (accessSource glob 2#4 = some (0x10100#64, glob) ∧ SlotFree glob 0 ∧ GlobalOk 0 0x10100 4 ∧ GlobalOk 0 0x10100 32 ∧ NotRestart glob ∧
      accessTwo glob 2#4 1#4 = some (0x10100#64, 7#64, glob) ∧ SlotFree glob (atomSlot 1#4 0#1) ∧ pagePieces 0 0x10100 288 = [(0x10100, 288)]) ∧
    (∃ r, placesOf 1 0 1 0x10100 [(0x10100, 4)] glob = .ok r) ∧ (∃ r, placesOf 1 0 1 0x10100 [(0x10100, 288)] glob = .ok r) ∧
    ∃ r, placesOf 1 0 3 0x10100 [(0x10100, 8)] glob = .ok r ∧ ∃ v, accessSource r.2 15#4 = some v := by
  refine ⟨by unfold SlotFree GlobalOk NotRestart; decide +kernel, exists_of_ok (by decide +kernel), exists_of_ok (by decide +kernel), ?_⟩
  have h : (match placesOf 1 0 3 0x10100 [(0x10100, 8)] glob with | .ok r => (accessSource r.2 15#4).isSome | .error _ => false) = true := by decide +kernel
  split at h
  · exact ⟨_, ‹_›, Option.isSome_iff_exists.mp h⟩
  · cases h
theorem witness_GlobalStores :
    accessSource glob 2#4 = some (0x10100#64, glob) ∧ GlobalOk 0 0x10100 8 ∧ GlobalOk 0 0x10100 32 ∧ eaOf 0x10100#64 0 128 = 0x10100 ∧
    (∃ r, placesOf 1 0 2 0x10100 [(0x10100, 8)] glob = .ok r ∧ ∃ v, accessSource r.2 15#4 = some v) ∧
    (∃ r, placesOf 1 0 2 0x10100 (pagePieces 0 0x10100 256) glob = .ok r ∧ ∃ v, vectorHead r.2 = some v) ∧
    (∃ q, glob.translateNow glob.cur.l glob.cur.k glob.cur.c 0 1 0x10100 1 = .ok q) ∧
    (part).translateNow 0 0 0 0 1 0x10100 1 = .fault (xlCause 5 1 0) := by
  refine ⟨by decide +kernel, by unfold GlobalOk; decide, by unfold GlobalOk; decide, by decide +kernel, ?_, ?_, xl_ok (by decide +kernel), xl_fault (by decide +kernel)⟩
  · have h : (match placesOf 1 0 2 0x10100 [(0x10100, 8)] glob with | .ok r => (accessSource r.2 15#4).isSome | .error _ => false) = true := by decide +kernel
    split at h
    · exact ⟨_, ‹_›, Option.isSome_iff_exists.mp h⟩
    · cases h
  · have h : (match placesOf 1 0 2 0x10100 (pagePieces 0 0x10100 256) glob with | .ok r => (vectorHead r.2).isSome | .error _ => false) = true := by decide +kernel
    split at h
    · exact ⟨_, ‹_›, Option.isSome_iff_exists.mp h⟩
    · cases h
/-- One full hod to read, three free to write; counts from the field and from a register; a legal and an illegal configuration. -/
theorem witness_RingWords :
    RingIs (part) 1 0 { cfg := BitVec.ofNat 64 (3 * 2 ^ 50), used := 1, wp := 1, counts := [(0, 2)] } ∧
    (let r : Ring := { cfg := BitVec.ofNat 64 (3 * 2 ^ 50), used := 1, wp := 1, counts := [(0, 2)] }
     hodCount (part) 0#4 0#1 1#7 = some (1, part) ∧ hodCount (part) 7#4 1#1 0#7 = some (3, part) ∧ ringCount r.cfg = 4 ∧ r.ovf = false ∧ r.getReady 1 = true ∧ r.free = 3) ∧
    ringOk (3 * 2 ^ 50) = true ∧ ringOk 5 = false ∧ accessSource (part) 0#4 = some (5#64, part) ∧
    accessSource (part fun x => { x with regs.a := x.regs.a.set 0 (rg (3 * 2 ^ 50)) }) 0#4 =
      some (BitVec.ofNat 64 (3 * 2 ^ 50), part fun x => { x with regs.a := x.regs.a.set 0 (rg (3 * 2 ^ 50)) }) := by
  unfold RingIs; decide +kernel
/-- Loops over code of empty bundles, transfers, and returns of both kinds. -/
theorem witness_LoopAndTransferWords :
    (code.forward 0 0 0 1 code.me.st.pc = .ok 0x10004 ∧ code.forward 0 0 0 3 code.me.st.pc = .ok 0x1000C ∧ code.forward 0 0 0 4 code.me.st.pc = .ok 0x10010) ∧
    code.me.st.loops = [] ∧ accessSource code 0#4 = some (5#64, code) ∧ (5#64).toNat < 2 ^ 32 ∧ accessSource code 8#4 = some (0#64, code) ∧
    code.target 0 0 0 code.me.st.pc 3 = .ok 0x1000C ∧ code.me.st.rstack.length < 8 ∧ accessTwo code 0#4 1#4 = some (5#64, 7#64, code) ∧
    condHolds 0#3 5#64 7#64 = false ∧ condHolds 1#3 5#64 7#64 = true ∧
    (part fun x => { x with st.rstack := [{ va := 0x10000 }] }).me.st.rstack = [{ va := 0x10000 }] ∧
    (part fun x => { x with st.rstack := [{ trap := true, va := 0x10000 }] }).me.st.rstack = [{ trap := true, va := 0x10000 }] := by
  decide +kernel
/-- A fence of each kind whose condition holds and one of each whose does not. -/
theorem witness_FenceWords :
    ((∀ k ∈ ((part).ld (part).cur.l).cores, ∀ r ∈ k.2.nbrQ, r.sid = (part).me.sid → r.kind < 2) ∧
      (part).me.st.run = [] ∧ (part).me.loads = [] ∧ (∀ q ∈ (here (part)).queue, q.sid ≠ (part).me.sid) ∧
      (part).storesDue 0 0 0 (fun _ _ => true) = false ∧ (part).hasRequests 0 0 (fun _ => true) = false ∧
      ∀ sl ∈ (part).me.regs.ls, sl.glob = true → sl.st ≠ .pending) ∧
    (part fun x => { x with regs.ls := x.regs.ls.set 0 { st := .pending, glob := true } }).fenceMet 0 0 0 2 = false ∧
    (part id fun y => { y with queue := [{ id := 0, kind := .cpy, ctx := 0, sid := 0 }] }).fenceMet 0 0 0 1 = false ∧
    (part id id fun x => { x with cores := x.cores ++ [(1, { nbrQ := [{ src := 0, ctx := 0, sid := 0, kind := 2, off := 0 }] })] }).fenceMet 0 0 0 0 = false := by
  decide +kernel

/-! V slot witnesses -/

/-- A bank of a kind and element format with every index valid and zero entries. -/
def bk (kind elem : Nat) : Bank := { vmap := BitVec.allOnes 256, lim := 256#64, fmt := BitVec.ofNat 64 (kind * 2 ^ 12 + elem * 2 ^ 8) }
/-- The part with banks of every kind: scalar I32, short vector BF16, D6, A4L. -/
def bankT : State := part id fun y => { y with banks := [bk 1 5, bk 2 1, bk 3 0, bk 4 0] }
/-- A vector read as it stands, and one expanded through the scalar bank. -/
theorem witness_LaneArithmetic :
    VectorIs bankT 0#4 (vr 0x0102030405060708) ∧ VectorIs bankT 1#4 (vr 3) ∧ VectorIs bankT 15#4 (vr 2) ∧ RmodeOk bankT ∧
    Expands bankT 5#4 0#4 Bank.forArith (vr 3) 5 3 0 0 ∧ Expands bankT 15#4 3#4 Bank.forArith (vr 3) 5 0 (plainScales 32) 1 ∧
    Expands bankT 15#4 4#4 Bank.forArith (vr 3) 1 0 (plainScales 32) 1 := by
  unfold VectorIs Expands RmodeOk; decide +kernel
theorem witness_IntegerLanes : isInt 5 = true ∧ isInt 10 = true ∧ 63 < 2048 / fw 5 ∧ 255 < 2048 / fw 10 := by decide +kernel
theorem witness_VectorSelect : VectorIs bankT 0#4 (vr 0x0102030405060708) ∧ VectorIs bankT 1#4 (vr 3) ∧ VectorIs bankT 8#4 (vr 2) := by
  unfold VectorIs; decide +kernel
theorem witness_LogicAndShifts : VectorIs bankT 0#4 (vr 0x0102030405060708) ∧ VectorIs bankT 1#4 (vr 3) ∧ ∃ w, w = fw (5#4).toNat := by
  refine ⟨by unfold VectorIs; decide +kernel, by unfold VectorIs; decide +kernel, _, rfl⟩
theorem witness_Conversions :
    VectorIs bankT 1#4 (vr 3) ∧ VectorIs bankT 8#4 (vr 2) ∧ 8#4 ≠ 0#4 ∧ RmodeOk bankT ∧ Expands bankT 0#4 0#4 Bank.forCvt (vr 3) 0 3 0 0 ∧ Expands bankT 0#4 0#4 Bank.forFloat (vr 3) 0 3 0 0 ∧
    Expands bankT 15#4 4#4 Bank.forFloat (vr 3) 1 0 (plainScales 32) 1 ∧ Expands bankT 0#4 0#4 Bank.forArith (vr 3) 0 3 0 0 ∧
    (1#3).toNat < countOf 1 / countOf (0#4).toNat ∧ ¬countOf (1#4).toNat ≤ countOf 0 ∧ vredDest 0 0 0 = true := by
  unfold VectorIs Expands RmodeOk; decide +kernel
theorem witness_Rearrangements : VectorIs bankT 0#4 (vr 0x0102030405060708) ∧ VectorIs bankT 1#4 (vr 3) ∧ RmodeOk bankT ∧
    (5#4 ≠ 3#4 ∧ 5#4 ≠ 4#4 ∧ 5#4 ≠ 11#4 ∧ 5#4 ≠ 12#4) ∧ (12#4 = 3#4 ∨ 12#4 = 4#4 ∨ 12#4 = 11#4 ∨ 12#4 = 12#4) ∧ (vr 3).data.toNat % 2 ^ 32 = 3 ∧ 2048 / (32 * fw 12) = 16 := by
  unfold VectorIs RmodeOk; decide +kernel
/-- Each kind of bank for vcbx; for vcbi a bank whose entries are all 0, and one whose only entry is a NaN under a vector of NaNs. -/
theorem witness_CodebookVectors :
    VectorIs bankT 1#4 (vr 3) ∧
    (∀ p ∈ [(0#4, 1, 64), (4#4, 2, 32), (8#4, 3, 256), (12#4, 4, 256)],
      let b := (here bankT).banks.getD (p.1.toNat / 4) {}
      b.kind = p.2.1 ∧ b.regsClean = true ∧ ∀ i ∈ indices 2 p.2.2 (vr 3).data.toNat, b.valid i = true ∧ b.poison.has i = false) ∧
    (let b := bk 1 5
     let valid := (List.range (2 ^ 2)).filter b.valid
     (∀ i ∈ valid, b.poison.has i = false) ∧ (valid.map fun i => (i, codeValue b.elem (b.entry i % 2 ^ fw b.elem))).filter (fun e => !e.2.isNan) ≠ []) ∧
    (let b : Bank := { bk 1 2 with lim := 1#64, entries := [(0, 0x7E00#64)] }
     let valid := (List.range (2 ^ 2)).filter b.valid
     (valid.map fun i => (i, codeValue b.elem (b.entry i % 2 ^ fw b.elem))).filter (fun e => !e.2.isNan) = [] ∧
     ∀ v ∈ values b.elem (packNat 16 (List.replicate 128 0x7E00)) 0, v.isNan = true) := by
  refine ⟨by unfold VectorIs; decide +kernel, by decide +kernel, by decide +kernel, by decide +kernel⟩
theorem witness_VectorTakePush :
    ((part).me.regs.ls.getD (16 * (0#1).toNat + (5#4).toNat) {}).st = .arrived ∧ ((part).me.regs.ls.getD (16 * (0#1).toNat + (5#4).toNat) {}).vec = true ∧
    ((part).me.regs.ls.getD 5 {}).visible ≤ (part).me.st.cc ∧ ((part).me.regs.ls.getD 5 {}).mark = 0 ∧ VectorIs (part) 1#4 (vr 3) ∧ (part).me.st.vq.length < 8 ∧
    8 ≤ (part fun x => { x with st.vq := List.replicate 8 { id := 0 } }).me.st.vq.length := by
  unfold VectorIs; decide +kernel

/-! D slot witnesses -/

/-- A legal delay value: NROW 1, ROWPTR 3, STEP 1, SPAN 8. -/
def dcv : Nat := 1 + 3 * 2 ^ 8 + 1 * 2 ^ 16 + 8 * 2 ^ 24
/-- A step in privileged mode whose b5 holds a chain, a legal delay value in b6, and a measurement of chain 9 under way. -/
def privD : State := part fun x => { x with priv := true, regs.b := (x.regs.b.set 5 (rg 263)).set 6 (rg dcv), rcals := [{ chain := 9, land := 1, seq := 0, val := 0#32 }] }
theorem witness_ArrayRegisters :
    ScalarIs privD 6#5 (BitVec.ofNat 64 dcv) ∧ dcOk (BitVec.ofNat 64 dcv).toNat = true ∧ ScalarIs privD 0#5 5#64 ∧ dcOk (5#64).toNat = false ∧
    Has (privD.me.regs.dc.getD (15#4).toNat {}) 0#64 ∧ (33#6).toNat ≤ 33 ∧ 33 < (34#6).toNat ∧ privD.me.priv = true ∧ (part).me.priv = false ∧
    (here privD).trimAccepts 0 (5#64).toNat = true ∧ (here privD).trimAccepts 32 0 = false ∧ 32 < (33#6).toNat ∧
    ScalarIs privD 5#5 263#64 ∧ (∀ r ∈ privD.me.rcals, r.chain ≠ (263#64).toNat) ∧ 263 < (264#64).toNat ∧ privD.me.sys.poison.has (64 + (3#2).toNat) = false ∧
    ScalarIs (part fun x => { x with priv := true, regs.b := x.regs.b.set 0 (rg 264) }) 0#5 264#64 ∧ ScalarIs (part) 0#5 5#64 := by
  unfold ScalarIs Has; decide +kernel
/-- Planes and tiles: free, held by this step, held by another. -/
def others : State := part id fun y => { y with planes := [{ claim := { st := .held, owner := 7 } }, {}, {}, {}], tiles := [{ claim := { st := .held, owner := 7 } }, {}, {}, {}] }
theorem witness_ClaimAndRelease :
    ((here (part)).claim false 1).st = .free ∧ (part).cur.c < 4 ∧ ((here (part)).claim false 1).waiting = [] ∧ Held (part) false 0 ∧ Held (part) true 0 ∧
    (let s := part id fun y => { y with
       planes := [{ claim := { st := .reserved, owner := 0, again := 1 } }, { claim := { waiting := [7] } }, {}, {}]
       ctxs := y.ctxs ++ [(2, { ctxT with sid := 7, ageing := 1, eff := BitVec.ofNat 2048 (2 ^ 228) })] }
     ((here s).claim false 0).st = .reserved ∧ ((here s).claim false 0).owner = s.me.sid ∧
       (∃ e ∈ (here s).ctxs, e.1 < 4 ∧ e.2.live = true ∧ e.2.sid ∈ ((here s).claim false 1).waiting ∧ e.2.sid ≠ s.me.sid ∧ s.me.effPri < e.2.effPri) ∧
       (((here s).claim false 1).owner = s.me.sid → ((here s).claim false 1).st ≠ .held ∧ ((here s).claim false 1).st ≠ .reserved)) ∧
    ((here others).claim true 0).st ≠ .free ∧ ((here others).claim true 0).owner ≠ others.me.sid ∧ ¬Held others false 0 ∧ ¬Held (part) true 3 ∧
    (false = (0#1 == 1#1)) ∧ (true = (1#1 == 1#1)) := by
  unfold Held; decide +kernel
/-- A raw and an expanded image that end at the end of the scratchpad, one misplaced, one beyond. -/
def loadT : State := part (fun x => { x with sys.sel := BitVec.ofNat 12 (2 * 16), regs.b := ((x.regs.b.set 0 (rg (0x300000 - 192))).set 1 (rg 0)).set 2 (rg (0x300000 - 188)) })
  fun y => { y with banks := [bk 1 5, bk 2 1, bk 3 0, bk 4 0] }
theorem witness_PlaneLoad :
    ScalarIs loadT 0#5 (BitVec.ofNat 64 (0x300000 - 192)) ∧ ScalarIs loadT 1#5 0#64 ∧ Held loadT false 0 ∧ ¬Held loadT false 1 ∧ InService loadT ∧ SelClean loadT 1#1 1 ∧ (selBank loadT 1).kind = 3 ∧
    (0x300000 - 192) % 4 = 0 ∧ 0x300000 - 192 + 192 ≤ 0x300000 ∧ 0x300000 - 192 + 32 * selWidth loadT 1 ≤ 0x300000 ∧ ScalarIs loadT 2#5 (BitVec.ofNat 64 (0x300000 - 188)) ∧
    0x300000 < 0x300000 - 188 + 192 ∧ ScalarIs (part) 0#5 5#64 ∧ 5 % 4 ≠ 0 := by
  unfold ScalarIs Has Held InService SelClean; decide +kernel
/-- Passes of a vector and of a record, raw and expanded; the ring's hod holds one raw record of 40 bytes. -/
def passT : State := part (fun x => { x with sys.sel := BitVec.ofNat 12 3, regs.dc := x.regs.dc.set 0 (rg dcv) }) fun y => { y with banks := [bk 1 5, bk 2 1, bk 3 0, bk 4 0] }
theorem witness_RacePasses :
    DcIs passT 0 dcv ∧ Held passT false 0 ∧ Held passT true 0 ∧ InService passT ∧ SelClean passT 1#1 0 ∧ (selBank passT 0).kind = 4 ∧ VectorIs passT 1#4 (vr 3) ∧
    Readable (selBank passT 0) (indices (selWidth passT 0) 64 (vr 3).data.toNat) ∧
    PassClean passT 0 dcv ((List.range 64).map fun k => sext ((vr 3).data.toNat / 2 ^ (8 * k) % 2 ^ 5) 5) ∧
    PassClean passT 0 dcv ((indices (selWidth passT 0) 64 (vr 3).data.toNat).map fun i => sext ((selBank passT 0).entry i) 5) ∧
    (let r : Ring := { cfg := BitVec.ofNat 64 (3 * 2 ^ 50), used := 1, wp := 1, counts := [(0, 2)] }
     RingIs passT 1 0 r ∧ r.ovf = false ∧ r.rcur % 40 = 0 ∧ 0 < r.used ∧ r.fullHod r.rp = true ∧ (here passT).spBad 0 (r.offset r.rp + r.rcur) 40 = false ∧
     r.rcur + 40 + 40 > ringStage r.cfg ∧ Readable (selBank passT 0) (indices (selWidth passT 0) 64 (leNat ((here passT).spRead 0 (r.offset r.rp + r.rcur) 16)))) := by
  unfold DcIs Held InService SelClean VectorIs Readable PassClean RingIs Has; decide +kernel
/-- A hod of two records. -/
theorem witness_RacePasses_further :
    (let r : Ring := { cfg := BitVec.ofNat 64 (3 * 2 ^ 50 + 2 ^ 46), used := 1, wp := 1, counts := [(0, 4)] }
     r.fullHod r.rp = true ∧ r.rcur + 40 + 40 ≤ ringStage r.cfg) := by decide +kernel
def combT : State := part (fun x => { x with sys.sel := BitVec.ofNat 12 (1 * 256) }) fun y => { y with banks := [bk 3 0, bk 1 5, bk 2 1, bk 4 0] }
theorem witness_CombWords :
    VectorIs combT 1#4 (vr 3) ∧ InService combT ∧ SelClean combT 1#1 2 ∧ (selBank combT 2).kind = 1 ∧ (selBank combT 2).elem = 5 ∧
    Readable (selBank combT 2) (indices (selWidth combT 2) 64 (vr 3).data.toNat) := by
  unfold VectorIs InService SelClean Readable; decide +kernel
theorem witness_TileWords :
    ScalarIs (part) 6#5 256#64 ∧ ScalarIs (part) 8#5 0#64 ∧ Held (part) true 0 ∧ ¬Held (part) true 1 ∧ RmodeOk (part) ∧ 0#2 ≠ 3#2 ∧
    (∀ e ∈ (tileAt (part) 0).poison, e.1 ≠ 16384 ∧ ¬(256 * (256 % 64) + 64 * 3 ≤ e.1 ∧ e.1 < 256 * (256 % 64) + 64 * 3 + 64)) ∧
    ScalarIs (part) 7#5 0x40000#64 ∧ (0#64).toNat % 256 = 0 ∧ (0x40000#64).toNat % 256 = 0 ∧ accRow 0 ≤ (0x40000#64).toNat ∧
    ScalarIs (part fun x => { x with regs.b := x.regs.b.set 1 (rg 1024) }) 1#5 1024#64 ∧ 0 + 63 * 1024 + accRow 0 ≤ 0x300000 ∧ accRow 3 ≤ 1024 ∧
    (tileAt (part) 0).poison = [] ∧ QueueRoom (part) := by
  unfold ScalarIs Has Held QueueRoom RmodeOk; decide +kernel
/-- A zero tile; a tile with one mantissa of 1, whose exponent falls by 45; sums inside, below and above the range. -/
def tileT (e : Int) : State := part id fun y => { y with tiles := [{ zero := true, rows := [(0, 1 :: List.replicate 255 0)], exp := some e, claim := { st := .held } }, {}, {}, {}] }
theorem witness_TileScaling :
    (Held (part) true 0 ∧ (tileAt (part) 0).poison = [] ∧ ∀ r < 64, ∀ m ∈ (tileAt (part) 0).row r, m = 0) ∧
    (Held (tileT 0) true 0 ∧ ∃ r < 64, ∃ m ∈ (tileAt (tileT 0) 0).row r, m ≠ 0) ∧
    ((45 ≤ 46 ∧ (∀ r < 64, ∀ m ∈ (tileAt (tileT 0) 0).row r, m.natAbs * 2 ^ 45 < 2 ^ 46) ∧ (-32768 : Int) ≤ (tileAt (tileT 0) 0).expo - (45 : Int)) ∧
      ¬(∀ r < 64, ∀ m ∈ (tileAt (tileT 0) 0).row r, m.natAbs * 2 ^ 46 < 2 ^ 46)) ∧
    ScalarIs (tileT 0) 0#5 5#64 ∧ (-32768 : Int) ≤ (tileAt (tileT 0) 0).expo + sext 5 16 ∧ (tileAt (tileT 0) 0).expo + sext 5 16 ≤ 32767 ∧
    32767 < (tileAt (tileT 32767) 0).expo + sext 5 16 ∧ ScalarIs (tileT (-32768)) 4#5 (BitVec.ofNat 64 (2 ^ 64 - 1)) ∧ (tileAt (tileT 0) 0).poison.has 16384 = false ∧
    (tileAt (tileT (-32768)) 0).expo + sext (2 ^ 64 - 1) 16 < -32768 := by
  unfold Held ScalarIs Has; decide +kernel

/-! E slot witnesses -/

theorem witness_GeometryAndSystem :
    engineSource (part) 0#4 = some (5#64, part) ∧ EgIs (part) (63#6).toNat 0#64 ∧ (part).me.st.run = [] ∧ engineTwo (part) 0#4 1#4 = some (5#64, 7#64, part) ∧
    62#6 ≠ 63#6 := by
  unfold EgIs Has; decide +kernel
/-- A copy inside the scratchpad, one to a ring of this core, one from a held tile, one stamped for yard 0. -/
def cpyT (d d1 : Nat) : State := engT fun x => { x with regs.eg := (x.regs.eg.set 0 (rg d)).set 1 (rg d1) }
def dOwn : Nat := 2 ^ 57 + 2 ^ 54 + 3 * 2 ^ 34
def dRingT : Nat := 2 ^ 57 + 2 ^ 54 + 2 ^ 48 + 2 ^ 44
def dTile : Nat := 3 * 2 ^ 57 + 2 ^ 54 + 3 * 2 ^ 34
def dStamped : Nat := dOwn + 2 ^ 49
theorem witness_CopyWords :
    (∀ d ∈ [dOwn, dStamped], engineSource (cpyT d 5) 2#4 = some (0x100#64, cpyT d 5) ∧ engineSource (cpyT d 5) 8#4 = some (0#64, cpyT d 5)) ∧
    (∀ j < 8, EgIs (cpyT dOwn 0) (8 * (0#3).toNat + j) ([BitVec.ofNat 64 dOwn, 0#64, 0#64, 0#64, 0#64, 0#64, 0#64, 0#64].getD j 0#64)) ∧
    CopyOk (cpyT dOwn 0) .cpy [BitVec.ofNat 64 dOwn, 0#64, 0#64, 0#64, 0#64, 0#64, 0#64, 0#64] 0x100#64 0#64 ∧
    CopyOk (cpyT dRingT 0) .cpy [BitVec.ofNat 64 dRingT, 0#64, 0#64, 0#64, 0#64, 0#64, 0#64, 0#64] 0x100#64 0#64 ∧
    CopyOk (cpyT dTile 0) .cpy [BitVec.ofNat 64 dTile, 0#64, 0#64, 0#64, 0#64, 0#64, 0#64, 0#64] 0#64 0#64 ∧
    CopyOk (cpyT dStamped 5) .cpy [BitVec.ofNat 64 dStamped, 5#64, 0#64, 0#64, 0#64, 0#64, 0#64, 0#64] 0x100#64 0#64 ∧
    CopyOk (cpyT dOwn 0) .cpyg [BitVec.ofNat 64 dOwn, 0#64, 0#64, 0#64, 0#64, 0#64, 0#64, 0#64] 0x100#64 0#64 ∧
    CopyOk (cpyT dOwn 0) .cpyx [BitVec.ofNat 64 dOwn, 0#64, 0#64, 0#64, 0#64, 0#64, 0#64, 0#64] 0x100#64 0#64 ∧
    QueueRoom (cpyT dOwn 0) ∧ Held (cpyT dTile 0) true 0 ∧ dRing dRingT = true ∧ dDsp dRingT = 1 ∧ ¬(dRing dOwn = true ∧ dDsp dOwn = 1) ∧ dSsp dTile = 3 ∧
    MayCreate (cpyT dStamped 5) (myOp (cpyT dStamped 5)).outYards (dYard dStamped) 5 := by
  refine ⟨by decide +kernel, by unfold EgIs Has; decide +kernel, ?_, ?_, ?_, ?_, ?_, ?_, by unfold QueueRoom Held MayCreate YardOk; decide +kernel⟩
  all_goals unfold CopyOk NotRestart
  all_goals refine ⟨by decide +kernel, by decide +kernel, by decide +kernel, by decide +kernel, by decide +kernel, by decide +kernel, ?_, by decide +kernel, by decide +kernel⟩
  all_goals first
    | exact fun h => absurd h (by decide +kernel)
    | exact fun _ => ⟨_, _, rfl, rfl, by decide +kernel⟩
/-- The last entries of a bank, and a save of a whole bank with its registers. -/
theorem witness_CodebookWords :
    engineTwo (part fun x => { x with regs.a := x.regs.a.set 1 (rg 256) }) 2#4 1#4 = some (0x100#64, 256#64, part fun x => { x with regs.a := x.regs.a.set 1 (rg 256) }) ∧
    QueueRoom (part) ∧ (here (part)).locked 0 = false ∧
    EntriesOk 255 1 (some ((mget bankT.me.cblims 0).getD ((here bankT).banks.getD 0 {}).lim.toNat)) 0x100 0 8 ∧ (here bankT).locked 0 = false ∧ QueueRoom bankT ∧
    engineTwo bankT 2#4 4#4 = some (0x100#64, 1#64, bankT) ∧ EntriesOk 0 256 none 0x100 0 2112 ∧ cbBad 0x1500 256 = false ∧ EgIs (part) 4 0#64 ∧ EgIs (part) 63 0#64 ∧
    ((1#1 = 1#1) → (0#8 = 0#8 ∧ 256#64 = 256#64)) := by
  unfold QueueRoom EntriesOk EgIs Has; decide +kernel
/-- A token of 64 bytes at the end of the scratchpad, of a step that keeps nothing and of one that does. -/
theorem witness_TokenWord :
    engineTwo (engT) 0#4 8#4 = some (5#64, 0#64, engT) ∧ EgIs (engT) 0 0#64 ∧ rtDie 0 ≤ 7 ∧ portV ((myOp (engT)).oport (0#2).toNat) = true ∧
    MayCreate (engT) [portYard ((myOp (engT)).oport 0)] (rtYard 0) 5 ∧ (0#64).toNat % 64 = 0 ∧ 0x2FFFC0 + 64 * (1#8).toNat ≤ spadEnd ∧
    ((engT).ld (engT).cur.l).nbrBusy (engT).me.sid = false ∧ (myOp (engT)).restart = false ∧ (engT).me.pending < 4 ∧
    (let r := engT id id fun x => { x with ops := [(0, { opb := BitVec.ofNat 4096 (2 ^ (1472 + 8) + 2 ^ 196) })] }
     (myOp r).restart = true ∧ r.me.kept.length < 16 ∧ MayCreate r [portYard ((myOp r).oport 0)] (rtYard 0) 5) := by
  unfold EgIs Has MayCreate YardOk; decide +kernel
/-- A stamp before the curfew and one at it; conditions of each kind, met and unmet; a time that is over. -/
def condT : State := engT fun x => { x with regs.eg := ((((x.regs.eg.set 0 (rg (2 ^ 60))).set 1 (rg 5)).set 2 (rg (2 * 2 ^ 60 + 2 ^ 16 + 1))).set 4 (rg (3 * 2 ^ 60 + 2 ^ 16 + 1))).set 6 (rg (4 * 2 ^ 60 + 4)) }
def condsT : List (Nat × Nat) := [(2 ^ 60, 5), (2 * 2 ^ 60 + 2 ^ 16 + 1, 0), (3 * 2 ^ 60 + 2 ^ 16 + 1, 0), (4 * 2 ^ 60 + 4, 0)]
theorem witness_WaitWords :
    (accessSource condT 0#4 = some (5#64, condT) ∧ accessSource condT 6#4 = some (1600#64, condT) ∧ YardOk condT 0 0 ∧ isClosed (5#64).toNat = false ∧
      (condT.parish 0 0).passed 0 5 = true ∧ (condT.parish 0 0).passed 0 6 = false ∧ (∃ c ∈ condsT, cKind c.1 ≠ 0) ∧
      condsT.map (fun c => condT.condNow c.1 c.2) = [true, true, true, true] ∧ decide ((5#64).toNat * 70 ≤ condT.ticks - (condT.me.waitc.map (·.since)).getD condT.ticks) = false ∧
      decide ((0#64).toNat * 70 ≤ condT.ticks - (condT.me.waitc.map (·.since)).getD condT.ticks) = true ∧ condT.me.waitc = none ∧
      ((engT).parish 0 0).passed 0 6 = false) ∧
    CondsAre condT 0 condsT ∧ ∀ c ∈ condsT, CondLegal condT c := by
  refine ⟨by unfold YardOk; decide +kernel, ⟨rfl, ?_⟩, ?_⟩
  · intro i hi
    refine ⟨BitVec.ofNat 64 (condsT.getD i (0, 0)).1, BitVec.ofNat 64 (if i = 0 then 5 else 0), ?_⟩
    revert i
    unfold EgIs Has; decide +kernel
  · intro c hc
    refine ⟨?_, ?_, ?_, ?_, ?_⟩
    · revert c; decide +kernel
    · revert c; unfold YardOk; decide +kernel
    · intro h
      refine ⟨0, { cfg := BitVec.ofNat 64 (3 * 2 ^ 50), used := 1, wp := 1, counts := [(0, 2)] }, ?_⟩
      revert c; unfold RingIs; decide +kernel
    · intro h
      refine ⟨0, { cfg := BitVec.ofNat 64 (3 * 2 ^ 50), used := 1, wp := 1, counts := [(0, 2)] }, ?_⟩
      revert c; unfold RingIs; decide +kernel
    · revert c; decide +kernel
/-- A waitc under way, whose conditions are those it read. -/
def wcT : State := engT (fun x => { x with waitc := some { since := 0, ends := 350, conds := condsT } })
theorem witness_WaitWords_kept :
    accessSource wcT 0#4 = some (5#64, wcT) ∧ wcT.me.waitc = some { since := 0, ends := 350, conds := condsT } ∧ YardOk wcT 0 0 ∧
    (∀ c ∈ condsT, (cKind c.1 = 1 → cParish c.1 = 0 ∧ cSel c.1 = 0 ∧ isClosed c.2 = false) ∧ (cKind c.1 = 2 → cSel c.1 = 1)) ∧
    RingIs wcT 1 0 { cfg := BitVec.ofNat 64 (3 * 2 ^ 50), used := 1, wp := 1, counts := [(0, 2)] } := by
  unfold YardOk RingIs; decide +kernel
theorem witness_CapabilityWords :
    engineSource (engT) 0#4 = some (5#64, engT) ∧ NotRestart (engT) ∧ MayCreate (engT) (myOp (engT)).outYards 0 5 ∧ (engT).me.caps.length < 8 ∧
    (0, 5) ∈ (engT fun x => { x with caps := [(0, 5)] }).me.caps ∧ (0, 5) ∉ (engT).me.caps ∧
    (engT.parish 0 (myOp engT).parish).nym1 = 2 ∧ (2#8).toNat ≤ 2 ∧ 2 < (3#8).toNat := by
  unfold NotRestart MayCreate YardOk; decide +kernel
/-- Nothing to publish, a store to publish, a publication done; a BIE of Base state, one that this context owns, one of another. -/
def bieT (r : Nat) (f : Ctx → Ctx := id) : State :=
  (part f id fun x => { x with regs.biebase := 0#64, regs.bielim := 4#64 }).pokeLd 0 0 (natLe 32 r)
theorem witness_PublicationWords :
    (NotRestart (part) ∧ (part).me.pubDone = false ∧ (part).me.hasUnpub (fun h _ => scopeReach 0 1 h) = false ∧ (part).hasRequests 0 0 (fun r => r.atom.isSome && scopeReach 0 1 r.home) = false ∧
      (part).copying 0 0 0 (fun h _ => scopeReach 0 1 h) = false) ∧
    (part fun x => { x with own := [(0, [(0, { val := 1#8 })])] }).me.hasUnpub (fun h _ => scopeReach 0 1 h) = true ∧ (part fun x => { x with pubDone := true }).me.pubDone = true ∧
    (part).fenceMet 0 0 0 2 = true ∧ (part fun x => { x with regs.ls := x.regs.ls.set 0 { st := .pending, glob := true } }).fenceMet 0 0 0 2 = false ∧
    engineSource (bieT 0) 8#4 = some (0#64, bieT 0) ∧ 0 < ((bieT 0).ld 0).regs.bielim.toNat % 2 ^ 17 ∧
    bieCause ((bieT 0).ld 0) 0 = some 0x17F ∧ bieCause ((bieT (2 ^ 192 + 1)).ld 0) 0 = some 0x17D ∧
    (let r := 2 ^ 192 + 2 ^ (80 + 4); ((bieT r).ld 0).bie 0 = r ∧ bieCause ((bieT r).ld 0) 0 = none ∧ bieState r = 1 ∧ (bieT r).oldReader 0 0 = false ∧ bieOwned r 0 0 = false) ∧
    (let r := 2 * 2 ^ 192
     let s := bieT r fun x => { x with openBies := [(0, true)] }
     (s.ld 0).bie 0 = r ∧ bieCause (s.ld 0) 0 = none ∧ bieState r = 2 ∧ bieOwned r 0 0 = true ∧ s.me.openBies.has 0 = true ∧ s.me.pubDone = false) ∧
    (let r := 2 * 2 ^ 192 + 2 ^ 216; ((bieT r).ld 0).bie 0 = r ∧ bieCause ((bieT r).ld 0) 0 = none ∧ bieState r = 2 ∧ bieOwned r 0 0 = false) ∧
    (bieT 0 fun x => { x with pubDone := true }).me.pubDone = true ∧ (bieT 0).commitHolds 0 (((bieT 0).ld 0).bieAddr 0) 32 = false ∧
    ((bieT 0).updLd 0 fun x => { x with commit := some (0, 2 ^ 30) }).commitHolds 0 (((bieT 0).ld 0).bieAddr 0) 32 = true := by
  unfold NotRestart; decide +kernel

/-! Witnesses of operations and events -/

theorem witness_CoreEvents :
    OnCtx 0 0 0 ∧ OnCtx (16 * 1023 + 8) 47 3 ∧
    (let s := part fun x => { x with st.flight := [{ land := 0, slot := 0, seq := 0, dest := .age, pay := .scalar 1#64 }] }
     (s.core 0 0).active = some 0 ∧ (s.ctx 0 0 0).live = true ∧ ∃ f ∈ (s.ctx 0 0 0).st.flight, f.land ≤ (s.ctx 0 0 0).st.cc) ∧
    (let s := part fun x => { x with regs.ls := x.regs.ls.set 31 { st := .pending, here := true, due := 1 } }
     (s.ctx 0 0 0).live = true ∧ ((s.ctx 0 0 0).regs.ls.getD 31 {}).st = .pending ∧ ((s.ctx 0 0 0).regs.ls.getD 31 {}).here = true ∧
       ((s.ctx 0 0 0).regs.ls.getD 31 {}).due ≤ (s.core 0 0).clk + 1) ∧
    (let s := part fun x => { x with fence := some 2 }
     (s.ctx 0 0 0).fence = some 2 ∧ (s.ctx 0 0 0).live = true ∧ s.fenceMet 0 0 0 2 = true) ∧
    (let w : Waitc := { since := 0, ends := 70 }
     let s := part fun x => { x with waitc := some w }
     (s.ctx 0 0 0).waitc = some w ∧ (s.ctx 0 0 0).st.run.length ≤ 15 ∧ (s.ctx 0 0 0).mayAccess = true ∧ (s.core 0 0).active = some 0 ∧ (s.core 0 0).calRun = 0 ∧ (s.core 0 0).switching = 0) ∧
    (let s := part id fun y => { y with planes := [{ claim := { waiting := [0, 9] } }, {}, {}, {}] }
     let e : Nat × Ctx := (0, ctxT)
     ((s.core 0 0).claim false 0).st = .free ∧ (e ∈ (s.core 0 0).ctxs ∧ e.1 < 4 ∧ e.2.live = true ∧ e.2.sid ∈ ((s.core 0 0).claim false 0).waiting) ∧
       ∀ q ∈ (s.core 0 0).ctxs, q.1 < 4 → q.2.live = true → q.2.sid ∈ ((s.core 0 0).claim false 0).waiting → q = e ∨
         q.2.effPri < e.2.effPri ∨ (q.2.effPri = e.2.effPri ∧ e.2.claimAt s.ticks < q.2.claimAt s.ticks)) ∧
    (part id fun y => { y with nbrQ := [{ src := 1, ctx := 0, sid := 0, kind := 2, off := 0 }] }).core 0 0 ≠ (part).core 0 0 ∧
    ((part id fun y => { y with eccHold := 12 }).core 0 0).eccHold ≠ 0 := by
  unfold OnCtx; decide +kernel
/-- The core as a clock finds it before it acts. -/
def clockT (s : State) : State :=
  let t := { s with ticks := max s.ticks (4 * max ((s.core 0 0).clk + 1) (s.ticks / 4)) }.updCore 0 0 fun y =>
    { y with clk := max ((s.core 0 0).clk + 1) (s.ticks / 4), eccHold := y.eccHold - 1 }
  let r := t.retestOthers 0 0
  if (r.core 0 0).switching = 0 then r.reschedule 0 0 else r
def ownT (y : Core) : Core := { y with cbOwner := some (ctxT).setKey }
/-- Its banks hold another context's set, whose region takes part in codebooks. -/
def strangeT : State := part (fun x => { x with sid := 3, opb := BitVec.ofNat 4096 (2 ^ 197) }) fun y => { y with cbOwner := some (9, 9) }
def runT (n w : Nat) : State := part fun x => { x with st.run := List.replicate n { va := 0, size := 8, x := some (BitVec.ofNat 32 w) } }
def exTag (s : State) : Nat := match (((s.landNow 0 0 0).accessTry 0 0 0).1.execTry 0 0 0).2 with | .catchUp => 0 | .issued => 1 | .frozen _ _ => 2 | .trapped _ => 3
/-- A clock in a switch, without an active context, in an exchange's wait, in a freeze, in a freeze that a pass begins, and without one. -/
theorem witness_CoreEvents_clock :
    ((clockT (part id fun y => { y with switching := 3 })).core 0 0).switching ≠ 0 ∧
    (let y := (clockT (part (fun x => { x with live := false }) fun y => { y with active := none })).core 0 0; y.switching = 0 ∧ y.active = none) ∧
    (let y := (clockT strangeT).core 0 0; y.switching = 0 ∧ y.active = some 0 ∧ y.hasSet (y.ctx 0) = false) ∧
    (let y := (clockT (part id fun y => ownT { y with freeze := 2 })).core 0 0
     y.switching = 0 ∧ y.active = some 0 ∧ (y.ctx 0).live = true ∧ (y.ctx 0).paused = none ∧ y.hasSet (y.ctx 0) = true ∧ y.freeze ≠ 0) ∧
    (let u := clockT (part id ownT)
     (u.core 0 0).hasSet ((u.core 0 0).ctx 0) = true ∧ (u.core 0 0).freeze = 0 ∧ (((u.landNow 0 0 0).arrayClock 0 0 0).core 0 0).freeze = 0) := by
  decide +kernel
/-- A trap that is due, one of the access stream that is, and a try of the execute stream that catches up, issues, freezes and traps. -/
theorem witness_CoreEvents_streams :
    (let t : TrapInfo := { cause := 0x2C5, kind := 1 }; ((part fun x => { x with st.dtraps := [t] }).ctx 0 0 0).dueTrap = some t) ∧
    (let t : TrapInfo := { cause := 5, access := true }
     let x := (part fun x => { x with st.atrap := some t }).ctx 0 0 0; x.dueTrap = none ∧ x.st.atrap = some t ∧ x.st.run = []) ∧
    ((part).ctx 0 0 0).dueTrap = none ∧ ((part).ctx 0 0 0).st.atrap = none ∧ ((part).ctx 0 0 0).mayAccess = true ∧ exTag (part) = 0 ∧ exTag (runT 1 0x27C80003) = 1 ∧
    exTag (runT 16 0x27C80003) = 1 ∧ ((runT 16 0x27C80003).ctx 0 0 0).st.run.length = 16 ∧ exTag (runT 1 0x30000006) = 3 ∧ exTag (runT 1 1) = 3 ∧
    ((runT 16 0x27C80003).ctx 0 0 0).mayAccess = true ∧ exTag (part fun x => { x with
      regs.ls := x.regs.ls.set 6 { st := .pending }, st.run := [{ va := 0, size := 8, x := some 0x30000006#32 }] }) = 2 := by
  decide +kernel
/-- A request of each kind at a bank, and a slot of a step that has left its core. -/
theorem witness_CoreEvents_further :
    (∀ n ∈ [0, 1, 2, 3, 4], (((part id fun y => { y with nbrQ := [{ src := 1, ctx := 0, sid := 0, kind := n, off := 0 }] }).core 0 0).nbrQ.head?.map (·.kind)) = some n) ∧
    (let x : Ctx := { ctxT with sid := 9, regs.ls := ctxT.regs.ls.set 31 { st := .pending, here := true, due := 1 } }
     let v : Saved := { ctx := x, core := 0 }
     let s := part id id fun x => { x with saved := [(65535, v)] }
     mget (s.ld 0).saved (65539 - 4) = some v ∧ v.core = 0 ∧ ((s.seated 0 v).ctx 0 0 v.seat).live = true ∧ (((s.seated 0 v).ctx 0 0 v.seat).regs.ls.getD 31 {}).st = .pending ∧
       (((s.seated 0 v).ctx 0 0 v.seat).regs.ls.getD 31 {}).here = true ∧ (((s.seated 0 v).ctx 0 0 v.seat).regs.ls.getD 31 {}).due ≤ ((s.seated 0 v).core 0 0).clk + 1) := by
  decide +kernel
/-- A line with a reserved tag, writes at the ends of a line and of memory, an exported page and one whose generation has gone. -/
def peerT : State :=
  let s := part id id fun x => { x with regs.xlroot := 0x4001#64, regs.expbase := 0x6000#64 }
  let s := s.pokeLd 0 0x4000 (natLe 8 0x4003 ++ natLe 8 0x1000D)
  s.pokeLd 0 0x6000 (natLe 32 (5 + 2 ^ 16 + 3 * 2 ^ 51 + 1 * 2 ^ 54))
/-- Commands of each kind and stage, at the head of their context's queue. -/
def cmdT (q : Cmd) (f : Ctx → Ctx := id) : State := part f fun y => { y with queue := [q] }
def cpyC : Cmd := { id := 1, kind := .cpy, ctx := 0, sid := 0, st := .running, accepted := true, d := List.replicate 8 0#64, n := [8, 1, 1, 1], total := 8 }
def homeR : HomeReq := { src := 0, core := 0, ctx := 0, sid := 0, slot := 6, addr := 0, n := 4, home := 2 }
/-- A home with a load, an atomic that acts, a cas that does not match and a prefetch of the step; a die that a host owns. -/
def rL : HomeReq := { homeR with home := 0 }
def homeT (r : HomeReq) : State := part (fun x => { x with regs.ls := x.regs.ls.set 6 { st := .pending, parts := 1 } }) id fun x => { x with homeQ := [r] }
def leftT (r : HomeReq) : State :=
  (if r.isLoad && r.fixed.isNone then (homeT r).fixImage r.src r.sid r.home r.addr r.n else homeT r).updLd 0 fun x => { x with homeQ := x.homeQ.eraseIdx 0 }
theorem witness_MemoryEvents_home :
    (∀ r ∈ [rL, { rL with atom := some 0, v := 5#64 }, { rL with atom := some 9, v := 5#64 }, { rL with pref := true }],
      (homeT r).servable [] ((homeT r).ld 0).homeQ = [r] ∧ ((homeT r).ld 0).homeQ.findIdx (· == r) = 0) ∧
    ((leftT rL).stepOf 0 0).isSome = true ∧ (leftT { rL with sid := 77 }).stepOf 0 77 = none ∧
    (∀ r ∈ [rL], r.atom = none ∧ r.pref = false ∧ ((leftT r).ld 0).hbm.badRange 0 4 = 0 ∧ leNat ((leftT r).homeBytes 0 0 4) = 0 ∧ (5#64).toNat % 2 ^ (8 * 4) ≠ 0) := by
  decide +kernel
def hostT : State := part id id fun x => { x with host := some 7 }
theorem witness_MemoryEvents :
    dieOk 0 = true ∧ dieOk 8 = true ∧
    (let q := { cpyC with chunk := some [[{ home := 1, addr := 0, val := 0#8 }]] }
     Running (cmdT q) 0 0 0 q ∧ q.chunked = true ∧ q.chunk.isSome = true ∧ (cmdT q).farChunk 0 0 q = some 0) ∧
    2 ^ 29 - 1 < 2 ^ 29 ∧ mgetD ((part).ld 0).hbm.tags 0 0 < 6 ∧ 6 ≤ mgetD ((part id id fun x => { x with hbm := { tags := [(0, 6)] } }).ld 0).hbm.tags 0 0 ∧
    (2 ^ 36 - 2 < 2 ^ 36 ∧ [1#8, 2#8] ≠ [] ∧ [1#8, 2#8].length < 128 ∧ (2 ^ 36 - 2) % 128 + [1#8, 2#8].length ≤ 128) ∧
    (0 % 16 < 8 ∧ (hostT.ld 0).host.isSome = true ∧ 1 ≤ [1#8].length ∧ [1#8].length ≤ 64 ∧ 2 ^ 36 - 1 + [1#8].length ≤ 2 ^ 36 ∧ hostT.commitHolds 0 (2 ^ 36 - 1) 1 = false ∧
      hostT.linesFree 0 (2 ^ 36 - 1) 1 = true ∧ hostT.commitHolds 0 (2 ^ 36 - 64) 64 = false ∧ hostT.linesFree 0 (2 ^ 36 - 64) 64 = true ∧ 2 ^ 36 - 64 + 64 ≤ 2 ^ 36 ∧ 8 % 16 = 8) ∧
    (peerT.exportCheck 0 1 3 0 6 7#3 0x10000 1 4 = .fault (xlCause 6 1 4) ∧ (∃ p, peerT.exportCheck 0 1 3 0 5 7#3 0x10000 1 4 = .ok p) ∧
      (∃ p, peerT.exportCheck 0 1 3 0 5 7#3 0x10000 2 4 = .ok p) ∧ peerT.anyHeld (peerT.exportReads 0 0 0x10000) = false ∧ peerT.commitHolds 0 0x10000 4 = false ∧
      peerT.linesFree 0 0x10000 4 = true) ∧
    (let s := { (part fun x => { x with regs.ls := x.regs.ls.set 6 { st := .pending } }) with
       lds := [(0, (part fun x => { x with regs.ls := x.regs.ls.set 6 { st := .pending } }).ld 0), (2, { homeQ := [homeR] })] }
     (s.ctx 0 0 0).live = true ∧ ((s.ctx 0 0 0).regs.ls.getD 6 {}).st = .pending ∧
       ∃ e ∈ s.lds, e.1 ≠ 0 ∧ ∃ r ∈ e.2.homeQ, (r.ofStep 0 (s.ctx 0 0 0).sid && !r.pref && r.slot == 6) = true ∧ r.home ≠ hostKey) := by
  refine ⟨by decide, by decide, by unfold Running; decide +kernel, by decide, by decide +kernel, by decide +kernel, by decide +kernel, by decide +kernel, ?_, by decide +kernel⟩
  exact ⟨xl_fault (by decide +kernel), xl_ok (by decide +kernel), xl_ok (by decide +kernel), by decide +kernel, by decide +kernel, by decide +kernel⟩
theorem witness_TranslationEvents :
    (let s := part id id fun x => { x with walks := [{ page := 1, who := [(0, 0)] }] }
     (s.ld 0).walks = [] ++ { page := 1, who := [(0, 0)] } :: [] ∧ s.anyHeld ((s.ld 0).walkReads 0 65536 (0, 0)) = false) ∧
    (let s := part id id fun x => { x with missQ := [{ page := 1, who := [(0, 0)] }], walks := List.replicate 63 { page := 2, who := [] } }
     (s.ld 0).missQ = [{ page := 1, who := [(0, 0)] }] ∧ (s.ld 0).walks.length < 64 ∧ (s.ld 0).walks ≠ []) ∧
    ((part id id fun x => { x with regs.xlinvst := 1#64 }).ld 0).invalRange 0 = none ∧
    (let s := part id id fun x => { x with inval := some (4, 2) }
     (s.ld 0).inval = some (4, 2) ∧ (∀ w ∈ (s.ld 0).walks, w.meets 4 2 = false) ∧ (s.ld 0).homeQ = [] ∧ (∀ e ∈ s.lds, ∀ y ∈ e.2.cores, ∀ q ∈ y.2.queue, q.owesWrites = false) ∧ ∀ e ∈ s.lds, ∀ r ∈ e.2.homeQ, r.src ≠ 0) ∧
    ((part id id fun x => { x with commit := some (0, 2 ^ 30) }).ld 0).commit = some (0, 2 ^ 30) := by
  decide +kernel
theorem witness_EngineEvents_accept :
    (cmdT { cpyC with st := .waiting } |>.core 0 0).cmdOf 0 = some { cpyC with st := .waiting } ∧ (cmdT { cpyC with st := .waiting } |>.core 0 0).eccHold = 0 ∧
    ((cmdT { cpyC with st := .waiting }).pkg 0).holding = false ∧ cpyC.isCopy = true ∧ ({ cpyC with kind := .accst } : Cmd).isCopy = false ∧
    Running (cmdT cpyC) 0 0 0 cpyC ∧
    (let q : Cmd := { cpyC with st := .waiting, d := [BitVec.ofNat 64 (3 * 2 ^ 57)] }
     q.isCopy = true ∧ dSsp q.d0 = 3 ∧ ((cmdT q).core 0 0).renorming q.tileNo = false) := by
  unfold Running; decide +kernel
/-- The stages of a transform. -/
def xA : Cmd := { cpyC with kind := .cpyx, input := some ([1#8], false) }
def xB : Cmd := { xA with started := true }
def xC : Cmd := { cpyC with kind := .cpyx, chix := 1, d := [0#64, 0#64, 0#64, 0#64, 0#64, 0#64, 0#64, BitVec.ofNat 64 (9 * 2 ^ 32)] }
theorem witness_EngineEvents_transform :
    Running (cmdT xA) 0 0 0 xA ∧ xA.input = some ([1#8], false) ∧ xA.started = false ∧ xA.chunk = none ∧ Running (cmdT xB) 0 0 0 xB ∧ xB.started = true ∧
    Running (cmdT xC) 0 0 0 xC ∧ xC.chunked = true ∧ xC.total ≠ 0 ∧ xC.outPos < (xC.d.getD 7 0#64).toNat / 2 ^ 32 ∧ ((cmdT xC).ld 0).settled xC.id = true := by
  unfold Running; decide +kernel
/-- The last block of a chunk, a completed copy, codebook commands. -/
def qA : Cmd := { cpyC with chunk := some [[], []], smask := 1, issued := 1 }
def qB : Cmd := { cpyC with chix := 1 }
def qC : Cmd := { cpyC with kind := .cbld, count := 1 }
def qD : Cmd := { cpyC with kind := .cbval }
/-- The floor's bundle has issued, and the banks hold the context's set. -/
def issued (q : Cmd) : State := (cmdT q fun x => { x with st.cc := 1 }).updCore 0 0 fun y => { y with cbOwner := some (ctxT).setKey }
theorem witness_EngineEvents_blocks :
    Running (cmdT qA) 0 0 0 qA ∧ qA.chunk = some [[], []] ∧ bit qA.issued 1 = false ∧ (∀ i < 1, bit qA.issued i = true) ∧
    Running (cmdT qB) 0 0 0 qB ∧ qB.chunked = true ∧ qB.total ≤ 4096 * qB.chix ∧ qB.chunk = none ∧ ((cmdT qB).ld 0).settled qB.id = true ∧ qB.kind ≠ .cpyx ∧
    Running (issued qC) 0 0 0 qC ∧ (issued qC).floorMet 0 0 qC qC.next = true ∧ Running (issued qD) 0 0 0 qD ∧ (issued qD).floorMet 0 0 qD 0 = true := by
  unfold Running; decide +kernel
/-- A copy inside a scratchpad whose chunk reads and translates, one whose source does not, and blocks at hand, on a way and without one. -/
def cB : Cmd := { cpyC with d := [BitVec.ofNat 64 dOwn, 0#64, 0#64, 0#64, 0#64, 0#64, 0#64, 0#64], src := 0x1000#64, dst := 0x2000#64 }
def cE : Cmd := { cB with src := 0xFFFFFFFF#64 }
def bytesAt (h : Nat) (core : Option Nat) : List DstB := [{ home := h, addr := 0x100, val := 3#8, core := core }, { home := h, addr := 0x101, val := 4#8, core := core }]
def chunkRuns (s : State) (q : Cmd) : Bool := match s.chunkSrc 0 0 q with
  | .ok p => !s.wayHeld 0 (farDies 0 (p.2.2.reads.map (·.1))) && (match ((s.keepView 0 0 q p.2.2).updCmd 0 0 q.id fun q => { q with ahead := p.2.1 }).dstRun 0 0 { q with view := p.2.2 } 0 p.1 with
    | .ok ds => ds.length == 8
    | .error _ => false)
  | .error _ => false
theorem witness_EngineEvents_chunks :
    Running (cmdT cB) 0 0 0 cB ∧ cB.chunked = true ∧ cB.chunk = none ∧ cB.input = none ∧ 4096 * cB.chix < cB.total ∧ chunkRuns (cmdT cB) cB = true ∧
    (match (cmdT cE).chunkSrc 0 0 cE with | .ok _ => false | .error _ => true) = true ∧
    (let ds := bytesAt 0 (some 0)
     (cmdT cB).wayHeld 0 (blockDies 0 ds) = false ∧ (blockDies 0 ds).findSome? ((cmdT cB).roundTrip 0) = none ∧ farDies 0 ((bytesAt 0 none).map (·.home)) = [] ∧
       (cmdT cB).cmdAlive 0 0 cB = true) ∧
    (let s := (cmdT cB).updPkg 0 fun g => { g with links := g.links.map fun k => { k with up := false } }
     s.wayHeld 0 (blockDies 0 (bytesAt 1 none)) = false ∧ (blockDies 0 (bytesAt 1 none)).findSome? (s.roundTrip 0) = some 0x301) ∧
    (let q : Cmd := { cpyC with d := [BitVec.ofNat 64 (2 ^ 48 + 2 ^ 54)], total := 9000 }
     q.isCopy = true ∧ dRing q.d0 = true ∧ q.tail = [] ∧ q.smask = 0 ∧ ((cmdT q).core 0 0).cmdOf 0 = some q ∧ q.chunk = none ∧ 4096 * (q.chix + 1) < q.total ∧
       0 < ((bytesAt 0 (some 0)).length + 255) / 256 ∧ ∀ d ∈ bytesAt 0 (some 0), d.page = none) := by
  unfold Running; decide +kernel
/-- The entry of a cbld reads, and a save's bytes have their places. -/
theorem witness_EngineEvents_codebooks :
    (let q : Cmd := { qC with src := 0x1000#64 }
     (match (issued q).cbRead 0 0 q 0x1000 with | .ok p => p.2.1 == false | .error _ => false) = true ∧ (issued q).floorMet 0 0 q q.next = true) ∧
    (let q : Cmd := { cpyC with kind := .cbsave, count := 1, dst := 0x1000#64 }
     (issued q).cmdAlive 0 0 q = true ∧ ((issued q).core 0 0).cbOwner = some ((issued q).ctx 0 0 q.ctx).setKey ∧
       (match (issued q).dstByte 0 0 q 1 0 0x1000 0#8 false with | .ok _ => true | .error _ => false) = true) := by
  decide +kernel
/-- A stopped command, an acknowledgement due, the last sector of a hod, a context whose codebook set is out. -/
def qE : Cmd := { cpyC with st := .stopped, fault := some (0x284, 0) }
def wT : Landing := { core := 0, ring := 0, hod := 63, sector := 511, bytes := [] }
def setT : State := part (fun x => { x with opb := BitVec.ofNat 4096 (2 ^ 197), banks := some (List.replicate 4 {}), sid := 3 }) fun y => { y with cbOwner := some (9, 9) }
theorem witness_EngineEvents_ends :
    (cmdT { qE with sid := 77 }).cmdAlive 0 0 { qE with sid := 77 } = false ∧
    ((cmdT qE).core 0 0).cmdOf 0 = some qE ∧ ((cmdT qE).ld 0).settled qE.id = true ∧ (cmdT qE).cmdAlive 0 0 qE = true ∧ ((cmdT qE).ctx 0 0 qE.ctx).paused = none ∧
    ((part id id fun x => { x with acksDue := [(0, 0, 5, 0)] }).ld 0).acksDue = [(0, 0, 5, 0)] ∧
    ((part id id fun x => { x with landing := [wT] }).ld 0).landing.find? (fun w => w.core == 0 && w.ring == 0 && w.hod == 63 && w.sector == 511) = some wT ∧
    (setT.ctx 0 0 0).live = true ∧ (setT.ctx 0 0 0).priv = false ∧ (setT.ctx 0 0 0).paused = none ∧ (setT.core 0 0).active = some 0 ∧
    (setT.core 0 0).hasSet (setT.ctx 0 0 0) = false ∧ (setT.core 0 0).exchangeFree = true ∧ setT.exchangeHeld 0 0 0 = false ∧ ((setT.storeSet 0 0).ctx 0 0 0).banks.isSome = true ∧
    ((setT.storeSet 0 0).ctx 0 0 0).badBanks = false := by
  decide +kernel

/-- Passes and comb operations read and landing, a renormalisation, measurements due, a re-race, a course due, calibration. -/
def passR : Pass := { seq := 0, va := 0, read := 0, land := 0, sums := [], span := 8, tile := 0, row := 0, exp := 0, claim := 0 }
def combR : Comb := { seq := 0, va := 0, read := 0, land := 0, pay := .scalar 1#64 }
theorem witness_ArrayEvents :
    OnCtx 0 0 0 ∧ ArrayOf (part) 0 0 0 ctxT ∧
    (let x := { ctxT with passes := [passR] }; ArrayOf (part fun _ => x) 0 0 0 x ∧ ((part).core 0 0).rerace = none ∧ x.dueRead = some passR) ∧
    (let x := { ctxT with passes := [{ passR with done := true }] }; ArrayOf (part fun _ => x) 0 0 0 x ∧ ((part).core 0 0).renorm = none ∧ x.duePass = some { passR with done := true }) ∧
    ((part id fun y => { y with renorm := some 3 }).core 0 0).renorm = some 3 ∧
    (let x := { ctxT with passes := [{ passR with done := true, tile := 3 }] }; x.duePass = some { passR with done := true, tile := 3 } ∧
      (((part).core 0 0).tiles.getD 3 {}).claim.st = .free) ∧
    (let x := { ctxT with combs := [combR] }; ArrayOf (part fun _ => x) 0 0 0 x ∧ x.dueComb = some combR) ∧
    (∃ p ∈ [{ combR with done := true }], p.done = true ∧ p.land ≤ 0) ∧ (∃ r ∈ [({ chain := 0, land := 0, seq := 0, val := 0#32 } : Rcal)], r.land ≤ 0) := by
  refine ⟨?_, ?_, ?_, ?_, ?_, ?_, ?_, ?_, ?_⟩
  all_goals try unfold OnCtx
  all_goals try unfold ArrayOf
  all_goals decide +kernel
def loadR : Load := { seq := 0, va := 0, plane := 0, claim := 0, first := 0, count := 64, off := 0, exp := 0#8 }
theorem witness_ArrayEvents_further :
    ((part id fun y => { y with rerace := some (0, false, 0) }).core 0 0).rerace ≠ none ∧ ((part).core 0 0).freeze = 0 ∧
    ((((part fun x => { x with loads := [loadR], st.cc := 9 }).core 0 0).ctxs.filter fun e => e.2.live && e.2.paused.isNone).findSome? fun e =>
      e.2.nextLoad.map fun v => (e.1, v)) = some (0, loadR) ∧
    2 ^ 36 - 1 < 2 ^ 36 ∧ (3 * 2 ^ 24) / 2 ^ 24 % 16 < 4 ∧
    ((part id fun y => { y with calAt := 8 }).core 0 0).calAt ≠ 0 ∧ ((part).core 0 0).calDue = false ∧
    (part id fun y => { y with calReq := true }).calWanted 0 0 = true ∧ ((part id fun y => { y with calReq := true }).core 0 0).freeCtxs ≠ [] ∧
    ((part id fun y => { y with calRun := 1 }).core 0 0).calRun ≠ 0 := by
  decide +kernel
/-- Sums inside and outside a span, a tile at the edge of its range, a re-race of a pass and of a comb, a course that reads and one of the reserved code. -/
def pA : Pass := { passR with sums := (List.range 256).map fun i => if i = 3 then 5000 else 7 }
def bigT : Tile := { rows := [(0, (List.range 256).map fun i => if i = 9 then 2 ^ 46 - 10 else 0)], exp := some 0, claim := { st := .held } }
def raceT (comb : Bool) (n : Nat) : State :=
  part (fun x => { x with passes := [{ pA with races := n }], combs := [{ combR with races := n }] }) fun y => { y with rerace := some (0, comb, 0), tiles := y.tiles.set 0 bigT }
def courseT (w : Nat) : State := part (fun x => { x with loads := [loadR], st.cc := 9 }) fun y => { y with spad := Mem.setBytes y.spad 0 (natLe 192 w) }
def courseRead (s : State) : Except (Nat × Nat) Nat :=
  let y := s.core 0 0
  loadR.course (fun col => y.spBad 0 (loadR.colBits * col / 8) ((loadR.colBits * col % 8 + loadR.colBits + 7) / 8)) (leNat (y.spRead 0 0 192))
set_option maxRecDepth 4000 in
theorem witness_ArrayEvents_passes :
    pA.sums.length = 256 ∧ pA.clamped = 8#256 ∧ (8#256 &&& ~~~pA.clamped) = 0#256 ∧ (1#256 &&& ~~~pA.clamped) ≠ 0#256 ∧
    (let t := bigT; let sums := ((t.row 0).zip (List.replicate 256 (100 : Int))).map fun m => m.1 + alignSum m.2 (0 - t.expo)
     (∃ v ∈ sums, 2 ^ 46 ≤ v.natAbs) ∧ t.expo ≠ 32767 ∧ ({ pA with steps := 16 } : Pass).steps = 16) ∧
    (∀ p ∈ [(false, 1), (true, 2)], ((raceT p.1 p.2).core 0 0).rerace = some (0, p.1, 0) ∧ ((raceT p.1 p.2).core 0 0).freeze = 0) ∧
    ({ pA with races := 1 } : Pass).races < 2 ∧ 2 ≤ ({ combR with races := 2 } : Comb).races ∧
    (∃ m, courseRead (courseT 0) = .ok m) ∧ ∃ e, courseRead (courseT 0x20) = .error e := by
  refine ⟨by decide +kernel, by decide +kernel, by decide +kernel, by decide +kernel, by decide +kernel, by decide +kernel, by decide, by decide, exists_of_ok (by decide +kernel), ?_⟩
  have h : (match courseRead (courseT 0x20) with | .ok _ => false | .error _ => true) = true := by decide +kernel
  split at h
  · cases h
  · exact ⟨_, ‹_›⟩

/-- A queue whose next record is `r`; tables that map page 1; the block at 0x10000 and any region, operator and parish. -/
def recT (r : Nat) (blk : List (BitVec 8) := []) (h : Ld → Ld := id) : State :=
  let s := part id id fun x => h { x with regs.xlroot := 0x4001#64, wqEn := [(0, 1)], wqDesc := [(0, 0x8000 + 4 * 128)], regs.wqdb := [(0, 1#64)] }
  let s := s.pokeLd 0 0x4000 (natLe 8 0x4003 ++ natLe 8 0x1000D)
  (s.pokeLd 0 0x8000 (natLe 64 r)).pokeLd 0 0x10000 blk
def recOf (kind va : Nat) : Nat := kind + va * 2 ^ 320
def opV : Nat := 0x20000 * 2 ^ 64 + 0x10000
def regV : Region := { eff := BitVec.ofNat 2048 (2 ^ 64 + 1000 * 2 ^ 128) }
def placeT : State := recT (recOf 2 0x10000) (natLe 512 opV) fun x => { x with regions := [(0x20000, regV)], parishes := [(0, parT)] }
/-- An ill-formed record, and records of each kind that are refused and that are carried out. -/
def qhT : State := part id id fun x => { x with host := some 7 }
def rOpen : Nat := recOf 1 0x10000
def rPlace : Nat := recOf 2 0x10000
theorem witness_QueueEvents :
    dieOk 0 = true ∧ (qhT.ld 0).host.isSome = true ∧ ((recT 7).nextRecord 0 0 = some 7 ∧ recordBad 7 = true ∧ (recT 7).blockHeld 0 7 = false) ∧
    (let s := recT rOpen; let u := recordRead s 0 0 rOpen
     RecordIs s 0 0 1 rOpen ∧ u.readBlock 0 (recBlock rOpen) 256 = .ok 0 ∧ (u.ld 0).openCause 0 = none) ∧
    (let s := recT rOpen (natLe 256 (2 ^ 246)); let u := recordRead s 0 0 rOpen
     RecordIs s 0 0 1 rOpen ∧ u.readBlock 0 (recBlock rOpen) 256 = .ok (2 ^ 246) ∧ (u.ld 0).openCause (2 ^ 246) = some 0x2C0) ∧
    (let r := recOf 1 0x20000; let s := recT r; RecordIs s 0 0 1 r ∧ (recordRead s 0 0 r).readBlock 0 (recBlock r) 256 = .error 0x14B) := by
  unfold RecordIs; decide +kernel
theorem witness_QueueEvents_place :
    (let u := recordRead placeT 0 0 rPlace
     RecordIs placeT 0 0 2 rPlace ∧ placeT.placeWaits 0 rPlace = false ∧ u.readBlock 0 (recBlock rPlace) 512 = .ok opV ∧ u.placeCause 0 rPlace { opb := BitVec.ofNat 4096 opV } = none ∧
       (u.ld 0).openAt (Op.rcbVa { opb := BitVec.ofNat 4096 opV }) = some regV ∧ (u.ld 0).freeOpid = some 0) ∧
    (let s := recT rPlace; let u := recordRead s 0 0 rPlace
     RecordIs s 0 0 2 rPlace ∧ s.placeWaits 0 rPlace = false ∧ u.readBlock 0 (recBlock rPlace) 512 = .ok 0 ∧ u.placeCause 0 rPlace { opb := BitVec.ofNat 4096 0 } = some 0x2C3) ∧
    (let r := recOf 2 0x20000; let s := recT r; RecordIs s 0 0 2 r ∧ s.placeWaits 0 r = false ∧ (recordRead s 0 0 r).readBlock 0 (recBlock r) 512 = .error 0x14B) := by
  unfold RecordIs; decide +kernel
def refT (kind : Nat) (h : Ld → Ld) : State := recT (recOf kind 0x10000) [] h
/-- A paused step whose fault record stands at 0x10000. -/
def pausedT : State := (refT 6 fun x => { x with pausedRecs := [(0x10000, (1, 0#512))] }).updCtx 0 0 0 fun x => { x with paused := some { cause := 0x2C6, kind := 3 } }
def placeOf (x : Xl) : Option (Nat × Nat) := match x with
  | .ok p => some (p.home, p.addr)
  | _ => none
theorem witness_QueueEvents_further :
    (let r := recOf 3 0x10000
     (let s := refT 3 fun x => { x with regions := [(0x10000, regV)] }; let u := recordRead s 0 0 r
      RecordIs s 0 0 3 r ∧ mget (u.ld 0).regions (recBlock r) = some regV ∧ regV.complete = false ∧ u.readBlock 0 (recBlock r) 256 = .ok 0) ∧
     (let s := refT 3 fun x => { x with ops := [(0, { va := 0x10000 })] }; let u := recordRead s 0 0 r
      RecordIs s 0 0 3 r ∧ (mget (u.ld 0).regions (recBlock r)).filter (fun g => !g.complete) = none ∧
        ((u.ld 0).ops.find? fun o => o.2.va == recBlock r && !o.2.complete) = some (0, { va := 0x10000 }) ∧ u.readBlock 0 (recBlock r) 512 = .ok 0) ∧
     (let s := refT 3 id; let u := recordRead s 0 0 r
      RecordIs s 0 0 3 r ∧ (mget (u.ld 0).regions (recBlock r)).filter (fun g => !g.complete) = none ∧ ((u.ld 0).ops.find? fun o => o.2.va == recBlock r && !o.2.complete) = none)) ∧
    (let r := recOf 4 0x10000
     (let s := refT 4 fun x => { x with regions := [(0x10000, regV)] }
      RecordIs s 0 0 4 r ∧ mget ((recordRead s 0 0 r).ld 0).regions (recBlock r) = some regV ∧ regV.killed = false) ∧
     (RecordIs (refT 4 id) 0 0 4 r ∧ mget ((recordRead (refT 4 id) 0 0 r).ld 0).regions (recBlock r) = none)) ∧
    RecordIs (refT 5 id) 0 0 5 (recOf 5 0x10000) ∧
    (let r := recOf 6 0x20000; RecordIs (recT r) 0 0 6 r ∧ xlFaultOf ((recordRead (recT r) 0 0 r).translateNow 0 48 0 0 1 (recBlock r) 64) = some 0x14B) ∧
    (let r := recOf 6 0x10000; let u := recordRead pausedT 0 0 r
     RecordIs pausedT 0 0 6 r ∧ placeOf (u.translateNow 0 48 0 0 1 (recBlock r) 64) = some (0, 0x10000) ∧ mget (u.ld 0).pausedRecs 0x10000 = some (1, 0#512) ∧
       faultRsvSet ((u.ld 0).num 0x10000 64) = false ∧ (u.ld 0).num 0x10000 64 / 2 ^ 70 % 2 ^ 2 = 0 ∧ (u.resumeStep 0 (1 - 1) r false).isSome = true) ∧
    (let r := recOf 6 0x10000; let u := recordRead (refT 6 id) 0 0 r
     RecordIs (refT 6 id) 0 0 6 r ∧ placeOf (u.translateNow 0 48 0 0 1 (recBlock r) 64) = some (0, 0x10000) ∧ mget (u.ld 0).pausedRecs 0x10000 = none) := by
  refine ⟨?_, ?_, ?_, ?_, ?_, ?_⟩
  all_goals unfold RecordIs
  all_goals decide +kernel

/-! Steps and schedules -/

/-- An operator with one step to release on core 0, its region and parish. -/
def opR : Op := { opb := BitVec.ofNat 4096 (0x20000 * 2 ^ 64 + 2 ^ 256 + 2 ^ 272 + 2 ^ 288 + 2 ^ 304), region := 0x20000, next := some 0 }
def relT (h : Ld → Ld := id) : State := part id id fun x => h { x with ops := [(0, opR)], regions := [(0x20000, regV)], parishes := [(0, parT)] }
def allocR : Alloc := { off := 0, len := 64, sid := 4, freeing := true }
/-- A region's fields as a context keeps them: MAXPRI 2, waiting budget 3 rt, slice 1. -/
def effT : BitVec 2048 := BitVec.ofNat 2048 (2 * 2 ^ 228 + 3 * 2 ^ 144 + 2 ^ 176)
def waitT (f : Ctx → Ctx := id) (g : Core → Core := id) (h : Ld → Ld := id) : State :=
  part (fun x => f { x with eff := effT, opb := BitVec.ofNat 4096 (5 * 2 ^ 224), started := some 0, waitFrom := some 7, st.aWait := some { kind := 1#8, since := 7 } }) g h
theorem witness_StepEvents_release :
    (relT).walkerPick 0 0 true = some (0, 0, 0, 0) ∧ ((relT).pkg 0).quiet = false ∧ (∀ t ∈ ((relT).pkg 0).idleAt, (relT).ticks < t + 700000) ∧
    (let s := { relT with pkgs := [(0, { idleAt := some 0 })], ticks := 800000 }
     (s.pkg 0).quiet = false ∧ (s.pkg 0).idleAt = some 0 ∧ 0 + 700000 ≤ s.ticks ∧ (s.pkg 0).stagAt = none ∧ s.walkerPick 0 0 false ≠ none) ∧
    (let s := { relT with pkgs := [(0, { quiet := true })] }; (s.pkg 0).quiet = true ∧ (s.pkg 0).stagAt = none ∧ s.walkerPick 0 0 false ≠ none) := by
  decide +kernel
theorem witness_StepEvents :
    OnCtx 0 0 0 ∧
    (let s := part fun x => { x with retiring := 2 }
     (s.ctx 0 0 0).live = true ∧ (s.ctx 0 0 0).paused = none ∧ (s.ctx 0 0 0).retiring = 2 ∧ (s.ctx 0 0 0).pending = 0 ∧ s.storesDue 0 0 0 (fun _ _ => true) = false ∧ s.hasRequests 0 0 (fun r => r.atom.isSome) = false) ∧
    (let s := part id fun y => { y with allocs := [allocR] }; (s.core 0 0).allocs.find? (s.freeable 0 0) = some allocR) ∧
    (let s := part fun x => { x with pubReq := some 4 }
     4 < 8 ∧ (s.ctx 0 0 0).pubReq = some 4 ∧ (s.ctx 0 0 0).live = true ∧ (s.ctx 0 0 0).pubDone = false ∧ s.copying 0 0 (s.ctx 0 0 0).sid (fun h _ => scopeReach 0 4 h) = false ∧
       s.storesDue 0 0 0 (fun h _ => scopeReach 0 4 h) = false ∧ s.hasRequests 0 0 (fun r => r.atom.isSome && scopeReach 0 4 r.home) = false) ∧
    (let s := bieT (2 ^ 192) fun x => { x with shWait := some 0 }
     (s.ctx 0 0 0).shWait = some 0 ∧ (s.ctx 0 0 0).live = true ∧ bieState ((s.ld 0).bie 0) = 1 ∧ s.oldReader 0 0 = false ∧
       s.commitHolds 0 ((s.ld 0).bieAddr 0) 32 = false ∧ s.linesFree 0 ((s.ld 0).bieAddr 0) 32 = true) ∧
    (let s := bieT (2 * 2 ^ 192) fun x => { x with pubReq := some 8, openBies := [(0, true)] }
     (s.ctx 0 0 0).pubReq = some (8 + 0) ∧ (s.ld 0).bie 0 = 2 * 2 ^ 192 ∧ (s.ctx 0 0 0).live = true ∧ (s.ctx 0 0 0).pubDone = false ∧ (s.ctx 0 0 0).openBies.has 0 = true ∧
       bieState (2 * 2 ^ 192) = 2 ∧ s.copying 0 0 (s.ctx 0 0 0).sid (inShadow 0 (2 * 2 ^ 192)) = false ∧ s.storesDue 0 0 0 (inShadow 0 (2 * 2 ^ 192)) = false ∧
       s.commitHolds 0 ((s.ld 0).bieAddr 0) 32 = false ∧ s.linesFree 0 ((s.ld 0).bieAddr 0) 32 = true ∧
       s.hasRequests 0 0 (fun q => q.atom.isSome && inShadow 0 (2 * 2 ^ 192) q.home q.addr) = false) ∧
    ((waitT).ctx 0 0 0).budgetEnd = some (7 + (70 * 3 + 70)) ∧ ((waitT).ctx 0 0 0).live = true ∧ ((waitT).ctx 0 0 0).paused = none ∧
    ((waitT).ctx 0 0 0).boundEnd = some (7 * 5) ∧ ((waitT).core 0 0).calRun = 0 ∧ ((waitT).core 0 0).active = some 0 ∧
    (let s := waitT id fun y => { y with active := none }
     (s.ctx 0 0 0).boundEnd = some (7 * 5) ∧ (s.core 0 0).calRun = 0 ∧ (s.ctx 0 0 0).paused = none ∧ (s.core 0 0).active ≠ some 0) ∧
    (let v : Saved := { ctx := { (waitT).ctx 0 0 0 with sid := 9 }, core := 0 }
     let s := part id id fun x => { x with saved := [(65535, v)] }
     mget (s.ld 0).saved 65535 = some v ∧ v.ctx.budgetEnd = some (7 + (70 * 3 + 70)) ∧ v.ctx.paused = none ∧ s.heldFrom 0 v.ctx = none ∧ v.cal = false) ∧
    ((waitT).core 0 0).calFrom = none ∧ (waitT).heldFrom 0 ((waitT).ctx 0 0 0) = none ∧ ((waitT).stepOf 0 0).isSome = true := by
  refine ⟨by unfold OnCtx; decide, ?_, ?_, ?_, ?_, ?_, ?_⟩
  all_goals decide +kernel
/-- An event of a swapped-out context acts on the context of its save slot. -/
theorem witness_StepEvents_saved :
    (∃ u d back, At (waitT) 0 0 0 u d back ∧ (u.ctx 0 0 d).live = true) ∧
    (let s := part id id fun x => { x with saved := [(65535, { ctx := { ctxT with sid := 9 }, core := 0 })] }
     ∃ u d back, At s 0 0 65539 u d back ∧ (u.ctx 0 0 d).live = true) := by
  refine ⟨⟨_, _, _, .inl ⟨by decide, rfl, rfl, rfl⟩, by decide +kernel⟩, ⟨_, _, _, .inr ⟨_, by decide, by decide, rfl, rfl, rfl, rfl, rfl⟩, by decide +kernel⟩⟩
/-- A second context that is ready, a full core that an operator wants, a paused one with a slot to go to, and a saved one to come back. -/
def twoT (f : Ctx → Ctx := id) (g : Ctx → Ctx := id) : State :=
  waitT f (fun y => { y with ctxs := y.ctxs ++ [(1, g { ctxT with sid := 1, eff := effT })], issuing := 1750 })
def fullT : State :=
  waitT id (fun y => { y with ctxs := y.ctxs ++ [(1, { ctxT with sid := 1 }), (2, { ctxT with sid := 2 }), (3, { ctxT with sid := 3 })] })
    fun x => { x with ops := [(0, opR)], regions := [(0x20000, regV)], parishes := [(0, parT)], regs.ctxn := 1#64 }
def savedT : Saved := { ctx := { ctxT with sid := 9 }, core := 0 }
theorem witness_ScheduleEvents :
    ((twoT).core 0 0).active = some 0 ∧ ((twoT).ctx 0 0 0).live = true ∧ ((twoT).ctx 0 0 0).waiting = true ∧ ((twoT).ctx 0 0 0).waitSince = some 7 ∧
    (((twoT).core 0 0).bestReady fun e => e.1 != 0 && ((twoT).core 0 0).mayTake e.2).isSome = true ∧
    ((twoT).ctx 0 0 0).slice ≠ 0 ∧ 1750 * ((twoT).ctx 0 0 0).slice ≤ ((twoT).core 0 0).issuing ∧
    (((twoT).core 0 0).bestReady fun e => e.1 != 0 && e.2.effPri == ((twoT).ctx 0 0 0).effPri && ((twoT).core 0 0).mayTake e.2).isSome = true ∧
    (((twoT).ctx 0 0 1).ready = true ∧ ((twoT).core 0 0).active ≠ some 1 ∧ ((twoT).ctx 0 0 1).effPri < ((twoT).ctx 0 0 1).maxPri) ∧
    ((fullT.ctx 0 0 0).waitSince = some 7 ∧ (fullT.ctx 0 0 0).priv = false ∧ (fullT.ctx 0 0 0).waiting = true ∧ (fullT.ctx 0 0 0).retiring = 0 ∧ (fullT.ctx 0 0 0).paused = none ∧
      fullT.wanting 0 0 ≠ [] ∧ (fullT.ld 0).freeSlot = some 0 ∧ fullT.commitHolds 0 ((fullT.ld 0).slotAt 0) (2 ^ 20) = false ∧ (∀ v ∈ (fullT.ctx 0 0 0).loads, v.bank = none) ∧
      ∀ q ∈ (fullT.core 0 0).queue, q.sid = (fullT.ctx 0 0 0).sid → (fullT.ld 0).settled q.id = true ∧ q.onSet = false) ∧
    (let s := part (fun x => { x with paused := some { cause := 0x2C6 } }) id fun x => { x with regs.ctxn := 1#64 }
     (s.ctx 0 0 0).live = true ∧ (s.ctx 0 0 0).priv = false ∧ (s.ctx 0 0 0).retiring = 0 ∧ (s.ctx 0 0 0).paused.isSome = true ∧ (s.ld 0).freeSlot = some 0 ∧ s.commitHolds 0 ((s.ld 0).slotAt 0) (2 ^ 20) = false ∧
       (s.ctx 0 0 0).loads = [] ∧ (s.core 0 0).queue = [] ∧
       ∀ r ∈ (s.ld 0).faultQ, r.1 ≠ (s.ctx 0 0 0).sid + 1) ∧
    (let s := part id id fun x => { x with saved := [(65535, savedT)] }
     mget (s.ld 0).saved 65535 = some savedT ∧ s.returnCore 0 savedT = some 0 ∧ s.commitHolds 0 ((s.ld 0).slotAt 65535) (2 ^ 20) = false ∧ savedT.ctx.ready = true ∧ savedT.core = 0 ∧
       (let v : Saved := { savedT with ctx.eff := effT }; v.ctx.ready = true ∧ v.ctx.effPri < v.ctx.maxPri) ∧
       ∀ w ∈ (s.ld 0).saved, w.1 = 65535 ∨ s.returnCore 0 w.2 ≠ some 0 ∨ savedBefore savedT w.2 = true) := by
  decide +kernel

/-! Tokens, the belfry and its commands -/

/-- A parish whose home is parish 0 of this die, with a path from its root yard to yard 0. -/
def tokT : Token := { id := 1, src := 0, core := 0, sid := 0, pkg := 0, die := 0, opid := 0, port := 0, dyard := 0, stamp := 5#64, parish := 0, home := 0, hpar := 0, route := 0#64, payload := [] }
/-- A die with an operator that takes signals at port 0 and tokens at ring port 1, whose ring of core 0 is ring 0. -/
def opP : Op := { opb := BitVec.ofNat 4096 (2 ^ (960 + 8) + 2 ^ (1024 + 8) + 2 ^ (1024 + 16) + (3 * 2 ^ 50) * 2 ^ (1216 + 64)), region := 0x20000 }
def belT (h : Ld → Ld := id) : State :=
  part id (fun y => { y with ports := [{ opid := 0, port := 1, slot := 0, ring := 0 }] }) fun x => h { x with ops := [(0, opP)], regions := [(0x20000, regV)], parishes := [(0, parT)] }
def tokR : Token := { tokT with port := 1, payload := [1#8] }
theorem witness_TokenAndBelfryEvents :
    (((belT fun x => { x with tokIn := [{ tokT with way := some 3 }, tokT] }).ld 0).tokIn.find? fun t => t.way.isNone) = some tokT ∧ (belT).tokenOk 0 tokT = true ∧ (belT).tokenOk 0 { tokT with port := 2 } = false ∧
    (belT).tokenOk 0 tokR = true ∧ portRing (((belT).opOf 0 0).inport 1) = true ∧ portRing (((belT).opOf 0 0).inport 0) = false ∧
    (belT).nextToken 0 [] [tokR] = some tokR ∧ (belT).tokenRing 0 tokR = some (0, 0) ∧
    (let s := belT fun x => { x with tokBack := [tokT] }
     (s.ld 0).tokBack.find? (fun t => !(s.stepOf 0 t.sid).any fun x => x.paused.isSome) = some tokT ∧ (s.ld 0).findStep 0 ≠ none ∧ (s.ld 0).findStep 5 = none ∧
       ((s.ld 0).findStep 0).map (fun p => p.2.2.retiring) = some 0 ∧ (((s.updCtx 0 0 0 fun x => { x with retiring := 1 }).ld 0).findStep 0).map (fun p => p.2.2.retiring) = some 1) ∧
    (let b : Batch := { src := 0, home := 0, recs := [{ parish := 0, yard := 0, stamp := 5, delta := 1 }] }
     (belT).batchCause 0 b = none ∧ (belT).batchCause 0 { b with recs := [] } = some 0x249 ∧ ((belT fun x => { x with belfry.openB := [b] }).ld 0).belfry.openB = [b] ∧
       (((belT fun x => { x with belfry.inbox := [{ b with way := some 1 }, b] }).ld 0).belfry.inbox.find? fun b => b.way.isNone) = some b ∧
       (((belT fun x => { x with belfry.openB := [b] }).ld 0).belfry.openB.find? fun a => a.home == 0 && a.auth == none) = some b ∧ b.recs.length + 255 ≤ 256 ∧ 256 < b.recs.length + 256) := by
  decide +kernel
theorem witness_TokenAndBelfryEvents_notices :
    (let n : Notice := { src := 0, parish := 0, yard := 0, value := 7 }
     ((belT fun x => { x with belfry.notices := [n] }).ld 0).nextNotice = some (n, 0) ∧ n.root = false ∧
     ((belT fun x => { x with belfry.notices := [{ n with root := true }] }).ld 0).nextNotice = some ({ n with root := true }, 0)) ∧
    ((belT).ld 0).localParish 0 0 false = some 0 ∧ ((belT).ld 0).localParish 0 0 true = some 0 ∧ (belT).authOk 0 0 none = true ∧ (belT).authOk 0 3 none = false ∧
    (let s := belT fun x => { x with belfry.replies := [{ src := 0, parish := 0 }] }
     ((s.ld 0).belfry.replies.find? fun r => r.way.isNone && seqReached r.value (mgetD (s.ld 0).belfry.seqIn r.src 0)) = some { src := 0, parish := 0 }) ∧
    (let s := belT fun x => { x with belfry.replies := [{ src := 3, parish := 0 }] }
     ((s.ld 0).belfry.replies.find? fun r => r.way.isNone && seqReached r.value (mgetD (s.ld 0).belfry.seqIn r.src 0)) = some { src := 3, parish := 0 }) ∧
    ((part id id fun x => { x with saved := [(5, savedT)] }).ld 0).findStep 9 ≠ none ∧
    (let s := belT fun x => { x with parishes := [(0, { parT with spilled := [(0, 0, 5, 1)] })] }
     ((s.ld 0).parishes.findSome? fun p => p.2.spilled.head?.map fun e => (p.1, e)) = some (0, (0, 0, 5, 1)) ∧ (s.ld 0).resident < residentMax) ∧
    ((5#64).toNat % 2 ^ 16 < ((belT fun x => { x with regs.ltspsz := 6#64 }).ld 0).regs.ltspsz.toNat % 2 ^ 16) := by
  decide +kernel
/-- Commands: a descriptor that may be enabled, one that may not; a root that advances, one that is refused; a foreign parish to disable. -/
def cmdL (h : Ld → Ld := id) : State := ((part id id fun x => h { x with parishes := [(0, parT)], regs.ltparbase := 0x8000#64, regs.ltarg := 5#64 }).pokeLd 0 0x8020 [1#8]).pokeLd 0 0 [1#8]
theorem witness_LogicalTimeCommands :
    ((part id id fun x => { x with regs.ltst := 1#64 }).ld 0).ltBusy = true ∧ ((part).ld 0).ltBusy = false ∧ (0x500#64).toNat / 2 ^ 8 % 16 = 5 ∧
    ((cmdL).ld 0).enableCause 0 = some 0x245 ∧ ((cmdL).ld 0).enableCause 1 = none ∧
    ((cmdL).updLd 0 fun x => x.ltStart 2 0).rootRefusal 0 0 = false ∧ ((cmdL).updLd 0 fun x => x.ltStart 2 1).rootRefusal 0 1 = true ∧ isClosed ((cmdL).ld 0).regs.ltarg.toNat = false ∧
    isClosed closedStamp = true ∧ (((cmdL).updLd 0 fun x => x.ltStart 2 0).parish 0 0).root ≤ ((cmdL).ld 0).regs.ltarg.toNat ∧
    5 < ((cmdL fun x => { x with parishes := [(0, { parT with root := 6 })] }).parish 0 0).root ∧
    ((cmdL).updLd 0 fun x => x.ltStart 3 0).rootRefusal 0 0 = false ∧ (((cmdL).updLd 0 fun x => x.ltStart 4 1).parish 0 1).enabled = false ∧
    (let p := { parT with desc := BitVec.ofNat 256 (1 * 2 ^ 106) }
     let s := cmdL fun x => { x with parishes := [(0, p)] }; (s.parish 0 0).enabled = true ∧ ¬((s.parish 0 0).home = 0 ∧ (s.parish 0 0).hpar = 0)) ∧
    (let s := (cmdL fun x => { x with parishes := [(0, { parT with isSealed := true })] }).updLd 0 fun x => x.ltStart 4 0
     (s.parish 0 0).enabled = true ∧ (s.parish 0 0).home = 0 ∧ (s.parish 0 0).hpar = 0 ∧ (s.parish 0 0).isSealed = true ∧ (s.parish 0 0).allCounts = []) ∧
    ((cmdL fun x => { x with parishes := [(0, { parT with enabling := true })] }).parish 0 0).enabling = true := by
  decide +kernel

/-! Reports, start and links -/

/-- An image, and messages of a table. -/
def sg : Signed := { image := [1#8], ed25519 := [], mldsa65 := [] }
def msixT (m : MsixEntry) (pend : Bool) : State := part id id fun x => { x with msixPend := ({} : Nset).upd 3 pend, msix := [(3, m)] }
theorem witness_ReportAndStartEvents :
    dieOk 0 = true ∧
    (∀ tag ∈ [0, 1], let s := part id id fun x => { x with faultQ := [(tag, 0#512)], regs.fqbase := 4#64 }
     (s.ld 0).faultQ = [(tag, 0#512)] ∧ (s.ld 0).fqRoom = true ∧ s.commitHolds 0 0 64 = false) ∧
    11 < 12 ∧ 0 % 16 < 8 ∧
    ((msixT { addr := 7, data := 9, masked := true } true).ld 0).msixPend.has 3 = true ∧ ((msixT {} false).ld 0).msixPend.has 3 = false ∧
    (mgetD ((msixT { addr := 7, data := 9, masked := true } true).ld 0).msix 3 {}).masked = true ∧ (mgetD ((msixT { addr := 7, masked := false } true).ld 0).msix 3 {}).masked = false ∧
    ((part id id fun x => { x with host := none }).ld 0).host = none ∧ (qhT.ld 0).host = some 7 ∧ 6 ≠ 7 ∧
    ((State.reset).ld 0).stage < 3 ∧ ((State.reset).ld 0).failed = 0 ∧
    (State.reset.updPkg 0 fun g => { g with fwOk := some sg }).stageReady 0 = true ∧ 1023 < 1024 ∧
    (State.reset.pkg 0).fwOk = none ∧ (State.reset.pkg 0).fwRefused = false ∧ ((State.reset.updPkg 0 fun g => { g with mailbox := some sg }).pkg 0).mailbox ≠ none ∧
    newestManifest [] = none := by
  decide +kernel
def pk (f : Pkg → Pkg) : State := State.reset.updPkg 0 f
def meshT (f : Link → Link) : State := pk fun g => g.updLink 2 f
theorem witness_LinkPowerAndRegisterEvents_mesh :
    (let k := ((meshT fun k => { k with fore := { k.fore with recv := 4, buf := [{ seq := 5 }] } }).pkg 0).links.getD 2 {}
     k.up = true ∧ k.paused = false ∧ 5 % 2 ^ 16 = ((k.dir false).recv + 1) % 2 ^ 16 ∧ ((k.dir false).buf.find? fun f => f.seq == 5 % 2 ^ 16).bind (·.last) = none ∧
       7 % 2 ^ 16 ≠ ((k.dir true).recv + 1) % 2 ^ 16 ∧ k.bad.has 100 = false) ∧
    (let t : Transit := { pkt := { id := 0, src := 0, dst := 1 }, pos := (0, 1) }
     let k := ((meshT fun k => { k with back := { k.back with buf := [{ seq := 1, last := some t }] } }).pkg 0).links.getD 2 {}
     ((k.dir true).buf.find? fun f => f.seq == 1).bind (·.last) = some t) ∧
    (let s := meshT fun k => { k with bad := [0, 1, 2, 3].foldl (fun m i => m.upd i true) {}, paused := true }
     ((s.pkg 0).links.getD 2 {}).paused = true ∧
       (let k := ((s.updPkg 0 fun g => g.updLink 2 fun k => { k with bad := k.bad.upd 4 true }).pkg 0).links.getD 2 {}; k.up = true ∧ 5 ≤ k.badIn (4 / 68)) ∧
       (let k := ((s.updPkg 0 fun g => g.updLink 2 fun k => { k with bad := k.bad.upd 135 true }).pkg 0).links.getD 2 {}; k.up = true ∧ k.badIn (135 / 68) < 5)) ∧
    (((meshT fun k => { k with up := false }).pkg 0).links.getD 2 {}).up = false := by
  decide +kernel
theorem witness_LinkPowerAndRegisterEvents_ports :
    (let s := pk fun g => g.updPort 11 fun q => { q with status := 1#64, seq := BitVec.ofNat 64 (512 * 2 ^ 16) }
     (s.port 0 11).up = true ∧ (s.port 0 11).training = false ∧ ((s.port 0 11).sent + 2 ^ 16 - 0 % 2 ^ 16) % 2 ^ 16 = 512 ∧ 512 ≤ (s.port 0 11).behind ∧
       (s.port 0 11).recv = 0) ∧
    ((pk fun g => g.updPort 0 fun q => { q with status := 2#64 }).port 0 0).training = true ∧ bit ((pk fun g => g.updPort 0 fun q => { q with ctl := 4#64 }).port 0 0).ctl.toNat 2 = true ∧
    bit (State.reset.port 0 0).ctl.toNat 2 = false ∧ pkgOf 0 = 0 ∧
    (let s := pk fun g => { g with prRun := some (0, 1) }
     (s.pkg 0).prRun = some (0, 1) ∧ ∀ q ∈ (s.pkg 0).ports, ∀ f ∈ q.buf, ∀ t ∈ f.last, ¬(0 ≤ pkgOf t.pkt.dst ∧ pkgOf t.pkt.dst < 0 + 1)) := by
  decide +kernel
theorem witness_LinkPowerAndRegisterEvents :
    (let g := State.reset.pkg 0; g.idleAt = some 0 ∧ g.floorDone = false ∧ g.floorAt = none) ∧ (part id fun y => { y with filler := true }).forced 0 = true ∧
    ((pk fun g => { g with idleAt := none }).pkg 0).idleAt = none ∧
    (State.reset.pkg 0).quiet = false ∧ State.reset.stepsGone 0 = true ∧
    ((pk fun g => { g with floorAt := some 1 }).pkg 0).floorAt = some 1 ∧ (State.reset.pkg 0).floorDone = false ∧
    (let s := pk fun g => { g with stagAt := some 1, quiet := true }; (s.pkg 0).stagAt = some 1 ∧ (s.pkg 0).quiet = true) ∧
    (let s := pk fun g => { g with fillers := true }
     (s.pkg (pkgOf 0)).fillers = true ∧ (s.core 0 47).calRun = 0 ∧ (∀ e ∈ (s.core 0 47).ctxs, e.2.ready = false) ∧ (s.core 0 47).hasFree = true ∧ (s.core 0 47).filler = false) ∧
    (State.reset.pkg 0).writePower 0 1500 = some (some { State.reset.pkg 0 with pwcap := 1500 }) ∧ (State.reset.pkg 0).writePower 0 99 = some none ∧
    (State.reset.pkg 0).writePower 0x100 0 = none ∧
    (qhT.ld 0).host.isSome = true ∧ (qhT.ld 0).stage ≠ 0 ∧ 32760 % 8 = 0 ∧ 32760 < 2 ^ 15 ∧ 8191 < 8192 ∧
    (let s := State.reset.updLd 0 fun x => { x with host := some 7 }; (s.ld 0).host.isSome = true ∧ (s.ld 0).stage = 0) := by
  decide +kernel

/-! Encodings, steps and traps -/

theorem witness_DecodeOfEncode : (Instr.lda 3#4 0x1000#16).slot = some 0 ∧ (Instr.lda 3#4 0x1000#16).ill = none ∧ (Instr.rtopk 10#4 63#6 1#1 1#1).slot = some 4 ∧
    (Instr.rtopk 10#4 63#6 1#1 1#1).ill = none := by decide +kernel
theorem witness_EncodeOfDecode : decodeSlot 3 0x0B89CAA0#32 = .ok (.vsel 8#4 9#4 12#4 10#4 10#4) ∧ 4 < 5 := by decide +kernel
theorem witness_WrittenWords : (0x00FFFFFF#32).extractLsb' 24 8 = 0#8 ∧ (0xB4000000#32).extractLsb' 26 6 = 0b101101#6 := by decide
/-- A bundle of one A word, and an execute half of one X word. -/
theorem witness_StepRunsDecoded :
    (∃ p, fetchBundle (State.reset.withFetchWord 32 0x01301000) = .ok p ∧ p.1.words = [some 0x01301000#32, none, none, none, none] ∧ p.1.hold = 0#5 ∧ p.1.sync = 0#2 ∧ p.2.me.st.half = none) ∧
    decodeSlot 0 0x01301000#32 = .ok (.lda 3#4 0x1000#16) ∧ needsPriv (.lda 3#4 0x1000#16) = false ∧
    (part fun x => { x with st.run := [{ va := 0, size := 8, x := some 0x27C80003#32 }] }).me.st.run = [{ va := 0, size := 8, x := some 0x27C80003#32 }] ∧
    decodeSlot 2 0x27C80003#32 = .ok (.li 25#5 3#19) ∧ (part).agenda = [] ∧ (Instr.lda 3#4 0x1000#16).slot = some 0 := by
  refine ⟨?_, by decide +kernel⟩
  obtain ⟨p, h, hp⟩ := ok_and (e := fetchBundle (State.reset.withFetchWord 32 0x01301000))
    (P := fun p => decide (p.1.words = [some 0x01301000#32, none, none, none, none] ∧ p.1.hold = 0#5 ∧ p.1.sync = 0#2 ∧ p.2.me.st.half = none)) (by decide +kernel)
  exact ⟨p, h, of_decide_eq_true hp⟩
/-- A bundle with one word, of slot `k`. -/
def lone (k w : Nat) : State := (code).pokeLd 0 0x10000 (natLe 4 (0xB4000000 + 2 ^ (21 + k)) ++ natLe 4 w)
def fetched (s : State) (P : Bundle → State → Bool) : Bool := match fetchBundle s with
  | .ok p => P p.1 p.2
  | .error _ => false
/-- A lone E word runs: its sources are at hand and its operation completes. -/
def engineRuns (s : State) (i : Instr) : Bool := fetched s fun b t =>
  let f := ({ t.me with st.goto := .fall } : Ctx).fallsTo b
  let t1 := t.updMe fun x => { x with st.goto := .fall, st.skipTo := f.1, st.skipLoops := f.2 }
  match takeQueued (eSources t1.me i) (t1.updMe fun x => { x with regs.a := t1.me.regs.a }) with
  | .ok (vs, v) => (match slotOp i (v.updMe fun x => { x with st.popped := vs }) with | .ok _ => true | .error _ => false)
  | .error _ => false
/-- A lone half of the execute stream runs. -/
def halfRuns (n w : Nat) : Bool :=
  let b : RunB := { va := 0x10000, size := 8, x := if n = 2 then some (BitVec.ofNat 32 w) else none, v := if n = 3 then some (BitVec.ofNat 32 w) else none, d := if n = 4 then some (BitVec.ofNat 32 w) else none }
  let s := part fun x => { x with st.run := [b] }
  let t := { s with cur := { l := 0, k := 0, c := 0 } }.updCtx 0 0 0 (fun x => x.landAll s.ticks)
  t.me.st.run == [b] && match decodeSlot n (BitVec.ofNat 32 w) with
    | .ok i => (match slotOp i (t.updMe fun x => { x with st.last := x.st.last.set n (some (BitVec.ofNat 32 w)) }) with | .ok _ => true | .error _ => false)
    | .error _ => false
/-- An E word that moves a register and one that pops; an X, a V and a D half; a bundle whose X word is illegal beside a legal A word. -/
theorem witness_StepRunsDecoded_halves :
    (∀ w ∈ [0x01300005, 0x01F00005], fetched (lone 1 w) (fun b t => decide (b.words = [none, some (BitVec.ofNat 32 w), none, none, none] ∧ b.hold = 0#5 ∧ b.sync = 0#2 ∧
      t.me.st.half = none)) = true ∧ (lone 1 w).me.st.passOver = false) ∧
    engineRuns (lone 1 0x01300005) (.mte 3#4 5#6) = true ∧ engineRuns (lone 1 0x01F00005) (.mte 15#4 5#6) = true ∧
    halfRuns 2 0x27C80003 = true ∧ halfRuns 3 0x0CB9D000 = true ∧ halfRuns 4 0x12000004 = true ∧
    (let s := (code).pokeLd 0 0x10000 (natLe 4 (0xB4000000 + 2 ^ 21 + 2 ^ 23) ++ natLe 4 0x01301000 ++ natLe 4 1)
     fetched s (fun b t => decide (b.words = [some 0x01301000#32, none, some 1#32, none, none] ∧ b.hold = 0#5 ∧ t.cur = s.cur ∧ t.me.st.half = none)) = true ∧ s.me.st.passOver = false) ∧
    decodeSlot 2 1#32 = .error ⟨3, .opcode⟩ ∧ decodeSlot 0 0x01301000#32 = .ok (.lda 3#4 0x1000#16) ∧ needsPriv (.lda 3#4 0x1000#16) = false := by
  decide +kernel
/-- A word placed where the first step after reset fetches is fetched, decoded and issued: lda (log entry 6). -/
theorem test_first_word_access :
    ∃ t, step (State.reset.withFetchWord 32 0x01301000) = .next t ∧ (t.ctx 0 0 0).regs.a.getD 3 {} = { val := 0x1000#64, valid := true } ∧ (t.ctx 0 0 0).st.pc = 65544 :=
  ⟨_, rfl, by decide +kernel, by decide +kernel⟩
/-- And li, whose result lands one clock later. -/
theorem test_first_word_scalar :
    ∃ t, step (State.reset.withFetchWord 32 0x27C80003) = .next t ∧ (t.ctx 0 0 0).st.cc = 1 ∧ ((t.ctx 0 0 0).landDue).regs.k.getD 9 {} = { val := 3#64, valid := true } :=
  ⟨_, rfl, by decide +kernel, by decide +kernel⟩
theorem witness_StepKeepsMemory : MemOk State.reset ∧ ∃ t, step State.reset = .next t := by
  refine ⟨⟨rfl, fun _ => rfl, fun _ _ => rfl⟩, _, rfl⟩
/-- A trap of class 2 that HCLS enables; a return entry. -/
def trapT : State := part fun x => { x with opb := BitVec.ofNat 4096 (2 ^ 192 + 0x10000 * 2 ^ 128) }
/-- A trap that no handler takes; records whose action kills, kills the region, pauses, and discards. -/
theorem witness_HandlerEntryAndReturn_policy :
    bit ({ opb := (part).me.opb } : Op).hcls 0 = false ∧ (part).cur.c < 4 ∧ handlerBit (0x080 / 64) = some 0 ∧ ((part).ld 0).findStep 0 ≠ none ∧
    (∀ n < 4, (BitVec.ofNat 512 (n * 2 ^ 30)).extractLsb' 30 2 = BitVec.ofNat 2 n) ∧ (BitVec.ofNat 512 (2 ^ 28)).getLsbD 28 = true := by
  decide +kernel
theorem witness_HandlerEntryAndReturn :
    handlerBit (0x080 / 64) = some 0 ∧ bit ({ opb := trapT.me.opb } : Op).hcls 0 = true ∧ trapT.me.priv = false ∧ trapT.me.st.rstack.length < 8 ∧ trapT.me.st.handler = false ∧
    ((trapT.me.st.run.head?).map (·.inH)).getD trapT.me.st.handler = false ∧
    ({ ctxT with st.rstack := [{ trap := true, va := 4 }] } : Ctx).st.rstack = [{ trap := true, va := 4 }] := by
  decide +kernel
/-- Two results in flight: of one cc from different slots, of different cc, to ages, to one register, to VFLAGS and RFLAGS, scalars and vectors. -/
theorem witness_Landing :
    let f : Fly := { land := 1, slot := 0, seq := 0, dest := .age, pay := .scalar 1#64 }
    let g : Fly := { land := 1, slot := 2, seq := 0, dest := .age, pay := .scalar 2#64 }
    let x : Ctx := { ctxT with st.flight := [g, f], st.cc := 1 }
    let rank (f : Fly) : Nat := match f.dest with
      | .sysreg _ => 0
      | _ => f.slot + 1
    x.st.flight = [g, f] ∧ f.land ≤ x.st.cc ∧ g.land ≤ x.st.cc ∧ f.land = g.land ∧ rank f < rank g ∧ ({ f with land := 0 } : Fly).land < g.land ∧
    rank { f with seq := 3 } = rank { f with dest := .reg 3 } ∧ ({ f with seq := 0 } : Fly).seq < ({ f with seq := 3 } : Fly).seq ∧
    rank { g with dest := .sysreg 8 } < rank f ∧ ({ f with dest := .sysreg 9 } : Fly).dest = .sysreg 9 ∧ ({ f with pay := .vec 5#2048 6#256 } : Fly).pay = .vec 5#2048 6#256 ∧
    (∀ n ∈ [8, 9], f.dest ≠ .sysreg n) := by
  decide +kernel
theorem witness_RegisterFrames : (4 : Nat) ≠ (3#4).toNat := by decide
theorem witness_StoreFrame :
    accessTwo (part) 2#4 15#4 = some (0x100#64, 9#64, part fun x => { x with st.sq := [{ id := 1, val := some 8#64 }] }) ∧ LocalOk false 0x100 8 8 ∧
    (∃ u, exec (.sts 2#4 6#3 0#1 0#7) (part) = .next u) ∧ (here (part)).spad.wf = true := by
  refine ⟨by decide +kernel, by unfold LocalOk; decide, ⟨_, rfl⟩, by decide +kernel⟩

/-! Single steps whose results the spec gives -/

/-- What an instruction sends on its way to land. -/
def landing (r : Res) : List Payload := match r with
  | .next t => (t.ctx 0 0 0).st.flight.map (·.pay)
  | _ => []
def landed (r : Res) : Nat × Nat := match landing r with
  | [.vec d w] => (d.toNat, w.toNat)
  | _ => (0, 0)
def caught (r : Res) : Option Nat := match r with
  | .next t => (t.ctx 0 0 0).paused.map (·.cause)
  | _ => none
def combResult (r : Res) : List Payload := match r with
  | .next t => (t.ctx 0 0 0).combs.map (·.pay)
  | _ => []
def withVW (n : Nat) (d : Nat) (w : Nat := 0) : State := part fun x => { x with regs.v := x.regs.v.set 0 (vr d w), regs.w := x.regs.w.set n (vr d w) }
/-- The borderline cases of R289: b0 = 5, b2 = 0, b3 = -2^63, b4 = -1. -/
theorem test_div : landing (exec (.div 0#5 0#5 2#5 0#1) part) = [.scalar (BitVec.allOnes 64)] ∧
    landing (exec (.div 0#5 3#5 4#5 0#1) part) = [.scalar 0x8000000000000000#64] ∧ caught (exec (.div 0#5 0#5 2#5 1#1) part) = some 0x080 ∧
    caught (exec (.div 0#5 3#5 4#5 1#1) part) = some 0x081 := by decide +kernel
theorem test_rem : landing (exec (.rem 0#5 0#5 2#5 0#1) part) = [.scalar 5#64] ∧ landing (exec (.rem 0#5 3#5 4#5 0#1) part) = [.scalar 0#64] := by
  decide +kernel
theorem test_mulh : landing (exec (.mulh 0#5 4#5 4#5) part) = [.scalar 0#64] ∧ landing (exec (.mulhn 0#5 4#5 4#5) part) = [.scalar 0xFFFFFFFFFFFFFFFE#64] := by
  decide +kernel
/-- R292: li b, 0x2345 and then lih b, 0x1 give 0x8_2345. -/
theorem test_lih : landing (exec (.lih 0#5 1#19) (part fun x => { x with regs.b := x.regs.b.set 0 (rg 0x2345) })) = [.scalar 0x82345#64] := by
  decide +kernel
/-- R322: vrcp.f32 of 3.0 is 0x3EAA_AAAB. -/
theorem test_vrcp : (landed (exec (.vrcp 0#4 0#4 0#4 0#4) (withVW 0 0x40400000))).1 % 2 ^ 32 = 0x3EAAAAAB := by decide +kernel
/-- The worked case of R317: bank 1 holds -1, 0, 0.5 and 2 in FP16. -/
def bankW : Bank := { entries := [(0, 0xBC00#64), (2, 0x3800#64), (3, 0x4000#64)], vmap := 15#256, lim := 4#64, fmt := 0x1200#64 }
def searchW (d : Nat) : State :=
  part (fun x => { x with regs.v := x.regs.v.set 0 (vr d), regs.w := x.regs.w.set 3 (vr d) }) fun y => { y with banks := y.banks.set 1 bankW }
theorem test_vcbi : (landed (exec (.vcbi 11#4 0#4 4#4) (searchW 0x3400C2003D0034CD))).1 = 0x4A + 0x55 * ((2 ^ 248 - 1) / 255) * 256 := by decide +kernel
theorem test_vcbx : (landed (exec (.vcbx 12#4 11#4 4#4) (searchW (0x4A + 0x55 * ((2 ^ 248 - 1) / 255) * 256)))).1 = 0x0000BC0038003800 := by decide +kernel
/-- The worked case of R234: one E2M1X block and its scale, special and flags. -/
theorem test_vqnt :
    (let r := landed (exec (.vqnt 0#4 0#4 0#4 12#4 0#4 0#4) (withVW 0 (packNat 32 [0x40A00000, 0xBF400000, 0x3FA66666, 0x412E6666, 0xC1100000, 0x41300000, 0xC1300000])))
     r.1 % 2 ^ 128 = 0x0F8E8194 ∧ r.2 % 256 = 0x80 ∧ r.2 / 2 ^ 128 % 256 = 0x4B) := by decide +kernel
/-- The worked case of R362: lanes 3, 17 and 60 tie behind lane 40. -/
def combW : State := withVW 2 (packNat 8 ((List.range 64).map fun i => if i = 3 ∨ i = 17 ∨ i = 60 then 200 else if i = 5 then 199 else if i = 40 then 250 else 10))
theorem test_rtopk : (combResult (exec (.rtopk 10#4 3#6 0#1 1#1) combW)).map (fun p => match p with | .vec d _ => d.toNat % 2 ^ 160 | _ => 0) =
    [packNat 32 [0x28FA, 0x03C8, 0x11C8, 0x3CC8, 0xFFFFFFFF]] := by decide +kernel
theorem test_rmax : combResult (exec (.rmax 10#4 0#1) combW) = [.scalar 0x28FA#64] := by decide +kernel
theorem test_rmin : combResult (exec (.rmin 10#4 0#1) combW) = [.scalar 0x000A#64] := by decide +kernel
theorem test_rrank : (combResult (exec (.rrank 10#4 0#1 1#1) combW)).map (fun p => match p with
    | .vec d _ => [d.toNat / 2 ^ 160 % 2 ^ 32, d.toNat % 2 ^ 32, d.toNat / 2 ^ 128 % 2 ^ 32] | _ => []) = [[4, 5, 8]] := by decide +kernel
/-- The worked case of R241: 2^46 - 10 and 7 are halved, and 25 is aligned again from its sum. -/
def passW : Pass := { seq := 0, va := 0, read := 0, land := 0, tile := 1, row := 5, sums := (List.range 256).map fun i => if i = 9 then 25 else 0, exp := 0, span := 10, claim := 0, done := true }
def tileW : State := part (fun x => { x with passes := [passW] }) fun y => { y with
  tiles := y.tiles.set 1 { rows := [(0, 7 :: List.replicate 255 0), (5, (List.range 256).map fun i => if i = 9 then 2 ^ 46 - 10 else 0)], exp := some 0, claim := { st := .held } } }
theorem test_renormalisation :
    (let s := tileW.landPass 0 0 0 passW
     let t := s.renormStep 0 0 0 1
     let u := t.landPass 0 0 0 { passW with steps := 1 }
     (s.core 0 0).renorm = some 1 ∧ (t.core 0 0).freeze = 64 ∧ (t.core 0 0).renorming 1 = true ∧ (u.core 0 0).renorming 1 = false ∧ ((u.core 0 0).tiles.getD 1 {}).expo = 1 ∧
       (((u.core 0 0).tiles.getD 1 {}).row 5).getD 9 0 = 2 ^ 45 + 7 ∧ (((u.core 0 0).tiles.getD 1 {}).row 0).getD 0 0 = 4 ∧ (u.ctx 0 0 0).sys.rflags = 0#4) := by
  decide +kernel
/-- R268: a bx taken in the last bundle of a level that stays open makes no end test; one that is not taken makes it. -/
def loopW : Ctx := { ctxT with
  st.pc := 0x20, st.loops := [{ first := 8, last := 16, exit := 24, count := 1, frame := 0 }], st.await := true, st.skipTo := 8,
  st.skipLoops := [{ first := 8, last := 16, exit := 24, count := 1, frame := 0 }],
  st.run := [{ va := 16, size := 8, opened := [{ first := 8, last := 16, exit := 24, count := 2, frame := 0 }] }] }
theorem test_bx_levels : ((loopW.resolve (some 12)).st.loops.map (·.count)) = [2] ∧ ((loopW.resolve (some 40)).st.loops) = [] ∧
    ((loopW.resolve none).st.loops.map (·.count)) = [1] ∧ (loopW.resolve none).st.pc = 8 := by decide +kernel

end Sys2Proof.Tests
end

/-! What stands in the part after reset. The reset state lists no die and no core, so each of them, whatever its number, is the one that
unlisted numbers read as (log entry 3). -/

namespace Sys2Proof.Machine

open Sys2Proof.Claim

@[simp] theorem mgetD_nil {α : Type} (n : Nat) (d : α) : mgetD ([] : Smap α) n d = d := by rw [mgetD, mget_nil, Option.getD_none]

@[simp] theorem reset_ld (l : Nat) : State.reset.ld l = {} := by rw [State.ld, State.reset, mgetD_nil]

@[simp] theorem reset_core (l k : Nat) : State.reset.core l k = {} := by rw [State.core, reset_ld, Ld.core, mgetD_nil]

@[simp] theorem Mem.wf_nil : Mem.wf [] = true := rfl

/-- The memories of the reset state list nothing, which is canonical (log entry 2). -/
theorem memOk_reset : MemOk State.reset := by
  refine ⟨Mem.wf_nil, fun l => ?_, fun l k => ?_⟩
  · rw [reset_ld, Mem.wf_nil]
  · rw [reset_core, Mem.wf_nil]

/-- Settles O56: the memories by `memOk_reset`; every die and every core is the unlisted one, by `reset_ld` and `reset_core`, whose trims
and CALCTL have the values that R336 and R338 state for reset. -/
theorem resetState : Obligations.ResetState := by
  refine ⟨memOk_reset, rfl, rfl, rfl, fun l _ => ?_⟩
  rw [reset_ld]
  refine ⟨rfl, rfl, rfl, fun k _ => ?_⟩
  rw [reset_core]
  exact ⟨rfl, rfl, rfl, rfl⟩

end Sys2Proof.Machine

/-! Operations that complete: one after another, in blocks that go on under a condition, and as slot words and events. -/

namespace Sys2Proof.Machine

/-- An operation that completes hands on its result and its state. -/
theorem bind_ok {α β : Type} {m : M α} {s t : State} {a : α} (h : m s = .ok (a, t)) (f : α → M β) : (m >>= f) s = f a t := by
  rw [M_bind, h]

theorem check_ok {b : Bool} (h : b = true) (slot cause addr : Nat) (s : State) : check b slot cause addr s = .ok ((), s) := by
  rw [h, check_true]

theorem need_ok {b : Bool} (h : b = true) (s : State) : need b s = .ok ((), s) := by rw [h, need_true]

/-- A choice between two operations, in a block that goes on. -/
theorem ite_bind_ok {α β : Type} {c : Prop} [Decidable c] {m n : M α} {s t : State} {a : α} (h : (if c then m else n) s = .ok (a, t))
    (f : α → M β) : (if c then m >>= f else n >>= f) s = f a t := by
  split at h
  · exact (congrFun (if_pos ‹c›) s).trans (bind_ok h f)
  · exact (congrFun (if_neg ‹¬c›) s).trans (bind_ok h f)

/-- An operation that is made on a condition, in a block that goes on. -/
theorem when_bind_ok {β : Type} {c : Prop} [Decidable c] {m : M Unit} {s t : State} (h : (if c then m else pure ()) s = .ok ((), t))
    (f : Unit → M β) : (if c then m >>= f else f ()) s = f () t := by
  split at h
  · exact (congrFun (if_pos ‹c›) s).trans (bind_ok h f)
  · obtain rfl : s = t := by simpa using h
    exact congrFun (if_neg ‹¬c›) s

theorem when_ok {c : Prop} [Decidable c] {m : M Unit} {s : State} (h : c → m s = .ok ((), s)) : (if c then m else pure ()) s = .ok ((), s) := by
  split
  · exact h ‹c›
  · rfl

/-- An event of units that exist answers what its operation leaves. -/
theorem runEv_ok {b : Bool} {m : M Unit} {s t : State} (units : b = true) (h : m s = .ok ((), t)) : runEv b m s = .next t := by
  rw [runEv, if_pos units, h]

@[simp] theorem settle_st (x : Ctx) (now : Nat) : (x.settle now).st = x.st := by unfold Ctx.settle; split <;> rfl
@[simp] theorem settle_pubReq (x : Ctx) (now : Nat) : (x.settle now).pubReq = x.pubReq := by unfold Ctx.settle; split <;> rfl
@[simp] theorem settle_shWait (x : Ctx) (now : Nat) : (x.settle now).shWait = x.shWait := by unfold Ctx.settle; split <;> rfl

/-- A slot word whose operation waits leaves its request and the wait of the access stream (R205). -/
theorem runSlot_waits {m : M Unit} {s : State} {w : Wait} {ask : State → State} (h : m s = .error (.wait w ask)) :
    ∃ u v, runSlot m s = .next u ∧ u.me.pubReq = (ask s).me.pubReq ∧ u.me.shWait = (ask s).me.shWait ∧ u.me.st.aWait = some v := by
  refine ⟨_, { w with since := sinceOf (ask s).me.st.aWait w s.ticks }, by rw [runSlot, h], ?_, ?_, ?_⟩
  · rw [me_updMe, Ctx.waitA, settle_pubReq]
  · rw [me_updMe, Ctx.waitA, settle_shWait]
  · rw [me_updMe, Ctx.waitA, settle_st]

end Sys2Proof.Machine

/-! The engine's copy words (R379 to R387): what each check and each operation of a legal copy answers. -/

namespace Sys2Proof.Machine

open Sys2Proof.Claim

/-! Operands -/

theorem useReg_has {r : Reg} {v : Word} (h : Has r v) (slot detail index : Nat) (s : State) : useReg slot detail index r s = .ok (v, s) := by
  obtain ⟨valid, clean, rfl⟩ := h
  exact useReg_ok slot detail index r s valid clean

/-- A geometry register that holds a value is read (R378). -/
theorem readEg_ok {s : State} {n : Nat} {v : Word} (h : EgIs s n v) : readEg 2 n s = .ok (v, s) := by
  rw [readEg, bind_ok (getMe_run s)]
  exact useReg_has h ..

/-- A group of geometry registers is read in its order (R379). -/
theorem readGroup_ok {s : State} {w : List Word} {g : Nat} (h : ∀ j < w.length, EgIs s (g + j) (w.getD j 0#64)) :
    readGroup g w.length s = .ok (w, s) := by
  induction w generalizing g with
  | nil => rfl
  | cons v r ih =>
    have head : EgIs s g v := h 0 (by simp)
    have tail : readGroup (g + 1) r.length s = .ok (r, s) := ih fun j hj => by
      have := h (j + 1) (by simpa using hj)
      rwa [List.getD_cons_succ, show g + (j + 1) = g + 1 + j by omega] at this
    rw [List.length_cons, readGroup, bind_ok (readEg_ok head), bind_ok tail, M_pure]

/-- The filled head of the scalar data queue is popped (R249). -/
theorem popScalar_ok {s t : State} {v : Word} (h : accessSource s 15#4 = some (v, t)) (slot : Nat) : popScalar slot s = .ok (v, t) := by
  rw [accessSource, if_pos rfl] at h
  rw [popScalar, bind_ok (getMe_run s)]
  match hq : s.me.st.sq, h with
  | [], h => simp at h
  | { id := i, val := some x, poison := false } :: r, h =>
    obtain ⟨rfl, rfl⟩ := by simpa using h
    rfl
  | { id := i, val := none, poison := p } :: r, h => simp at h
  | { id := i, val := some x, poison := true } :: r, h => simp at h

theorem readAccess_register {s t : State} {c : BitVec 4} {v : Word} (hc : c ≠ 15#4) (h : accessSource s c = some (v, t)) (slot : Nat) :
    readAccess slot c s = .ok (v, t) := by
  rw [accessSource, if_neg hc] at h
  split at h <;> rename_i hr
  · obtain ⟨rfl, rfl⟩ := by simpa using h
    obtain ⟨valid, clean⟩ := by simpa using hr
    rw [readAccess, if_neg hc, bind_ok (getMe_run s)]
    exact useReg_ok _ _ _ _ s valid clean
  · simp at h

/-- A source of the E word is read (R375). -/
theorem readAccess_engine {s t : State} {c : BitVec 4} {v : Word} (h : engineSource s c = some (v, t)) : readAccess 2 c s = .ok (v, t) := by
  by_cases hc : c = 15#4
  · subst hc
    rw [readAccess, if_pos rfl, if_pos rfl, popHeld, bind_ok (getMe_run s)]
    unfold engineSource at h
    match hp : s.me.st.popped, h with
    | w :: r, h =>
      obtain ⟨rfl, rfl⟩ := by simpa using h
      rfl
    | [], h => exact popScalar_ok h 2
  · refine readAccess_register hc ?_ 2
    unfold engineSource at h
    split at h
    · rwa [if_neg hc] at h
    · exact h

/-- The ring control of a handle is read (R59). -/
theorem readRing_ok {s : State} {n id : Nat} {r : Ring} (h : RingIs s n id r) (slot : Nat) : readRing slot n s = .ok ((id, r), s) := by
  obtain ⟨handle, rfl, clean⟩ := h
  rw [readRing, bind_ok (getMe_run s)]
  simp only [handle, bind_ok (getCore_run s)]
  rw [if_neg]
  · rfl
  · exact Bool.eq_false_iff.mp clean

/-! Checks -/

/-- A step that is not restartable may do it (R433). -/
theorem barRestart_ok {s : State} (h : NotRestart s) (slot : Nat) : barRestart slot s = .ok ((), s) := by
  rw [barRestart, bind_ok (getS_run s)]
  refine check_ok ?_ ..
  rcases h with h | h <;> simp [h]

/-- An occurrence that the step may create passes the checks (R387, R403). -/
theorem checkCreate_ok {s : State} {y t : Nat} (h : MayCreate s (myOp s).outYards y t) : checkCreate y t s = .ok ((myOp s).parish, s) := by
  obtain ⟨hopen, ⟨enabled, inRange⟩, may, -⟩ := h
  have yard : checkYard 2 s.cur.l (myOp s).parish y s = .ok ((), s) := by
    rw [checkYard, bind_ok (getS_run s), bind_ok (check_ok enabled ..)]
    exact check_ok (decide_eq_true inRange) ..
  rw [checkCreate, bind_ok (getS_run s), bind_ok (check_ok (by simp [hopen]) ..)]
  exact (bind_ok yard _).trans (bind_ok (check_ok may ..) _)

/-- An occurrence whose home has room is counted (R143, R160). -/
theorem countCreate_ok {s : State} {from_ : List Nat} {y t : Nat} (h : MayCreate s from_ y t) :
    countCreate (myOp s).parish y t s = .ok ((), s.countAt s.cur.l (myOp s).parish y t 1) := by
  obtain ⟨-, -, -, room⟩ := h
  have goesOn : stallIfFull s.cur.l (myOp s).parish s = .ok ((), s) := by
    rw [stallIfFull, bind_ok (getS_run s), room]
    rfl
  rw [countCreate, bind_ok (getS_run s), bind_ok goesOn]
  rfl

theorem needEntry_ok {s : State} (h : QueueRoom s) : needEntry s = .ok ((), s) := by
  have room : ¬16 ≤ (s.core s.cur.l s.cur.k).queue.length := Nat.not_le.mpr h
  rw [needEntry, bind_ok (getCore_run s), if_neg room]
  rfl

/-- A command joins the core's queue (R377). -/
theorem enqueue_run (c : Cmd) (s : State) : enqueue c s = .ok ((), queued s c) := rfl

/-- Spaces that a pair allows are none of the reserved ones (R16). -/
theorem spaces_of_pairOk {a b : Nat} (h : pairOk a b = true) : a ≠ 7 ∧ b ≠ 7 := by
  constructor <;> rintro rfl
  · simp [pairOk] at h
  · unfold pairOk at h
    split at h <;> simp at h

theorem or_all_multiples {b : Bool} {l : List Int} {n : Int} (h : b = true ∨ ∀ v ∈ l, v % n = 0) : (b || l.all fun v => v % n == 0) = true := by
  simpa only [Bool.or_eq_true, List.all_eq_true, beq_iff_eq] using h

/-- A descriptor that meets the rules passes the checks (R382). -/
theorem checkCopy_ok {s : State} {kind : CmdKind} {w : List Word} {src dst : Word} (h : CopyOk s kind w src dst) :
    checkCopy kind w src dst s = .ok ((), s) := by
  obtain ⟨pair, fields, srcOk, srcStrides, dstOk, dstStrides, ring, index, -⟩ := h
  obtain ⟨hs, hd⟩ := spaces_of_pairOk pair
  refine (bind_ok (check_ok (by simp only [Bool.and_eq_true, bne_iff_ne]; exact ⟨hs, hd⟩) ..) _).trans ?_
  refine (bind_ok (check_ok pair ..) _).trans ((bind_ok (check_ok fields ..) _).trans ?_)
  refine (bind_ok (check_ok (by simpa using srcOk) ..) _).trans ((bind_ok (check_ok (or_all_multiples srcStrides) ..) _).trans ?_)
  refine (bind_ok (check_ok (by simpa using dstOk) ..) _).trans ((bind_ok (check_ok (or_all_multiples dstStrides) ..) _).trans ?_)
  have last : (if kind = .cpyg then check ((w.getD 7 0#64).toNat % (if dIdx32 (w.getD 0 0#64).toNat then 4 else 2) == 0) 2 0x202 else pure ()) s =
      .ok ((), s) := by
    split
    · exact check_ok (by simpa using index ‹_›) ..
    · rfl
  split <;> rename_i hr
  · obtain ⟨id, r, hring⟩ := ring (by simpa using hr)
    rw [bind_ok (readRing_ok hring 2)]
    exact last
  · exact last

/-! A copy at issue -/

/-- The state once a stamped copy has counted its occurrence (R387). -/
def copyCounted (t : State) (d d1 : Nat) : State := if dStmp d then t.countAt t.cur.l (myOp t).parish (dYard d) d1 1 else t

/-- A copy reads a tile that its step holds (R379). -/
def readsHeld (v : State) (d tn : Nat) : Bool :=
  dSsp d == 3 && ((here v).claim true tn).st == .held && ((here v).claim true tn).owner == v.me.sid

theorem readsHeld_iff (v : State) (d tn : Nat) : readsHeld v d tn = true ↔ dSsp d = 3 ∧ Held v true tn := by
  simp [readsHeld, Held, and_assoc]

/-- The command that a copy of descriptor `w` puts in the queue from state `v`; `p` is the parish of a stamped one. -/
def copyCmd (v : State) (kind : CmdKind) (scat : Bool) (src dst : Word) (w : List Word) (p : Nat) (held : Bool) : Cmd :=
  let d := (w.getD 0 0#64).toNat
  let d1 := (w.getD 1 0#64).toNat
  { id := 0, ctx := 0, sid := 0, kind := kind, d := w, src := src, dst := dst, scat := scat, tileNo := src.toNat / 2 ^ 14 % 4, reading := held
    ring := if dRing d = true ∧ dDsp d = 1 then (v.me.regs.rh.getD (dRh d) none).map fun r => (v.cur.k, r) else none
    xstamp := if dStmp d then d1 else 0, stamped := if dStmp d then some (p, dYard d, d1) else none }

/-- The state after a copy has joined the queue: a held tile that it reads has one reader more. -/
def copyQueued (v : State) (c : Cmd) : State :=
  if c.reading then updHere (queued v c) fun y => y.setClaim true c.tileNo fun q => { q with readers := q.readers + 1 } else queued v c

/-- A copy into a ring has no destination operand (R380); another one reads it. -/
theorem copyDest_ok {t t' : State} {b : BitVec 4} {dst : Word} {d : Nat}
    (h : if dRing d = true ∧ dDsp d = 1 then dst = 0#64 ∧ t' = t else engineSource t b = some (dst, t')) :
    (if (dRing d && dDsp d == 1) = true then pure 0#64 else readAccess 2 b) t = .ok (dst, t') := by
  simp only [Bool.and_eq_true, beq_iff_eq]
  split at h <;> rename_i hr
  · obtain ⟨rfl, rfl⟩ := h
    rw [if_pos hr]
    rfl
  · rw [if_neg hr]
    exact readAccess_engine h

/-- A stamped copy that passes the creation checks counts in the parish of its step (R387). -/
theorem copyParish_ok {t : State} {d d1 : Nat} (h : dStmp d = true → MayCreate t (myOp t).outYards (dYard d) d1) :
    (if dStmp d = true then checkCreate (dYard d) d1 else pure 0) t = .ok (if dStmp d = true then (myOp t).parish else 0, t) := by
  split
  · exact checkCreate_ok (h ‹_›)
  · rfl

theorem copyCount_ok {t : State} {d d1 : Nat} (h : dStmp d = true → MayCreate t (myOp t).outYards (dYard d) d1) :
    (if dStmp d = true then countCreate (if dStmp d = true then (myOp t).parish else 0) (dYard d) d1 else pure ()) t =
      .ok ((), copyCounted t d d1) := by
  unfold copyCounted
  split
  · exact countCreate_ok (h ‹_›)
  · rfl

/-- The last act of a copy: its command joins the queue, with the reader that it makes. -/
theorem copyEnqueue_run (v : State) (c : Cmd) :
    (enqueue c >>= fun _ => if c.reading = true then updCore (fun y => y.setClaim true c.tileNo fun q => { q with readers := q.readers + 1 }) else pure ()) v =
      .ok ((), copyQueued v c) := by
  rw [bind_ok (enqueue_run c v), copyQueued]
  split <;> rfl

/-- A legal copy joins the queue (R377 to R387). -/
theorem copyOp_ok {s t t' : State} {kind : CmdKind} {a b : BitVec 4} {g : BitVec 3} {src dst : Word} {w : List Word} {d d1 : Nat} (scat : Bool)
    (hd : d = (w.getD 0 0#64).toNat) (hd1 : d1 = (w.getD 1 0#64).toNat)
    (hsrc : engineSource s a = some (src, t)) (hlen : w.length = 8) (hw : ∀ j < 8, EgIs t (8 * g.toNat + j) (w.getD j 0#64))
    (hdst : if dRing d = true ∧ dDsp d = 1 then dst = 0#64 ∧ t' = t else engineSource t b = some (dst, t'))
    (hok : CopyOk t' kind w src dst) (room : QueueRoom t')
    (hcreate : dStmp d = true → MayCreate t' (myOp t').outYards (dYard d) d1) :
    copyOp kind a b g scat s = .ok ((), copyQueued (copyCounted t' d d1)
      (copyCmd (copyCounted t' d d1) kind scat src dst w (myOp t').parish (readsHeld (copyCounted t' d d1) d (src.toNat / 2 ^ 14 % 4)))) := by
  subst hd hd1
  have group : readGroup (8 * g.toNat) 8 t = .ok (w, t) := by rw [← hlen]; exact readGroup_ok (by rwa [hlen])
  have bar : dStmp (w.getD 0 0#64).toNat = true ∨ dDsp (w.getD 0 0#64).toNat = 2 → NotRestart t' := by
    obtain ⟨-, -, -, -, -, -, -, -, h⟩ := hok
    exact h
  rw [copyOp]
  refine (bind_ok (readAccess_engine hsrc) _).trans ((bind_ok group _).trans ((ite_bind_ok (copyDest_ok hdst) _).trans ?_))
  refine (when_bind_ok (when_ok fun h => barRestart_ok (bar (by simpa using h)) 2) _).trans ((bind_ok (checkCopy_ok hok) _).trans ?_)
  refine (ite_bind_ok (copyParish_ok hcreate) _).trans ((bind_ok (needEntry_ok room) _).trans ((when_bind_ok (copyCount_ok hcreate) _).trans ?_))
  refine (bind_ok (getMe_run _) _).trans ((bind_ok (getCore_run _) _).trans ((bind_ok (getS_run _) _).trans (Eq.trans ?_ (copyEnqueue_run ..))))
  by_cases stamped : dStmp (w.getD 0 0#64).toNat = true <;>
    simp only [copyCmd, readsHeld, here, bits, Nat.shiftRight_eq_div_pow, Bool.and_eq_true, beq_iff_eq, stamped, if_true] <;> rfl

/-- Settles O33: a legal copy runs through its checks (`copyOp_ok`) and joins the queue with the command that `copyCmd` builds; whether a held tile
gains a reader is `readsHeld`. -/
theorem copyWords : Obligations.CopyWords := by
  intro s t t' a b g i kind scat src dst w d d1 tn hi hsrc hlen hw hd hd1 htn hdst hok room hcreate v reads c
  have run : exec i s = .next (copyQueued v (copyCmd v kind scat src dst w (myOp t').parish (readsHeld v d tn))) := by
    have op := copyOp_ok scat hd hd1 hsrc hlen hw hdst hok room hcreate
    subst htn
    simp only [List.mem_cons, List.not_mem_nil, or_false, Prod.mk.injEq] at hi
    rcases hi with ⟨rfl, rfl, rfl⟩ | ⟨rfl, rfl, rfl⟩ | ⟨rfl, rfl, rfl⟩ | ⟨rfl, rfl, rfl⟩ <;> exact runSlot_ok _ _ _ op
  subst htn hd hd1
  constructor <;> intro h
  · rw [run, (readsHeld_iff ..).mpr h]
    rfl
  · rw [run, Bool.eq_false_iff.mpr fun e => h ((readsHeld_iff ..).mp e)]
    rfl

end Sys2Proof.Machine

/-! Publication (R166), acquires (R170) and shadow buffers (R45 to R47): what each word answers, outcome by outcome. -/

namespace Sys2Proof.Machine

open Sys2Proof.Claim

/-- A step has something left to publish or to perform within a scope (R166). -/
theorem pubWork_iff (s : State) (l k c sc : Nat) : s.pubWork l k c sc = true ↔
    (s.ctx l k c).hasUnpub (fun h _ => scopeReach l sc h) = true ∨
      s.hasRequests l (s.ctx l k c).sid (fun r => r.atom.isSome && scopeReach l sc r.home) = true ∨
      s.copying l k (s.ctx l k c).sid (fun h _ => scopeReach l sc h) = true := by
  rw [State.pubWork, Bool.or_eq_true, Bool.or_eq_true, or_assoc]

/-- The publication that a step has asked for is done. -/
def pubEnded (s : State) : State := s.updMe fun x => { x with pubReq := none, pubDone := false }

/-- The three outcomes of pub (R166): its publication is done, it asks for one, nothing is left to publish. -/
theorem opPub_run {s : State} (h : NotRestart s) (sc : BitVec 3) : opPub sc s =
    if s.me.pubDone then .ok ((), pubEnded s)
    else if s.pubWork s.cur.l s.cur.k s.cur.c sc.toNat then .error (.wait (kindWait 7) fun s => s.updMe fun x => { x with pubReq := some sc.toNat })
    else .ok ((), s) := by
  rw [opPub, bind_ok (barRestart_ok h 2), bind_ok (getS_run s)]
  by_cases done : s.me.pubDone = true
  · simp only [done, if_true]
    rfl
  · by_cases work : s.pubWork s.cur.l s.cur.k s.cur.c sc.toNat = true <;> simp only [done, work, if_true] <;> rfl

/-- The outcomes of acq (R170): it waits for the step's reads as a fence does (R178). -/
theorem opAcq_run (sc : BitVec 3) (s : State) : opAcq sc s =
    if s.fenceMet s.cur.l s.cur.k s.cur.c 2 then .ok ((), s.updMe fun x => x.acquireAt (scopeReach s.cur.l sc.toNat))
    else .error (.wait (kindWait 7) id) := by
  rw [opAcq, bind_ok (getS_run s)]
  split <;> rfl

/-- An entry that an interleave commit holds is waited for (R114). -/
theorem opShopen_held {s t : State} {a : BitVec 4} {v : Word} (h : engineSource s a = some (v, t))
    (held : t.commitHolds t.cur.l ((t.ld t.cur.l).bieAddr (v.toNat % 2 ^ 17)) 32 = true) : opShopen a s = .error (.wait plainWait id) := by
  rw [opShopen, bind_ok (readAccess_engine h)]
  refine (bind_ok (getS_run t) _).trans ?_
  simp only [held, if_true]
  rfl

/-- An entry that cannot be used traps once it has been read (R45, R47). -/
theorem opShopen_trap {s t : State} {a : BitVec 4} {v : Word} {e : Nat} (h : engineSource s a = some (v, t))
    (free : t.commitHolds t.cur.l ((t.ld t.cur.l).bieAddr (v.toNat % 2 ^ 17)) 32 = false)
    (bad : bieCause (t.ld t.cur.l) (v.toNat % 2 ^ 17) = some e) :
    opShopen a s = .error (.trap { cause := e, access := true, slot := 2 }) := by
  rw [opShopen, bind_ok (readAccess_engine h)]
  refine (bind_ok (getS_run t) _).trans ?_
  simp only [free, bad]
  rfl

/-- The three outcomes of shopen on an entry that can be used (R47): it is open for the step, it is in use, it opens. -/
theorem opShopen_run {s t : State} {a : BitVec 4} {v : Word} {i : Nat} (h : engineSource s a = some (v, t)) (hi : i = v.toNat % 2 ^ 17)
    (free : t.commitHolds t.cur.l ((t.ld t.cur.l).bieAddr i) 32 = false) (good : bieCause (t.ld t.cur.l) i = none) :
    opShopen a s =
      if bieOwned ((t.ld t.cur.l).bie i) t.cur.k t.cur.c && t.me.openBies.has i then .ok ((), t.readThrough 0 [(t.cur.l, (t.ld t.cur.l).bieAddr i, 32)])
      else if bieState ((t.ld t.cur.l).bie i) == 2 || t.oldReader t.cur.l i then
        .error (.wait { kindWait 5 with bie := i } fun s => s.updMe fun x => { x with shWait := some i })
      else .ok ((), (t.readThrough 0 [(t.cur.l, (t.ld t.cur.l).bieAddr i, 32)]).openBie t.cur.l t.cur.k t.cur.c i) := by
  subst hi
  rw [opShopen, bind_ok (readAccess_engine h)]
  refine (bind_ok (getS_run t) _).trans ?_
  simp only [free, good]
  refine (bind_ok (updS_run t _) _).trans ((bind_ok (M_pure ..) _).trans ?_)
  split
  · rfl
  · split <;> rfl

/-- shpub ends once its exchange is done (R406). -/
theorem opShpub_done {s t : State} {a : BitVec 4} {v : Word} (h : engineSource s a = some (v, t)) (done : t.me.pubDone = true) :
    opShpub a s = .ok ((), pubEnded t) := by
  rw [opShpub, bind_ok (readAccess_engine h)]
  refine (bind_ok (getS_run t) _).trans ?_
  simp only [done, if_true]
  rfl

/-- shpub of an entry that the step holds open asks for the exchange (R406). -/
theorem opShpub_asks {s t : State} {a : BitVec 4} {v : Word} {i : Nat} (h : engineSource s a = some (v, t)) (hi : i = v.toNat % 2 ^ 17)
    (todo : t.me.pubDone = false) (inRange : i < (t.ld t.cur.l).regs.bielim.toNat % 2 ^ 17)
    (owned : bieOwned ((t.ld t.cur.l).bie i) t.cur.k t.cur.c = true) (opened : t.me.openBies.has i = true) :
    opShpub a s = .error (.wait (kindWait 7) fun s => s.updMe fun x => { x with pubReq := some (8 + i) }) := by
  subst hi
  rw [opShpub, bind_ok (readAccess_engine h)]
  refine (bind_ok (getS_run t) _).trans ?_
  simp only [todo]
  refine (bind_ok (check_ok ?_ ..) _).trans rfl
  rw [owned, opened, Bool.and_true, Bool.and_true]
  exact decide_eq_true inRange

theorem exec_pub_done {s : State} (may : NotRestart s) (sc : BitVec 3) (done : s.me.pubDone = true) : exec (.pub sc) s = .next (pubEnded s) :=
  runSlot_ok _ _ _ (by rw [opPub_run may, done]; rfl)

theorem exec_pub_nothing {s : State} (may : NotRestart s) (sc : BitVec 3) (todo : s.me.pubDone = false)
    (nothing : s.pubWork s.cur.l s.cur.k s.cur.c sc.toNat = false) : exec (.pub sc) s = .next s :=
  runSlot_ok _ _ _ (by rw [opPub_run may, todo, nothing]; rfl)

theorem exec_pub_asks {s : State} (may : NotRestart s) (sc : BitVec 3) (todo : s.me.pubDone = false)
    (work : s.pubWork s.cur.l s.cur.k s.cur.c sc.toNat = true) :
    ∃ u w, exec (.pub sc) s = .next u ∧ u.me.pubReq = some sc.toNat ∧ u.me.st.aWait = some w := by
  obtain ⟨u, w, next, asked, -, waits⟩ := runSlot_waits ((opPub_run may sc).trans (by rw [todo, work]; rfl))
  exact ⟨u, w, next, by rw [asked, me_updMe], waits⟩

/-- What acq answers (R170, R404). -/
theorem exec_acq (sc : BitVec 3) (s : State) :
    (s.fenceMet s.cur.l s.cur.k s.cur.c 2 = true → exec (.acq sc) s = .next (s.updMe fun x => x.acquireAt (scopeReach s.cur.l sc.toNat))) ∧
    (s.fenceMet s.cur.l s.cur.k s.cur.c 2 = false → ∃ u w, exec (.acq sc) s = .next u ∧ u.me.st.aWait = some w) := by
  have run := opAcq_run sc s
  refine ⟨fun met => ?_, fun unmet => ?_⟩
  · exact runSlot_ok _ _ _ (by rw [run, met]; rfl)
  · obtain ⟨u, w, next, -, -, waits⟩ := runSlot_waits (run.trans (by rw [unmet]; rfl))
    exact ⟨u, w, next, waits⟩

/-- What shopen answers on an entry that can be used (R47, R405). -/
theorem exec_shopen {s t u : State} {a : BitVec 4} {v : Word} {i r : Nat} (h : engineSource s a = some (v, t)) (hi : i = v.toNat % 2 ^ 17)
    (hr : r = (t.ld t.cur.l).bie i) (hu : u = t.readThrough 0 [(t.cur.l, (t.ld t.cur.l).bieAddr i, 32)])
    (free : t.commitHolds t.cur.l ((t.ld t.cur.l).bieAddr i) 32 = false) (good : bieCause (t.ld t.cur.l) i = none) :
    let mine := bieOwned r t.cur.k t.cur.c = true ∧ t.me.openBies.has i = true
    (mine → exec (.shopen a) s = .next u) ∧
    (¬mine → bieState r ≠ 2 → t.oldReader t.cur.l i = false → exec (.shopen a) s = .next (u.openBie t.cur.l t.cur.k t.cur.c i)) ∧
    (¬mine → bieState r = 2 ∨ t.oldReader t.cur.l i = true →
      ∃ z w, exec (.shopen a) s = .next z ∧ z.me.shWait = some i ∧ z.me.st.aWait = some w) := by
  intro mine
  have run := opShopen_run h hi free good
  rw [← hr, ← hu] at run
  have notMine (other : ¬mine) : ¬(bieOwned r t.cur.k t.cur.c && t.me.openBies.has i) = true := by rwa [Bool.and_eq_true]
  refine ⟨fun own => ?_, fun other base young => ?_, fun other busy => ?_⟩
  · exact runSlot_ok _ _ _ (run.trans (if_pos (by rwa [Bool.and_eq_true])))
  · refine runSlot_ok _ _ _ (run.trans ((if_neg (notMine other)).trans (if_neg ?_)))
    rw [young, Bool.or_false, beq_iff_eq]
    exact base
  · obtain ⟨z, w, next, -, asked, waits⟩ := runSlot_waits (run.trans ((if_neg (notMine other)).trans (if_pos (by simpa using busy))))
    exact ⟨z, w, next, by rw [asked, me_updMe], waits⟩

/-- Settles O38, word by word: the outcomes of pub and `exec_acq` for the first half, `exec_shopen` and the outcomes of `opShopen` and
`opShpub` for the second. -/
theorem publicationWords : Obligations.PublicationWords := by
  refine ⟨fun s sc => ⟨fun may => exec_pub_done may sc, ⟨fun may todo nothing => ?_, fun may todo work => ?_⟩, exec_acq sc s⟩,
    fun s t u a v i r hv hi hr hu => ⟨fun held => ?_, fun free => ⟨fun e bad => ?_, exec_shopen hv hi hr hu free⟩, fun done => ?_,
      fun todo inRange owned opened => ?_⟩⟩
  · exact exec_pub_nothing may sc todo (Bool.eq_false_iff.mpr (mt (pubWork_iff ..).mp nothing))
  · exact exec_pub_asks may sc todo ((pubWork_iff ..).mpr work)
  · subst hi
    obtain ⟨z, w, next, -, -, waits⟩ := runSlot_waits (opShopen_held hv held)
    exact ⟨z, w, next, waits⟩
  · subst hi
    exact runSlot_trap (opShopen a) s _ (opShopen_trap hv free bad)
  · exact runSlot_ok _ _ _ (opShpub_done hv done)
  · rw [hr] at owned
    obtain ⟨z, w, next, asked, -, waits⟩ := runSlot_waits (opShpub_asks hv hi todo inRange owned opened)
    exact ⟨z, w, next, by rw [asked, me_updMe], waits⟩

end Sys2Proof.Machine

/-! Translation events (R27 to R35, R112 to R114). What reads and writes of the stacks leave alone on every die: its walks and its
interleave commit. -/

namespace Sys2Proof.Machine

open Sys2Proof.Claim

/-! Changes that keep a part of the state -/

theorem updLd_congr {s : State} {l : Nat} {f g : Ld → Ld} (h : f (s.ld l) = g (s.ld l)) : s.updLd l f = s.updLd l g := by
  rw [State.updLd, h, State.updLd]

/-- A change of one die that keeps a part of it keeps that part of every die. -/
theorem updLd_keeps {α : Type} (g : Ld → α) {s : State} {l : Nat} {f : Ld → Ld} (h : ∀ x, g (f x) = g x) (i : Nat) :
    g ((s.updLd l f).ld i) = g (s.ld i) := by
  by_cases hi : i = l
  · rw [hi, ld_updLd_same, h]
  · rw [ld_updLd_other _ _ _ _ hi]

/-- A chain of changes each of which keeps a part keeps it. -/
theorem foldl_keeps {α β γ : Type} (g : β → γ) {f : β → α → β} (h : ∀ b a, g (f b a) = g b) (l : List α) (b : β) : g (l.foldl f b) = g b := by
  rw [← List.foldl_hom g (g₂ := fun x _ => x) fun x y => (h x y).symm, List.foldl_fixed]

/-- The walks of a die, and its interleave commit with the registers of it. -/
structure Tables where
  walks  : List Walk
  commit : Option (Nat × Nat)
  ivst   : Word
  ivact  : Smap Word

/-- What no read or write of a stack, no record and no doorbell changes on a die. -/
def Ld.tables (x : Ld) : Tables := { walks := x.walks, commit := x.commit, ivst := x.regs.ivst, ivact := x.regs.ivact }

@[simp] theorem tables_snoop (x : Ld) (line : Nat) : (x.snoop line).tables = x.tables := by unfold Ld.snoop; split <;> rfl

theorem tables_touchLine (x : Ld) (line secs ca : Nat) (dirty : Bool) : (x.touchLine line secs ca dirty).tables = x.tables := by
  have first : (if dirty = true then x.snoop line else x).tables = x.tables := by
    split
    · exact tables_snoop x line
    · rfl
  unfold Ld.touchLine
  generalize (if dirty = true then x.snoop line else x) = y at first ⊢
  dsimp only
  split
  · exact first
  · split <;> exact first

@[simp] theorem tables_touch (x : Ld) (a n ca : Nat) (dirty : Bool) : (x.touch a n ca dirty).tables = x.tables :=
  foldl_keeps Ld.tables (fun x line => tables_touchLine x line ..) _ x

@[simp] theorem tables_updCore (x : Ld) (k : Nat) (f : Core → Core) : (x.updCore k f).tables = x.tables := rfl

@[simp] theorem tables_learn (x : Ld) (va : Nat) : (x.learn va).tables = x.tables := by
  unfold Ld.learn
  split
  · rfl
  · dsimp only
    split <;> rfl

@[simp] theorem tables_errLog (s : State) (l sev unit cause loc : Nat) (unq : Bool) (i : Nat) :
    ((s.errLog l sev unit cause loc unq).ld i).tables = (s.ld i).tables := updLd_keeps Ld.tables (by intro; rfl) i

@[simp] theorem tables_noteBrokenRead (s : State) (home a n i : Nat) : ((s.noteBrokenRead home a n).ld i).tables = (s.ld i).tables := by
  unfold State.noteBrokenRead
  split
  · rfl
  · refine foldl_keeps (fun s : State => (s.ld i).tables) (fun s line => ?_) _ s
    dsimp only
    split
    · rw [tables_errLog]
      exact updLd_keeps Ld.tables (by intro; rfl) i
    · rfl

@[simp] theorem tables_noteBroken (s : State) (l a n i : Nat) : ((s.noteBroken l a n).ld i).tables = (s.ld i).tables := by
  refine foldl_keeps (fun s : State => (s.ld i).tables) (fun s line => ?_) _ s
  split
  · exact tables_errLog ..
  · rfl

/-- Reads of the stacks keep the walks and the commit of every die. -/
@[simp] theorem tables_readThrough (s : State) (ca : Nat) (rs : List (Nat × Nat × Nat)) (by_ : Ctx) (i : Nat) :
    ((s.readThrough ca rs by_).ld i).tables = (s.ld i).tables := by
  refine foldl_keeps (fun s : State => (s.ld i).tables) (fun s r => ?_) _ s
  dsimp only
  split
  · rfl
  · refine (updLd_keeps Ld.tables (fun x => ?_) i).trans (tables_noteBrokenRead ..)
    exact tables_touch x ..

@[simp] theorem tables_pokeAt (s : State) (p : Phys) (bs : List (BitVec 8 × Bool)) (i : Nat) : ((s.pokeAt p bs).ld i).tables = (s.ld i).tables := by
  unfold State.pokeAt
  split
  · rfl
  · refine (updLd_keeps Ld.tables (fun x => ?_) i).trans (tables_noteBroken ..)
    exact tables_touch _ ..

@[simp] theorem tables_msix (s : State) (l v i : Nat) : ((s.msix l v).ld i).tables = (s.ld i).tables := by
  refine updLd_keeps Ld.tables (fun x => ?_) i
  split <;> rfl

@[simp] theorem tables_learnFar (s : State) (l leaf va i : Nat) : ((s.learnFar l leaf va).ld i).tables = (s.ld i).tables := by
  unfold State.learnFar
  split
  · exact updLd_keeps Ld.tables (fun x => tables_learn x _) i
  · rfl

/-- A translation keeps them: it leaves entries in the TLBs and reads in the caches (R27). -/
@[simp] theorem tables_afterXl (s : State) (l k sp a i : Nat) : ((s.afterXl l k sp a).ld i).tables = (s.ld i).tables := by
  unfold State.afterXl
  split
  · rfl
  · rename_i va _
    split
    · rfl
    · dsimp only
      split
      rw [tables_learnFar]
      all_goals
        refine (updLd_keeps Ld.tables (fun x => ?_) i).trans (tables_readThrough ..)
        have learnt : (if (tlbFind (x.core k).l1 (va / 65536)).isSome = true then x else x.learn va).tables = x.tables := by
          split
          · rfl
          · exact tables_learn ..
        generalize (if (tlbFind (x.core k).l1 (va / 65536)).isSome = true then x else x.learn va) = y at learnt ⊢
        split
        · split <;> exact learnt
        · exact learnt

/-- Completion records keep them (R216). -/
@[simp] theorem tables_writeCrecs (s : State) (l : Nat) (rs : List (Launch × Nat)) (i : Nat) : ((s.writeCrecs l rs).ld i).tables = (s.ld i).tables := by
  induction rs generalizing s with
  | nil => exact updLd_keeps Ld.tables (by intro; rfl) i
  | cons e rest ih =>
    obtain ⟨n, r⟩ := e
    have signalled (t : State) : ((if n.msie then t.msix l n.msix else t).ld i).tables = (t.ld i).tables := by
      split
      · exact tables_msix ..
      · rfl
    rw [State.writeCrecs]
    dsimp only
    split
    · rw [ih, signalled]
    · split
      · rw [ih, signalled, tables_pokeAt, tables_afterXl]
      · rw [ih, signalled, tables_errLog]
      · split
        · exact updLd_keeps Ld.tables (by intro; rfl) i
        · rw [ih, signalled, tables_errLog]

/-- A doorbell keeps them (R186). -/
@[simp] theorem tables_takeDoorbell (s : State) (l q i : Nat) : ((s.takeDoorbell l q).ld i).tables = (s.ld i).tables := by
  have bell (b : Bool) : ((s.updLd l fun x => { x with bells := x.bells.upd q b }).ld i).tables = (s.ld i).tables := updLd_keeps Ld.tables (by intro; rfl) i
  unfold State.takeDoorbell
  dsimp only
  split
  · exact bell _
  · split
    · rw [tables_errLog, updLd_keeps Ld.tables (by intro; rfl) i, tables_readThrough, bell]
    · rw [updLd_keeps Ld.tables (by intro; rfl) i, tables_readThrough, bell]

@[simp] theorem tables_takeHeld (s : State) (i : Nat) : (s.takeHeld.ld i).tables = (s.ld i).tables := by
  have keeps {α : Type} {f : State → α → State} (h : ∀ s a, ((f s a).ld i).tables = (s.ld i).tables) (l : List α) (s : State) :
      ((l.foldl f s).ld i).tables = (s.ld i).tables := foldl_keeps (fun s : State => (s.ld i).tables) h l s
  refine keeps (fun s e => ?_) _ s
  have bells : ((e.2.bells.foldl (fun s q => s.takeDoorbell e.1 q.1) s).ld i).tables = (s.ld i).tables := keeps (fun s q => tables_takeDoorbell ..) _ s
  dsimp only
  split
  · exact bells
  · rw [tables_writeCrecs, bells]

/-- A table whose values are changed number by number. -/
theorem mget_mapValues {α : Type} (m : Smap α) (g : Nat → α → α) (n : Nat) : mget (m.map fun e => (e.1, g e.1 e.2)) n = (mget m n).map (g n) := by
  induction m with
  | nil => rfl
  | cons e r ih =>
    obtain ⟨k, v⟩ := e
    rw [List.map_cons, mget, mget]
    split <;> rename_i hk
    · rw [hk]
      rfl
    · exact ih

/-- A die whose contexts are changed, resident and swapped out. -/
def Ld.mapCtxs (f : Ctx → Ctx) (x : Ld) : Ld :=
  { x with
    cores := x.cores.map (fun (k : Nat × Core) => (k.1, { k.2 with ctxs := k.2.ctxs.map fun c => (c.1, f c.2) }))
    saved := x.saved.map fun (v : Nat × Saved) => (v.1, { v.2 with ctx := f v.2.ctx }) }

@[simp] theorem tables_mapSteps (s : State) (f : Nat → Ctx → Ctx) (i : Nat) : ((s.mapSteps f).ld i).tables = (s.ld i).tables := by
  have listed : mget (s.mapSteps f).lds i = (mget s.lds i).map (Ld.mapCtxs (f i)) := mget_mapValues s.lds (fun d => Ld.mapCtxs (f d)) i
  rw [State.ld, State.ld, mgetD, mgetD, listed]
  cases mget s.lds i <;> rfl

/-- Numbers listed one after another read as they were listed. -/
theorem mgetD_foldl_mput {α : Type} (f : Nat → α) (a n i : Nat) (hi : i < n) (m : Smap α) (d : α) :
    mgetD ((List.range n).foldl (fun t j => mput t (a + j) (f j)) m) (a + i) d = f i := by
  induction n with
  | zero => omega
  | succ n ih =>
    rw [List.range_succ, List.foldl_append, List.foldl_cons, List.foldl_nil]
    by_cases h : i = n
    · rw [h, mgetD_mput_same]
    · rw [mgetD_mput_other _ _ _ _ _ (by omega), ih (by omega)]

/-! Events -/

/-- A member of a list that a test picks stands behind those that it passes over. -/
theorem find?_behind {α : Type} {p : α → Bool} {as bs : List α} {b : α} (h : ∀ a ∈ as, p a = false) (hb : p b = true) :
    (as ++ b :: bs).find? p = some b := by
  rw [List.find?_eq_some_iff_append]
  exact ⟨hb, as, bs, rfl, fun a ha => by rw [h a ha]; rfl⟩

/-- The walk that a walker starts for a miss: from the lowest table known (R27, R32). -/
def Walk.started (w : Walk) (x : Ld) : Walk := { w with level := (x.walkStart w.page).1, table := (x.walkStart w.page).2 }

/-- A free walker takes the oldest miss (R29). -/
theorem exec_tableWalkStart {s : State} {l : Nat} (hl : dieOk l = true) {w : Walk} {rest : List Walk} (hq : (s.ld l).missQ = w :: rest)
    (room : (s.ld l).walks.length < 64) :
    exec (.tableWalkStart l) s = .next ((s.updLd l fun x => { x with missQ := rest, walks := x.walks ++ [w.started (s.ld l)] }).walkLooks l
      (w.started (s.ld l))) := by
  refine runEv_ok hl ?_
  rw [evTableWalkStart, bind_ok (getS_run s), hq]
  refine (bind_ok (need_ok (decide_eq_true room) s) _).trans ?_
  rw [updS_run, State.startWalk, updLd_updLd, ld_updLd_same]
  rfl

/-- A walk that a commit holds, and one that has ended, looks at nothing (R30, R114). -/
theorem walkLooks_idle {s : State} {l : Nat} {w : Walk} (h : (w.found.isSome || s.anyHeld (w.reads (s.ld l) l)) = true) : s.walkLooks l w = s := by
  rw [State.walkLooks, if_pos h]

/-- A walk that nothing holds reads the tables (R30). -/
theorem walkLooks_reads {s : State} {l : Nat} {w : Walk} (new : w.found = none) (free : s.anyHeld (w.reads (s.ld l) l) = false) :
    s.walkLooks l w =
      (s.readThrough 0 (w.reads (s.ld l) l)).updLd l fun x => { x with walks := x.walks.map fun v => if v.page = w.page then w.look x else v } := by
  rw [State.walkLooks, if_neg (by rw [new, free]; decide)]

/-- The oldest walk that may end does (R27, R114). -/
theorem exec_tableWalkComplete {s : State} {l : Nat} (hl : dieOk l = true) {ws rest : List Walk} {w : Walk} (hw : (s.ld l).walks = ws ++ w :: rest)
    (held : ∀ v ∈ ws, v.found = none ∧ s.anyHeld (v.reads (s.ld l) l) = true) (ready : (w.found.isSome || !s.anyHeld (w.reads (s.ld l) l)) = true) :
    exec (.tableWalkComplete l) s = .next ((s.walkLooks l w).updLd l fun x => x.walkEnds ((x.walks.find? fun v => v.page == w.page).getD w)) := by
  have first : (s.ld l).walks.find? (fun w => w.found.isSome || !s.anyHeld (w.reads (s.ld l) l)) = some w := by
    rw [hw]
    refine find?_behind (fun v hv => ?_) ready
    obtain ⟨new, waits⟩ := held v hv
    rw [new, waits]
    rfl
  refine runEv_ok hl ?_
  rw [evTableWalkComplete, bind_ok (getS_run s), first]
  rfl

/-- A walk that has read the tables ends as it is (R27). -/
theorem tableWalkComplete_found {s : State} {l : Nat} (hl : dieOk l = true) {ws rest : List Walk} {w : Walk} (hw : (s.ld l).walks = ws ++ w :: rest)
    (held : ∀ v ∈ ws, v.found = none ∧ s.anyHeld (v.reads (s.ld l) l) = true) (others : ∀ v ∈ ws, v.page ≠ w.page) (found : w.found.isSome = true) :
    exec (.tableWalkComplete l) s = .next (s.updLd l fun x => x.walkEnds w) := by
  have mine : (s.ld l).walks.find? (fun v => v.page == w.page) = some w := by
    rw [hw]
    exact find?_behind (fun v hv => by simpa using others v hv) (by simp)
  rw [exec_tableWalkComplete hl hw held (by rw [found]; rfl), walkLooks_idle (by rw [found]; rfl)]
  congr 1
  refine updLd_congr ?_
  rw [mine, Option.getD_some]

/-- A walk that nothing holds reads the tables and ends in what it has found there (R27, R30). -/
theorem tableWalkComplete_reads {s : State} {l : Nat} (hl : dieOk l = true) {ws rest : List Walk} {w : Walk} (hw : (s.ld l).walks = ws ++ w :: rest)
    (held : ∀ v ∈ ws, v.found = none ∧ s.anyHeld (v.reads (s.ld l) l) = true) (others : ∀ v ∈ ws, v.page ≠ w.page) (new : w.found = none)
    (free : s.anyHeld (w.reads (s.ld l) l) = false) :
    exec (.tableWalkComplete l) s = .next ((((s.readThrough 0 (w.reads (s.ld l) l)).updLd l fun x =>
      { x with walks := x.walks.map fun v => if v.page = w.page then w.look x else v })).updLd
        l fun x => x.walkEnds (w.look ((s.readThrough 0 (w.reads (s.ld l) l)).ld l))) := by
  rw [exec_tableWalkComplete hl hw held (by rw [free]; simp), walkLooks_reads new free]
  generalize hr : s.readThrough 0 (w.reads (s.ld l) l) = r
  have walks : (r.ld l).walks = ws ++ w :: rest := by
    rw [← hw, ← hr]
    exact congrArg Tables.walks (tables_readThrough ..)
  have mine : (((r.ld l).walks.map fun v => if v.page = w.page then w.look (r.ld l) else v).find? fun v => v.page == w.page) = some (w.look (r.ld l)) := by
    rw [walks, List.map_append, List.map_cons, if_pos rfl]
    refine find?_behind (fun v hv => ?_) (beq_self_eq_true w.page)
    obtain ⟨u, hu, rfl⟩ := List.mem_map.mp hv
    rw [if_neg (others u hu)]
    simpa using others u hu
  congr 1
  refine updLd_congr ?_
  rw [ld_updLd_same, mine, Option.getD_some]

/-! Invalidation (R33 to R35) -/

/-- The value of a write to XLINV that names a page (R33). -/
theorem put_xlinv (v : Nat) : put v 16 36 = v % 2 ^ 36 * 2 ^ 16 := Nat.shiftLeft_eq ..

/-- The value of a write to XLINV that names a range (R33). -/
theorem put_xlinv_range (v : Nat) : put v 16 36 ||| 1 = v % 2 ^ 36 * 2 ^ 16 + 1 := by
  rw [put, Nat.shiftLeft_eq, mul_comm]
  exact (Nat.two_pow_add_eq_or_of_lt (by decide) _).symm

/-- An invalidation ends when nothing translated before it is under way (R35). -/
theorem exec_invalidationDone {s : State} {l p n : Nat} (hl : dieOk l = true) (hi : (s.ld l).inval = some (p, n))
    (walks : ∀ w ∈ (s.ld l).walks, w.meets p n = false) (own : (s.ld l).homeQ = []) (far : ∀ e ∈ s.lds, ∀ r ∈ e.2.homeQ, r.src ≠ l)
    (copies : ∀ e ∈ s.lds, ∀ y ∈ e.2.cores, ∀ q ∈ y.2.queue, q.owesWrites = false) :
    exec (.invalidationDone l) s = .next (s.updLd l fun x => { x.purge p n with inval := none, regs.xlinvst := stEnd x.regs.xlinvst }) := by
  refine runEv_ok hl ?_
  rw [evInvalidationDone, bind_ok (getS_run s)]
  simp only [hi]
  refine (bind_ok (need_ok ?_ s) _).trans rfl
  simp only [own, List.isEmpty_nil, Bool.and_true, Bool.and_eq_true, Bool.not_eq_true', List.any_eq_false, Bool.not_eq_true, beq_eq_false_iff_ne]
  exact ⟨⟨walks, fun e he => by simpa using far e he⟩, fun e he => by simpa using copies e he⟩

/-! Interleave commits (R113, R114) -/

/-- The state of a die whose commit has ended: the active entries take the staged ones (R114). -/
def Ld.commitEnded (x : Ld) (a m : Nat) : Ld :=
  { x with
    commit := none
    regs.ivst := stEnd x.regs.ivst
    regs.ivact := (List.range (m / 2 ^ 30)).foldl (fun (t : Smap Word) i => mput t (a / 2 ^ 30 + i) (mgetD x.regs.ivstg (a / 2 ^ 30 + i) ivReset)) x.regs.ivact }

theorem exec_interleaveCommitDone {s : State} {l a m : Nat} (hl : dieOk l = true) (hc : (s.ld l).commit = some (a, m)) :
    ∃ t, exec (.interleaveCommitDone l) s = .next t ∧ (t.ld l).tables = ((s.ld l).commitEnded a m).tables := by
  let t := s.updLd l fun x => x.commitEnded a m
  refine ⟨(t.mapSteps (t.pastHold s)).takeHeld, runEv_ok hl ?_, ?_⟩
  · rw [evInterleaveCommitDone, bind_ok (getS_run s)]
    simp only [hc]
    rfl
  · rw [tables_takeHeld, tables_mapSteps, ld_updLd_same]

/-- Settles O41, event by event. A walk that reads the tables is found again among the walks because reads keep them (`tables_readThrough`); the end
of a commit stands through the doorbells and records that it lets go on (`tables_takeHeld`). -/
theorem translationEvents : Obligations.TranslationEvents := by
  intro s l hl
  refine ⟨fun w rest hq room => ⟨_, exec_tableWalkStart hl hq room, fun new held => ?_, fun new free => ?_⟩,
    fun ws w rest hw held others => ⟨tableWalkComplete_found hl hw held others, tableWalkComplete_reads hl hw held others⟩,
    fun v => ?_, fun v => ?_, ?_, fun v refused => ?_, fun p n hi => exec_invalidationDone hl hi, fun v => ?_, fun a m hc => ?_⟩
  · exact walkLooks_idle ((Bool.or_eq_true ..).mpr (.inr held))
  · exact walkLooks_reads new free
  · exact runEv_ok (m := evXlinvPage l v) hl (by rw [evXlinvPage, updS_run, put_xlinv])
  · exact runEv_ok (m := evXlinvRange l v) hl (by rw [evXlinvRange, updS_run, put_xlinv_range])
  · exact runEv_ok (m := evXlinvAll l) hl rfl
  · exact runEv_ok (m := evXlinvReject l v) hl ((bind_ok (getS_run s) _).trans ((bind_ok (need_ok (by rw [refused]; rfl) s) _).trans rfl))
  · exact runEv_ok (m := evInterleaveCommit l v) hl rfl
  · obtain ⟨t, next, ht⟩ := exec_interleaveCommitDone hl hc
    refine ⟨t, next, congrArg Tables.commit ht, congrArg Tables.ivst ht, fun i hi => ?_⟩
    have active : (t.ld l).regs.ivact = ((s.ld l).commitEnded a m).regs.ivact := congrArg Tables.ivact ht
    rw [active]
    exact mgetD_foldl_mput (fun j => mgetD (s.ld l).regs.ivstg (a / 2 ^ 30 + j) ivReset) _ _ _ hi _ _

end Sys2Proof.Machine

/-! Step events (R166 to R169, R199 to R214, R408, R459). -/

namespace Sys2Proof.Machine

open Sys2Proof.Claim

/-! Where an event of a context acts -/

theorem units_of_onCtx {l k c : Nat} (h : OnCtx l k c) : (dieOk l && decide (k < 48)) = true := by
  obtain ⟨hl, hk, -⟩ := h
  rw [hl, decide_eq_true hk]
  rfl

theorem units_of_at {s : State} {l k e : Nat} {u : State} {d : Nat} {back : State → State} (h : At s l k e u d back)
    (here : (dieOk l && decide (k < 48)) = true) : (dieOk l && decide (k < 48) && decide (e < 65540)) = true := by
  rw [here, Bool.true_and, decide_eq_true_iff]
  rcases h with ⟨he, -⟩ | ⟨-, -, he, -⟩ <;> omega

/-- An event of a context runs where `At` says: on the core, or on the context of a save slot, which then goes back (R208). -/
theorem onCtx_at {s : State} {l k e : Nat} {u t : State} {d : Nat} {back : State → State} {m : Nat → M Unit} (h : At s l k e u d back)
    (hm : m d u = .ok ((), t)) : onCtx l k e m s = .ok ((), back t) := by
  rcases h with ⟨he, rfl, rfl, rfl⟩ | ⟨v, he, -, saved, rfl, rfl, rfl, rfl⟩
  · rw [onCtx, if_pos he, hm]
    rfl
  · rw [onCtx, if_neg (Nat.not_lt.mpr he)]
    simp only [saved]
    rw [if_neg (not_not_intro rfl), hm]

/-! Releases (R200, R459) -/

theorem isQuiet_iff (p : Pkg) (now : Nat) : p.isQuiet now = true ↔ p.quiet = true ∨ ∃ t, p.idleAt = some t ∧ t + 700000 ≤ now := by
  rw [Pkg.isQuiet, Bool.or_eq_true]
  cases p.idleAt <;> simp

/-- A walker releases the step that it serves next (R200). -/
theorem exec_stepRelease {s : State} {l w opid t j src : Nat} (units : (dieOk l && decide (w < 4)) = true)
    (awake : (s.pkg (pkgOf l)).isQuiet s.ticks = false) (pick : s.walkerPick l w true = some (opid, t, j, src)) :
    exec (.stepRelease l w) s = .next (s.releaseStep l opid t j src) := by
  refine runEv_ok units ?_
  rw [evStepRelease, bind_ok (getS_run s)]
  simp only [awake, pick]
  rfl

/-- After a quiet interval the first release starts the stagger (R459). -/
theorem exec_stepRelease_quiet {s : State} {l w : Nat} (units : (dieOk l && decide (w < 4)) = true)
    (quiet : (s.pkg (pkgOf l)).isQuiet s.ticks = true) (unset : (s.pkg (pkgOf l)).stagAt = none) (pick : s.walkerPick l w false ≠ none) :
    exec (.stepRelease l w) s = .next (s.updPkg (pkgOf l) fun p => { p with quiet := true, stagAt := some s.ticks }) := by
  refine runEv_ok units ?_
  rw [evStepRelease, bind_ok (getS_run s)]
  simp only [quiet, if_true]
  refine (bind_ok (need_ok ?_ s) _).trans rfl
  rw [unset, Option.isSome_iff_ne_none.mpr pick]
  rfl

/-! Retirement and allocations (R408) -/

@[simp] theorem noteIdle_ctx (s : State) (l i k c : Nat) : (s.noteIdle l).ctx i k c = s.ctx i k c := by
  unfold State.noteIdle
  split <;> rfl

/-- A retirement whose tokens, stores and atomics are settled ends and leaves an empty context. -/
theorem exec_retirementComplete {s : State} {l k c : Nat} (units : (dieOk l && decide (k < 48) && decide (c < 4)) = true)
    (live : (s.ctx l k c).live = true) (runs : (s.ctx l k c).paused = none) (retires : (s.ctx l k c).retiring = 2) (settled : (s.ctx l k c).pending = 0)
    (stored : s.storesDue l k c (fun _ _ => true) = false) (performed : s.hasRequests l (s.ctx l k c).sid (fun r => r.atom.isSome) = false) :
    ∃ t, exec (.retirementComplete l k c) s = .next t ∧ t.ctx l k c = {} := by
  have ready : need ((s.ctx l k c).live && (s.ctx l k c).paused.isNone && (s.ctx l k c).retiring == 2 && (s.ctx l k c).pending == 0 &&
      !s.storesDue l k c (fun _ _ => true) && !s.hasRequests l (s.ctx l k c).sid fun r => r.atom.isSome) s = .ok ((), s) :=
    need_ok (by rw [live, runs, retires, settled, stored, performed]; rfl) s
  refine ⟨_, runEv_ok units ((bind_ok (getS_run s) _).trans ((bind_ok ready _).trans (updS_run s _))), ?_⟩
  rw [noteIdle_ctx, sctx_updCtx_same]

theorem exec_scratchpadAllocationFree {s : State} {l k : Nat} (units : (dieOk l && decide (k < 48)) = true) {a : Alloc}
    (free : (s.core l k).allocs.find? (s.freeable l k) = some a) :
    exec (.scratchpadAllocationFree l k) s =
      .next (s.updCore l k fun y => { y with allocs := y.allocs.erase a, rings := y.rings.filter fun r => !a.rings.contains r.1 }) := by
  refine runEv_ok units ?_
  rw [evScratchpadAllocationFree, bind_ok (getS_run s)]
  simp only [free]
  rfl

/-! Shadow buffers and publications (R46, R47, R166, R169) -/

/-- A BIE of Base state that no older reader holds opens for the step that waits for it (R47). -/
theorem exec_shopenGrant {s : State} {l k c i : Nat} (units : (dieOk l && decide (k < 48) && decide (c < 4)) = true)
    (asked : (s.ctx l k c).shWait = some i) (live : (s.ctx l k c).live = true) (base : bieState ((s.ld l).bie i) = 1) (young : s.oldReader l i = false)
    (free : s.commitHolds l ((s.ld l).bieAddr i) 32 = false) (lines : s.linesFree l ((s.ld l).bieAddr i) 32 = true) :
    exec (.shopenGrant l k c) s = .next ((s.openBie l k c i).updCtx l k c fun x => x.metA (s.chargeTick l k c) s.ticks) := by
  refine runEv_ok units ?_
  rw [evShopenGrant, bind_ok (getS_run s)]
  simp only [asked]
  refine (bind_ok (need_ok ?_ s) _).trans rfl
  rw [live, base, young, free, lines]
  rfl

/-- A publication whose copies, stores and atomics in reach are done completes (R166). -/
theorem exec_publicationComplete {s : State} {l k e d : Nat} {u : State} {back : State → State} (h : At s l k e u d back)
    (units : (dieOk l && decide (k < 48)) = true) (live : (u.ctx l k d).live = true) {sc : Nat} (scope : sc < 8)
    (asked : (u.ctx l k d).pubReq = some sc) (todo : (u.ctx l k d).pubDone = false)
    (copied : u.copying l k (u.ctx l k d).sid (fun h _ => scopeReach l sc h) = false)
    (stored : u.storesDue l k d (fun h _ => scopeReach l sc h) = false)
    (performed : u.hasRequests l (u.ctx l k d).sid (fun r => r.atom.isSome && scopeReach l sc r.home) = false) :
    exec (.publicationComplete l k e) s = .next (back ((u.publish l k d fun h _ => scopeReach l sc h).updCtx l k d fun x =>
      { x.metA (u.chargeTick l k d) u.ticks with pubDone := true })) := by
  refine runEv_ok (units_of_at h units) (onCtx_at h ?_)
  rw [bind_ok (getS_run u)]
  simp only [asked]
  refine (bind_ok (need_ok ?_ u) _).trans rfl
  rw [live, decide_eq_true scope, todo, copied, stored, performed]
  rfl

/-- An exchange whose shadow image is written is made in one update (R47, R169). -/
theorem exec_shpubExchange {s : State} {l k e d : Nat} {u : State} {back : State → State} (h : At s l k e u d back)
    (units : (dieOk l && decide (k < 48)) = true) (live : (u.ctx l k d).live = true) {i r : Nat}
    (asked : (u.ctx l k d).pubReq = some (8 + i)) (hr : r = (u.ld l).bie i) (todo : (u.ctx l k d).pubDone = false)
    (opened : (u.ctx l k d).openBies.has i = true) (shadow : bieState r = 2) (copied : u.copying l k (u.ctx l k d).sid (inShadow l r) = false)
    (stored : u.storesDue l k d (inShadow l r) = false) (free : u.commitHolds l ((u.ld l).bieAddr i) 32 = false)
    (lines : u.linesFree l ((u.ld l).bieAddr i) 32 = true)
    (performed : u.hasRequests l (u.ctx l k d).sid (fun q => q.atom.isSome && inShadow l r q.home q.addr) = false) :
    exec (.shpubExchange l k e) s = .next (back (((u.publishShadow l k d r).exchangeBie l k d i).updCtx l k d fun y =>
      { y.metA (u.chargeTick l k d) u.ticks with pubDone := true })) := by
  refine runEv_ok (units_of_at h units) (onCtx_at h ?_)
  rw [bind_ok (getS_run u)]
  simp only [asked, Nat.add_sub_cancel_left, ← hr]
  refine (bind_ok (need_ok ?_ u) _).trans rfl
  rw [live, todo, opened, shadow, copied, lines, free, stored, performed, decide_eq_true (Nat.le_add_right 8 i)]
  rfl

/-! Bounds and budgets (R210, R214) -/

/-- The trap of a step whose time is over (R214). -/
def overrunTrap : TrapInfo := { cause := 0x2C5, kind := 1 }
/-- A step marked as over its bound, at the tick of its end. -/
def overrunAt (u : State) (l k d t : Nat) : State :=
  (timeTo u t).updCtx l k d fun x => { x with overrun := true, st.dtraps := x.st.dtraps ++ [overrunTrap] }

theorem overrunAt_active (u : State) (l k d t : Nat) : ((overrunAt u l k d t).core l k).active = (u.core l k).active := by
  rw [overrunAt, State.updCtx, score_updCore_same]
  rfl

/-- A step over its bound is marked; one that stands at a boundary takes the trap at once (R214). -/
theorem exec_stepTimeBoundOverrun {s : State} {l k e d : Nat} {u : State} {back : State → State} (h : At s l k e u d back)
    (units : (dieOk l && decide (k < 48)) = true) (live : (u.ctx l k d).live = true) {t : Nat} (ends : (u.ctx l k d).boundEnd = some t)
    (runs : d = 4 ∨ (u.core l k).calRun = 0) :
    exec (.stepTimeBoundOverrun l k e) s = .next (back
      (if (u.ctx l k d).paused.isSome || (u.core l k).active == some d then overrunAt u l k d t
       else (overrunAt u l k d t).takeDetected l k d overrunTrap)) := by
  refine runEv_ok (units_of_at h units) (onCtx_at h ?_)
  rw [bind_ok (getS_run u)]
  simp only [ends]
  rw [← overrunAt_active u l k d t]
  refine (bind_ok (need_ok ?_ u) _).trans rfl
  rw [live, Bool.true_and, Bool.or_eq_true, beq_iff_eq, beq_iff_eq]
  exact runs

/-- A resident step whose budget is spent (R210); no charge has stopped before its end. -/
theorem exec_waitingBudgetExhausted {s : State} {l k c t : Nat} (units : (dieOk l && decide (k < 48)) = true) (hc : c < 4)
    (ends : (s.ctx l k c).budgetEnd = some t) (live : (s.ctx l k c).live = true) (runs : (s.ctx l k c).paused = none)
    (cal : ∀ u, (s.core l k).calFrom = some u → t ≤ u) (held : ∀ u, s.heldFrom l (s.ctx l k c) = some u → t ≤ u) :
    exec (.waitingBudgetExhausted l k c) s = .next
      (((timeTo s t).finishReads l k c).spendBudget l k (.at_ k c) (s.ctx l k c).sid (s.ctx l k c).waits) := by
  refine runEv_ok (by rw [units, Bool.true_and, decide_eq_true_iff]; omega) ?_
  rw [evWaitingBudgetExhausted, bind_ok (getS_run s), if_pos hc]
  simp only [ends]
  refine (bind_ok (need_ok ?_ s) _).trans rfl
  simp only [live, runs, Option.isNone_none, Bool.true_and, Bool.and_eq_true, Option.all_eq_true, decide_eq_true_iff]
  exact ⟨cal, held⟩

/-- A step out of its core whose budget is spent (R210). -/
theorem exec_waitingBudgetExhausted_saved {s : State} {l k n t : Nat} {v : Saved} (units : (dieOk l && decide (k < 48)) = true) (hn : n < 65536)
    (saved : mget (s.ld l).saved n = some v) (hk : v.core = k) (ends : v.ctx.budgetEnd = some t) (runs : v.ctx.paused = none)
    (cal : ∀ u, v.cal = true → (s.core l k).calFrom = some u → t ≤ u) (held : ∀ u, s.heldFrom l v.ctx = some u → t ≤ u) :
    exec (.waitingBudgetExhausted l k (n + 4)) s = .next ((timeTo s t).spendBudget l k (.slot n) v.ctx.sid v.ctx.waits) := by
  refine runEv_ok (by rw [units, Bool.true_and, decide_eq_true_iff]; omega) ?_
  rw [evWaitingBudgetExhausted, bind_ok (getS_run s), if_neg (by omega), Nat.add_sub_cancel]
  simp only [saved, ends]
  refine (bind_ok (need_ok ?_ s) _).trans rfl
  simp only [runs, hk, Option.isNone_none, beq_self_eq_true, Bool.true_and, Bool.and_eq_true, Bool.or_eq_true, Bool.not_eq_true', Option.all_eq_true,
    decide_eq_true_iff]
  refine ⟨?_, held⟩
  cases hv : v.cal
  · exact .inl rfl
  · exact .inr fun u => cal u hv

/-- Settles O45, event by event: the events of a context, resident or in a save slot, run where `onCtx_at` says. -/
theorem stepEvents : Obligations.StepEvents := by
  intro s l k c hctx
  have core := units_of_onCtx hctx
  obtain ⟨hl, hk, hc⟩ := hctx
  have ctx : (dieOk l && decide (k < 48) && decide (c < 4)) = true := by rw [core, decide_eq_true hc]; rfl
  have walker (w : Nat) (hw : w < 4) : (dieOk l && decide (w < 4)) = true := by rw [hl, decide_eq_true hw]; rfl
  refine ⟨⟨fun w hw awake opid t j src pick => ?_, fun w hw quiet unset pick => ?_⟩, exec_retirementComplete ctx,
    fun _ => exec_scratchpadAllocationFree core, fun _ => exec_shopenGrant ctx,
    fun e d u back h live => ⟨fun _ => exec_publicationComplete h core live, fun _ _ => exec_shpubExchange h core live,
      fun t ends runs => ⟨fun later => ?_, fun unpaused away => ?_⟩⟩,
    fun _ => exec_waitingBudgetExhausted core hc, fun _ _ _ => exec_waitingBudgetExhausted_saved core, fun p sid waits x hx => ?_⟩
  · exact exec_stepRelease (walker w hw) (Bool.eq_false_iff.mpr (mt (isQuiet_iff ..).mp awake)) pick
  · exact exec_stepRelease_quiet (walker w hw) ((isQuiet_iff ..).mpr quiet) unset pick
  · rw [exec_stepTimeBoundOverrun h core live ends runs, if_pos (by rwa [Bool.or_eq_true, beq_iff_eq])]
    rfl
  · rw [exec_stepTimeBoundOverrun h core live ends runs, if_neg (by rw [unpaused]; simpa using away)]
    rfl
  · rw [State.spendBudget, hx]

end Sys2Proof.Machine

/-! O55, first part: what it means that the memories of a state, of a die and of an operation's outcome keep their canonical form, and the
rules for the operations of the state. A change that leaves the memories alone keeps them in both directions (`↔`, a `simp` lemma); one
that writes a memory keeps them from left to right. The lemmas are many and short: they are checked one after another, since each thread that
waits for the kernel holds memory. -/

namespace Sys2Proof.Machine

open Sys2Proof.Claim

set_option Elab.async false

/-- The memories of one die are canonical. -/
def LdOk (x : Ld) : Prop := x.hbm.slots.wf = true ∧ ∀ k, (x.core k).spad.wf = true

/-- `MemOk` of the two fields of a state that hold memories: the dies and the host's memory. -/
def MemOf (lds : Smap Ld) (host : Mem) : Prop := MemOk { lds := lds, host := host }

theorem memOk_iff (s : State) : MemOk s ↔ s.host.wf = true ∧ ∀ l, LdOk (s.ld l) :=
  ⟨fun ⟨h, m, c⟩ => ⟨h, fun l => ⟨m l, c l⟩⟩, fun ⟨h, d⟩ => ⟨h, fun l => (d l).1, fun l => (d l).2⟩⟩

theorem host_wf {s : State} (h : MemOk s) : s.host.wf = true := h.1

theorem ldOk_of_memOk {s : State} (h : MemOk s) (l : Nat) : LdOk (s.ld l) := ((memOk_iff s).mp h).2 l

theorem ldOk_reset : LdOk {} := ldOk_of_memOk memOk_reset 0

@[simp] theorem memOk_mk (lds pkgs host ticks spdm agenda turn cur draw) :
    MemOk (State.mk lds pkgs host ticks spdm agenda turn cur draw) ↔ MemOf lds host := Iff.rfl

@[simp] theorem memOf_lds (s : State) (m : Mem) (h : m = s.host) : MemOf s.lds m ↔ MemOk s := by rw [h]; rfl

theorem memOk_host {s : State} {m : Mem} (h : MemOk s) (hm : m.wf = true) : MemOk { s with host := m } := ⟨hm, h.2⟩

@[simp] theorem memOk_ite (c : Prop) [Decidable c] (s t : State) : MemOk (if c then s else t) ↔ if c then MemOk s else MemOk t := by
  split <;> rfl

@[simp] theorem ldOk_ite (c : Prop) [Decidable c] (x y : Ld) : LdOk (if c then x else y) ↔ if c then LdOk x else LdOk y := by
  split <;> rfl

/-- A die whose device memory and cores are as before. -/
theorem ldOk_congr {x y : Ld} (hm : y.hbm.slots = x.hbm.slots) (hc : y.cores = x.cores) : LdOk y ↔ LdOk x := by
  unfold LdOk Ld.core
  rw [hm, hc]

theorem ldOk_of_congr {x y : Ld} (h : LdOk x) (hm : y.hbm.slots = x.hbm.slots) (hc : y.cores = x.cores) : LdOk y := (ldOk_congr hm hc).mpr h

/-! One die changed. -/

theorem ld_putLd (s : State) (l j : Nat) (x : Ld) : (s.putLd l x).ld j = if j = l then x else s.ld j := by
  unfold State.putLd State.ld
  split
  · subst j; exact mgetD_mput_same ..
  · exact mgetD_mput_other _ _ _ _ _ ‹_›

theorem memOk_putLd {s : State} (l : Nat) {x : Ld} (h : MemOk s) (hx : LdOk x) : MemOk (s.putLd l x) := by
  rw [memOk_iff] at h ⊢
  refine ⟨h.1, fun j => ?_⟩
  rw [ld_putLd]
  split
  · exact hx
  · exact h.2 j

theorem memOk_updLd {s : State} (l : Nat) {f : Ld → Ld} (h : MemOk s) (hf : ∀ x, LdOk x → LdOk (f x)) : MemOk (s.updLd l f) :=
  memOk_putLd l h (hf _ (ldOk_of_memOk h l))

theorem memOk_updLd_iff {s : State} {l : Nat} {f : Ld → Ld} (hf : ∀ x, LdOk (f x) ↔ LdOk x) : MemOk (s.updLd l f) ↔ MemOk s := by
  rw [memOk_iff, memOk_iff]
  refine and_congr_right fun _ => forall_congr' fun j => ?_
  rw [State.updLd, ld_putLd]
  split
  · subst j; exact hf _
  · rfl

/-- A change of a die that leaves its device memory and its cores. -/
@[simp] theorem memOk_updLd_frame (s : State) (l : Nat) (f : Ld → Ld) (hm : ∀ x, (f x).hbm.slots = x.hbm.slots) (hc : ∀ x, (f x).cores = x.cores) :
    MemOk (s.updLd l f) ↔ MemOk s := memOk_updLd_iff fun x => ldOk_congr (hm x) (hc x)

/-- A change of a die that writes its device memory and leaves its cores. -/
theorem memOk_updHbm {s : State} (l : Nat) {f : Ld → Ld} (h : MemOk s) (hf : ∀ x, x.hbm.slots.wf = true → (f x).hbm.slots.wf = true)
    (hc : ∀ x, (f x).cores = x.cores) : MemOk (s.updLd l f) :=
  memOk_updLd l h fun x hx => ⟨hf x hx.1, by unfold Ld.core; rw [hc]; exact hx.2⟩

/-! One core changed. -/

theorem core_updCore (x : Ld) (k j : Nat) (f : Core → Core) : (x.updCore k f).core j = if j = k then f (x.core j) else x.core j := by
  split
  · subst j; exact core_updCore_same ..
  · exact core_updCore_other _ _ _ _ ‹_›

@[simp] theorem ldOk_updCore_frame (x : Ld) (k : Nat) (f : Core → Core) (hf : ∀ y, (f y).spad = y.spad) : LdOk (x.updCore k f) ↔ LdOk x := by
  unfold LdOk
  simp only [core_updCore, updCore_hbm, apply_ite Core.spad, hf, ite_self]

theorem ldOk_updCore {x : Ld} (k : Nat) {f : Core → Core} (h : LdOk x) (hf : ∀ y, y.spad.wf = true → (f y).spad.wf = true) : LdOk (x.updCore k f) := by
  refine ⟨h.1, fun j => ?_⟩
  rw [core_updCore]
  split
  · exact hf _ (h.2 j)
  · exact h.2 j

/-- A change of a core that leaves its scratchpad. -/
@[simp] theorem memOk_updCore_frame (s : State) (l k : Nat) (f : Core → Core) (hf : ∀ y, (f y).spad = y.spad) : MemOk (s.updCore l k f) ↔ MemOk s :=
  memOk_updLd_iff fun x => ldOk_updCore_frame x k f hf

theorem memOk_updCore {s : State} (l k : Nat) {f : Core → Core} (h : MemOk s) (hf : ∀ y, y.spad.wf = true → (f y).spad.wf = true) :
    MemOk (s.updCore l k f) := memOk_updLd l h fun _ hx => ldOk_updCore k hx hf

/-- A core put back whose scratchpad is the one of an earlier state. -/
theorem memOk_putCore {s t : State} {l k : Nat} {y : Core} (hs : MemOk s) (ht : MemOk t) (hy : y.spad = (s.core l k).spad) :
    MemOk (t.updCore l k fun _ => y) :=
  memOk_updCore _ _ ht fun _ _ => by rw [hy]; exact (ldOk_of_memOk hs l).2 k

@[simp] theorem memOk_updCtx (s : State) (l k c : Nat) (f : Ctx → Ctx) : MemOk (s.updCtx l k c f) ↔ MemOk s := memOk_updCore_frame _ _ _ _ fun _ => rfl

@[simp] theorem memOk_updMe (s : State) (f : Ctx → Ctx) : MemOk (s.updMe f) ↔ MemOk s := memOk_updCtx ..

@[simp] theorem memOk_updPkg (s : State) (p : Nat) (f : Pkg → Pkg) : MemOk (s.updPkg p f) ↔ MemOk s := Iff.rfl

@[simp] theorem memOk_seated (s : State) (l : Nat) (v : Saved) : MemOk (s.seated l v) ↔ MemOk s := memOk_updCtx ..

@[simp] theorem memOk_unseated (s : State) (l n : Nat) (v : Saved) : MemOk (s.unseated l n v) ↔ MemOk s := by unfold State.unseated; simp

/-! One change after another. -/

@[simp] theorem memOk_foldl {α : Type} (l : List α) (f : State → α → State) (s : State) (hf : ∀ s a, MemOk (f s a) ↔ MemOk s) :
    MemOk (l.foldl f s) ↔ MemOk s := by
  induction l generalizing s with
  | nil => rfl
  | cons a l ih => rw [List.foldl_cons, ih, hf]

theorem memOk_foldl_of {α : Type} (l : List α) {f : State → α → State} {s : State} (h : MemOk s) (hf : ∀ s a, MemOk s → MemOk (f s a)) :
    MemOk (l.foldl f s) := by
  induction l generalizing s with
  | nil => exact h
  | cons a l ih => exact ih (hf s a h)

theorem memOk_foldl_fst {α β : Type} (l : List α) {f : State × β → α → State × β} {r : State × β} (h : MemOk r.1)
    (hf : ∀ r a, MemOk r.1 → MemOk (f r a).1) : MemOk (l.foldl f r).1 := by
  induction l generalizing r with
  | nil => exact h
  | cons a l ih => exact ih (hf r a h)

@[simp] theorem memOk_foldS {α : Type} (l : List α) (f : α → State → State) (s : State) (hf : ∀ s a, MemOk (f a s) ↔ MemOk s) :
    MemOk (foldS f l s) ↔ MemOk s := by
  induction l generalizing s with
  | nil => rfl
  | cons a l ih => rw [foldS, ih, hf]

theorem ldOk_foldl {α : Type} (l : List α) (f : Ld → α → Ld) (x : Ld) (hf : ∀ x a, LdOk (f x a) ↔ LdOk x) : LdOk (l.foldl f x) ↔ LdOk x := by
  induction l generalizing x with
  | nil => rfl
  | cons a l ih => rw [List.foldl_cons, ih, hf]

@[simp] theorem foldl_slots {α : Type} (l : List α) (f : Ld → α → Ld) (x : Ld) (hf : ∀ x a, (f x a).hbm.slots = x.hbm.slots) :
    (l.foldl f x).hbm.slots = x.hbm.slots := by
  induction l generalizing x with
  | nil => rfl
  | cons a l ih => rw [List.foldl_cons, ih, hf]

@[simp] theorem foldl_cores {α : Type} (l : List α) (f : Ld → α → Ld) (x : Ld) (hf : ∀ x a, (f x a).cores = x.cores) : (l.foldl f x).cores = x.cores := by
  induction l generalizing x with
  | nil => rfl
  | cons a l ih => rw [List.foldl_cons, ih, hf]

@[simp] theorem foldl_spad {α : Type} (l : List α) (f : Core → α → Core) (y : Core) (hf : ∀ y a, (f y a).spad = y.spad) : (l.foldl f y).spad = y.spad := by
  induction l generalizing y with
  | nil => rfl
  | cons a l ih => rw [List.foldl_cons, ih, hf]

theorem foldl_fst_spad {α β : Type} (l : List α) (f : Core × β → α → Core × β) (r : Core × β) (hf : ∀ r a, (f r a).1.spad = r.1.spad) :
    (l.foldl f r).1.spad = r.1.spad := by
  induction l generalizing r with
  | nil => rfl
  | cons a l ih => rw [List.foldl_cons, ih, hf]

theorem wf_foldl_hbm {α : Type} (l : List α) {f : Hbm → α → Hbm} {h : Hbm} (hw : h.slots.wf = true)
    (hf : ∀ h a, h.slots.wf = true → (f h a).slots.wf = true) : (l.foldl f h).slots.wf = true := by
  induction l generalizing h with
  | nil => exact hw
  | cons a l ih => exact ih (hf _ _ hw)

theorem wf_foldl_set {α : Type} (l : List α) (f : α → Nat × BitVec 8) {m : Mem} (h : m.wf = true) :
    (l.foldl (fun m p => Mem.set m (f p).1 (f p).2) m).wf = true := by
  induction l generalizing m with
  | nil => exact h
  | cons a l ih => exact ih (Mem.wf_set _ _ _ h)

/-! All dies, or all cores of a die, changed at once. -/

theorem mget_map {α : Type} {m : Smap α} {g : Nat × α → Nat × α} (hk : ∀ e, (g e).1 = e.1) (n : Nat) :
    mget (m.map g) n = (mget m n).map fun v => (g (n, v)).2 := by
  induction m with
  | nil => rfl
  | cons e r ih =>
    obtain ⟨k, v⟩ := e
    have : g (k, v) = (k, (g (k, v)).2) := Prod.ext (hk _) rfl
    rw [List.map_cons, this, mget, mget, ih]
    split
    · subst k; rfl
    · rfl

theorem mgetD_map_iff {α : Type} {m : Smap α} {g : Nat × α → Nat × α} {d : α} {P : α → Prop} (hk : ∀ e, (g e).1 = e.1)
    (hg : ∀ e, P (g e).2 ↔ P e.2) (n : Nat) : P (mgetD (m.map g) n d) ↔ P (mgetD m n d) := by
  unfold mgetD
  rw [mget_map hk]
  cases mget m n with
  | none => rfl
  | some v => exact hg (n, v)

theorem forall_mgetD_map {α : Type} {m : Smap α} {g : Nat × α → Nat × α} {d : α} {P : α → Prop} (hk : ∀ e, (g e).1 = e.1)
    (hg : ∀ e, P e.2 → P (g e).2) (h : ∀ n, P (mgetD m n d)) (n : Nat) : P (mgetD (m.map g) n d) := by
  have hn := h n
  unfold mgetD at hn ⊢
  rw [mget_map hk]
  cases hv : mget m n with
  | none => rw [hv] at hn; exact hn
  | some v => rw [hv] at hn; exact hg (n, v) hn

@[simp] theorem memOf_map (s : State) (m : Mem) (h : m = s.host) (g : Nat × Ld → Nat × Ld) (hk : ∀ e, (g e).1 = e.1)
    (hm : ∀ e, (g e).2.hbm.slots = e.2.hbm.slots) (hc : ∀ e, (g e).2.cores = e.2.cores) : MemOf (s.lds.map g) m ↔ MemOk s := by
  rw [h, MemOf, memOk_iff, memOk_iff]
  exact and_congr_right fun _ => forall_congr' (mgetD_map_iff hk fun e => ldOk_congr (hm e) (hc e))

theorem memOk_mapLds {s : State} {g : Nat × Ld → Nat × Ld} (hk : ∀ e, (g e).1 = e.1) (hg : ∀ e, LdOk e.2 → LdOk (g e).2) (h : MemOk s) :
    MemOk { s with lds := s.lds.map g } := by
  rw [memOk_iff] at h ⊢
  exact ⟨h.1, forall_mgetD_map hk hg h.2⟩

theorem ldOk_mapCores_iff {x y : Ld} {g : Nat × Core → Nat × Core} (hm : y.hbm.slots = x.hbm.slots) (hc : y.cores = x.cores.map g)
    (hk : ∀ e, (g e).1 = e.1) (hg : ∀ e, (g e).2.spad = e.2.spad) : LdOk y ↔ LdOk x := by
  unfold LdOk Ld.core
  rw [hm, hc]
  exact and_congr_right fun _ => forall_congr' (mgetD_map_iff (P := fun y : Core => y.spad.wf = true) hk fun e => by rw [hg])

theorem memOk_updLd_mapCores (s : State) (l : Nat) (f : Ld → Ld) (g : Ld → Nat × Core → Nat × Core) (hm : ∀ x, (f x).hbm.slots = x.hbm.slots)
    (hc : ∀ x, (f x).cores = x.cores.map (g x)) (hk : ∀ x e, (g x e).1 = e.1) (hg : ∀ x e, (g x e).2.spad = e.2.spad) :
    MemOk (s.updLd l f) ↔ MemOk s :=
  memOk_updLd_iff fun x => ldOk_mapCores_iff (hm x) (hc x) (hk x) (hg x)

end Sys2Proof.Machine

/-! O55, second part: the operations that keep the memories. One rule for each way of putting operations together, and `KeepsM.auto`, by
which an operation keeps them when its parts do. -/

namespace Sys2Proof.Machine

open Sys2Proof.Claim

set_option Elab.async false

/-- What an outcome keeps: the state it hands on; a stall, the state after its request, whichever state that is made in. -/
def Kept {α : Type} : Except Stop (α × State) → Prop
  | .ok r => MemOk r.2
  | .error (.wait _ ask) => ∀ s, MemOk s → MemOk (ask s)
  | .error _ => True

/-- An operation that keeps the memories canonical. -/
def KeepsM {α : Type} (m : M α) : Prop := ∀ s, MemOk s → Kept (m s)

theorem KeepsM.ok {α : Type} {m : M α} {s t : State} {a : α} (hm : KeepsM m) (h : MemOk s) (e : m s = .ok (a, t)) : MemOk t := by
  have := hm s h
  rwa [e] at this

theorem KeepsM.ask {α : Type} {m : M α} {s t : State} {w : Wait} {f : State → State} (hm : KeepsM m) (h : MemOk s) (e : m s = .error (.wait w f))
    (ht : MemOk t) : MemOk (f t) := by
  have := hm s h
  rw [e] at this
  exact this t ht

theorem KeepsM.error {α β : Type} {m : M α} {s : State} {e : Stop} (hm : KeepsM m) (h : MemOk s) (he : m s = .error e) :
    Kept (.error e : Except Stop (β × State)) := by
  have := hm s h
  rw [he] at this
  cases e <;> exact this

theorem kept_stop {α : Type} {e : Stop} (h : ∀ w ask, e = .wait w ask → False) : Kept (.error e : Except Stop (α × State)) := by
  cases e
  case wait w ask => exact (h w ask rfl).elim
  all_goals trivial

theorem keeps_bind {α β : Type} {m : M α} {f : α → M β} (hm : KeepsM m) (hf : ∀ a, KeepsM (f a)) : KeepsM (m >>= f) := by
  intro s h
  rw [M_bind]
  match hr : m s with
  | .ok (a, t) => exact hf a t (hm.ok h hr)
  | .error e => exact hm.error h hr

@[simp] theorem keeps_map {α β : Type} {m : M α} {f : α → β} (hm : KeepsM m) : KeepsM (f <$> m) := by
  intro s h
  rw [M_map]
  match hr : m s with
  | .ok (a, t) => exact hm.ok h hr
  | .error e => exact hm.error h hr

theorem keeps_getS_bind {β : Type} {f : State → M β} (hf : ∀ s, MemOk s → KeepsM (f s)) : KeepsM (getS >>= f) := fun s h => hf s h s h

@[simp] theorem keeps_pure {α : Type} (a : α) : KeepsM (pure a : M α) := fun _ h => h

@[simp] theorem keeps_getS : KeepsM getS := fun _ h => h

@[simp] theorem keeps_getMe : KeepsM getMe := fun _ h => h

@[simp] theorem keeps_getCore : KeepsM getCore := fun _ h => h

@[simp] theorem keeps_getLd : KeepsM getLd := fun _ h => h

@[simp] theorem keeps_fresh : KeepsM fresh := fun _ h => h

@[simp] theorem keeps_idle {α : Type} : KeepsM (idle : M α) := fun _ _ => trivial

@[simp] theorem keeps_freezeX {α : Type} (w : Wait) (b : Bool) : KeepsM (freezeX w b : M α) := fun _ _ => trivial

@[simp] theorem keeps_trapAt {α : Type} (cause info kind va : Nat) : KeepsM (trapAt cause info kind va : M α) := fun _ _ => trivial

theorem keeps_stall_of {α : Type} {w : Wait} {ask : State → State} (h : ∀ s, MemOk s → MemOk (ask s)) : KeepsM (stall w ask : M α) := fun _ _ => h

@[simp] theorem keeps_stall {α : Type} (w : Wait) (ask : State → State) : KeepsM (stall w ask : M α) ↔ ∀ s, MemOk s → MemOk (ask s) :=
  ⟨fun h => h {} memOk_reset, keeps_stall_of⟩

theorem keeps_updS {f : State → State} (hf : ∀ s, MemOk s → MemOk (f s)) : KeepsM (updS f) := fun s h => hf s h

@[simp] theorem keeps_updS_frame {f : State → State} (hf : ∀ s, MemOk (f s) ↔ MemOk s) : KeepsM (updS f) := keeps_updS fun s => (hf s).mpr

@[simp] theorem keeps_updMe (f : Ctx → Ctx) : KeepsM (updMe f) := fun s h => (memOk_updMe s f).mpr h

@[simp] theorem keeps_updCore (f : Core → Core) (hf : ∀ y, (f y).spad = y.spad) : KeepsM (updCore f) := fun s h => (memOk_updCore_frame s _ _ f hf).mpr h

theorem keeps_updCore_of {f : Core → Core} (hf : ∀ y, y.spad.wf = true → (f y).spad.wf = true) : KeepsM (updCore f) := fun _ h => memOk_updCore _ _ h hf

@[simp] theorem keeps_updLd (f : Ld → Ld) (hm : ∀ x, (f x).hbm.slots = x.hbm.slots) (hc : ∀ x, (f x).cores = x.cores) : KeepsM (updLd f) :=
  fun s h => (memOk_updLd_frame s _ f hm hc).mpr h

@[simp] theorem keeps_updLd_updCore (k : Nat) (f : Core → Core) (hf : ∀ y, (f y).spad = y.spad) : KeepsM (updLd fun x => x.updCore k f) :=
  fun _ h => (memOk_updCore_frame _ _ _ f hf).mpr h

@[simp] theorem keeps_check (b : Bool) (cause info kind : Nat) : KeepsM (check b cause info kind) := by unfold check; split <;> simp

@[simp] theorem keeps_need (b : Bool) : KeepsM (need b) := by unfold need; split <;> simp

theorem keeps_ite {α : Type} {c : Prop} [Decidable c] {m n : M α} (hm : c → KeepsM m) (hn : ¬c → KeepsM n) : KeepsM (if c then m else n) := by
  split
  · exact hm ‹_›
  · exact hn ‹_›

@[simp] theorem keeps_forEach {α : Type} {f : α → M Unit} (hf : ∀ a, KeepsM (f a)) (l : List α) : KeepsM (forEach f l) := by
  induction l with
  | nil => exact keeps_pure ()
  | cons a l ih => exact keeps_bind (hf a) fun _ => ih

@[simp] theorem keeps_mapM' {α β : Type} {f : α → M β} (hf : ∀ a, KeepsM (f a)) (l : List α) : KeepsM (mapM' f l) := by
  induction l with
  | nil => exact keeps_pure _
  | cons a l ih => exact keeps_bind (hf a) fun _ => keeps_bind ih fun _ => keeps_pure _

/-- An event of a context, resident or in a save slot, keeps the memories when it does so of a resident one. -/
theorem keeps_onCtx (l k c : Nat) {m : Nat → M Unit} (hm : ∀ d, KeepsM (m d)) : KeepsM (onCtx l k c m) := by
  intro s h
  unfold onCtx
  split
  · exact hm c s h
  · split
    · trivial
    · split
      · trivial
      · have hs := (memOk_seated s l ‹_›).mpr h
        split
        · exact (memOk_unseated ..).mpr ((hm _).ok hs ‹_›)
        · exact (hm _).error hs ‹_›

/-- An operation keeps the memories when its parts do: `exact .auto` takes a block, its branches and its matches apart by the rules above,
and leaves what remains, one operation or one change of the state at a time, to the `simp` lemma about it. -/
theorem KeepsM.auto {α : Type} {m : M α} (h : KeepsM m := by
    repeat' first
      | with_reducible refine keeps_getS_bind fun s hs => ?_
      | with_reducible refine keeps_bind ?_ fun _ => ?_
      | with_reducible refine keeps_ite (fun _ => ?_) (fun _ => ?_)
      | with_reducible refine keeps_updS fun s hs => ?_
      | with_reducible refine keeps_stall_of fun s hs => ?_
      | with_reducible refine keeps_forEach (fun _ => ?_) _
      | with_reducible refine keeps_mapM' (fun _ => ?_) _
      | with_reducible refine keeps_onCtx _ _ _ fun _ => ?_
      | split
    all_goals simp [*]) : KeepsM m := h

end Sys2Proof.Machine

/-! O55: the memories kept by the accesses to memories and what they note, and by translations (R13 to R53, R115 to R125). -/

namespace Sys2Proof.Machine

open Sys2Proof.Claim

set_option Elab.async false

@[simp] theorem memOk_updOp (s : State) (l opid : Nat) (f : Op → Op) : MemOk (s.updOp l opid f) ↔ MemOk s := by simp [State.updOp]

@[simp] theorem memOk_updRegion (s : State) (l r : Nat) (f : Region → Region) : MemOk (s.updRegion l r f) ↔ MemOk s := by simp [State.updRegion]

@[simp] theorem memOk_errLog (s : State) (l sev unit cause loc : Nat) (unq : Bool) :
    MemOk (s.errLog l sev unit cause loc unq) ↔ MemOk s := by simp [State.errLog]

@[simp] theorem memOk_updPort (s : State) (p n : Nat) (f : Port → Port) : MemOk (s.updPort p n f) ↔ MemOk s := by simp [State.updPort]

@[simp] theorem memOk_bothEnds (s : State) (p n : Nat) (f : Port → Port) : MemOk (s.bothEnds p n f) ↔ MemOk s := by
  unfold State.bothEnds
  split <;> simp

/-- Bytes stored into a scratchpad. -/
theorem wf_spWriteBytes {m : Mem} (mode off : Nat) (bs : List (BitVec 8)) (h : m.wf = true) : (spWriteBytes m mode off bs).wf = true := by
  induction bs generalizing m off with
  | nil => exact h
  | cons b r ih => exact ih _ (Mem.wf_set _ _ _ h)

theorem wf_spWrite {y : Core} (h : y.spad.wf = true) (mode off : Nat) (bs : List (BitVec 8)) : (y.spWrite mode off bs).spad.wf = true :=
  wf_spWriteBytes _ _ _ h

@[simp] theorem keeps_updCore_spWrite (mode off : Nat) (bs : List (BitVec 8)) : KeepsM (updCore fun y => y.spWrite mode off bs) :=
  keeps_updCore_of fun _ h => wf_spWrite h _ _ _

/-- Bytes merged into a line of device memory. -/
theorem wf_mergeLine {h : Hbm} (hw : h.slots.wf = true) (line : Nat) (comp : Bool) (f : Nat → Option (BitVec 8 × Bool)) :
    (h.mergeLine line comp f).slots.wf = true := Mem.wf_setBytes _ _ _ hw

theorem wf_writeBad {h : Hbm} (hw : h.slots.wf = true) (a : Nat) (bs : List (BitVec 8 × Bool)) (comp : Bool) :
    (h.writeBad a bs comp).slots.wf = true :=
  wf_foldl_hbm _ hw fun _ _ hw => wf_mergeLine hw _ _ _

theorem slots_wf_write {h : Hbm} (hw : h.slots.wf = true) (a : Nat) (bs : List (BitVec 8)) (comp : Bool) : (h.write a bs comp).slots.wf = true :=
  wf_writeBad hw ..

@[simp] theorem memOk_mapViews (s : State) (f : Ctx → Ctx) : MemOk (s.mapViews f) ↔ MemOk s := by
  dsimp only [State.mapViews]
  rw [memOk_mk, MemOf, memOk_iff, memOk_iff]
  exact and_congr_right fun _ => forall_congr' (mgetD_map_iff (fun _ => rfl) fun e => ldOk_mapCores_iff rfl rfl (fun _ => rfl) fun _ => rfl)

@[simp] theorem memOk_hostWrites {s : State} (h : MemOk s) (a : Nat) (bs : List (BitVec 8)) : MemOk (s.hostWrites a bs) :=
  (memOk_mapViews ..).mpr (memOk_host h (Mem.wf_setBytes _ _ _ (host_wf h)))

@[simp] theorem snoop_slots (x : Ld) (line : Nat) : (x.snoop line).hbm.slots = x.hbm.slots := by
  unfold Ld.snoop
  split <;> simp

@[simp] theorem snoop_cores (x : Ld) (line : Nat) : (x.snoop line).cores = x.cores := by
  unfold Ld.snoop
  split <;> simp

@[simp] theorem touchLine_slots (x : Ld) (line secs ca : Nat) (dirty : Bool) : (x.touchLine line secs ca dirty).hbm.slots = x.hbm.slots := by
  dsimp only [Ld.touchLine]; (repeat' split) <;> simp

@[simp] theorem touchLine_cores (x : Ld) (line secs ca : Nat) (dirty : Bool) : (x.touchLine line secs ca dirty).cores = x.cores := by
  dsimp only [Ld.touchLine]; (repeat' split) <;> simp

@[simp] theorem touch_slots (x : Ld) (a n ca : Nat) (dirty : Bool) : (x.touch a n ca dirty).hbm.slots = x.hbm.slots := by
  unfold Ld.touch; simp

@[simp] theorem touch_cores (x : Ld) (a n ca : Nat) (dirty : Bool) : (x.touch a n ca dirty).cores = x.cores := by
  unfold Ld.touch; simp

@[simp] theorem learn_slots (x : Ld) (va : Nat) : (x.learn va).hbm.slots = x.hbm.slots := by dsimp only [Ld.learn]; (repeat' split) <;> simp_all

@[simp] theorem learn_cores (x : Ld) (va : Nat) : (x.learn va).cores = x.cores := by dsimp only [Ld.learn]; (repeat' split) <;> simp_all

@[simp] theorem ldOk_learn (x : Ld) (va : Nat) : LdOk (x.learn va) ↔ LdOk x := ldOk_congr (learn_slots ..) (learn_cores ..)

@[simp] theorem memOk_learnFar (s : State) (l leaf va : Nat) : MemOk (s.learnFar l leaf va) ↔ MemOk s := by unfold State.learnFar; simp

@[simp] theorem memOk_noteBrokenRead (s : State) (home a n : Nat) : MemOk (s.noteBrokenRead home a n) ↔ MemOk s := by simp [State.noteBrokenRead]

@[simp] theorem memOk_readThrough (s : State) (ca : Nat) (rs : List (Nat × Nat × Nat)) (by_ : Ctx) : MemOk (s.readThrough ca rs by_) ↔ MemOk s := by
  refine memOk_foldl _ _ _ fun s r => ?_
  split <;> simp

@[simp] theorem memOk_afterXl (s : State) (l k sp a : Nat) : MemOk (s.afterXl l k sp a) ↔ MemOk s := by
  dsimp only [State.afterXl]
  split
  · rfl
  · split
    · rfl
    · split
      · rw [memOk_learnFar, memOk_updLd_iff, memOk_readThrough]
        intro x
        (repeat' split) <;> simp
      · rw [memOk_updLd_iff, memOk_readThrough]
        intro x
        (repeat' split) <;> simp

@[simp] theorem memOk_walkLooks (s : State) (l : Nat) (w : Walk) : MemOk (s.walkLooks l w) ↔ MemOk s := by unfold State.walkLooks; simp

@[simp] theorem memOk_startWalk (s : State) (l : Nat) (w : Walk) : MemOk (s.startWalk l w) ↔ MemOk s := by unfold State.startWalk; simp

@[simp] theorem memOk_askWalk (l k c page : Nat) (s : State) : MemOk (askWalk l k c page s) ↔ MemOk s := by unfold askWalk; simp

@[simp] theorem keeps_stallWalk {α : Type} (page : Nat) : KeepsM (stallWalk page : M α) := by
  dsimp only [stallWalk]
  exact .auto

@[simp] theorem keeps_findLeaf (slot kind a va : Nat) : KeepsM (findLeaf slot kind a va) := by
  dsimp only [findLeaf]
  exact .auto

@[simp] theorem keeps_findPiece (slot sp kind a n : Nat) : KeepsM (findPiece slot sp kind a n) := by
  dsimp only [findPiece]
  exact .auto

@[simp] theorem keeps_placePiece (slot kind : Nat) (p : Piece) : KeepsM (placePiece slot kind p) := by
  dsimp only [placePiece]
  exact .auto

@[simp] theorem keeps_windowPieces (slot kind a : Nat) (ps : List (Phys × Nat)) : KeepsM (windowPieces slot kind a ps) := by
  induction ps with
  | nil => exact keeps_pure _
  | cons p r ih =>
    unfold windowPieces
    exact .auto

@[simp] theorem keeps_placesOf (slot sp kind a : Nat) (ps : List (Nat × Nat)) : KeepsM (placesOf slot sp kind a ps) := by
  dsimp only [placesOf]
  exact .auto

@[simp] theorem keeps_translate (slot sp kind a n : Nat) : KeepsM (translate slot sp kind a n) := by
  dsimp only [translate]
  exact .auto

end Sys2Proof.Machine

/-! O55: the memories kept by records, packets, progress batches, and the ends of claims, rings,
commands and steps (R147 to R157, R426 to R435, R449 to R456). -/

namespace Sys2Proof.Machine

open Sys2Proof.Claim

set_option Elab.async false

@[simp] theorem memOk_noteBroken (s : State) (l a n : Nat) : MemOk (s.noteBroken l a n) ↔ MemOk s := by simp [State.noteBroken]

/-- Bytes stored into lines of device memory. -/
@[simp] theorem memOk_pokeBad {s : State} (h : MemOk s) (l a : Nat) (bs : List (BitVec 8 × Bool)) (comp : Bool) (ca : Nat) :
    MemOk (s.pokeBad l a bs comp ca) := by
  refine memOk_updHbm _ (by simpa using h) (fun x hx => ?_) fun x => ?_
  · simpa using wf_writeBad hx a bs comp
  · simp

@[simp] theorem memOk_pokeLd {s : State} (h : MemOk s) (l a : Nat) (bs : List (BitVec 8)) (comp : Bool) (ca : Nat) :
    MemOk (s.pokeLd l a bs comp ca) :=
  memOk_pokeBad h ..

@[simp] theorem memOk_pokeAt {s : State} (h : MemOk s) (p : Phys) (bs : List (BitVec 8 × Bool)) : MemOk (s.pokeAt p bs) := by
  unfold State.pokeAt
  split
  · exact memOk_host h (Mem.wf_setBytes _ _ _ (host_wf h))
  · exact memOk_pokeBad h ..

/-- The stores of a publication go to the host's memory or into lines of device memory (R168). -/
@[simp] theorem memOk_publishHome {s : State} (h : MemOk s) (home : Nat) (es : List (Nat × Own)) : MemOk (s.publishHome home es) := by
  unfold State.publishHome
  split
  · exact memOk_host h (wf_foldl_set es (fun e => (e.1, e.2.val)) (host_wf h))
  · dsimp only
    rw [memOk_updLd_frame]
    · refine memOk_updHbm _ ?_ (fun x hx => wf_foldl_hbm _ hx fun _ _ hw => wf_mergeLine hw ..) fun _ => rfl
      refine memOk_foldl_of _ h fun s a hs => ?_
      split
      · exact hs
      · simpa using hs
    · intro x; simp
    · intro x; simp

@[simp] theorem memOk_errCorrected (s : State) (l unit loc : Nat) : MemOk (s.errCorrected l unit loc) ↔ MemOk s := by
  unfold State.errCorrected
  split <;> simp

@[simp] theorem signal_slots (x : Ld) (v : Nat) : (x.signal v).hbm.slots = x.hbm.slots := by simp [Ld.signal]

@[simp] theorem signal_cores (x : Ld) (v : Nat) : (x.signal v).cores = x.cores := by simp [Ld.signal]

@[simp] theorem memOk_msix (s : State) (l v : Nat) : MemOk (s.msix l v) ↔ MemOk s := by
  refine memOk_updLd_frame _ _ _ (fun x => ?_) fun x => ?_ <;> split <;> simp

@[simp] theorem memOk_queueRecord (s : State) (l sid : Nat) (r : BitVec 512) : MemOk (s.queueRecord l sid r) ↔ MemOk s := by simp [State.queueRecord]

@[simp] theorem memOk_noteRefusal (s : State) (l cause loc : Nat) : MemOk (s.noteRefusal l cause loc) ↔ MemOk s := by simp [State.noteRefusal]

@[simp] theorem memOk_notice (s : State) (l kind sev unit cause loc : Nat) :
    MemOk (s.notice l kind sev unit cause loc) ↔ MemOk s := by simp [State.notice]

@[simp] theorem memOk_updStep (s : State) (l sid : Nat) (f : Ctx → Ctx) : MemOk (s.updStep l sid f) ↔ MemOk s := by
  unfold State.updStep
  split <;> simp

@[simp] theorem memOk_refuseToken (s : State) (t : Token) : MemOk (s.refuseToken t) ↔ MemOk s := by simp [State.refuseToken]

@[simp] theorem arrived_slots (x : Ld) (id : Nat) : (x.arrived id).hbm.slots = x.hbm.slots := by simp [Ld.arrived]

@[simp] theorem arrived_cores (x : Ld) (id : Nat) : (x.arrived id).cores = x.cores := by simp [Ld.arrived]

@[simp] theorem memOk_lostPacket (s : State) (k : Packet) (cause : Nat) : MemOk (s.lostPacket k cause) ↔ MemOk s := by simp [State.lostPacket]

@[simp] theorem memOk_waitIn (s : State) (p : Nat) (t : Transit) : MemOk (s.waitIn p t) ↔ MemOk s := by simp [State.waitIn]

@[simp] theorem memOk_toPort (s : State) (p : Nat) (t : Transit) : MemOk (s.toPort p t) ↔ MemOk s := by
  dsimp only [State.toPort]
  (repeat' split) <;> simp

@[simp] theorem memOk_hop (s : State) (p : Nat) (t : Transit) : MemOk (s.hop p t) ↔ MemOk s := by dsimp only [State.hop]; (repeat' split) <;> simp

@[simp] theorem memOk_release (s : State) (p : Nat) : MemOk (s.release p) ↔ MemOk s := by
  unfold State.release
  split <;> simp

@[simp] theorem memOk_post (s : State) (src dst vc : Nat) (body : List (BitVec 8)) : MemOk (s.post src dst vc body) ↔ MemOk s := by simp [State.post]

@[simp] theorem memOk_meshTake (s : State) (p link : Nat) (back : Bool) (seq : Nat) (good : Bool) :
    MemOk (s.meshTake p link back seq good) ↔ MemOk s := by
  dsimp only [State.meshTake]
  (repeat' split) <;> simp

@[simp] theorem memOk_linkFell (s : State) (p link : Nat) : MemOk (s.linkFell p link) ↔ MemOk s := by simp [State.linkFell]

@[simp] theorem memOk_portFell (s : State) (p n : Nat) : MemOk (s.portFell p n) ↔ MemOk s := by simp [State.portFell]

@[simp] theorem memOk_linkDown (s : State) (p n : Nat) : MemOk (s.linkDown p n) ↔ MemOk s := by
  unfold State.linkDown
  split <;> simp

@[simp] theorem memOk_portTake (s : State) (p n seq : Nat) : MemOk (s.portTake p n seq) ↔ MemOk s := by
  dsimp only [State.portTake]
  (repeat' split) <;> simp

@[simp] theorem memOk_portReceive (s : State) (p n typ seq ack : Nat) (good : Bool) :
    MemOk (s.portReceive p n typ seq ack good) ↔ MemOk s := by simp [State.portReceive]

@[simp] theorem memOk_updParish (s : State) (l p : Nat) (f : Parish → Parish) : MemOk (s.updParish l p f) ↔ MemOk s := by simp [State.updParish]

@[simp] theorem memOk_sendBatch (s : State) (b : Batch) : MemOk (s.sendBatch b) ↔ MemOk s := by simp [State.sendBatch]

@[simp] theorem memOk_openBatch (s : State) (b : Batch) : MemOk (s.openBatch b) ↔ MemOk s := by
  unfold State.openBatch
  refine memOk_updLd_frame _ _ _ (fun x => ?_) fun x => ?_ <;> split <;> rfl

@[simp] theorem memOk_dropBatch (s : State) (b : Batch) : MemOk (s.dropBatch b) ↔ MemOk s := by simp [State.dropBatch]

@[simp] theorem memOk_keepBatch (s : State) (b : Batch) : MemOk (s.keepBatch b) ↔ MemOk s := by unfold State.keepBatch; simp

@[simp] theorem memOk_addRecs (s : State) (l home : Nat) (auth : Option (Nat × Nat)) (rs : List Rec) :
    MemOk (s.addRecs l home auth rs) ↔ MemOk s := by
  dsimp only [State.addRecs]; (repeat' split) <;> simp

@[simp] theorem memOk_countRecs (s : State) (l p : Nat) (recs : List (Nat × Nat × Int)) : MemOk (s.countRecs l p recs) ↔ MemOk s := by
  unfold State.countRecs; simp

@[simp] theorem memOk_countAt (s : State) (l p y t : Nat) (d : Int) : MemOk (s.countAt l p y t d) ↔ MemOk s := by
  unfold State.countAt; simp

@[simp] theorem keeps_checkYard (slot l p yard : Nat) : KeepsM (checkYard slot l p yard) := by
  dsimp only [checkYard]
  exact .auto

@[simp] theorem keeps_stallIfFull (l p : Nat) : KeepsM (stallIfFull l p) := by
  dsimp only [stallIfFull]
  exact .auto

@[simp] theorem setClaim_spad (x : Core) (tile : Bool) (n : Nat) (f : Claim → Claim) :
    (x.setClaim tile n f).spad = x.spad := by simp [Core.setClaim, apply_ite Core.spad]

@[simp] theorem undefine_spad (x : Core) (tile : Bool) (n draw : Nat) :
    (x.undefine tile n draw).spad = x.spad := by simp [Core.undefine, apply_ite Core.spad]

@[simp] theorem dropClaims_spad (x : Core) (sid : Nat) : (x.dropClaims sid).spad = x.spad := by simp [Core.dropClaims]

theorem resetPorts_spad (y : Core) (ps : List PortRing) : (y.resetPorts ps).1.spad = y.spad := foldl_fst_spad ps _ (y, []) fun _ _ => rfl

/-- The port rings of a step reset (R202). -/
theorem memOk_resetPorts {s : State} (h : MemOk s) (l k : Nat) (ps : List PortRing) : MemOk (s.updCore l k fun _ => ((s.core l k).resetPorts ps).1) :=
  memOk_putCore h h (resetPorts_spad ..)

@[simp] theorem memOk_putBie {s : State} (h : MemOk s) (l i st owner : Nat) : MemOk (s.putBie l i st owner) := memOk_pokeLd (memOk_pokeLd h ..) ..

@[simp] theorem memOk_closeBie {s : State} (h : MemOk s) (l i : Nat) : MemOk (s.closeBie l i) := by
  have ht (st o d : Nat) : MemOk { s.putBie l i st o with draw := d } := memOk_putBie h ..
  exact Iff.mpr (memOk_updLd_frame _ _ _ (fun _ => rfl) fun _ => rfl) (ht ..)

@[simp] theorem memOk_leaveAlloc (s : State) (l k : Nat) (x : Ctx) : MemOk (s.leaveAlloc l k x) ↔ MemOk s := by
  unfold State.leaveAlloc
  extract_lets y own t
  have ht : MemOk t ↔ MemOk s := by simp [t]
  refine Iff.trans (memOk_updLd_mapCores _ _ _ _ (fun _ => rfl) (fun _ => rfl) (fun _ _ => rfl) fun _ _ => rfl) ht

@[simp] theorem memOk_dropStep {s : State} (h : MemOk s) (l k : Nat) (x : Ctx) : MemOk (s.dropStep l k x) := by
  unfold State.dropStep
  extract_lets t u
  have ht : MemOk t := memOk_foldl_of _ h fun _ _ hs => memOk_closeBie hs ..
  have hu : MemOk u := Iff.mpr (memOk_updLd_mapCores _ _ _ _ (fun _ => rfl) (fun _ => rfl) (fun _ _ => rfl) fun _ e => dropClaims_spad ..) ht
  simpa using hu

@[simp] theorem memOk_vacate (s : State) (l : Nat) (p : Place) : MemOk (s.vacate l p) ↔ MemOk s := by
  unfold State.vacate
  split <;> simp

@[simp] theorem memOk_cancelCopies (s : State) (l k sid : Nat) : MemOk (s.cancelCopies l k sid) ↔ MemOk s := by
  refine memOk_foldl _ _ _ fun s a => ?_
  split <;> simp

/-- A step is killed: its port rings reset, its shadow buffers closed (R425). -/
@[simp] theorem memOk_killStep {s : State} (h : MemOk s) (l : Nat) (p : Place) (k : Nat) (x : Ctx) : MemOk (s.killStep l p k x) := by
  dsimp only [State.killStep]
  rw [memOk_vacate, memOk_updOp]
  refine memOk_dropStep ((memOk_cancelCopies ..).mpr ?_) ..
  split
  · exact memOk_resetPorts h ..
  · simpa using memOk_resetPorts h ..

@[simp] theorem memOk_discardStep {s : State} (h : MemOk s) (l : Nat) (p : Place) (k : Nat) (x : Ctx) (rerun : Bool) :
    MemOk (s.discardStep l p k x rerun) := by
  simp [State.discardStep, h]

/-- Completion records are written where their launches say (R216). -/
@[simp] theorem memOk_writeCrecs {s : State} (h : MemOk s) (l : Nat) (rs : List (Launch × Nat)) : MemOk (s.writeCrecs l rs) := by
  induction rs generalizing s with
  | nil =>
    unfold State.writeCrecs
    simpa using h
  | cons e rest ih =>
    obtain ⟨n, r⟩ := e
    unfold State.writeCrecs
    extract_lets done
    have hd {t : State} (ht : MemOk t) : MemOk (done t) := by
      unfold done
      split
      · simpa using ht
      · exact ht
    have hl (c : Nat) : MemOk (State.writeCrecs (done (s.errLog l 2 9 c n.crec true)) l rest) := ih (hd (by simpa using h))
    split
    · exact ih (hd h)
    · split
      · exact ih (hd (memOk_pokeAt (by simpa using h) ..))
      · exact hl _
      · split
        · simpa using h
        · exact hl _

@[simp] theorem memOk_complete {s : State} (h : MemOk s) (l : Nat) (n : Launch) (status cause start steps faults : Nat) :
    MemOk (s.complete l n status cause start steps faults) := by
  simp [State.complete, h]

@[simp] theorem memOk_dropAreas (s : State) (l opid : Nat) : MemOk (s.dropAreas l opid) ↔ MemOk s :=
  memOk_updLd_mapCores _ _ _ _ (fun _ => rfl) (fun _ => rfl) (fun _ _ => rfl) fun _ _ => rfl

@[simp] theorem memOk_completeOp {s : State} (h : MemOk s) (l opid : Nat) : MemOk (s.completeOp l opid) := by simp [State.completeOp, h]

@[simp] theorem memOk_completeRegions {s : State} (h : MemOk s) (l : Nat) : MemOk (s.completeRegions l) := by
  refine memOk_foldl_of _ h fun s _ hs => memOk_foldl_of _ hs fun s r hs => ?_
  dsimp only
  split
  · exact hs
  · split
    · exact hs
    · exact memOk_complete ((memOk_updRegion ..).mpr hs) ..

@[simp] theorem memOk_killRerun {s : State} (h : MemOk s) (l opid : Nat) (o : Op) (r : Nat × Nat) : MemOk (s.killRerun l opid o r) := by
  simpa [State.killRerun] using memOk_resetPorts h l r.2 ((s.core l r.2).stepPorts o opid r.1)

@[simp] theorem memOk_killAreas {s : State} (h : MemOk s) (l opid : Nat) (o : Op) : MemOk (s.killAreas l opid o) := by
  refine memOk_foldl_of _ h fun s e hs => ?_
  split
  · exact hs
  · simpa using memOk_resetPorts hs l e.1 _

@[simp] theorem memOk_killOp {s : State} (h : MemOk s) (l opid : Nat) : MemOk (s.killOp l opid) := by
  unfold State.killOp
  extract_lets o t u v w gone z s'
  split
  · exact h
  · have ht : MemOk t := by
      unfold t
      split
      · simpa using h
      · exact h
    have hv : MemOk v := memOk_foldl_of _ ((memOk_updOp ..).mpr ht) fun s p hs => memOk_killStep hs ..
    have hw : MemOk w := memOk_killAreas (memOk_foldl_of _ hv fun s r hs => memOk_killRerun hs ..) ..
    have hz : MemOk z := by simpa [z] using hw
    have hs : MemOk s' := memOk_foldl_of _ hz fun s r hs => (memOk_refuseToken ..).mpr hs
    exact memOk_completeOp hs ..

@[simp] theorem memOk_killRegionAll {s : State} (h : MemOk s) (l r : Nat) : MemOk (s.killRegionAll l r) := by
  unfold State.killRegionAll
  extract_lets x gone t u
  have ht : MemOk t := memOk_foldl_of _ h fun s q hs => (memOk_updRegion ..).mpr hs
  have hu : MemOk u := memOk_foldl_of _ ht fun s o hs => memOk_killOp hs ..
  exact memOk_completeRegions hu ..

@[simp] theorem memOk_countFault (s : State) (l opid cause : Nat) : MemOk (s.countFault l opid cause) ↔ MemOk s := by simp [State.countFault]

@[simp] theorem memOk_faultStep (s : State) (l : Nat) (p : Place) (k : Nat) (x : Ctx) (kind cause act hi : Nat) (href : Bool)
    (trapb : Nat) (t : TrapInfo) :
    MemOk (s.faultStep l p k x kind cause act hi href trapb t) ↔ MemOk s := by
  simp [State.faultStep]

@[simp] theorem memOk_afterRecord {s : State} (h : MemOk s) (l sid : Nat) (r : BitVec 512) : MemOk (s.afterRecord l sid r) := by
  dsimp only [State.afterRecord]
  (repeat' split) <;> simp [h]

/-- A machine check kills the steps of the die (R438). -/
@[simp] theorem memOk_machineStop {s : State} (h : MemOk s) (l unit : Nat) (record : Bool) : MemOk (s.machineStop l unit record) := by
  have hk : MemOk ((s.ld l).steps.foldl (fun s p => s.killStep l p.1 p.2.1 p.2.2) s) := memOk_foldl_of _ h fun _ _ hs => memOk_killStep hs ..
  dsimp only [State.machineStop]
  split <;> simpa using hk

end Sys2Proof.Machine

/-! O55: the memories kept by operands and results, the readings of the array, traps and waits (R247 to R260, R326 to R333,
R416 to R421). -/

namespace Sys2Proof.Machine

open Sys2Proof.Claim

set_option Elab.async false

@[simp] theorem keeps_useReg (slot detail index : Nat) (r : Reg) : KeepsM (useReg slot detail index r) := by
  dsimp only [useReg]
  exact .auto

@[simp] theorem keeps_readScalar (slot : Nat) (c : BitVec 5) : KeepsM (readScalar slot c) := by
  dsimp only [readScalar]
  exact .auto

@[simp] theorem keeps_popScalar (slot : optParam Nat 1) : KeepsM (popScalar slot) := by
  dsimp only [popScalar]
  exact .auto

@[simp] theorem keeps_popVector (slot : Nat) : KeepsM (popVector slot) := by
  dsimp only [popVector]
  exact .auto

@[simp] theorem keeps_popHeld : KeepsM popHeld := by
  dsimp only [popHeld]
  exact .auto

@[simp] theorem keeps_readAccess (slot : Nat) (c : BitVec 4) : KeepsM (readAccess slot c) := by
  dsimp only [readAccess]
  exact .auto

@[simp] theorem keeps_writeAccess (d : BitVec 4) (v : Word) : KeepsM (writeAccess d v) := by
  dsimp only [writeAccess]
  exact .auto

@[simp] theorem keeps_readVector (slot : Nat) (c : BitVec 4) : KeepsM (readVector slot c) := by
  dsimp only [readVector]
  exact .auto

@[simp] theorem keeps_readEg (slot n : Nat) : KeepsM (readEg slot n) := by
  dsimp only [readEg]
  exact .auto

@[simp] theorem keeps_readDc (slot n : Nat) : KeepsM (readDc slot n) := by
  dsimp only [readDc]
  exact .auto

@[simp] theorem keeps_readRing (slot n : Nat) : KeepsM (readRing slot n) := by
  dsimp only [readRing]
  exact .auto

@[simp] theorem keeps_updRing (id : Nat) (f : Ring → Ring) : KeepsM (updRing id f) := by
  dsimp only [updRing]
  exact .auto

@[simp] theorem keeps_sendResult (slot lat : Nat) (dest : Dest) (pay : Payload) (fl : optParam Nat 0) : KeepsM (sendResult slot lat dest pay fl) := by
  dsimp only [sendResult]
  exact .auto

@[simp] theorem keeps_reserveScalar (slot : Nat) : KeepsM (reserveScalar slot) := by
  dsimp only [reserveScalar]
  exact .auto

@[simp] theorem keeps_reserveVector (slot : Nat) : KeepsM (reserveVector slot) := by
  dsimp only [reserveVector]
  exact .auto

@[simp] theorem keeps_scalarDestOf (d : BitVec 5) : KeepsM (scalarDestOf d) := by
  dsimp only [scalarDestOf]
  exact .auto

@[simp] theorem keeps_sendScalar (d : BitVec 5) (lat : Nat) (v : Word) (fl : optParam Nat 0) : KeepsM (sendScalar d lat v fl) := by
  dsimp only [sendScalar]
  exact .auto

@[simp] theorem keeps_sendVector (d : BitVec 4) (lat data side fl : Nat) : KeepsM (sendVector d lat data side fl) := by
  dsimp only [sendVector]
  exact .auto

@[simp] theorem keeps_readEntry (slot bank : Nat) (b : Bank) (i col : Nat) : KeepsM (readEntry slot bank b i col) := by
  dsimp only [readEntry]
  exact .auto

@[simp] theorem keeps_readEntries (slot bank : Nat) (b : Bank) (col : Nat) (is : List Nat) : KeepsM (readEntries slot bank b col is) := by
  induction is generalizing col with
  | nil => exact keeps_pure _
  | cons i r ih =>
    unfold readEntries
    exact .auto

@[simp] theorem keeps_expandVector (slot bank w : Nat) (b : Bank) (v : VReg) : KeepsM (expandVector slot bank w b v) := by
  dsimp only [expandVector]
  exact .auto

@[simp] theorem keeps_getBank (n : Nat) : KeepsM (getBank n) := by
  dsimp only [getBank]
  exact .auto

@[simp] theorem keeps_useBank (slot n : Nat) : KeepsM (useBank slot n) := by
  dsimp only [useBank]
  exact .auto

@[simp] theorem keeps_getRm (slot : Nat) : KeepsM (getRm slot) := by
  dsimp only [getRm]
  exact .auto

@[simp] theorem memOk_readClamps (s : State) (l k c : Nat) (p : Pass) : MemOk (s.readClamps l k c p) ↔ MemOk s := by simp [State.readClamps]

@[simp] theorem memOk_raceAgain (s : State) (l k c : Nat) (comb : Bool) (seq : Nat) :
    MemOk (s.raceAgain l k c comb seq) ↔ MemOk s := by simp [State.raceAgain]

@[simp] theorem memOk_marginFault (s : State) (l k c : Nat) (comb : Bool) (seq va col : Nat) :
    MemOk (s.marginFault l k c comb seq va col) ↔ MemOk s := by
  simp [State.marginFault]

@[simp] theorem memOk_readPass (s : State) (l k c : Nat) (p : Pass) (refused : BitVec 256) :
    MemOk (s.readPass l k c p refused) ↔ MemOk s := by simp [State.readPass]

@[simp] theorem memOk_readComb (s : State) (l k c : Nat) (p : Comb) (refused : Bool) :
    MemOk (s.readComb l k c p refused) ↔ MemOk s := by simp [State.readComb]

@[simp] theorem memOk_endRerace (s : State) (l k : Nat) (refused : BitVec 256) : MemOk (s.endRerace l k refused) ↔ MemOk s := by
  dsimp only [State.endRerace]
  (repeat' split) <;> simp

@[simp] theorem memOk_finishRace (s : State) (l k c n : Nat) : MemOk (s.finishRace l k c n) ↔ MemOk s := by
  induction n generalizing s with
  | zero => rfl
  | succ n ih => dsimp only [State.finishRace]; (repeat' split) <;> simp [ih]

@[simp] theorem memOk_finishReads (s : State) (l k c : Nat) : MemOk (s.finishReads l k c) ↔ MemOk s := by unfold State.finishReads; simp

@[simp] theorem memOk_takeTrap (l k c : Nat) (t : TrapInfo) (s : State) : MemOk (takeTrap l k c t s) ↔ MemOk s := by
  dsimp only [takeTrap]; (repeat' split) <;> simp

@[simp] theorem memOk_takeMine (t : TrapInfo) (s : State) : MemOk (takeMine t s) ↔ MemOk s := memOk_takeTrap ..

@[simp] theorem keeps_orTrap (slot : Nat) (r : Except Nat Nat) : KeepsM (orTrap slot r) := by
  dsimp only [orTrap]
  exact .auto

@[simp] theorem memOk_codeRead (s : State) (l k c lo hi : Nat) : MemOk (s.codeRead l k c lo hi) ↔ MemOk s := by
  refine memOk_foldl _ _ _ fun s i => ?_
  dsimp only
  split <;> simp

@[simp] theorem keeps_reached (slot va : Nat) (r : Except Nat Nat) : KeepsM (reached slot va r) := by
  dsimp only [reached]
  exact .auto

end Sys2Proof.Machine

/-! O55: the memories kept by the A slot, and the bank and home services behind it (R272 to R286). -/

namespace Sys2Proof.Machine

open Sys2Proof.Claim

set_option Elab.async false

@[simp] theorem keeps_opLda (d : BitVec 4) (i : BitVec 16) : KeepsM (opLda d i) := by
  dsimp only [opLda]
  exact .auto

@[simp] theorem keeps_opLdah (d s : BitVec 4) (i : BitVec 16) : KeepsM (opLdah d s i) := by
  dsimp only [opLdah]
  exact .auto

@[simp] theorem keeps_opMova (d s : BitVec 4) : KeepsM (opMova d s) := by
  dsimp only [opMova]
  exact .auto

@[simp] theorem keeps_addr2 (d s t : BitVec 4) (f : Word → Word → Word) : KeepsM (addr2 d s t f) := by
  dsimp only [addr2]
  exact .auto

@[simp] theorem keeps_opAdda (d s t : BitVec 4) : KeepsM (opAdda d s t) := by
  dsimp only [opAdda]
  exact .auto

@[simp] theorem keeps_opAddai (d s : BitVec 4) (i : BitVec 16) : KeepsM (opAddai d s i) := by
  dsimp only [opAddai]
  exact .auto

@[simp] theorem keeps_opSuba (d s t : BitVec 4) : KeepsM (opSuba d s t) := by
  dsimp only [opSuba]
  exact .auto

@[simp] theorem keeps_opShla (d s : BitVec 4) (n : BitVec 6) : KeepsM (opShla d s n) := by
  dsimp only [opShla]
  exact .auto

@[simp] theorem keeps_opMada (d s t : BitVec 4) : KeepsM (opMada d s t) := by
  dsimp only [opMada]
  exact .auto

@[simp] theorem keeps_opAnda (d s t : BitVec 4) : KeepsM (opAnda d s t) := by
  dsimp only [opAnda]
  exact .auto

@[simp] theorem keeps_opPopq (d : BitVec 4) : KeepsM (opPopq d) := by
  dsimp only [opPopq]
  exact .auto

@[simp] theorem keeps_effective (b : BitVec 4) (disp : Int) (unit : Nat) : KeepsM (effective b disp unit) := by
  dsimp only [effective]
  exact .auto

@[simp] theorem keeps_barRestart (slot : Nat) : KeepsM (barRestart slot) := by
  dsimp only [barRestart]
  exact .auto

@[simp] theorem keeps_needSlot (ls : Nat) : KeepsM (needSlot ls) := by
  dsimp only [needSlot]
  exact .auto

@[simp] theorem keeps_makePending (ls : Nat) (p : BitVec 4) (sl : LSlot) : KeepsM (makePending ls p sl) := by
  dsimp only [makePending]
  exact .auto

@[simp] theorem keeps_localPlace (nbr : Bool) (ea span align : Nat) : KeepsM (localPlace nbr ea span align) := by
  dsimp only [localPlace]
  exact .auto

@[simp] theorem keeps_globalForm (slot sp kind ea align : Nat) : KeepsM (globalForm slot sp kind ea align) := by
  dsimp only [globalForm]
  exact .auto

theorem wf_writeVec {y : Core} (h : y.spad.wf = true) (mode rl off : Nat) (side : Bool) (v : VReg) :
    (y.writeVec mode rl off side v).spad.wf = true := by
  unfold Core.writeVec
  generalize (vecOffsets rl off side).zip (List.range 72) = ps
  induction ps generalizing y with
  | nil => exact h
  | cons p r ih => exact ih (wf_spWrite h _ _ _)

@[simp] theorem keeps_updCore_writeVec (mode rl off : Nat) (side : Bool) (v : VReg) : KeepsM (updCore fun y => y.writeVec mode rl off side v) :=
  keeps_updCore_of fun _ h => wf_writeVec h _ _ _ _ _

@[simp] theorem keeps_sendNbr (k : Nat) (r : NbrReq) : KeepsM (sendNbr k r) := by
  dsimp only [sendNbr]
  exact .auto

@[simp] theorem keeps_opLds (l : BitVec 5) (b y : BitVec 4) (w : BitVec 3) (p : BitVec 1) (x : BitVec 7) : KeepsM (opLds l b y w p x) := by
  dsimp only [opLds]
  exact .auto

@[simp] theorem keeps_opLdv (l : BitVec 5) (b y : BitVec 4) (z : BitVec 2) (r p s : BitVec 1) (x : BitVec 6) : KeepsM (opLdv l b y z r p s x) := by
  dsimp only [opLdv]
  exact .auto

@[simp] theorem keeps_opSts (b : BitVec 4) (w : BitVec 3) (p : BitVec 1) (x : BitVec 7) : KeepsM (opSts b w p x) := by
  dsimp only [opSts]
  exact .auto

@[simp] theorem keeps_opStv (b : BitVec 4) (z : BitVec 2) (r p s : BitVec 1) (x : BitVec 6) : KeepsM (opStv b z r p s x) := by
  dsimp only [opStv]
  exact .auto

@[simp] theorem memOk_fixImage (s : State) (l sid home a n : Nat) : MemOk (s.fixImage l sid home a n) ↔ MemOk s := by
  unfold State.fixImage
  split <;> simp

@[simp] theorem memOk_answered (s : State) (r : HomeReq) (bs : List (BitVec 8)) : MemOk (s.answered r bs) ↔ MemOk s := by simp [State.answered]

@[simp] theorem memOk_serveLoad (s : State) (r : HomeReq) (x : Ctx) : MemOk (s.serveLoad r x) ↔ MemOk s := by simp [State.serveLoad]

/-- An atomic at its home writes the host's memory or the home's device memory (R176, R282). -/
@[simp] theorem memOk_serveAtomic {s : State} (h : MemOk s) (r : HomeReq) (op : Nat) : MemOk (s.serveAtomic r op) := by
  unfold State.serveAtomic
  extract_lets old bad mark v w bs writes t u z
  have ht : MemOk t := (memOk_readThrough ..).mpr h
  have hu : MemOk u := by
    unfold u
    split
    · exact memOk_host ht (Mem.wf_setBytes _ _ _ (host_wf ht))
    · refine memOk_updHbm _ ht (fun x hx => ?_) fun x => ?_
      · simpa using slots_wf_write hx ..
      · simp
  have hz : MemOk z := by
    unfold z
    split
    · simpa using hu
    · exact ht
  simpa using hz

@[simp] theorem memOk_serveHome {s : State} (h : MemOk s) (r : HomeReq) : MemOk (s.serveHome r) := by
  dsimp only [State.serveHome]
  (repeat' split) <;> simp [h]

@[simp] theorem memOk_settleLoads (s : State) (l sid : Nat) : MemOk (s.settleLoads l sid) ↔ MemOk s := by
  dsimp only [State.settleLoads]; (repeat' split) <;> simp

@[simp] theorem memOk_fixBefore (s : State) (l sid : Nat) (homes : List Nat) : MemOk (s.fixBefore l sid homes) ↔ MemOk s := by simp [State.fixBefore]

@[simp] theorem memOk_publish {s : State} (h : MemOk s) (l k c : Nat) (sel : Nat → Own → Bool) : MemOk (s.publish l k c sel) := by
  dsimp only [State.publish]
  rw [memOk_updCtx]
  exact memOk_foldl_of _ (by simpa using h) fun _ _ hs => memOk_publishHome hs ..

@[simp] theorem keeps_acquireNow : KeepsM acquireNow := by
  dsimp only [acquireNow]
  exact .auto

@[simp] theorem keeps_lostSlot (ls : Nat) (y : BitVec 4) (vec : Bool) (cause : Nat) : KeepsM (lostSlot ls y vec cause) := by
  dsimp only [lostSlot]
  exact .auto

@[simp] theorem memOk_sendReq (s : State) (r : HomeReq) : MemOk (s.sendReq r) ↔ MemOk s := by simp [State.sendReq]

@[simp] theorem keeps_sendHome (ls : Nat) (y : BitVec 4) (ps : List (Phys × Nat)) (r : HomeReq) : KeepsM (sendHome ls y ps r) := by
  dsimp only [sendHome]
  exact .auto

@[simp] theorem keeps_opLdg (l : BitVec 5) (b y : BitVec 4) (w : BitVec 3) (p : BitVec 2) (x : BitVec 6) : KeepsM (opLdg l b y w p x) := by
  dsimp only [opLdg]
  exact .auto

@[simp] theorem keeps_opLdvg (l : BitVec 5) (b y : BitVec 4) (s : BitVec 1) (p : BitVec 2) (x : BitVec 6) : KeepsM (opLdvg l b y s p x) := by
  dsimp only [opLdvg]
  exact .auto

@[simp] theorem keeps_storeGlobal (ps : List (Phys × Nat)) (bs : List (BitVec 8)) : KeepsM (storeGlobal ps bs) := by
  induction ps generalizing bs with
  | nil => exact keeps_pure _
  | cons p r ih => exact keeps_bind (keeps_updMe _) fun _ => ih _

@[simp] theorem keeps_opStg (b : BitVec 4) (w : BitVec 3) (p : BitVec 2) (x : BitVec 6) : KeepsM (opStg b w p x) := by
  dsimp only [opStg]
  exact .auto

@[simp] theorem keeps_opStvg (b : BitVec 4) (s : BitVec 1) (p : BitVec 2) (x : BitVec 6) : KeepsM (opStvg b s p x) := by
  dsimp only [opStvg]
  exact .auto

@[simp] theorem keeps_opPref (b : BitVec 4) (p : BitVec 2) (x : BitVec 6) : KeepsM (opPref b p x) := by
  dsimp only [opPref]
  exact .auto

@[simp] theorem keeps_opAmos (d s t o : BitVec 4) (w : BitVec 1) (p : BitVec 2) (y : BitVec 4) (h : BitVec 1) : KeepsM (opAmos d s t o w p y h) := by
  dsimp only [opAmos]
  exact .auto

@[simp] theorem keeps_opAmog (d s t o : BitVec 4) (w : BitVec 1) (p : BitVec 2) (y : BitVec 4) (h : BitVec 1) : KeepsM (opAmog d s t o w p y h) := by
  dsimp only [opAmog]
  exact .auto

@[simp] theorem memOk_answerNbr (s : State) (l : Nat) (r : NbrReq) (data side : Nat) (bad : Bool) (time : Nat) :
    MemOk (s.answerNbr l r data side bad time) ↔ MemOk s := by
  simp [State.answerNbr]

/-- A request performed at a core's banks (R57). -/
@[simp] theorem memOk_serveNbr {s : State} (h : MemOk s) (l k : Nat) (r : NbrReq) : MemOk (s.serveNbr l k r) := by
  have hw (bs : List (BitVec 8)) : MemOk (s.updCore l k fun y => y.spWrite 0 r.off bs) := memOk_updCore _ _ h fun y hy => wf_spWrite hy ..
  have hv (v : VReg) : MemOk (s.updCore l k fun y => y.writeVec r.swz r.rl r.off r.side v) := memOk_updCore _ _ h fun y hy => wf_writeVec hy ..
  dsimp only [State.serveNbr]; (repeat' split) <;> simp [h, hw, hv]

@[simp] theorem keeps_acquireTags (id : Nat) (r : Ring) (hods : List Nat) : KeepsM (acquireTags id r hods) := by
  dsimp only [acquireTags]
  exact .auto

@[simp] theorem keeps_consume (id : Nat) (r : Ring) (n : Nat) : KeepsM (consume id r n) := by
  dsimp only [consume]
  exact .auto

@[simp] theorem keeps_ringN (s : BitVec 4) (c : BitVec 1) (n : BitVec 7) (r : Ring) : KeepsM (ringN s c n r) := by
  dsimp only [ringN]
  exact .auto

@[simp] theorem keeps_opRget (d s t : BitVec 4) (c : BitVec 1) (n : BitVec 7) : KeepsM (opRget d s t c n) := by
  dsimp only [opRget]
  exact .auto

@[simp] theorem keeps_opRput (d s t : BitVec 4) (c : BitVec 1) (n : BitVec 7) : KeepsM (opRput d s t c n) := by
  dsimp only [opRput]
  exact .auto

@[simp] theorem keeps_opRadvR (s t : BitVec 4) (c : BitVec 1) (n : BitVec 7) : KeepsM (opRadvR s t c n) := by
  dsimp only [opRadvR]
  exact .auto

@[simp] theorem keeps_opRadvW (s t : BitVec 4) (c : BitVec 1) (n : BitVec 7) : KeepsM (opRadvW s t c n) := by
  dsimp only [opRadvW]
  exact .auto

@[simp] theorem keeps_opRset (s t : BitVec 4) : KeepsM (opRset s t) := by
  dsimp only [opRset]
  exact .auto

@[simp] theorem keeps_openLoop (count len : Nat) : KeepsM (openLoop count len) := by
  dsimp only [openLoop]
  exact .auto

@[simp] theorem keeps_opLoop (c l : BitVec 12) : KeepsM (opLoop c l) := by
  dsimp only [opLoop]
  exact .auto

@[simp] theorem keeps_opLoopa (s : BitVec 4) (l : BitVec 12) : KeepsM (opLoopa s l) := by
  dsimp only [opLoopa]
  exact .auto

@[simp] theorem keeps_offTarget (o : BitVec 11) : KeepsM (offTarget o) := by
  dsimp only [offTarget]
  exact .auto

@[simp] theorem keeps_opBa (o : BitVec 11) : KeepsM (opBa o) := by
  dsimp only [opBa]
  exact .auto

@[simp] theorem keeps_opBca (c : BitVec 3) (s t : BitVec 4) (o : BitVec 11) : KeepsM (opBca c s t o) := by
  dsimp only [opBca]
  exact .auto

@[simp] theorem keeps_opCall (o : BitVec 11) : KeepsM (opCall o) := by
  dsimp only [opCall]
  exact .auto

@[simp] theorem keeps_opRet : KeepsM opRet := by
  dsimp only [opRet]
  exact .auto

@[simp] theorem keeps_fenceOp (kind : Nat) : KeepsM (fenceOp kind) := by
  dsimp only [fenceOp]
  exact .auto

@[simp] theorem keeps_opFenceS : KeepsM opFenceS := by
  dsimp only [opFenceS]
  exact .auto

@[simp] theorem keeps_opFenceE : KeepsM opFenceE := by
  dsimp only [opFenceE]
  exact .auto

@[simp] theorem keeps_opFenceG : KeepsM opFenceG := by
  dsimp only [opFenceG]
  exact .auto

end Sys2Proof.Machine

/-! O55: the memories kept by the X slot (R287 to R297). -/

namespace Sys2Proof.Machine

open Sys2Proof.Claim

set_option Elab.async false

@[simp] theorem keeps_int2 (lat : Nat) (d a b : BitVec 5) (f : Word → Word → Word) : KeepsM (int2 lat d a b f) := by
  dsimp only [int2]
  exact .auto

@[simp] theorem keeps_int1 (d a : BitVec 5) (f : Word → Word) : KeepsM (int1 d a f) := by
  dsimp only [int1]
  exact .auto

@[simp] theorem keeps_opAdd (d a b : BitVec 5) : KeepsM (opAdd d a b) := by
  dsimp only [opAdd]
  exact .auto

@[simp] theorem keeps_opSub (d a b : BitVec 5) : KeepsM (opSub d a b) := by
  dsimp only [opSub]
  exact .auto

@[simp] theorem keeps_opMul (d a b : BitVec 5) : KeepsM (opMul d a b) := by
  dsimp only [opMul]
  exact .auto

@[simp] theorem keeps_opMulh (d a b : BitVec 5) : KeepsM (opMulh d a b) := by
  dsimp only [opMulh]
  exact .auto

@[simp] theorem keeps_opMulhn (d a b : BitVec 5) : KeepsM (opMulhn d a b) := by
  dsimp only [opMulhn]
  exact .auto

@[simp] theorem keeps_divide (signed wantRem : Bool) (d a b : BitVec 5) (z : BitVec 1) : KeepsM (divide signed wantRem d a b z) := by
  dsimp only [divide]
  exact .auto

@[simp] theorem keeps_opDiv (d a b : BitVec 5) (z : BitVec 1) : KeepsM (opDiv d a b z) := by
  dsimp only [opDiv]
  exact .auto

@[simp] theorem keeps_opDivn (d a b : BitVec 5) (z : BitVec 1) : KeepsM (opDivn d a b z) := by
  dsimp only [opDivn]
  exact .auto

@[simp] theorem keeps_opRem (d a b : BitVec 5) (z : BitVec 1) : KeepsM (opRem d a b z) := by
  dsimp only [opRem]
  exact .auto

@[simp] theorem keeps_opRemn (d a b : BitVec 5) (z : BitVec 1) : KeepsM (opRemn d a b z) := by
  dsimp only [opRemn]
  exact .auto

@[simp] theorem keeps_opAnd (d a b : BitVec 5) : KeepsM (opAnd d a b) := by
  dsimp only [opAnd]
  exact .auto

@[simp] theorem keeps_opOr (d a b : BitVec 5) : KeepsM (opOr d a b) := by
  dsimp only [opOr]
  exact .auto

@[simp] theorem keeps_opXor (d a b : BitVec 5) : KeepsM (opXor d a b) := by
  dsimp only [opXor]
  exact .auto

@[simp] theorem keeps_opAndn (d a b : BitVec 5) : KeepsM (opAndn d a b) := by
  dsimp only [opAndn]
  exact .auto

@[simp] theorem keeps_opShl (d a b : BitVec 5) : KeepsM (opShl d a b) := by
  dsimp only [opShl]
  exact .auto

@[simp] theorem keeps_opShr (d a b : BitVec 5) : KeepsM (opShr d a b) := by
  dsimp only [opShr]
  exact .auto

@[simp] theorem keeps_opSar (d a b : BitVec 5) : KeepsM (opSar d a b) := by
  dsimp only [opSar]
  exact .auto

@[simp] theorem keeps_opRol (d a b : BitVec 5) : KeepsM (opRol d a b) := by
  dsimp only [opRol]
  exact .auto

@[simp] theorem keeps_opClz (d a : BitVec 5) : KeepsM (opClz d a) := by
  dsimp only [opClz]
  exact .auto

@[simp] theorem keeps_opCtz (d a : BitVec 5) : KeepsM (opCtz d a) := by
  dsimp only [opCtz]
  exact .auto

@[simp] theorem keeps_opPopc (d a : BitVec 5) : KeepsM (opPopc d a) := by
  dsimp only [opPopc]
  exact .auto

@[simp] theorem keeps_opMin (d a b : BitVec 5) : KeepsM (opMin d a b) := by
  dsimp only [opMin]
  exact .auto

@[simp] theorem keeps_opMax (d a b : BitVec 5) : KeepsM (opMax d a b) := by
  dsimp only [opMax]
  exact .auto

@[simp] theorem keeps_opMinn (d a b : BitVec 5) : KeepsM (opMinn d a b) := by
  dsimp only [opMinn]
  exact .auto

@[simp] theorem keeps_opMaxn (d a b : BitVec 5) : KeepsM (opMaxn d a b) := by
  dsimp only [opMaxn]
  exact .auto

@[simp] theorem keeps_opCmp (d a b : BitVec 5) (c : BitVec 3) : KeepsM (opCmp d a b c) := by
  dsimp only [opCmp]
  exact .auto

@[simp] theorem keeps_opSel (d a b c : BitVec 5) : KeepsM (opSel d a b c) := by
  dsimp only [opSel]
  exact .auto

@[simp] theorem keeps_opAddi (d a : BitVec 5) (i : BitVec 14) : KeepsM (opAddi d a i) := by
  dsimp only [opAddi]
  exact .auto

@[simp] theorem keeps_opAndi (d a : BitVec 5) (i : BitVec 14) : KeepsM (opAndi d a i) := by
  dsimp only [opAndi]
  exact .auto

@[simp] theorem keeps_opOri (d a : BitVec 5) (i : BitVec 14) : KeepsM (opOri d a i) := by
  dsimp only [opOri]
  exact .auto

@[simp] theorem keeps_opXori (d a : BitVec 5) (i : BitVec 14) : KeepsM (opXori d a i) := by
  dsimp only [opXori]
  exact .auto

@[simp] theorem keeps_opShli (d a : BitVec 5) (n : BitVec 6) : KeepsM (opShli d a n) := by
  dsimp only [opShli]
  exact .auto

@[simp] theorem keeps_opShri (d a : BitVec 5) (n : BitVec 6) : KeepsM (opShri d a n) := by
  dsimp only [opShri]
  exact .auto

@[simp] theorem keeps_opSari (d a : BitVec 5) (n : BitVec 6) : KeepsM (opSari d a n) := by
  dsimp only [opSari]
  exact .auto

@[simp] theorem keeps_opLi (d : BitVec 5) (i : BitVec 19) : KeepsM (opLi d i) := by
  dsimp only [opLi]
  exact .auto

@[simp] theorem keeps_opLih (d : BitVec 5) (i : BitVec 19) : KeepsM (opLih d i) := by
  dsimp only [opLih]
  exact .auto

@[simp] theorem keeps_takeSlot (slot ls : Nat) (vec : Bool) : KeepsM (takeSlot slot ls vec) := by
  dsimp only [takeSlot]
  exact .auto

@[simp] theorem keeps_opTake (d l : BitVec 5) : KeepsM (opTake d l) := by
  dsimp only [opTake]
  exact .auto

@[simp] theorem keeps_opPush (a : BitVec 5) : KeepsM (opPush a) := by
  dsimp only [opPush]
  exact .auto

@[simp] theorem keeps_opMfs (d : BitVec 5) (n : BitVec 14) : KeepsM (opMfs d n) := by
  dsimp only [opMfs]
  exact .auto

@[simp] theorem keeps_moveStamp (v : Word) : KeepsM (moveStamp v) := by
  dsimp only [moveStamp]
  exact .auto

@[simp] theorem keeps_opMts (a : BitVec 5) (n : BitVec 14) : KeepsM (opMts a n) := by
  dsimp only [opMts]
  exact .auto

@[simp] theorem keeps_opBx (c : BitVec 3) (a b : BitVec 5) (o : BitVec 11) : KeepsM (opBx c a b o) := by
  dsimp only [opBx]
  exact .auto

@[simp] theorem keeps_opJx (a : BitVec 5) : KeepsM (opJx a) := by
  dsimp only [opJx]
  exact .auto

@[simp] theorem keeps_scalarMode (r : BitVec 3) : KeepsM (scalarMode r) := by
  dsimp only [scalarMode]
  exact .auto

@[simp] theorem keeps_sendFp (d : BitVec 5) (lat : Nat) (o : Out) : KeepsM (sendFp d lat o) := by
  dsimp only [sendFp]
  exact .auto

@[simp] theorem keeps_fp2 (d a b : BitVec 5) (r : BitVec 3) (f : Bool → FV → FV → FV) : KeepsM (fp2 d a b r f) := by
  dsimp only [fp2]
  exact .auto

@[simp] theorem keeps_opFaddS (d a b : BitVec 5) (r : BitVec 3) : KeepsM (opFaddS d a b r) := by
  dsimp only [opFaddS]
  exact .auto

@[simp] theorem keeps_opFsubS (d a b : BitVec 5) (r : BitVec 3) : KeepsM (opFsubS d a b r) := by
  dsimp only [opFsubS]
  exact .auto

@[simp] theorem keeps_opFmulS (d a b : BitVec 5) (r : BitVec 3) : KeepsM (opFmulS d a b r) := by
  dsimp only [opFmulS]
  exact .auto

@[simp] theorem keeps_opFmaS (d a b : BitVec 5) (r : BitVec 3) (c : BitVec 5) : KeepsM (opFmaS d a b r c) := by
  dsimp only [opFmaS]
  exact .auto

@[simp] theorem keeps_opFcvt (d a : BitVec 5) (r : BitVec 3) (v : BitVec 4) : KeepsM (opFcvt d a r v) := by
  dsimp only [opFcvt]
  exact .auto

end Sys2Proof.Machine

/-! O55: the memories kept by the V slot (R299 to R324). -/

namespace Sys2Proof.Machine

open Sys2Proof.Claim

set_option Elab.async false

@[simp] theorem keeps_sendV (d : BitVec 4) (lat : Nat) (o : VOut) : KeepsM (sendV d lat o) := by
  dsimp only [sendV]
  exact .auto

@[simp] theorem keeps_expanded (f x : BitVec 4) (suits : Bank → Bool) (v : VReg) : KeepsM (expanded f x suits v) := by
  dsimp only [expanded]
  exact .auto

@[simp] theorem keeps_lane2 (lat : Nat) (d a b f x : BitVec 4) (g : Nat → Nat → Nat × Nat → Nat × Nat → VOut) : KeepsM (lane2 lat d a b f x g) := by
  dsimp only [lane2]
  exact .auto

@[simp] theorem keeps_opVadd (d a b : BitVec 4) (s : BitVec 1) (f x : BitVec 4) : KeepsM (opVadd d a b s f x) := by
  dsimp only [opVadd]
  exact .auto

@[simp] theorem keeps_opVsub (d a b : BitVec 4) (s : BitVec 1) (f x : BitVec 4) : KeepsM (opVsub d a b s f x) := by
  dsimp only [opVsub]
  exact .auto

@[simp] theorem keeps_opVmul (d a b : BitVec 4) (s : BitVec 1) (f x : BitVec 4) : KeepsM (opVmul d a b s f x) := by
  dsimp only [opVmul]
  exact .auto

@[simp] theorem keeps_fusedV (neg : Bool) (d a b c f x : BitVec 4) : KeepsM (fusedV neg d a b c f x) := by
  dsimp only [fusedV]
  exact .auto

@[simp] theorem keeps_opVfma (d a b c f x : BitVec 4) : KeepsM (opVfma d a b c f x) := by
  dsimp only [opVfma]
  exact .auto

@[simp] theorem keeps_opVfms (d a b c f x : BitVec 4) : KeepsM (opVfms d a b c f x) := by
  dsimp only [opVfms]
  exact .auto

@[simp] theorem keeps_opVmin (d a b f x : BitVec 4) : KeepsM (opVmin d a b f x) := by
  dsimp only [opVmin]
  exact .auto

@[simp] theorem keeps_opVmax (d a b f x : BitVec 4) : KeepsM (opVmax d a b f x) := by
  dsimp only [opVmax]
  exact .auto

@[simp] theorem keeps_unaryV (d a : BitVec 4) (s : BitVec 1) (f x : BitVec 4) (gF : FV → FV) (gI : Int → Int) : KeepsM (unaryV d a s f x gF gI) := by
  dsimp only [unaryV]
  exact .auto

@[simp] theorem keeps_opVabs (d a : BitVec 4) (s : BitVec 1) (f x : BitVec 4) : KeepsM (opVabs d a s f x) := by
  dsimp only [opVabs]
  exact .auto

@[simp] theorem keeps_opVneg (d a : BitVec 4) (s : BitVec 1) (f x : BitVec 4) : KeepsM (opVneg d a s f x) := by
  dsimp only [opVneg]
  exact .auto

@[simp] theorem keeps_opVcmp (d a b : BitVec 4) (c : BitVec 2) (f x : BitVec 4) : KeepsM (opVcmp d a b c f x) := by
  dsimp only [opVcmp]
  exact .auto

@[simp] theorem keeps_opVsel (d a b c f : BitVec 4) : KeepsM (opVsel d a b c f) := by
  dsimp only [opVsel]
  exact .auto

@[simp] theorem keeps_logicV (d a b : BitVec 4) (g : {n : Nat} → BitVec n → BitVec n → BitVec n) : KeepsM (logicV d a b g) := by
  dsimp only [logicV]
  exact .auto

@[simp] theorem keeps_opVand (d a b : BitVec 4) : KeepsM (opVand d a b) := by
  dsimp only [opVand]
  exact .auto

@[simp] theorem keeps_opVor (d a b : BitVec 4) : KeepsM (opVor d a b) := by
  dsimp only [opVor]
  exact .auto

@[simp] theorem keeps_opVxor (d a b : BitVec 4) : KeepsM (opVxor d a b) := by
  dsimp only [opVxor]
  exact .auto

@[simp] theorem keeps_opVnot (d a : BitVec 4) : KeepsM (opVnot d a) := by
  dsimp only [opVnot]
  exact .auto

@[simp] theorem keeps_shiftV (d a b f : BitVec 4) (g : Nat → Nat → Nat → Nat) : KeepsM (shiftV d a b f g) := by
  dsimp only [shiftV]
  exact .auto

@[simp] theorem keeps_opVshl (d a b f : BitVec 4) : KeepsM (opVshl d a b f) := by
  dsimp only [opVshl]
  exact .auto

@[simp] theorem keeps_opVshr (d a b f : BitVec 4) : KeepsM (opVshr d a b f) := by
  dsimp only [opVshr]
  exact .auto

@[simp] theorem keeps_opVsar (d a b f : BitVec 4) : KeepsM (opVsar d a b f) := by
  dsimp only [opVsar]
  exact .auto

@[simp] theorem keeps_opVcvt (d a : BitVec 4) (p : BitVec 3) (c f x : BitVec 4) : KeepsM (opVcvt d a p c f x) := by
  dsimp only [opVcvt]
  exact .auto

@[simp] theorem keeps_opVqnt (d a s c f x : BitVec 4) : KeepsM (opVqnt d a s c f x) := by
  dsimp only [opVqnt]
  exact .auto

@[simp] theorem keeps_opVdqt (d a : BitVec 4) (p : BitVec 3) (c f : BitVec 4) : KeepsM (opVdqt d a p c f) := by
  dsimp only [opVdqt]
  exact .auto

@[simp] theorem keeps_opVcbx (d a x : BitVec 4) : KeepsM (opVcbx d a x) := by
  dsimp only [opVcbx]
  exact .auto

@[simp] theorem keeps_opVcbi (d a x : BitVec 4) : KeepsM (opVcbi d a x) := by
  dsimp only [opVcbi]
  exact .auto

@[simp] theorem keeps_opVred (d a b : BitVec 4) (o : BitVec 2) (f x : BitVec 4) : KeepsM (opVred d a b o f x) := by
  dsimp only [opVred]
  exact .auto

@[simp] theorem keeps_moveV (d a b f : BitVec 4) (g : List Nat → List Nat → List Nat) : KeepsM (moveV d a b f g) := by
  dsimp only [moveV]
  exact .auto

@[simp] theorem keeps_opVperm (d a b f : BitVec 4) : KeepsM (opVperm d a b f) := by
  dsimp only [opVperm]
  exact .auto

@[simp] theorem keeps_opVbcast (d a : BitVec 4) (k : BitVec 8) (f : BitVec 4) : KeepsM (opVbcast d a k f) := by
  dsimp only [opVbcast]
  exact .auto

@[simp] theorem keeps_opVsplat (d : BitVec 4) (i : BitVec 12) (f : BitVec 4) : KeepsM (opVsplat d i f) := by
  dsimp only [opVsplat]
  exact .auto

@[simp] theorem keeps_opVslide (d a b : BitVec 4) (r : BitVec 1) (f : BitVec 4) : KeepsM (opVslide d a b r f) := by
  dsimp only [opVslide]
  exact .auto

@[simp] theorem keeps_opVzip (d a b : BitVec 4) (h : BitVec 1) (f : BitVec 4) : KeepsM (opVzip d a b h f) := by
  dsimp only [opVzip]
  exact .auto

@[simp] theorem keeps_opVunzip (d a b : BitVec 4) (h : BitVec 1) (f : BitVec 4) : KeepsM (opVunzip d a b h f) := by
  dsimp only [opVunzip]
  exact .auto

@[simp] theorem keeps_transV (fn : Nat) (d a f x : BitVec 4) : KeepsM (transV fn d a f x) := by
  dsimp only [transV]
  exact .auto

@[simp] theorem keeps_opVexp2 (d a f x : BitVec 4) : KeepsM (opVexp2 d a f x) := by
  dsimp only [opVexp2]
  exact .auto

@[simp] theorem keeps_opVlog2 (d a f x : BitVec 4) : KeepsM (opVlog2 d a f x) := by
  dsimp only [opVlog2]
  exact .auto

@[simp] theorem keeps_opVrcp (d a f x : BitVec 4) : KeepsM (opVrcp d a f x) := by
  dsimp only [opVrcp]
  exact .auto

@[simp] theorem keeps_opVrsq (d a f x : BitVec 4) : KeepsM (opVrsq d a f x) := by
  dsimp only [opVrsq]
  exact .auto

@[simp] theorem keeps_opVtake (d l : BitVec 4) (h : BitVec 1) : KeepsM (opVtake d l h) := by
  dsimp only [opVtake]
  exact .auto

@[simp] theorem keeps_opVpush (a : BitVec 4) : KeepsM (opVpush a) := by
  dsimp only [opVpush]
  exact .auto

end Sys2Proof.Machine

/-! O55: the memories kept by the D slot and the events of passes, combs and loads (R325 to R373). -/

namespace Sys2Proof.Machine

open Sys2Proof.Claim

set_option Elab.async false

@[simp] theorem keeps_dHere : KeepsM dHere := by
  dsimp only [dHere]
  exact .auto

@[simp] theorem keeps_sendD (lat : Nat) (v : Word) : KeepsM (sendD lat v) := by
  dsimp only [sendD]
  exact .auto

@[simp] theorem keeps_needHeld (tile : Bool) (n : Nat) : KeepsM (needHeld tile n) := by
  dsimp only [needHeld]
  exact .auto

@[simp] theorem keeps_needArray : KeepsM needArray := by
  dsimp only [needArray]
  exact .auto

@[simp] theorem keeps_selected (purpose : Nat) : KeepsM (selected purpose) := by
  dsimp only [selected]
  exact .auto

@[simp] theorem keeps_needBank (x : BitVec 1) (b : Bank) : KeepsM (needBank x b) := by
  dsimp only [needBank]
  exact .auto

@[simp] theorem keeps_opDcw (a : BitVec 5) (n : BitVec 4) : KeepsM (opDcw a n) := by
  dsimp only [opDcw]
  exact .auto

@[simp] theorem keeps_opDcr (n : BitVec 4) : KeepsM (opDcr n) := by
  dsimp only [opDcr]
  exact .auto

@[simp] theorem keeps_reserveObject (tile : Bool) (n : Nat) : KeepsM (reserveObject tile n) := by
  dsimp only [reserveObject]
  exact .auto

@[simp] theorem keeps_takeObject (tile : Bool) (n : Nat) : KeepsM (takeObject tile n) := by
  dsimp only [takeObject]
  exact .auto

@[simp] theorem keeps_opRclaim (o : BitVec 1) (n : BitVec 2) : KeepsM (opRclaim o n) := by
  dsimp only [opRclaim]
  exact .auto

@[simp] theorem keeps_releaseObject (tile : Bool) (n : Nat) : KeepsM (releaseObject tile n) := by
  dsimp only [releaseObject]
  exact .auto

@[simp] theorem keeps_opRrel (o : BitVec 1) (n : BitVec 2) : KeepsM (opRrel o n) := by
  dsimp only [opRrel]
  exact .auto

@[simp] theorem keeps_opRldw (a b : BitVec 5) (x : BitVec 1) (p : BitVec 2) : KeepsM (opRldw a b x p) := by
  dsimp only [opRldw]
  exact .auto

@[simp] theorem memOk_commitCourse (s : State) (l k c : Nat) (v : Load) : MemOk (s.commitCourse l k c v) ↔ MemOk s := by
  dsimp only [State.commitCourse]
  have hd (s : State) (f : Ctx → Ctx) (n : Nat) : MemOk { s.updCtx l k c f with draw := n } ↔ MemOk s := memOk_updCtx s l k c f
  split
  · simp only [memOk_updCore_frame, undefine_spad, implies_true, hd]
  · split <;> simp

@[simp] theorem keeps_activations (n w : Nat) (bk : Bank) (v : Nat) : KeepsM (activations n w bk v) := by
  dsimp only [activations]
  exact .auto

@[simp] theorem keeps_startPass (tile plane dcn : Nat) (x : BitVec 1) (d : Nat) (a : List Int) (n : Nat) (bk : Bank) :
    KeepsM (startPass tile plane dcn x d a n bk) := by
  dsimp only [startPass]
  exact .auto

@[simp] theorem keeps_passChecks (tile plane : Nat) (x : BitVec 1) : KeepsM (passChecks tile plane x) := by
  dsimp only [passChecks]
  exact .auto

@[simp] theorem keeps_opRpass (v c : BitVec 4) (t p : BitVec 2) (x : BitVec 1) : KeepsM (opRpass v c t p x) := by
  dsimp only [opRpass]
  exact .auto

@[simp] theorem keeps_opRpassr (h c : BitVec 4) (t p : BitVec 2) (x v : BitVec 1) : KeepsM (opRpassr h c t p x v) := by
  dsimp only [opRpassr]
  exact .auto

@[simp] theorem keeps_opRsat (c : BitVec 1) (q : BitVec 2) : KeepsM (opRsat c q) := by
  dsimp only [opRsat]
  exact .auto

@[simp] theorem keeps_combOp (v : BitVec 4) (x : BitVec 1) (desc : Bool) (res : List (Nat × Nat) → Payload) : KeepsM (combOp v x desc res) := by
  dsimp only [combOp]
  exact .auto

@[simp] theorem keeps_opRmin (v : BitVec 4) (x : BitVec 1) : KeepsM (opRmin v x) := by
  dsimp only [opRmin]
  exact .auto

@[simp] theorem keeps_opRmax (v : BitVec 4) (x : BitVec 1) : KeepsM (opRmax v x) := by
  dsimp only [opRmax]
  exact .auto

@[simp] theorem keeps_opRsort (v : BitVec 4) (x d : BitVec 1) : KeepsM (opRsort v x d) := by
  dsimp only [opRsort]
  exact .auto

@[simp] theorem keeps_opRtopk (v : BitVec 4) (k : BitVec 6) (x d : BitVec 1) : KeepsM (opRtopk v k x d) := by
  dsimp only [opRtopk]
  exact .auto

@[simp] theorem keeps_opRrank (v : BitVec 4) (x d : BitVec 1) : KeepsM (opRrank v x d) := by
  dsimp only [opRrank]
  exact .auto

@[simp] theorem keeps_updTile (t : Nat) (f : Tile → Tile) : KeepsM (updTile t f) := by
  dsimp only [updTile]
  exact .auto

@[simp] theorem keeps_heldTile (t : BitVec 2) : KeepsM (heldTile t) := by
  dsimp only [heldTile]
  exact .auto

@[simp] theorem keeps_opAccz (a : BitVec 5) (t : BitVec 2) : KeepsM (opAccz a t) := by
  dsimp only [opAccz]
  exact .auto

@[simp] theorem keeps_opAccrd (a : BitVec 5) (f g t : BitVec 2) : KeepsM (opAccrd a f g t) := by
  dsimp only [opAccrd]
  exact .auto

@[simp] theorem keeps_newCmd : KeepsM newCmd := by
  dsimp only [newCmd]
  exact .auto

@[simp] theorem keeps_enqueue (c : Cmd) : KeepsM (enqueue c) := by
  dsimp only [enqueue]
  exact .auto

@[simp] theorem keeps_opAccst (a b : BitVec 5) (r p : BitVec 1) (f t : BitVec 2) : KeepsM (opAccst a b r p f t) := by
  dsimp only [opAccst]
  exact .auto

@[simp] theorem keeps_opAccnorm (t : BitVec 2) : KeepsM (opAccnorm t) := by
  dsimp only [opAccnorm]
  exact .auto

@[simp] theorem keeps_opAccexp (a : BitVec 5) (e : BitVec 1) (t : BitVec 2) : KeepsM (opAccexp a e t) := by
  dsimp only [opAccexp]
  exact .auto

@[simp] theorem keeps_needPriv : KeepsM needPriv := by
  dsimp only [needPriv]
  exact .auto

@[simp] theorem keeps_opRcal (a : BitVec 5) : KeepsM (opRcal a) := by
  dsimp only [opRcal]
  exact .auto

@[simp] theorem setTrim_spad (x : Core) (n : Nat) (v : Word) : (x.setTrim n v).spad = x.spad := by simp [Core.setTrim, apply_ite Core.spad]

@[simp] theorem keeps_opRtrimr (n : BitVec 6) : KeepsM (opRtrimr n) := by
  dsimp only [opRtrimr]
  exact .auto

@[simp] theorem keeps_opRtrimw (a : BitVec 5) (n : BitVec 6) : KeepsM (opRtrimw a n) := by
  dsimp only [opRtrimw]
  exact .auto

@[simp] theorem keeps_opRstat (n : BitVec 6) : KeepsM (opRstat n) := by
  dsimp only [opRstat]
  exact .auto

@[simp] theorem memOk_landPass (s : State) (l k c : Nat) (p : Pass) : MemOk (s.landPass l k c p) ↔ MemOk s := by simp [State.landPass]

@[simp] theorem memOk_renormStep (s : State) (l k c t : Nat) : MemOk (s.renormStep l k c t) ↔ MemOk s := by simp [State.renormStep]

end Sys2Proof.Machine

/-! O55: the memories kept by the E slot (R374 to R411). -/

namespace Sys2Proof.Machine

open Sys2Proof.Claim

set_option Elab.async false

@[simp] theorem keeps_opMte (a : BitVec 4) (n : BitVec 6) : KeepsM (opMte a n) := by
  dsimp only [opMte]
  exact .auto

@[simp] theorem keeps_opMfe (b : BitVec 4) (n : BitVec 6) : KeepsM (opMfe b n) := by
  dsimp only [opMfe]
  exact .auto

@[simp] theorem keeps_readGroup (g n : Nat) : KeepsM (readGroup g n) := by
  induction n generalizing g with
  | zero => exact keeps_pure _
  | succ n ih =>
    unfold readGroup
    exact .auto

@[simp] theorem keeps_checkCopy (kind : CmdKind) (w : List Word) (src dst : Word) : KeepsM (checkCopy kind w src dst) := by
  dsimp only [checkCopy]
  exact .auto

@[simp] theorem keeps_needEntry : KeepsM needEntry := by
  dsimp only [needEntry]
  exact .auto

@[simp] theorem keeps_checkCreate (yard stamp : Nat) : KeepsM (checkCreate yard stamp) := by
  dsimp only [checkCreate]
  exact .auto

@[simp] theorem keeps_countCreate (p yard stamp : Nat) : KeepsM (countCreate p yard stamp) := by
  dsimp only [countCreate]
  exact .auto

@[simp] theorem keeps_copyOp (kind : CmdKind) (a b : BitVec 4) (g : BitVec 3) (scat : Bool) : KeepsM (copyOp kind a b g scat) := by
  dsimp only [copyOp]
  exact .auto

@[simp] theorem keeps_opCpy (a b : BitVec 4) (g : BitVec 3) : KeepsM (opCpy a b g) := by
  dsimp only [opCpy]
  exact .auto

@[simp] theorem keeps_opCpyg (a b : BitVec 4) (s : BitVec 1) (g : BitVec 3) : KeepsM (opCpyg a b s g) := by
  dsimp only [opCpyg]
  exact .auto

@[simp] theorem keeps_opCpyx (a b : BitVec 4) (g : BitVec 3) : KeepsM (opCpyx a b g) := by
  dsimp only [opCpyx]
  exact .auto

@[simp] theorem keeps_limitOf (bank : Nat) : KeepsM (limitOf bank) := by
  dsimp only [limitOf]
  exact .auto

@[simp] theorem keeps_accessSeq : KeepsM accessSeq := by
  dsimp only [accessSeq]
  exact .auto

@[simp] theorem keeps_needUnlocked (bank : Nat) : KeepsM (needUnlocked bank) := by
  dsimp only [needUnlocked]
  exact .auto

@[simp] theorem keeps_checkEntries (bank e n : Nat) (lim : Option Nat) (addr sp len : Nat) : KeepsM (checkEntries bank e n lim addr sp len) := by
  dsimp only [checkEntries]
  exact .auto

@[simp] theorem keeps_opCbld (a b : BitVec 4) (e : BitVec 8) (p : BitVec 1) (k : BitVec 2) : KeepsM (opCbld a b e p k) := by
  dsimp only [opCbld]
  exact .auto

@[simp] theorem keeps_readMap (j : Nat) : KeepsM (readMap j) := by
  dsimp only [readMap]
  exact .auto

@[simp] theorem keeps_opCbval (a b j : BitVec 4) (v : BitVec 1) (k : BitVec 2) : KeepsM (opCbval a b j v k) := by
  dsimp only [opCbval]
  exact .auto

@[simp] theorem keeps_opCbsel (a : BitVec 4) : KeepsM (opCbsel a) := by
  dsimp only [opCbsel]
  exact .auto

@[simp] theorem keeps_opCbsave (a b : BitVec 4) (r : BitVec 1) (e : BitVec 8) (p : BitVec 1) (k : BitVec 2) : KeepsM (opCbsave a b r e p k) := by
  dsimp only [opCbsave]
  exact .auto

@[simp] theorem memOk_sendToken (s : State) (l : Nat) (t : Token) : MemOk (s.sendToken l t) ↔ MemOk s := by simp [State.sendToken]

@[simp] theorem keeps_opTsend (a b : BitVec 4) (l : BitVec 8) (m : BitVec 2) (g : BitVec 6) : KeepsM (opTsend a b l m g) := by
  dsimp only [opTsend]
  exact .auto

@[simp] theorem keeps_checkCurfew (p yard stamp : Nat) : KeepsM (checkCurfew p yard stamp) := by
  dsimp only [checkCurfew]
  exact .auto

@[simp] theorem keeps_opCfw (a : BitVec 4) (p : BitVec 6) (y : BitVec 8) : KeepsM (opCfw a p y) := by
  dsimp only [opCfw]
  exact .auto

@[simp] theorem keeps_opCft (a b : BitVec 4) (p : BitVec 6) (y : BitVec 8) : KeepsM (opCft a b p y) := by
  dsimp only [opCft]
  exact .auto

@[simp] theorem keeps_checkCond (w stamp : Nat) : KeepsM (checkCond w stamp) := by
  dsimp only [checkCond]
  exact .auto

@[simp] theorem keeps_condAcquire (w : Nat) : KeepsM (condAcquire w) := by
  dsimp only [condAcquire]
  exact .auto

@[simp] theorem keeps_readCond (i : Nat) : KeepsM (readCond i) := by
  dsimp only [readCond]
  exact .auto

@[simp] theorem keeps_waitcConds (i : Nat) : KeepsM (waitcConds i) := by
  dsimp only [waitcConds]
  exact .auto

@[simp] theorem keeps_opWaitc (a b : BitVec 4) (l : BitVec 1) (g : BitVec 3) : KeepsM (opWaitc a b l g) := by
  dsimp only [opWaitc]
  exact .auto

@[simp] theorem keeps_opCaph (a : BitVec 4) (y : BitVec 8) : KeepsM (opCaph a y) := by
  dsimp only [opCaph]
  exact .auto

@[simp] theorem keeps_opCapd (a : BitVec 4) (y : BitVec 8) : KeepsM (opCapd a y) := by
  dsimp only [opCapd]
  exact .auto

@[simp] theorem keeps_opAcq (sc : BitVec 3) : KeepsM (opAcq sc) := by
  dsimp only [opAcq]
  exact .auto

@[simp] theorem memOk_openBie {s : State} (h : MemOk s) (l k c i : Nat) : MemOk (s.openBie l k c i) := (memOk_updCtx ..).mpr (memOk_putBie h ..)

@[simp] theorem keeps_opShopen (a : BitVec 4) : KeepsM (opShopen a) := by
  dsimp only [opShopen]
  exact .auto

@[simp] theorem keeps_opShpub (a : BitVec 4) : KeepsM (opShpub a) := by
  dsimp only [opShpub]
  exact .auto

@[simp] theorem keeps_opYield : KeepsM opYield := by
  dsimp only [opYield]
  exact .auto

@[simp] theorem keeps_opRetire : KeepsM opRetire := by
  dsimp only [opRetire]
  exact .auto

@[simp] theorem keeps_opTrap (n : BitVec 6) : KeepsM (opTrap n) := by
  dsimp only [opTrap]
  exact .auto

@[simp] theorem keeps_opBrk (n : BitVec 6) : KeepsM (opBrk n) := by
  dsimp only [opBrk]
  exact .auto

@[simp] theorem keeps_opSysc (a b : BitVec 4) (sv : BitVec 8) : KeepsM (opSysc a b sv) := by
  dsimp only [opSysc]
  exact .auto

@[simp] theorem keeps_opRdtime (b : BitVec 4) (u : BitVec 1) : KeepsM (opRdtime b u) := by
  dsimp only [opRdtime]
  exact .auto

end Sys2Proof.Machine

/-! O55: the memories kept by the engines: copies, transforms, codebook commands and sector landings (R126 to R132, R377 to
R393). -/

namespace Sys2Proof.Machine

open Sys2Proof.Claim

set_option Elab.async false

@[simp] theorem memOk_updCmd (s : State) (l k id : Nat) (f : Cmd → Cmd) : MemOk (s.updCmd l k id f) ↔ MemOk s := by simp [State.updCmd]

@[simp] theorem memOk_dropCmd (s : State) (l k id : Nat) : MemOk (s.dropCmd l k id) ↔ MemOk s := by simp [State.dropCmd]

@[simp] theorem memOk_readerPast (s : State) (l k : Nat) (q : Cmd) : MemOk (s.readerPast l k q) ↔ MemOk s := by simp [State.readerPast]

@[simp] theorem memOk_stopCmd (s : State) (l k : Nat) (q : Cmd) (cause addr : Nat) (refused : optParam Bool false) :
    MemOk (s.stopCmd l k q cause addr refused) ↔ MemOk s := by
  simp [State.stopCmd]

@[simp] theorem memOk_exchange (s : State) (l d : Nat) (out : List (BitVec 8)) (back : List (BitVec 8)) :
    MemOk (s.exchange l d out back) ↔ MemOk s := by simp [State.exchange]

@[simp] theorem memOk_fixView (s : State) (l k : Nat) (q : Cmd) : MemOk (s.fixView l k q) ↔ MemOk s := by simp [State.fixView]

@[simp] theorem memOk_learnPages (s : State) (l k : Nat) (ps : List Nat) : MemOk (s.learnPages l k ps) ↔ MemOk s := by simp [State.learnPages]

@[simp] theorem memOk_keepView (s : State) (l k : Nat) (q : Cmd) (v : Ctx) : MemOk (s.keepView l k q v) ↔ MemOk s := by simp [State.keepView]

@[simp] theorem memOk_uncount (s : State) (l : Nat) (q : Cmd) : MemOk (s.uncount l q) ↔ MemOk s := by
  unfold State.uncount
  split <;> simp

@[simp] theorem memOk_refuseCmd (s : State) (l k : Nat) (q : Cmd) (cause addr : Nat) :
    MemOk (s.refuseCmd l k q cause addr) ↔ MemOk s := by simp [State.refuseCmd]

@[simp] theorem memOk_beginReading (s : State) (l k : Nat) (q : Cmd) : MemOk (s.beginReading l k q) ↔ MemOk s := by simp [State.beginReading]

/-- The acceptance of a copy writes no memory (R381). -/
@[simp] theorem memOk_acceptCopy (s : State) (l k : Nat) (q : Cmd) : MemOk (s.acceptCopy l k q) ↔ MemOk s := by
  unfold State.acceptCopy
  extract_lets s₀ t q acc claim reads u v
  have hu : MemOk u ↔ MemOk s := by
    unfold u t
    split <;> simp
  have hv : MemOk v ↔ MemOk s := by
    unfold v
    split <;> simpa using hu
  split
  · simpa using hu
  · split
    · rfl
    · simpa using hu
  · dsimp only
    split
    · rfl
    · split
      · simpa using hu
      · split
        · simpa using hu
        · (repeat' split) <;> simpa using hv

@[simp] theorem keeps_evEngineCommandAccept (l k c : Nat) : KeepsM (evEngineCommandAccept l k c) := by
  dsimp only [evEngineCommandAccept]
  exact .auto

@[simp] theorem memOk_stopOr (s : State) (l k : Nat) (q : Cmd) (e : Nat × Nat) : MemOk (s.stopOr l k q e) ↔ MemOk s := by simp [State.stopOr]

@[simp] theorem memOk_nextChunk (s : State) (l k : Nat) (q : Cmd) : MemOk (s.nextChunk l k q) ↔ MemOk s := by simp [State.nextChunk]

@[simp] theorem memOk_chunkReady (s : State) (l k : Nat) (q : Cmd) (next : Nat) (ds : List DstB) :
    MemOk (s.chunkReady l k q next ds) ↔ MemOk s := by simp [State.chunkReady]

@[simp] theorem keeps_runningCmd (l k c : Nat) (ok : Cmd → Bool) : KeepsM (runningCmd l k c ok) := by
  dsimp only [runningCmd]
  exact .auto

@[simp] theorem keeps_evCopyChunkTranslate (l k c : Nat) : KeepsM (evCopyChunkTranslate l k c) := by
  dsimp only [evCopyChunkTranslate]
  exact .auto

@[simp] theorem keeps_evTransformChunkStart (l k c : Nat) : KeepsM (evTransformChunkStart l k c) := by
  dsimp only [evTransformChunkStart]
  exact .auto

@[simp] theorem keeps_transforming (l k c ending : Nat) : KeepsM (transforming l k c ending) := by
  dsimp only [transforming]
  exact .auto

@[simp] theorem keeps_evTransformEcall (l k c : Nat) : KeepsM (evTransformEcall l k c) := by
  dsimp only [evTransformEcall]
  exact .auto

@[simp] theorem keeps_evTransformTimeout (l k c : Nat) : KeepsM (evTransformTimeout l k c) := by
  dsimp only [evTransformTimeout]
  exact .auto

@[simp] theorem keeps_evTransformException (l k c : Nat) (access : Bool) : KeepsM (evTransformException l k c access) := by
  dsimp only [evTransformException]
  exact .auto

theorem wf_writePlaces {y : Core} (h : y.spad.wf = true) (ds : List DstB) :
    (y.writePlaces ds).spad.wf = true := wf_foldl_set ds (fun d => (d.addr, d.val)) h

theorem memOk_writePlaces {s : State} (h : MemOk s) (l k : Nat) (ds : List DstB) : MemOk (s.updCore l k fun y => y.writePlaces ds) :=
  memOk_updCore _ _ h fun _ hy => wf_writePlaces hy _

@[simp] theorem memOk_landToken (s : State) (l k r hod : Nat) : MemOk (s.landToken l k r hod) ↔ MemOk s := by
  dsimp only [State.landToken]; (repeat' split) <;> simp

@[simp] theorem memOk_countSector (s : State) (l k r hod : Nat) : MemOk (s.countSector l k r hod) ↔ MemOk s := by
  unfold State.countSector; simp

@[simp] theorem memOk_blockDone (s : State) (l k id b : Nat) : MemOk (s.blockDone l k id b) ↔ MemOk s := by
  unfold State.blockDone
  split <;> simp

@[simp] theorem memOk_sectorBytes (s : State) (l k r hod sector n : Nat) : MemOk (s.sectorBytes l k r hod sector n) ↔ MemOk s := by
  unfold State.sectorBytes; simp

@[simp] theorem memOk_landSector {s : State} (h : MemOk s) (l : Nat) (w : Landing) : MemOk (s.landSector l w) := by
  have hw : MemOk (s.updCore l w.core fun y => y.writePlaces w.bytes) := memOk_updCore _ _ h fun y hy => wf_writePlaces hy _
  dsimp only [State.landSector]; (repeat' split) <;> simp [hw]

@[simp] theorem keeps_evSectorLanding (l k r hod sector : Nat) (data : BitVec 256) : KeepsM (evSectorLanding l k r hod sector data) := by
  dsimp only [evSectorLanding]
  exact .auto

@[simp] theorem memOk_copyStores (s : State) (l k : Nat) (q : Cmd) (ds : List DstB) :
    MemOk (s.copyStores l k q ds) ↔ MemOk s := by simp [State.copyStores]

@[simp] theorem memOk_writeBytes {s : State} (h : MemOk s) (l k : Nat) (q : Cmd) (ds : List DstB) : MemOk (s.writeBytes l k q ds) := by
  unfold State.writeBytes
  extract_lets t glob
  have ht : MemOk t := memOk_foldl_of _ h fun _ _ hs => memOk_writePlaces hs ..
  split
  · exact ht
  · simpa using ht

@[simp] theorem memOk_flushTail {s : State} (h : MemOk s) (l k : Nat) (q : Cmd) : MemOk (s.flushTail l k q) := by simp [State.flushTail, h]

@[simp] theorem memOk_writeBlock {s : State} (h : MemOk s) (l k : Nat) (q : Cmd) (b : Nat) (ds : List DstB) :
    MemOk (s.writeBlock l k q b ds) := by simp [State.writeBlock, h]

@[simp] theorem keeps_evCopyBlockWrite (l k c : Nat) : KeepsM (evCopyBlockWrite l k c) := by
  dsimp only [evCopyBlockWrite]
  exact .auto

@[simp] theorem memOk_publishCopy {s : State} (h : MemOk s) (l k : Nat) (q : Cmd) : MemOk (s.publishCopy l k q) := by
  unfold State.publishCopy
  split
  · exact memOk_publish h ..
  · exact memOk_foldl_of _ h fun _ _ hs => memOk_publishHome hs ..

@[simp] theorem keeps_evCopyComplete (l k c : Nat) : KeepsM (evCopyComplete l k c) := by
  dsimp only [evCopyComplete]
  exact .auto

@[simp] theorem keeps_evStampedCopyAck (l : Nat) : KeepsM (evStampedCopyAck l) := by
  dsimp only [evStampedCopyAck]
  exact .auto

@[simp] theorem memOk_engineFault (s : State) (l sid cause hi : Nat) : MemOk (s.engineFault l sid cause hi) ↔ MemOk s := by
  dsimp only [State.engineFault]
  (repeat' split) <;> simp

@[simp] theorem keeps_evEngineFaultReport (l k c : Nat) : KeepsM (evEngineFaultReport l k c) := by
  dsimp only [evEngineFaultReport]
  exact .auto

@[simp] theorem memOk_resumeCmds (s : State) (l k sid : Nat) (cancel : Bool) :
    MemOk (s.resumeCmds l k sid cancel) ↔ MemOk s := by simp [State.resumeCmds]

@[simp] theorem memOk_updCore_updBank (s : State) (l k n : Nat) (f : Bank → Bank) : MemOk (s.updCore l k fun y => y.updBank n f) ↔ MemOk s :=
  memOk_updCore_frame _ _ _ _ fun _ => rfl

@[simp] theorem keeps_evCbldEntryCommit (l k c : Nat) : KeepsM (evCbldEntryCommit l k c) := by
  dsimp only [evCbldEntryCommit]
  exact .auto

@[simp] theorem keeps_evCbvalCommit (l k c : Nat) : KeepsM (evCbvalCommit l k c) := by
  dsimp only [evCbvalCommit]
  exact .auto

@[simp] theorem keeps_evCbsaveComplete (l k c : Nat) : KeepsM (evCbsaveComplete l k c) := by
  dsimp only [evCbsaveComplete]
  exact .auto

@[simp] theorem keeps_opPub (sc : BitVec 3) : KeepsM (opPub sc) := by
  dsimp only [opPub]
  exact .auto

end Sys2Proof.Machine

/-! O55: the memories kept by the scheduler and the image of a context in its save slot (R205 to R209, R430 to R432). -/

namespace Sys2Proof.Machine

open Sys2Proof.Claim

set_option Elab.async false

@[simp] theorem memOk_testTokens (s : State) (l sid : Nat) : MemOk (s.testTokens l sid) ↔ MemOk s := by simp [State.testTokens]

@[simp] theorem memOk_vaDone (s : State) (l k a n : Nat) (read : Bool) (ps : List (Phys × Nat)) :
    MemOk (s.vaDone l k a n read ps) ↔ MemOk s := by simp [State.vaDone]

@[simp] theorem memOk_readVaDone (s : State) (l k c kind a n : Nat) : MemOk (s.readVaDone l k c kind a n) ↔ MemOk s := by
  unfold State.readVaDone
  split <;> simp

/-- Bytes written through a translation go to the places it gives. -/
theorem memOk_writeVa {s t : State} {l k c kind a : Nat} {bs : List (BitVec 8 × Bool)} (h : MemOk s) (e : s.writeVa l k c kind a bs = .ok t) :
    MemOk t := by
  unfold State.writeVa at e
  cases hp : s.vaPlaces l k c kind a bs.length with
  | error x => rw [hp] at e; cases e
  | ok ps =>
    rw [hp] at e
    cases e
    exact memOk_foldl_fst _ (by simpa using h) fun _ _ hr => memOk_pokeAt hr ..

@[simp] theorem memOk_storeSet {s : State} (h : MemOk s) (l k : Nat) : MemOk (s.storeSet l k) := by
  unfold State.storeSet
  extract_lets y
  split
  · exact h
  · next opid _ =>
    extract_lets o t
    have ht : MemOk t := memOk_foldl_of _ h fun s i hs => by
      dsimp only
      split
      · split
        · next he => simpa using memOk_writeVa hs he
        · simpa using hs
      · exact hs
    simpa using ht
  · simpa using h

@[simp] theorem memOk_loadSetDone (s : State) (l k c : Nat) (o : Op) : MemOk (s.loadSetDone l k c o) ↔ MemOk s := by simp [State.loadSetDone]

@[simp] theorem keeps_evCodebookExchange (l k c : Nat) : KeepsM (evCodebookExchange l k c) := by
  dsimp only [evCodebookExchange]
  exact .auto

@[simp] theorem stopFiller_spad (x : Core) : (x.stopFiller).spad = x.spad := by simp [Core.stopFiller, apply_ite Core.spad]

@[simp] theorem memOk_switchTo (s : State) (l k c : Nat) : MemOk (s.switchTo l k c) ↔ MemOk s := by
  dsimp only [State.switchTo]; (repeat' split) <;> simp

@[simp] theorem memOk_reschedule (s : State) (l k : Nat) : MemOk (s.reschedule l k) ↔ MemOk s := by
  dsimp only [State.reschedule]; (repeat' split) <;> simp

@[simp] theorem keeps_evSwitchThresholdExpiry (l k : Nat) : KeepsM (evSwitchThresholdExpiry l k) := by
  dsimp only [evSwitchThresholdExpiry]
  exact .auto

@[simp] theorem keeps_evSliceExpiry (l k : Nat) : KeepsM (evSliceExpiry l k) := by
  dsimp only [evSliceExpiry]
  exact .auto

@[simp] theorem keeps_evPriorityAgeing (l k c : Nat) : KeepsM (evPriorityAgeing l k c) := by
  dsimp only [evPriorityAgeing]
  exact .auto

@[simp] theorem memOk_beginRetire (s : State) (l k c : Nat) : MemOk (s.beginRetire l k c) ↔ MemOk s := by
  unfold State.beginRetire
  simp

theorem wf_putLines {h : Hbm} (hw : h.slots.wf = true) (a : Nat) (bs : List (BitVec 8)) :
    (h.putLines a bs).slots.wf = true := Mem.wf_putBlock _ _ _ hw

@[simp] theorem touchLines_slots (x : Ld) (a n : Nat) (d : Bool) : (x.touchLines a n d).hbm.slots = x.hbm.slots := touch_slots ..

@[simp] theorem touchLines_cores (x : Ld) (a n : Nat) (d : Bool) : (x.touchLines a n d).cores = x.cores := touch_cores ..

/-- The image of a context goes into its save slot in device memory (R430). -/
@[simp] theorem memOk_saveImage {s : State} (h : MemOk s) (l n : Nat) (v : Saved) : MemOk (s.saveImage l n v) := by
  unfold State.saveImage
  extract_lets at_ blocks t u w
  have ht : MemOk t := memOk_updHbm _ h (fun _ hx => wf_foldl_hbm _ hx fun _ _ hw => wf_putLines hw ..) fun _ => rfl
  have hu : MemOk u := (memOk_updLd_frame _ _ _ (fun x => by simp) fun x => by simp).mpr ht
  have hw : MemOk w := memOk_foldl_of _ hu fun _ _ hs => memOk_pokeLd hs ..
  simpa using hw

theorem memOk_readLines (s : State) (l a n : Nat) : MemOk ((s.noteBrokenRead l a n).updLd l fun x => x.touchLines a n false) ↔ MemOk s := by simp

@[simp] theorem memOk_readSlot (s : State) (l slot : Nat) (v : Saved) : MemOk (s.readSlot l slot v) ↔ MemOk s := by
  unfold State.readSlot
  extract_lets a t u
  have hu : MemOk u ↔ MemOk s := memOk_readLines ..
  exact Iff.trans (memOk_updCore_frame _ _ _ _ fun _ => rfl) hu

end Sys2Proof.Machine

/-! O55: the memories kept by bundles and the clock of a core (R243 to R251, R416 to R418). -/

namespace Sys2Proof.Machine

open Sys2Proof.Claim

set_option Elab.async false

/-- Every slot word. -/
@[simp] theorem keeps_slotOp (i : Instr) : KeepsM (slotOp i) := by
  dsimp only [slotOp]
  exact .auto

@[simp] theorem keeps_illegal {α : Type} (e : DecodeError) : KeepsM (illegal e : M α) := fun _ _ => trivial

@[simp] theorem keeps_fetchWord (va : Nat) : KeepsM (fetchWord va) := by
  dsimp only [fetchWord]
  exact .auto

@[simp] theorem keeps_fetchSlots (h : Header) (va : Nat) (is : List Nat) : KeepsM (fetchSlots h va is) := by
  induction is generalizing va with
  | nil => exact keeps_pure _
  | cons i r ih =>
    unfold fetchSlots
    exact .auto

@[simp] theorem keeps_fetchBundle : KeepsM fetchBundle := by
  dsimp only [fetchBundle]
  exact .auto

@[simp] theorem keeps_checkSlot (x : Ctx) (b : Bundle) (i : Nat) : KeepsM (checkSlot x b i) := by
  dsimp only [checkSlot]
  exact .auto

@[simp] theorem keeps_checkBundle (b : Bundle) : KeepsM (checkBundle b) := by
  dsimp only [checkBundle]
  exact .auto

@[simp] theorem keeps_takeQueued (cs : List (BitVec 4)) : KeepsM (takeQueued cs) := by
  induction cs with
  | nil => exact keeps_pure _
  | cons c r ih =>
    unfold takeQueued
    exact .auto

/-- The A word of a bundle taken back: the bytes it stored stand again as before (R416). -/
@[simp] theorem memOk_takeBack {s : State} (h : MemOk s) (l k c : Nat) : MemOk (s.takeBack l k c) := by
  dsimp only [State.takeBack]
  split
  · exact h
  · split
    · exact h
    · simp only [memOk_updCtx]
      split
      · exact memOk_updCore _ _ h fun y hy => wf_foldl_set _ _ hy
      · refine memOk_mapLds (fun _ => rfl) (fun e he => ?_) (memOk_updCore _ _ h fun y hy => wf_foldl_set _ (fun p => p) hy)
        refine Iff.mpr ?_ he
        exact ldOk_mapCores_iff rfl rfl (fun _ => rfl) fun _ => rfl

/-- The E word of a bundle runs after the queue entries it takes (R280). -/
@[simp] theorem keeps_eWord (half : Unit → Half) (i : Instr) : KeepsM (eWord half i) := by
  intro s h
  have hq (cs : List (BitVec 4)) : KeepsM (fun t => match (half ()).popped with | some vs => .ok (vs, t) | none => takeQueued cs t) := by
    cases (half ()).popped
    · exact keeps_takeQueued cs
    · exact keeps_pure _
  have hs (f : Ctx → Ctx) : MemOk (s.updMe f) := (memOk_updMe ..).mpr h
  dsimp only [eWord]
  split
  · exact fun t _ => (memOk_updMe ..).mpr (hs _)
  · exact kept_stop ‹_›
  · next he =>
    have ht := (hq _).ok (hs _) he
    split
    · next hw => exact fun t _ => (keeps_slotOp i).ask ((memOk_updMe ..).mpr ht) hw ((memOk_updMe ..).mpr ht)
    · exact kept_stop ‹_›
    · next hw => exact (memOk_updMe ..).mpr ((keeps_slotOp i).ok ((memOk_updMe ..).mpr ht) hw)

@[simp] theorem memOk_askClaim (tile : Bool) (n : Nat) (s : State) : MemOk (askClaim tile n s) ↔ MemOk s := by simp [askClaim]

@[simp] theorem keeps_syncWait (b : Bundle) : KeepsM (syncWait b) := by
  dsimp only [syncWait]
  exact .auto

@[simp] theorem keeps_accessHalves (b : Bundle) (is : List (Option Instr)) : KeepsM (accessHalves b is) := by
  dsimp only [accessHalves]
  exact .auto

@[simp] theorem keeps_passBundle : KeepsM passBundle := by
  dsimp only [passBundle]
  exact .auto

/-- The access stream tries its bundle (R248). -/
theorem memOk_accessTry {s : State} (h : MemOk s) (l k c : Nat) (joint : Bool) : MemOk (s.accessTry l k c joint).1 := by
  have hs : MemOk { s with cur := { l := l, k := k, c := c } } := h
  have hf (p : Bool) : KeepsM (if p then (fun s => do let (_, t) ← passBundle s; fetchBundle t) else fetchBundle) := by
    split
    · exact keeps_bind keeps_passBundle fun _ => keeps_fetchBundle
    · exact keeps_fetchBundle
  dsimp only [State.accessTry]
  split
  · simp [h]
  · next he => simpa using (hf _).ask hs he hs
  · exact hs
  · next he =>
    have ht := (hf _).ok hs he
    split
    · exact ht
    · split
      · simp [ht]
      · simpa using ht
      · next hc =>
        have hu := (keeps_checkBundle _).ok ((memOk_updMe ..).mpr ht) hc
        split
        · simp [hu]
        · next ha => simpa using (keeps_accessHalves _ _).ask hu ha hu
        · exact hu
        · next ha => simpa using (keeps_accessHalves _ _).ok hu ha

@[simp] theorem keeps_executeSlot (i : Nat) (w : Option (BitVec 32)) (held : Bool) : KeepsM (executeSlot i w held) := by
  dsimp only [executeSlot]
  exact .auto

@[simp] theorem keeps_executeHalves (b : RunB) : KeepsM (executeHalves b) := by
  dsimp only [executeHalves]
  exact .auto

/-- The execute stream tries its bundle (R256). -/
theorem memOk_execTry {s : State} (h : MemOk s) (l k c : Nat) : MemOk (s.execTry l k c).1 := by
  have hs (f : Ctx → Ctx) : MemOk ({ s with cur := { l := l, k := k, c := c } }.updCtx l k c f) := (memOk_updCtx ..).mpr h
  dsimp only [State.execTry]
  split
  · exact hs _
  · split
    · next he => simpa using (keeps_executeHalves _).ok (hs _) he
    all_goals exact hs _

@[simp] theorem memOk_readDue (s : State) (l k c n : Nat) : MemOk (s.readDue l k c n) ↔ MemOk s := by
  induction n generalizing s with
  | zero => rfl
  | succ n ih => unfold State.readDue; split <;> simp [ih]

@[simp] theorem memOk_landPasses (s : State) (l k c n : Nat) : MemOk (s.landPasses l k c n) ↔ MemOk s := by
  induction n generalizing s with
  | zero => rfl
  | succ n ih => unfold State.landPasses; dsimp only; (repeat' split) <;> simp [ih]

@[simp] theorem memOk_arrayClock (s : State) (l k c : Nat) : MemOk (s.arrayClock l k c) ↔ MemOk s := by
  dsimp only [State.arrayClock]; (repeat' split) <;> simp

@[simp] theorem memOk_noteStart (s : State) (l k c : Nat) : MemOk (s.noteStart l k c) ↔ MemOk s := by simp [State.noteStart]

@[simp] theorem memOk_takeDetected (s : State) (l k c : Nat) (t : TrapInfo) :
    MemOk (s.takeDetected l k c t) ↔ MemOk s := by unfold State.takeDetected; simp

@[simp] theorem memOk_streams {s : State} (h : MemOk s) (l k c : Nat) : MemOk (s.streams l k c) := by
  unfold State.streams
  extract_lets x t full
  have ht : MemOk t := (memOk_updCtx ..).mpr h
  have ha : MemOk (if x.mayAccess && decide (x.st.run.length ≤ 16) then t.accessTry l k c else (t, .stalled)).1 := by
    split
    · exact memOk_accessTry ht ..
    · exact ht
  split
  · simpa using h
  · split
    · simpa using h
    · have he := memOk_execTry ha l k c
      generalize (if x.mayAccess && decide (x.st.run.length ≤ 16) then t.accessTry l k c else (t, .stalled)) = p at *
      dsimp only
      generalize State.execTry p.1 l k c = q at *
      (repeat' split) <;> simp [ht, he]

@[simp] theorem memOk_retest (s : State) (l k c : Nat) : MemOk (s.retest l k c) ↔ MemOk s := by simp [State.retest]

@[simp] theorem memOk_retestOthers (s : State) (l k : Nat) : MemOk (s.retestOthers l k) ↔ MemOk s := by simp [State.retestOthers]

@[simp] theorem memOk_accessAlone {s : State} (h : MemOk s) (l k c : Nat) : MemOk (s.accessAlone l k c) := by
  unfold State.accessAlone
  split
  · exact memOk_accessTry h ..
  · exact h

@[simp] theorem memOk_landNow (s : State) (l k c : Nat) : MemOk (s.landNow l k c) ↔ MemOk s := by simp [State.landNow]

/-- One domain clock of a core (R251). -/
@[simp] theorem memOk_clock {s : State} (h : MemOk s) (l k : Nat) : MemOk (s.clock l k) := by
  unfold State.clock
  extract_lets n t u v y
  have hu : MemOk u := by simpa [u, t] using h
  have hv : MemOk v := by unfold v; split <;> simpa using hu
  split
  · simpa using hv
  · split
    · simpa using hv
    · split
      · simpa using hv
      · extract_lets w z x
        have hw : MemOk w := by unfold w; split <;> simpa [State.landNow] using hv
        have hz : MemOk z := by
          unfold z
          split
          · simp [hw]
          · exact memOk_streams hw ..
        split
        · simpa using hz
        · exact hz

@[simp] theorem keeps_evBundleIssue (l k : Nat) : KeepsM (evBundleIssue l k) := by
  dsimp only [evBundleIssue]
  exact .auto

@[simp] theorem keeps_evResultLanding (l k : Nat) : KeepsM (evResultLanding l k) := by
  dsimp only [evResultLanding]
  exact .auto

@[simp] theorem keeps_evLandingSlotFill (l k c slot : Nat) : KeepsM (evLandingSlotFill l k c slot) := by
  dsimp only [evLandingSlotFill]
  exact .auto

@[simp] theorem keeps_evWaitcTimeout (l k c : Nat) : KeepsM (evWaitcTimeout l k c) := by
  dsimp only [evWaitcTimeout]
  exact .auto

@[simp] theorem keeps_evFenceComplete (l k c : Nat) : KeepsM (evFenceComplete l k c) := by
  dsimp only [evFenceComplete]
  exact .auto

@[simp] theorem keeps_evClaimGrant (l k : Nat) (tile : Bool) (n : Nat) : KeepsM (evClaimGrant l k tile n) := by
  dsimp only [evClaimGrant]
  exact .auto

end Sys2Proof.Machine

/-! O55: the memories kept by steps from release to retirement, swaps and tokens (R143, R199 to R214, R396 to R408, R429 to
R434). -/

namespace Sys2Proof.Machine

open Sys2Proof.Claim

set_option Elab.async false

@[simp] theorem keeps_evPublicationComplete (l k c : Nat) : KeepsM (evPublicationComplete l k c) := by
  dsimp only [evPublicationComplete]
  exact .auto

@[simp] theorem memOk_exchangeBie {s : State} (h : MemOk s) (l k c i : Nat) : MemOk (s.exchangeBie l k c i) := by simp [State.exchangeBie, h]

@[simp] theorem memOk_publishShadow {s : State} (h : MemOk s) (l k c r : Nat) : MemOk (s.publishShadow l k c r) := by simp [State.publishShadow, h]

@[simp] theorem keeps_evShpubExchange (l k c : Nat) : KeepsM (evShpubExchange l k c) := by
  dsimp only [evShpubExchange]
  exact .auto

@[simp] theorem keeps_evShopenGrant (l k c : Nat) : KeepsM (evShopenGrant l k c) := by
  dsimp only [evShopenGrant]
  exact .auto

@[simp] theorem memOk_tokenSettled (s : State) (t : Token) : MemOk (s.tokenSettled t) ↔ MemOk s := by simp [State.tokenSettled]

@[simp] theorem keeps_evTokenArrival (l : Nat) : KeepsM (evTokenArrival l) := by
  dsimp only [evTokenArrival]
  exact .auto

@[simp] theorem keeps_evTokenAcceptance (l : Nat) : KeepsM (evTokenAcceptance l) := by
  dsimp only [evTokenAcceptance]
  exact .auto

@[simp] theorem keeps_evTokenRefusal (l : Nat) : KeepsM (evTokenRefusal l) := by
  dsimp only [evTokenRefusal]
  exact .auto

@[simp] theorem memOk_noteIdle (s : State) (l : Nat) : MemOk (s.noteIdle l) ↔ MemOk s := by simp [State.noteIdle]

@[simp] theorem memOk_leaveCopies (s : State) (l k : Nat) (x : Ctx) : MemOk (s.leaveCopies l k x) ↔ MemOk s := by simp [State.leaveCopies]

/-- A retirement publishes what the step stored and closes its shadow buffers (R408). -/
@[simp] theorem keeps_evRetirementComplete (l k c : Nat) : KeepsM (evRetirementComplete l k c) := by
  refine keeps_getS_bind fun s _ => keeps_bind (keeps_need _) fun _ => keeps_updS fun s hs => ?_
  extract_lets writing t x u o v w
  have hu : MemOk u := (memOk_leaveCopies ..).mpr (memOk_publish hs ..)
  have hv : MemOk v := by
    refine Iff.mpr (memOk_updCore_frame u l k _ fun y => ?_) hu
    rw [foldl_spad]
    intro y ob
    simp
  have hw : MemOk w := memOk_foldl_of _ hv fun s b hs => memOk_closeBie hs ..
  have hp := resetPorts_spad (w.core l k) ((w.core l k).stepPorts o x.sys.opid x.sys.stamp.toNat)
  generalize (w.core l k).resetPorts ((w.core l k).stepPorts o x.sys.opid x.sys.stamp.toNat) = r at hp ⊢
  obtain ⟨core, tags⟩ := r
  have hr (a : Option Nat) : MemOk (w.updCore l k fun _ => { core with active := a }) := memOk_putCore hw hw hp
  dsimp only
  split
  · simpa using hr _
  · simpa using hr _

@[simp] theorem keeps_evScratchpadAllocationFree (l k : Nat) : KeepsM (evScratchpadAllocationFree l k) := by
  dsimp only [evScratchpadAllocationFree]
  exact .auto

@[simp] theorem memOk_startStep (s : State) (l k opid t : Nat) : MemOk (s.startStep l k opid t) ↔ MemOk s := by simp [State.startStep]

@[simp] theorem memOk_rerunDone {s : State} (h : MemOk s) (l opid t : Nat) : MemOk (s.rerunDone l opid t) := by
  dsimp only [State.rerunDone]
  exact memOk_foldl_of _ ((memOk_updOp ..).mpr h) fun _ _ hs => memOk_complete hs ..

@[simp] theorem memOk_releaseStep {s : State} (h : MemOk s) (l opid t k src : Nat) : MemOk (s.releaseStep l opid t k src) := by
  unfold State.releaseStep
  split <;> simp [h]

@[simp] theorem keeps_evStepRelease (l w : Nat) : KeepsM (evStepRelease l w) := by
  dsimp only [evStepRelease]
  exact .auto

@[simp] theorem memOk_spendBudget (s : State) (l k : Nat) (p : Place) (sid : Nat) (waits : Wait) :
    MemOk (s.spendBudget l k p sid waits) ↔ MemOk s := by
  unfold State.spendBudget
  split <;> simp

@[simp] theorem keeps_evWaitingBudgetExhausted (l k c : Nat) : KeepsM (evWaitingBudgetExhausted l k c) := by
  dsimp only [evWaitingBudgetExhausted]
  exact .auto

@[simp] theorem keeps_evStepTimeBoundOverrun (l k c : Nat) : KeepsM (evStepTimeBoundOverrun l k c) := by
  dsimp only [evStepTimeBoundOverrun]
  exact .auto

/-- A context leaves for its save slot (R429). -/
@[simp] theorem memOk_swapOut {s : State} (h : MemOk s) (l k c : Nat) : MemOk (s.swapOut l k c) := by
  unfold State.swapOut
  split
  · exact h
  · extract_lets t u y x mine planes tiles priv v w v' z z'
    have ht : MemOk t := (memOk_finishReads ..).mpr h
    have hu : MemOk u := memOk_foldl_of _ ht fun s q hs => memOk_flushTail hs ..
    have hw : MemOk w := by
      refine Iff.mpr (memOk_updCore_frame u l k _ fun y => ?_) hu
      dsimp only
      rw [foldl_spad]
      intro y ob
      simp
    have hz : MemOk z := memOk_saveImage hw ..
    simpa [z'] using hz

@[simp] theorem memOk_leaveCore {s : State} (h : MemOk s) (l k c : Nat) : MemOk (s.leaveCore l k c) := by simp [State.leaveCore, h]

@[simp] theorem oneFree_spad (y : Core) : (y.oneFree).spad = y.spad := by
  unfold Core.oneFree
  split <;> simp

@[simp] theorem keeps_evSwapOut (l k c : Nat) : KeepsM (evSwapOut l k c) := by
  dsimp only [evSwapOut]
  exact .auto

@[simp] theorem keeps_evSwapThresholdExpiry (l k c : Nat) : KeepsM (evSwapThresholdExpiry l k c) := by
  dsimp only [evSwapThresholdExpiry]
  exact .auto

theorem memOk_moveSaved (s : State) (l k : Nat) (v : Saved) : MemOk (s.moveSaved l k v).1 ↔ MemOk s := by
  unfold State.moveSaved
  split
  · rfl
  · simp

@[simp] theorem joinWaiting_spad (y : Core) (x : Ctx) : (y.joinWaiting x).spad = y.spad := by
  unfold Core.joinWaiting
  split <;> simp

/-- A context comes back from its save slot (R432). -/
@[simp] theorem memOk_restore {s : State} (h : MemOk s) (l k slot : Nat) (v : Saved) : MemOk (s.restore l k slot v) := by
  unfold State.restore
  extract_lets t
  have ht : MemOk (t.moveSaved l k ((t.ld l).restored slot v)).1 := (memOk_moveSaved ..).mpr ((memOk_readSlot ..).mpr h)
  generalize t.moveSaved l k ((t.ld l).restored slot v) = r at ht ⊢
  obtain ⟨u, w⟩ := r
  dsimp only
  refine memOk_foldl_of _ ?_ fun _ _ hs => memOk_complete hs ..
  rw [memOk_updCtx]
  refine memOk_foldl_of _ ?_ fun _ _ hs => memOk_putBie hs ..
  simpa using ht

@[simp] theorem keeps_evSwapIn (l slot : Nat) : KeepsM (evSwapIn l slot) := by
  dsimp only [evSwapIn]
  exact .auto

end Sys2Proof.Machine

/-! O55: the memories kept by the array on its own, errors and calibration (R121 to R125, R340 to R345). -/

namespace Sys2Proof.Machine

open Sys2Proof.Claim

set_option Elab.async false

@[simp] theorem keeps_evRldwCourseCommit (l k : Nat) : KeepsM (evRldwCourseCommit l k) := by
  dsimp only [evRldwCourseCommit]
  exact .auto

@[simp] theorem keeps_activeArray (l k : Nat) : KeepsM (activeArray l k) := by
  dsimp only [activeArray]
  exact .auto

@[simp] theorem keeps_evPassConverterRead (l k : Nat) (refused : BitVec 256) : KeepsM (evPassConverterRead l k refused) := by
  dsimp only [evPassConverterRead]
  exact .auto

@[simp] theorem keeps_evReraceComplete (l k : Nat) (refused : BitVec 256) : KeepsM (evReraceComplete l k refused) := by
  dsimp only [evReraceComplete]
  exact .auto

@[simp] theorem keeps_evPassLanding (l k : Nat) : KeepsM (evPassLanding l k) := by
  dsimp only [evPassLanding]
  exact .auto

@[simp] theorem keeps_evRenormalisationStep (l k t : Nat) : KeepsM (evRenormalisationStep l k t) := by
  dsimp only [evRenormalisationStep]
  exact .auto

@[simp] theorem keeps_evCombRead (l k : Nat) (refused : Bool) : KeepsM (evCombRead l k refused) := by
  dsimp only [evCombRead]
  exact .auto

@[simp] theorem keeps_evCombResultLand (l k : Nat) : KeepsM (evCombResultLand l k) := by
  dsimp only [evCombResultLand]
  exact .auto

@[simp] theorem keeps_evRcalResult (l k : Nat) : KeepsM (evRcalResult l k) := by
  dsimp only [evRcalResult]
  exact .auto

@[simp] theorem memOk_countEcc (s : State) (l : Nat) (core : Bool) : MemOk (s.countEcc l core) ↔ MemOk s := by simp [State.countEcc]

@[simp] theorem keeps_evEccCorrectedCore (l k : Nat) : KeepsM (evEccCorrectedCore l k) := by
  dsimp only [evEccCorrectedCore]
  exact .auto

@[simp] theorem memOk_clocks {s : State} (h : MemOk s) (l k n : Nat) : MemOk (s.clocks l k n) := by
  induction n generalizing s with
  | zero => exact h
  | succ n ih =>
    unfold State.clocks
    exact ih (memOk_clock h l k)

@[simp] theorem keeps_evEccFreezeEnd (l k : Nat) : KeepsM (evEccFreezeEnd l k) := by
  dsimp only [evEccFreezeEnd]
  exact .auto

@[simp] theorem keeps_evEccCorrectedMemory (l addr : Nat) : KeepsM (evEccCorrectedMemory l addr) := by
  dsimp only [evEccCorrectedMemory]
  exact .auto

@[simp] theorem poisonWord_spad (y : Core) (addr : Nat) : (y.poisonWord addr).spad = y.spad := by
  unfold Core.poisonWord
  split <;> simp

@[simp] theorem keeps_evUncorrectableError (l place k addr : Nat) : KeepsM (evUncorrectableError l place k addr) := by
  dsimp only [evUncorrectableError]
  exact .auto

@[simp] theorem keeps_evCalibrationPeriodicTimer (l k : Nat) : KeepsM (evCalibrationPeriodicTimer l k) := by
  dsimp only [evCalibrationPeriodicTimer]
  exact .auto

@[simp] theorem keeps_evTemperatureSample (l k : Nat) (temp : BitVec 16) : KeepsM (evTemperatureSample l k temp) := by
  dsimp only [evTemperatureSample]
  exact .auto

@[simp] theorem memOk_finishLoads (s : State) (l k c n : Nat) : MemOk (s.finishLoads l k c n) ↔ MemOk s := by
  induction n generalizing s with
  | zero => rfl
  | succ n ih => unfold State.finishLoads; split <;> simp [ih]

@[simp] theorem memOk_runFreeze (s : State) (l k : Nat) : MemOk (s.runFreeze l k) ↔ MemOk s := by
  dsimp only [State.runFreeze]
  split <;> simp

@[simp] theorem memOk_calVictim {s : State} (h : MemOk s) (l k c : Nat) : MemOk (s.calVictim l k c) := by simp [State.calVictim, h]

@[simp] theorem keeps_evCalibrationStart (l k : Nat) : KeepsM (evCalibrationStart l k) := by
  dsimp only [evCalibrationStart]
  exact .auto

@[simp] theorem putTrim_spad (y : Core) (g v : Nat) : (y.putTrim g v).spad = y.spad := by simp [Core.putTrim]

theorem searchTrim_spad (k g n lo hi : Nat) (p : Core × Nat) : (searchTrim k g n lo hi p).1.spad = p.1.spad := by
  obtain ⟨y, d⟩ := p
  have h0 (lo hi : Nat) (y : Core) (d : Nat) : (searchTrim k g 0 lo hi (y, d)).1.spad = y.spad := by
    rw [searchTrim]
    exact putTrim_spad ..
  induction n generalizing lo hi y d with
  | zero => exact h0 ..
  | succ n ih =>
    rw [searchTrim]
    split
    · dsimp only
      split
      · exact (ih ..).trans (putTrim_spad ..)
      · exact (ih ..).trans (putTrim_spad ..)
    · exact h0 ..

/-- The calibration routine leaves the scratchpad (R341). -/
theorem calibrate_spad (y : Core) (k d : Nat) : (y.calibrate k d).1.spad = y.spad := by
  unfold Core.calibrate
  split
  next he =>
    have hs := congrArg (fun r => r.1.spad) he
    dsimp only at hs ⊢
    rw [← hs]
    exact foldl_fst_spad _ _ _ fun _ _ => searchTrim_spad ..

@[simp] theorem keeps_evCalibrationRoutine (l k : Nat) : KeepsM (evCalibrationRoutine l k) := by
  refine keeps_getS_bind fun s hs => ?_
  extract_lets y
  refine keeps_bind (keeps_need _) fun _ => keeps_updS fun t ht => ?_
  have hc := calibrate_spad y k t.draw
  generalize y.calibrate k t.draw = p at hc ⊢
  obtain ⟨y', d⟩ := p
  have hv {z : Core} {u : State} (hu : MemOk u) (hz : z.spad = y'.spad) : MemOk (u.updCore l k fun _ => z) := memOk_putCore hs hu (hz.trans hc)
  dsimp only
  split
  · rw [memOk_notice]
    exact Iff.mpr (memOk_updLd_frame _ _ _ (fun _ => rfl) (fun _ => rfl)) (hv ht rfl)
  · exact Iff.mpr (memOk_updLd_frame _ _ _ (fun _ => rfl) (fun _ => rfl)) (hv ht rfl)

end Sys2Proof.Machine

/-! O55: the memories kept by requests at the memories, walks, invalidations, commits and the host (R27 to R41, R109 to R125,
R441). -/

namespace Sys2Proof.Machine

open Sys2Proof.Claim

set_option Elab.async false

@[simp] theorem keeps_evNbrRequestArrival (l k : Nat) : KeepsM (evNbrRequestArrival l k) := by
  dsimp only [evNbrRequestArrival]
  exact .auto

@[simp] theorem keeps_evDieCacheRequest (l : Nat) : KeepsM (evDieCacheRequest l) := by
  dsimp only [evDieCacheRequest]
  exact .auto

@[simp] theorem keeps_evLineReadExpand (l line : Nat) (mask : BitVec 4) : KeepsM (evLineReadExpand l line mask) := by
  dsimp only [evLineReadExpand]
  exact .auto

@[simp] theorem keeps_evFullLineWrite (l line : Nat) (compr : Bool) (data : BitVec 1024) : KeepsM (evFullLineWrite l line compr data) :=
  keeps_bind (keeps_need _) fun _ => keeps_updS fun _ h => memOk_updHbm _ h (fun _ hx => wf_mergeLine hx ..) fun _ => rfl

@[simp] theorem keeps_evPartialLineWrite (l addr : Nat) (compr : Bool) (bytes : List (BitVec 8)) :
    KeepsM (evPartialLineWrite l addr compr bytes) := by
  dsimp only [evPartialLineWrite]
  exact .auto

@[simp] theorem keeps_evTableWalkStart (l : Nat) : KeepsM (evTableWalkStart l) := by
  dsimp only [evTableWalkStart]
  exact .auto

@[simp] theorem ldOk_walkServed (x : Ld) (who : List (Nat × Nat)) (e : Option TlbE) : LdOk (x.walkServed who e) ↔ LdOk x :=
  ldOk_foldl _ _ _ fun _ _ => ldOk_updCore_frame _ _ _ fun _ => rfl

@[simp] theorem ldOk_walkEnds (x : Ld) (w : Walk) : LdOk (x.walkEnds w) ↔ LdOk x := by
  unfold Ld.walkEnds
  extract_lets y
  have hy : LdOk y ↔ LdOk x := ldOk_congr rfl rfl
  have hs (e : Option TlbE) (who : List (Nat × Nat)) : LdOk ((y.walkServed w.who e).walkServed who e) ↔ LdOk x := by
    rw [ldOk_walkServed, ldOk_walkServed, hy]
  split
  · exact hy
  · exact Iff.trans (ldOk_congr (by rfl) (by rfl)) (hs _ _)
  · rw [ldOk_foldl, ldOk_walkServed, hy]
    intro z q
    exact ldOk_updCore_frame _ _ _ fun y => by simp [apply_ite Core.spad]

@[simp] theorem keeps_evTableWalkComplete (l : Nat) : KeepsM (evTableWalkComplete l) := by
  refine keeps_getS_bind fun s _ => ?_
  split
  · exact keeps_idle
  · refine keeps_updS_frame fun s => ?_
    rw [memOk_updLd_iff fun x => ldOk_walkEnds x _, memOk_walkLooks]

@[simp] theorem writeXlinv_slots (x : Ld) (v : Nat) : (x.writeXlinv v).hbm.slots = x.hbm.slots := by
  unfold Ld.writeXlinv
  split <;> simp

@[simp] theorem writeXlinv_cores (x : Ld) (v : Nat) : (x.writeXlinv v).cores = x.cores := by
  unfold Ld.writeXlinv
  split <;> simp

@[simp] theorem keeps_evXlinvPage (l : Nat) (vpage : BitVec 36) : KeepsM (evXlinvPage l vpage) := by
  dsimp only [evXlinvPage]
  exact .auto

@[simp] theorem keeps_evXlinvRange (l : Nat) (vpage : BitVec 36) : KeepsM (evXlinvRange l vpage) := by
  dsimp only [evXlinvRange]
  exact .auto

@[simp] theorem keeps_evXlinvAll (l : Nat) : KeepsM (evXlinvAll l) := by
  dsimp only [evXlinvAll]
  exact .auto

@[simp] theorem keeps_evXlinvReject (l : Nat) (v : BitVec 64) : KeepsM (evXlinvReject l v) := by
  dsimp only [evXlinvReject]
  exact .auto

@[simp] theorem purge_slots (x : Ld) (p n : Nat) : (x.purge p n).hbm.slots = x.hbm.slots := by simp [Ld.purge]

theorem ldOk_purge (x : Ld) (p n : Nat) : LdOk (x.purge p n) ↔ LdOk x := ldOk_mapCores_iff rfl rfl (fun _ => rfl) fun _ => rfl

@[simp] theorem keeps_evInvalidationDone (l : Nat) : KeepsM (evInvalidationDone l) := by
  refine keeps_getS_bind fun s _ => ?_
  dsimp only
  split
  · exact keeps_idle
  · exact keeps_bind (keeps_need _) fun _ => keeps_updS_frame fun s => memOk_updLd_iff fun x => (ldOk_congr rfl rfl).trans (ldOk_purge x _ _)

@[simp] theorem answers_slots (x : Ld) (ans : Option (Nat × Nat)) (vs : List (BitVec 8 × Nat)) :
    (x.answers ans vs).hbm.slots = x.hbm.slots := by simp [Ld.answers]

@[simp] theorem answers_cores (x : Ld) (ans : Option (Nat × Nat)) (vs : List (BitVec 8 × Nat)) :
    (x.answers ans vs).cores = x.cores := by simp [Ld.answers]

@[simp] theorem keeps_evPeerRequestCheck (l ipkg idie expidx gen : Nat) (rights : BitVec 3) (e kind : Nat) (bytes : List (BitVec 8)) :
    KeepsM (evPeerRequestCheck l ipkg idie expidx gen rights e kind bytes) := by
  dsimp only [evPeerRequestCheck]
  exact .auto

@[simp] theorem keeps_copyTimeout (l k c : Nat) : KeepsM (copyTimeout l k c) := by
  dsimp only [copyTimeout]
  exact .auto

@[simp] theorem keeps_evPeerResponseTimeout (l k c slot : Nat) : KeepsM (evPeerResponseTimeout l k c slot) := by
  dsimp only [evPeerResponseTimeout]
  exact .auto

@[simp] theorem ldOk_writeIvcmt (x : Ld) (now v : Nat) : LdOk (x.writeIvcmt now v) ↔ LdOk x := by
  unfold Ld.writeIvcmt
  extract_lets first n
  split
  · exact ldOk_congr rfl rfl
  · split
    · exact ldOk_congr rfl rfl
    · exact ldOk_congr rfl rfl

@[simp] theorem keeps_evInterleaveCommit (l : Nat) (v : BitVec 64) : KeepsM (evInterleaveCommit l v) :=
  keeps_updS_frame fun s => memOk_updLd_iff fun x => ldOk_writeIvcmt x s.ticks v.toNat

@[simp] theorem memOk_mapSteps (s : State) (f : Nat → Ctx → Ctx) : MemOk (s.mapSteps f) ↔ MemOk s := by
  dsimp only [State.mapSteps]
  rw [memOk_mk, MemOf, memOk_iff, memOk_iff]
  exact and_congr_right fun _ => forall_congr' (mgetD_map_iff (fun _ => rfl) fun e => ldOk_mapCores_iff rfl rfl (fun _ => rfl) fun _ => rfl)

@[simp] theorem memOk_takeDoorbell (s : State) (l q : Nat) : MemOk (s.takeDoorbell l q) ↔ MemOk s := by simp [State.takeDoorbell]

@[simp] theorem memOk_takeHeld {s : State} (h : MemOk s) : MemOk s.takeHeld := by
  refine memOk_foldl_of _ h fun s e hs => ?_
  have ht : MemOk (e.2.bells.foldl (fun s q => s.takeDoorbell e.1 q.1) s) := memOk_foldl_of _ hs fun _ _ hs => (memOk_takeDoorbell ..).mpr hs
  dsimp only
  split
  · exact ht
  · exact memOk_writeCrecs ht ..

@[simp] theorem keeps_evInterleaveCommitDone (l : Nat) : KeepsM (evInterleaveCommitDone l) := by
  dsimp only [evInterleaveCommitDone]
  exact .auto

@[simp] theorem hostHolds_slots (x : Ld) (a n : Nat) (b : Bool) : (x.hostHolds a n b).hbm.slots = x.hbm.slots := by simp [Ld.hostHolds]

@[simp] theorem hostHolds_cores (x : Ld) (a n : Nat) (b : Bool) : (x.hostHolds a n b).cores = x.cores := by simp [Ld.hostHolds]

@[simp] theorem keeps_evHostCxlMemAccess (l : Nat) (write : Bool) (addr n : Nat) (bytes : List (BitVec 8)) :
    KeepsM (evHostCxlMemAccess l write addr n bytes) := by
  dsimp only [evHostCxlMemAccess]
  exact .auto

end Sys2Proof.Machine

/-! O55: the memories kept by logical time (R138 to R161). -/

namespace Sys2Proof.Machine

open Sys2Proof.Claim

set_option Elab.async false

@[simp] theorem memOk_sendNotice (s : State) (dst : Nat) (n : Notice) : MemOk (s.sendNotice dst n) ↔ MemOk s := by simp [State.sendNotice]

@[simp] theorem memOk_sendReply (s : State) (dst : Nat) (n : Notice) : MemOk (s.sendReply dst n) ↔ MemOk s := by simp [State.sendReply]

@[simp] theorem memOk_announce (s : State) (h p : Nat) (old : Nat → Nat) : MemOk (s.announce h p old) ↔ MemOk s := by simp [State.announce]

@[simp] theorem memOk_spillOne {s : State} (hs : MemOk s) (h : Nat) : MemOk (s.spillOne h) := by
  dsimp only [State.spillOne]
  split
  · exact memOk_pokeLd ((memOk_updParish ..).mpr hs) ..
  · exact hs

@[simp] theorem memOk_spillDown {s : State} (hs : MemOk s) (h n : Nat) : MemOk (s.spillDown h n) := by
  induction n generalizing s with
  | zero => exact hs
  | succ n ih =>
    unfold State.spillDown
    split
    · exact ih (memOk_spillOne hs h)
    · exact hs

@[simp] theorem memOk_makeRoom {s : State} (hs : MemOk s) (h : Nat) : MemOk (s.makeRoom h) := memOk_spillDown hs ..

@[simp] theorem memOk_spillFull (s : State) (h p : Nat) : MemOk (s.spillFull h p) ↔ MemOk s := by simp [State.spillFull]

@[simp] theorem memOk_endFull (s : State) (h : Nat) : MemOk (s.endFull h) ↔ MemOk s := by simp [State.endFull]

/-- Count changes applied at a home; what has no room there goes to the spill area (R156). -/
@[simp] theorem memOk_applyRecs {s : State} (hs : MemOk s) (h : Nat) (recs : List Rec) (old : Nat → Nat → Nat) : MemOk (s.applyRecs h recs old) := by
  unfold State.applyRecs
  extract_lets held t ps u
  have ht : MemOk t := memOk_foldl_of _ hs fun _ _ hs => (memOk_updParish ..).mpr hs
  split
  · exact memOk_machineStop ht ..
  · have hu : MemOk u := memOk_makeRoom (memOk_foldl_of _ ht fun _ _ hs => (memOk_announce ..).mpr hs) h
    refine (memOk_endFull ..).mpr (memOk_foldl_of _ hu fun _ _ hs => (memOk_spillFull ..).mpr hs)

@[simp] theorem ltIgnored_slots (x : Ld) : (x.ltIgnored).hbm.slots = x.hbm.slots := by simp [Ld.ltIgnored]

@[simp] theorem ltIgnored_cores (x : Ld) : (x.ltIgnored).cores = x.cores := by simp [Ld.ltIgnored]

@[simp] theorem ltStart_slots (x : Ld) (cmd p : Nat) : (x.ltStart cmd p).hbm.slots = x.hbm.slots := by simp [Ld.ltStart]

@[simp] theorem ltStart_cores (x : Ld) (cmd p : Nat) : (x.ltStart cmd p).cores = x.cores := by simp [Ld.ltStart]

@[simp] theorem ltDone_slots (x : Ld) : (x.ltDone).hbm.slots = x.hbm.slots := by simp [Ld.ltDone]

@[simp] theorem ltDone_cores (x : Ld) : (x.ltDone).cores = x.cores := by simp [Ld.ltDone]

@[simp] theorem ltRefused_slots (x : Ld) (cause : Nat) : (x.ltRefused cause).hbm.slots = x.hbm.slots := by simp [Ld.ltRefused]

@[simp] theorem ltRefused_cores (x : Ld) (cause : Nat) : (x.ltRefused cause).cores = x.cores := by simp [Ld.ltRefused]

@[simp] theorem keeps_evLtEnable (l p : Nat) : KeepsM (evLtEnable l p) := by
  refine keeps_updS_frame fun s => memOk_updLd_iff fun x => ?_
  split
  · exact ldOk_congr rfl rfl
  · split
    · exact ldOk_congr rfl rfl
    · exact ldOk_congr rfl rfl

@[simp] theorem keeps_evLtEnableComplete (l p : Nat) : KeepsM (evLtEnableComplete l p) := by
  dsimp only [evLtEnableComplete]
  exact .auto

@[simp] theorem memOk_closeBatch (s : State) (l home : Nat) : MemOk (s.closeBatch l home) ↔ MemOk s := by simp [State.closeBatch]

@[simp] theorem memOk_sendRoot (s : State) (l p : Nat) : MemOk (s.sendRoot l p) ↔ MemOk s := by
  dsimp only [State.sendRoot]
  split <;> simp

@[simp] theorem memOk_startRoot (s : State) (l p cmd t : Nat) : MemOk (s.startRoot l p cmd t) ↔ MemOk s := by simp [State.startRoot]

@[simp] theorem keeps_evLtAdvanceRoot (l p : Nat) : KeepsM (evLtAdvanceRoot l p) := by
  dsimp only [evLtAdvanceRoot]
  exact .auto

@[simp] theorem keeps_evLtSeal (l p : Nat) : KeepsM (evLtSeal l p) := by
  dsimp only [evLtSeal]
  exact .auto

@[simp] theorem keeps_evLtDisable (l p : Nat) : KeepsM (evLtDisable l p) := by
  dsimp only [evLtDisable]
  exact .auto

@[simp] theorem keeps_evLtBadCommand (l : Nat) (v : BitVec 64) : KeepsM (evLtBadCommand l v) := by
  dsimp only [evLtBadCommand]
  exact .auto

@[simp] theorem memOk_noticeRefused (s : State) (l p : Nat) : MemOk (s.noticeRefused l p) ↔ MemOk s := by simp [State.noticeRefused]

@[simp] theorem keeps_evRootNoticeApply (l : Nat) : KeepsM (evRootNoticeApply l) := by
  dsimp only [evRootNoticeApply]
  exact .auto

@[simp] theorem keeps_evRootNoticeReply (l : Nat) : KeepsM (evRootNoticeReply l) := by
  dsimp only [evRootNoticeReply]
  exact .auto

@[simp] theorem keeps_evBatchCloseTimeout (l : Nat) : KeepsM (evBatchCloseTimeout l) := by
  dsimp only [evBatchCloseTimeout]
  exact .auto

@[simp] theorem keeps_evBatchApply (l : Nat) : KeepsM (evBatchApply l) := by
  dsimp only [evBatchApply]
  exact .auto

@[simp] theorem memOk_completeOps {s : State} (h : MemOk s) (l p : Nat) : MemOk (s.completeOps l p) :=
  memOk_foldl_of _ h fun _ _ hs => memOk_completeOp hs ..

@[simp] theorem keeps_evCurfewNoticeApply (l : Nat) : KeepsM (evCurfewNoticeApply l) := by
  refine keeps_getS_bind fun s _ => ?_
  split
  · exact keeps_idle
  · next n p _ =>
    refine keeps_bind (keeps_need _) fun _ => keeps_updS fun s hs => ?_
    have ht : MemOk (s.updLd l fun x => { x with belfry.notices := x.belfry.notices.erase n }) :=
      Iff.mpr (memOk_updLd_frame _ _ _ (fun _ => rfl) fun _ => rfl) hs
    dsimp only
    generalize s.updLd l (fun x => { x with belfry.notices := x.belfry.notices.erase n }) = t at ht ⊢
    split
    · exact ht
    · split
      · exact (memOk_noticeRefused ..).mpr ht
      · split
        · exact ht
        · exact memOk_completeRegions (memOk_completeOps ((memOk_updParish ..).mpr ht) ..) ..

@[simp] theorem keeps_evSpillReadback (l : Nat) : KeepsM (evSpillReadback l) := by
  dsimp only [evSpillReadback]
  exact .auto

@[simp] theorem keeps_evLtspszWrite (l : Nat) (v : BitVec 64) : KeepsM (evLtspszWrite l v) := by
  dsimp only [evLtspszWrite]
  exact .auto

end Sys2Proof.Machine

/-! O55: the memories kept by the command processor (R185 to R198, R423 to R426). -/

namespace Sys2Proof.Machine

open Sys2Proof.Claim

set_option Elab.async false

@[simp] theorem keeps_evDoorbellWrite (l q : Nat) (tail : BitVec 32) : KeepsM (evDoorbellWrite l q tail) := by
  dsimp only [evDoorbellWrite]
  exact .auto

@[simp] theorem memOk_advanceHead {s : State} (h : MemOk s) (l q : Nat) : MemOk (s.advanceHead l q) := by simp [State.advanceHead, h]

/-- A launch record is done as its kind says, and HEAD moves past it (R187). -/
theorem keeps_withRecord {l q : Nat} {ok : Nat → Bool} {f : Nat → State → State} (hf : ∀ r s, MemOk s → MemOk (f r s)) :
    KeepsM (withRecord l q ok f) := by
  refine keeps_getS_bind fun s _ => ?_
  split
  · exact keeps_idle
  · next r _ => exact keeps_bind (keeps_need _) fun _ => keeps_updS fun s hs => memOk_advanceHead (hf r _ (by simpa using hs)) ..

@[simp] theorem memOk_refuseRecord {s : State} (h : MemOk s) (l r cause : Nat) : MemOk (s.refuseRecord l r cause) := by simp [State.refuseRecord, h]

@[simp] theorem memOk_recordDone {s : State} (h : MemOk s) (l r : Nat) : MemOk (s.recordDone l r) := by simp [State.recordDone, h]

@[simp] theorem keeps_evLaunchRefused (l q : Nat) : KeepsM (evLaunchRefused l q) := keeps_withRecord fun _ _ hs => memOk_refuseRecord hs ..

@[simp] theorem keeps_evOpenRegion (l q : Nat) : KeepsM (evOpenRegion l q) := by
  refine keeps_withRecord fun r s hs => ?_
  split
  · exact memOk_refuseRecord hs ..
  · dsimp only
    split
    · exact memOk_refuseRecord hs ..
    · simpa using hs

@[simp] theorem keeps_evCloseRegion (l q : Nat) : KeepsM (evCloseRegion l q) := by
  refine keeps_withRecord fun r s hs => ?_
  split
  · split
    · exact memOk_refuseRecord hs ..
    · exact memOk_completeRegions (memOk_recordDone ((memOk_updRegion ..).mpr hs) ..) ..
  · exact memOk_refuseRecord hs ..

@[simp] theorem keeps_evKillRegion (l q : Nat) : KeepsM (evKillRegion l q) := by
  refine keeps_withRecord fun r s hs => ?_
  split
  · exact memOk_recordDone (memOk_killRegionAll hs ..) ..
  · exact memOk_refuseRecord hs ..

@[simp] theorem reinherit_slots (x : Ld) : (x.reinherit).hbm.slots = x.hbm.slots := by simp [Ld.reinherit]

@[simp] theorem reinherit_cores (x : Ld) : (x.reinherit).cores = x.cores := by simp [Ld.reinherit]

@[simp] theorem memOk_refreshRcb {s : State} (h : MemOk s) (l r : Nat) (g : Region) (rcb : Nat) :
    MemOk (s.refreshRcb l r g rcb) := by simp [State.refreshRcb, h]

@[simp] theorem keeps_evRefresh (l q : Nat) : KeepsM (evRefresh l q) := by
  refine keeps_withRecord fun r s hs => ?_
  dsimp only
  split
  · split
    · exact memOk_refuseRecord hs ..
    · exact memOk_refreshRcb hs ..
  · split
    · exact memOk_refuseRecord hs ..
    · split
      · exact memOk_refuseRecord hs ..
      · exact memOk_recordDone ((memOk_updOp ..).mpr hs) ..
  · exact memOk_refuseRecord hs ..

@[simp] theorem addAreas_spad (y : Core) (opid : Nat) (o : Op) : (y.addAreas opid o).spad = y.spad := by simp [Core.addAreas]

@[simp] theorem memOk_place {s : State} (h : MemOk s) (l r opid : Nat) (o : Op) (g : Region) : MemOk (s.place l r opid o g) := by
  unfold State.place
  extract_lets t some_ o' u v
  have hu : MemOk u := Iff.mpr (memOk_updLd_mapCores _ _ _ _ (fun _ => rfl) (fun _ => rfl) (fun _ _ => rfl) fun _ _ => rfl) h
  split
  · have hv : MemOk v := memOk_foldl_of _ hu fun s k hs => by
      split
      · exact hs
      · simpa using hs
    simpa using hv
  · exact memOk_completeOp hu ..

@[simp] theorem keeps_evPlaceOperator (l q : Nat) : KeepsM (evPlaceOperator l q) := by
  refine keeps_getS_bind fun _ _ => keeps_withRecord fun r s hs => ?_
  split
  · exact memOk_refuseRecord hs ..
  · dsimp only
    split
    · exact memOk_place hs ..
    · exact memOk_refuseRecord hs ..
    · exact memOk_refuseRecord hs ..

@[simp] theorem memOk_resumeSaved (s : State) (l n : Nat) (v : Saved) (cancel : Bool) : MemOk (s.resumeSaved l n v cancel) ↔ MemOk s := by
  dsimp only [State.resumeSaved]
  split
  · refine memOk_foldl _ _ _ fun s q => ?_
    rw [memOk_updLd_frame]
    · (repeat' split) <;> simp
    · intro x; rfl
    · intro x; rfl
  · simp

@[simp] theorem memOk_resumeDone {s : State} (h : MemOk s) (l sid : Nat) (p : Place) (r : Nat) : MemOk (s.resumeDone l sid p r) := by
  unfold State.resumeDone
  split <;> simp [h]

theorem memOk_resumeStep {s t : State} {l sid r : Nat} {skip : Bool} (h : MemOk s) (e : s.resumeStep l sid r skip = some t) : MemOk t := by
  unfold State.resumeStep at e
  split at e
  · cases e
  · split at e
    · cases e
    · extract_lets u v at e
      have hv : MemOk v := by
        unfold v u
        split
        · split <;> simpa using h
        · simpa using h
      cases e
      exact memOk_resumeDone hv ..

theorem memOk_rerunStep {s t : State} {l f r : Nat} (h : MemOk s) (e : s.rerunStep l f r = some t) : MemOk t := by
  unfold State.rerunStep at e
  dsimp only at e
  split at e
  · cases e
    exact (memOk_updOp ..).mpr h
  · cases e

@[simp] theorem keeps_evResume (l q : Nat) : KeepsM (evResume l q) := by
  refine keeps_withRecord fun r s hs => ?_
  have hr (c : Nat) : MemOk (s.refuseRecord l r c) := memOk_refuseRecord hs ..
  split
  · exact hr _
  · exact hr _
  · split
    · exact hr _
    · extract_lets v ract t
      have ht {u : State} (e : t = some u) : MemOk u := by
        unfold t at e
        split at e
        · cases e
        · split at e
          · exact memOk_rerunStep hs e
          · split at e
            · cases e
            · exact memOk_resumeStep hs e
      clear_value t
      split
      · exact hr _
      · simpa using ht rfl

@[simp] theorem keeps_evFaultRecordWrite (l : Nat) : KeepsM (evFaultRecordWrite l) := by
  dsimp only [evFaultRecordWrite]
  exact .auto

@[simp] theorem keeps_evFqheadWrite (l : Nat) (v : BitVec 32) : KeepsM (evFqheadWrite l v) := by
  dsimp only [evFqheadWrite]
  exact .auto

@[simp] theorem keeps_evFqbaseWrite (l : Nat) (v : BitVec 64) : KeepsM (evFqbaseWrite l v) := by
  dsimp only [evFqbaseWrite]
  exact .auto

end Sys2Proof.Machine

/-! O55: the memories kept by resets, the staged start, links and ports, power and register writes (R438 to R460). -/

namespace Sys2Proof.Machine

open Sys2Proof.Claim

set_option Elab.async false

@[simp] theorem keeps_evMachineCheck (l unit : Nat) : KeepsM (evMachineCheck l unit) := by
  dsimp only [evMachineCheck]
  exact .auto

@[simp] theorem flr_spad (y : Core) : (y.flr).spad = y.spad := by simp [Core.flr]

/-- A function-level reset leaves device memory and scratchpads (R444). -/
@[simp] theorem memOk_flr {s : State} (h : MemOk s) (l : Nat) : MemOk (s.flr l) := by
  unfold State.flr
  extract_lets t u
  have ht : MemOk t := memOk_machineStop h ..
  have hu : MemOk u := memOk_foldl_of _ ht fun _ _ hs => (memOk_refuseToken ..).mpr hs
  exact Iff.mpr (memOk_updLd_iff fun x => ldOk_mapCores_iff rfl rfl (fun _ => rfl) fun _ => rfl) hu

@[simp] theorem keeps_evFunctionLevelReset (l : Nat) : KeepsM (evFunctionLevelReset l) := by
  dsimp only [evFunctionLevelReset]
  exact .auto

@[simp] theorem memOk_farReset (s : State) (p n : Nat) : MemOk (s.farReset p n) ↔ MemOk s := by
  dsimp only [State.farReset]
  (repeat' split) <;> simp

@[simp] theorem forget_slots (x : Ld) (p : Nat) : (x.forget p).hbm.slots = x.hbm.slots := by simp [Ld.forget]

@[simp] theorem forget_cores (x : Ld) (p : Nat) : (x.forget p).cores = x.cores := by simp [Ld.forget]

@[simp] theorem keeps_evPowerOnReset (p : Nat) : KeepsM (evPowerOnReset p) := by
  refine keeps_updS fun s hs => ?_
  extract_lets t u v
  have ht : MemOk t := memOk_foldl_of _ hs fun _ _ hs => (memOk_farReset ..).mpr hs
  have hu : MemOk u := memOk_mapLds (fun _ => rfl) (fun e he => ldOk_of_congr he rfl rfl) ht
  have hv : MemOk v := memOk_foldl_of _ hu fun _ _ hs => memOk_putLd _ hs ldOk_reset
  exact (memOk_updPkg ..).mpr hv

theorem ldOk_allCores (x : Ld) (f : Nat → Core → Core) (hf : ∀ k y, (f k y).spad = y.spad) : LdOk (x.allCores f) ↔ LdOk x :=
  ldOk_foldl _ _ _ fun _ _ => ldOk_updCore_frame _ _ _ (hf _)

/-- Every core of a die changed, none in its scratchpad. -/
theorem memOk_updLd_allCores (s : State) (l : Nat) (f : Ld → Ld) (g : Nat → Core → Core) (hg : ∀ k y, (g k y).spad = y.spad)
    (hf : ∀ x, LdOk (f x) ↔ LdOk (x.allCores g)) : MemOk (s.updLd l f) ↔ MemOk s :=
  memOk_updLd_iff fun x => (hf x).trans (ldOk_allCores x _ hg)

@[simp] theorem memOk_enterStage (s : State) (l : Nat) : MemOk (s.enterStage l) ↔ MemOk s := by
  unfold State.enterStage
  extract_lets x t
  split
  · refine memOk_updLd_allCores _ _ _ (fun _ y => { y with calReq := true }) (fun _ _ => rfl) fun x => ?_
    generalize x.allCores (fun _ y => { y with calReq := true }) = z
    exact ldOk_congr rfl rfl
  · refine memOk_updLd_allCores _ _ _ (fun k y => { y with calctl := 0x000400020009861F#64, calAt := s.ns + 2000000 * k + 1 }) (fun _ _ => rfl) fun x => ?_
    generalize x.allCores (fun k y => { y with calctl := 0x000400020009861F#64, calAt := s.ns + 2000000 * k + 1 }) = z
    exact ldOk_congr rfl rfl
  · have ht : MemOk t ↔ MemOk s := memOk_updLd_frame _ _ _ (fun _ => rfl) fun _ => rfl
    rw [memOk_foldl]
    · exact ht
    · intro s q
      split <;> simp
  · rfl

@[simp] theorem keeps_evStartStageAdvance (l reason : Nat) : KeepsM (evStartStageAdvance l reason) := by
  dsimp only [evStartStageAdvance]
  exact .auto

@[simp] theorem memOk_imageRefused (s : State) (p reason : Nat) : MemOk (s.imageRefused p reason) ↔ MemOk s := by
  unfold State.imageRefused
  rw [memOk_foldl, memOk_updPkg]
  intro s l
  exact memOk_updLd_frame _ _ _ (fun x => by split <;> rfl) fun x => by split <;> rfl

@[simp] theorem keeps_evFirmwareVerify (p : Nat) (flash : Option Signed) (manifests : List Manifest) (mailbox : Bool) :
    KeepsM (evFirmwareVerify p flash manifests mailbox) := by
  dsimp only [evFirmwareVerify]
  exact .auto

@[simp] theorem keeps_evDoeImageWrite (p : Nat) (image : Signed) : KeepsM (evDoeImageWrite p image) := by
  dsimp only [evDoeImageWrite]
  exact .auto

@[simp] theorem ldOk_setMsix (x : Ld) (v : Nat) (e : MsixEntry) : LdOk (x.setMsix v e) ↔ LdOk x := by
  unfold Ld.setMsix
  extract_lets y
  split
  · exact ldOk_congr (by simp [y]) (by simp [y])
  · exact ldOk_congr rfl rfl

@[simp] theorem ldOk_writeMsix (x : Ld) (off v : Nat) : LdOk (x.writeMsix off v) ↔ LdOk x := by
  unfold Ld.writeMsix
  dsimp only
  split
  · rfl
  · exact ldOk_setMsix ..

@[simp] theorem keeps_evMsixUnmask (l v : Nat) : KeepsM (evMsixUnmask l v) := keeps_updS_frame fun _ => memOk_updLd_iff fun _ => ldOk_setMsix ..

@[simp] theorem keeps_evSpdmRequest (l request : Nat) : KeepsM (evSpdmRequest l request) := by
  dsimp only [evSpdmRequest]
  exact .auto

@[simp] theorem keeps_evVirtualHierarchyBinding (l : Nat) (host : Option Nat) : KeepsM (evVirtualHierarchyBinding l host) := by
  dsimp only [evVirtualHierarchyBinding]
  exact .auto

@[simp] theorem keeps_evMeshFlitReceive (p link seq : Nat) (good : Bool) : KeepsM (evMeshFlitReceive p link seq good) := by
  dsimp only [evMeshFlitReceive]
  exact .auto

@[simp] theorem memOk_linkLost {s : State} (h : MemOk s) (p link : Nat) : MemOk (s.linkLost p link) := by
  refine memOk_foldl_of _ h fun s pos hs => ?_
  split
  · refine memOk_foldl_of _ hs fun s l hs => ?_
    split
    · exact hs
    · exact memOk_machineStop hs ..
  · exact hs

@[simp] theorem keeps_evMeshLaneFailure (p link lane : Nat) : KeepsM (evMeshLaneFailure p link lane) := by
  dsimp only [evMeshLaneFailure]
  exact .auto

@[simp] theorem keeps_evMeshLaneSpareReplay (p link : Nat) : KeepsM (evMeshLaneSpareReplay p link) := by
  dsimp only [evMeshLaneSpareReplay]
  exact .auto

@[simp] theorem keeps_evMeshDue (p link : Nat) : KeepsM (evMeshDue p link) := by
  dsimp only [evMeshDue]
  exact .auto

@[simp] theorem keeps_evBeyvexFlitReceive (p port seq ack : Nat) (good : Bool) : KeepsM (evBeyvexFlitReceive p port seq ack good) := by
  dsimp only [evBeyvexFlitReceive]
  exact .auto

@[simp] theorem keeps_evBeyvexNakReceive (p port seq : Nat) : KeepsM (evBeyvexNakReceive p port seq) := by
  dsimp only [evBeyvexNakReceive]
  exact .auto

@[simp] theorem keeps_evPortDue (p port : Nat) : KeepsM (evPortDue p port) := by
  dsimp only [evPortDue]
  exact .auto

@[simp] theorem memOk_relink (s : State) (p port : Nat) (f : Port → Port) : MemOk (s.relink p port f) ↔ MemOk s := by simp [State.relink]

@[simp] theorem keeps_evBeyvexLaneFailure (p port lane : Nat) : KeepsM (evBeyvexLaneFailure p port lane) := by
  dsimp only [evBeyvexLaneFailure]
  exact .auto

@[simp] theorem memOk_releaseEnds (s : State) (p port : Nat) : MemOk (s.releaseEnds p port) ↔ MemOk s := by
  unfold State.releaseEnds
  split <;> simp

@[simp] theorem keeps_evBeyvexRetrainDone (p port : Nat) : KeepsM (evBeyvexRetrainDone p port) := by
  dsimp only [evBeyvexRetrainDone]
  exact .auto

@[simp] theorem memOk_retrain (s : State) (p port : Nat) : MemOk (s.retrain p port) ↔ MemOk s := by simp [State.retrain]

@[simp] theorem keeps_evBxctlRetrain (l port : Nat) : KeepsM (evBxctlRetrain l port) := by
  dsimp only [evBxctlRetrain]
  exact .auto

@[simp] theorem keeps_evLinkPartnerRetrain (p port : Nat) : KeepsM (evLinkPartnerRetrain p port) := by
  dsimp only [evLinkPartnerRetrain]
  exact .auto

@[simp] theorem keeps_evPeerRegionCommit (l : Nat) (v : BitVec 64) : KeepsM (evPeerRegionCommit l v) := by
  dsimp only [evPeerRegionCommit]
  exact .auto

@[simp] theorem keeps_evPeerRegionCommitDone (p : Nat) : KeepsM (evPeerRegionCommitDone p) := by
  dsimp only [evPeerRegionCommitDone]
  exact .auto

@[simp] theorem keeps_evStaggerMessage (p port base step modulus : Nat) : KeepsM (evStaggerMessage p port base step modulus) := by
  dsimp only [evStaggerMessage]
  exact .auto

@[simp] theorem memOk_stopFillers (s : State) (p : Nat) : MemOk (s.stopFillers p) ↔ MemOk s := by
  refine memOk_foldl _ _ _ fun s l => ?_
  split
  · exact memOk_updLd_mapCores _ _ _ (fun _ e => (e.1, e.2.stopFiller)) (fun _ => rfl) (fun _ => rfl) (fun _ _ => rfl) fun _ _ => stopFiller_spad ..
  · rfl

@[simp] theorem keeps_evPowerEstimateTick (p watts : Nat) : KeepsM (evPowerEstimateTick p watts) := by
  dsimp only [evPowerEstimateTick]
  exact .auto

@[simp] theorem keeps_evQuietDetection (p : Nat) : KeepsM (evQuietDetection p) := by
  dsimp only [evQuietDetection]
  exact .auto

@[simp] theorem keeps_evFloorHoldExpiry (p : Nat) : KeepsM (evFloorHoldExpiry p) := by
  dsimp only [evFloorHoldExpiry]
  exact .auto

@[simp] theorem keeps_evStagoffExpiry (p : Nat) : KeepsM (evStagoffExpiry p) := by
  dsimp only [evStagoffExpiry]
  exact .auto

@[simp] theorem keeps_evFillerRaceStart (l k : Nat) : KeepsM (evFillerRaceStart l k) :=
  keeps_getS_bind fun _ _ => keeps_bind (keeps_need _) fun _ => keeps_updS_frame fun _ =>
    memOk_updCore_frame _ _ _ _ fun _ => by split <;> rfl

@[simp] theorem keeps_evPowerRegisterWrite (l off : Nat) (v : BitVec 64) : KeepsM (evPowerRegisterWrite l off v) := by
  dsimp only [evPowerRegisterWrite]
  exact .auto

@[simp] theorem keeps_ltWrite (l : Nat) (v : BitVec 64) : KeepsM (ltWrite l v) := by
  dsimp only [ltWrite]
  exact .auto

@[simp] theorem memOk_updLd_writeMsix (s : State) (l off v : Nat) : MemOk (s.updLd l fun x => x.writeMsix off v) ↔ MemOk s :=
  memOk_updLd_iff fun _ => ldOk_writeMsix ..

@[simp] theorem keeps_evRegisterWrite (l block off : Nat) (v : BitVec 64) : KeepsM (evRegisterWrite l block off v) := by
  dsimp only [evRegisterWrite]
  exact .auto

end Sys2Proof.Machine

/-! O55, last part: a slot word, an event, and one step of the part. -/

namespace Sys2Proof.Machine

open Sys2Proof.Claim

set_option Elab.async false

theorem memOk_runSlot {m : M Unit} {s t : State} (hm : KeepsM m) (h : MemOk s) (e : runSlot m s = .next t) : MemOk t := by
  unfold runSlot at e
  split at e
  · next hr => cases e; exact hm.ok h hr
  · cases e; exact (memOk_takeMine ..).mpr h
  · next hr => cases e; exact (memOk_updMe ..).mpr (hm.ask h hr h)
  · cases e; exact (memOk_updMe ..).mpr h
  · cases e; exact h

theorem memOk_runEv {ok : Bool} {m : M Unit} {s t : State} (hm : KeepsM m) (h : MemOk s) (e : runEv ok m s = .next t) : MemOk t := by
  unfold runEv at e
  split at e
  · split at e
    · next hr => cases e; exact hm.ok h hr
    · cases e; exact h
  · cases e

/-- Each arm of `exec` runs a slot word or an event, and the operation of each of them keeps the memories. -/
theorem memOk_exec {i : Instr} {s t : State} (h : MemOk s) (e : exec i s = .next t) : MemOk t := by
  cases i
  all_goals dsimp only [exec] at e
  all_goals first
    | exact memOk_runSlot (by simp) h e
    | exact memOk_runEv (by simp) h e

/-- Operations each of which keeps the memories. -/
def AllKeep (ms : List (M Unit)) : Prop := ∀ m ∈ ms, KeepsM m

@[simp] theorem allKeep_nil : AllKeep [] := fun _ hm => nomatch hm

@[simp] theorem allKeep_cons (m : M Unit) (ms : List (M Unit)) : AllKeep (m :: ms) ↔ KeepsM m ∧ AllKeep ms := List.forall_mem_cons

@[simp] theorem allKeep_append (ms ns : List (M Unit)) : AllKeep (ms ++ ns) ↔ AllKeep ms ∧ AllKeep ns := List.forall_mem_append

@[simp] theorem allKeep_map {α : Type} {f : α → M Unit} (h : ∀ a, KeepsM (f a)) (l : List α) : AllKeep (l.map f) :=
  List.forall_mem_map.mpr fun a _ => h a

@[simp] theorem allKeep_flatMap {α : Type} {f : α → List (M Unit)} (h : ∀ a, AllKeep (f a)) (l : List α) : AllKeep (l.flatMap f) := fun m hm => by
  obtain ⟨a, _, ha⟩ := List.mem_flatMap.mp hm
  exact h a m ha

@[simp] theorem allKeep_pkgEvents (p : Nat) : AllKeep (pkgEvents p) := by simp [pkgEvents]

@[simp] theorem allKeep_dieEvents (x : Ld) (l : Nat) : AllKeep (dieEvents x l) := by simp [dieEvents]

@[simp] theorem allKeep_coreEvents (l k : Nat) : AllKeep (coreEvents l k) := by simp [coreEvents]

@[simp] theorem allKeep_ctxEvents (l k c : Nat) : AllKeep (ctxEvents l k c) := by simp [ctxEvents]

theorem allKeep_ownEvents (s : State) : AllKeep s.ownEvents := by
  have hc (l k : Nat) (e : Nat × Ctx) : AllKeep (if e.2.live then ctxEvents l k e.1 else []) := by split <;> simp
  have hk (l : Nat) (e : Nat × Core) : AllKeep (coreEvents l e.1 ++ e.2.ctxs.flatMap fun c => if c.2.live then ctxEvents l e.1 c.1 else []) := by
    simp [hc]
  have hd (e : Nat × Ld) : AllKeep (dieEvents e.2 e.1 ++ (List.range 4).map (evStepRelease e.1) ++
      e.2.cores.flatMap fun k => coreEvents e.1 k.1 ++ k.2.ctxs.flatMap fun c => if c.2.live then ctxEvents e.1 k.1 c.1 else []) := by
    simp [hk]
  exact (allKeep_append ..).mpr ⟨allKeep_flatMap hd _, allKeep_flatMap (fun _ => allKeep_pkgEvents _) _⟩

theorem memOk_firstEvent {ms : List (M Unit)} {s t : State} (hm : AllKeep ms) (h : MemOk s) (e : firstEvent s ms = some t) : MemOk t := by
  induction ms with
  | nil => cases e
  | cons m ms ih =>
    obtain ⟨hm, hms⟩ := (allKeep_cons m ms).mp hm
    unfold firstEvent at e
    split at e
    · next he =>
      split at e
      · cases e; exact hm.ok h he
      · exact ih hms e
    · exact ih hms e

theorem memOk_selfStep {s : State} (h : MemOk s) : MemOk s.selfStep := by
  unfold State.selfStep
  split
  · next he => exact memOk_firstEvent (allKeep_ownEvents s) h he
  · split
    · rw [memOk_mk, memOf_lds _ _ rfl]
      exact memOk_clock h ..
    · exact h

/-- Settles O55: what the outside world has chosen by `memOk_exec`, what the part does by itself by `memOk_selfStep`. -/
theorem stepKeepsMemory : Obligations.StepKeepsMemory := by
  intro s t h e
  unfold step at e
  split at e
  · next i r _ => exact memOk_exec (s := { s with agenda := r }) h e
  · cases e; exact memOk_selfStep h

end Sys2Proof.Machine

/-! Scalar results, and the X words take, mts, bx and jx (R69, R255, R265, R294, R295). -/

namespace Sys2Proof.Machine

open Sys2Proof.Claim

/-- A scalar source that holds a value is read. -/
theorem readScalar_is {s : State} {c : BitVec 5} {v : Word} (h : ScalarIs s c v) (slot : Nat) : readScalar slot c s = .ok (v, s) := by
  obtain ⟨valid, clean, rfl⟩ := h
  exact readScalar_ok slot c s _ rfl valid clean

/-- A vector source that holds a value is read. -/
theorem readVector_is {s : State} {c : BitVec 4} {v : VReg} (h : VectorIs s c v) (slot : Nat) : readVector slot c s = .ok (v, s) := by
  obtain ⟨source, valid, clean⟩ := h
  exact readVector_ok slot c s v source valid clean

/-- A scalar result goes where its destination code says (R260); the queue has room for it. -/
theorem sendScalar_ok {s : State} {d : BitVec 5} (room : RoomX s d) (lat : Nat) (v : Word) (fl : Nat) :
    sendScalar d lat v fl s = .ok ((), sentX s d lat v fl) := by
  unfold sendScalar scalarDestOf sentX
  by_cases age : d = 0#5
  · rw [if_pos age, if_pos age]
    rfl
  · rw [if_neg age, if_neg age]
    by_cases queue : d = 1#5
    · have reserved := reserveScalar_ok 3 s (room.2 queue)
      rw [if_pos queue, if_pos queue, bind_ok (bind_ok reserved _), sendResult_run, updMe_updMe]
      rfl
    · rw [if_neg queue, if_neg queue]
      rfl

theorem check_trap {b : Bool} (h : b = false) (slot cause addr : Nat) (s : State) :
    check b slot cause addr s = .error (.trap { cause := cause, access := decide (slot ≤ 2), slot := slot, addr := addr }) := by rw [h]; rfl

/-- An operation that stops ends the block that it stands in. -/
theorem bind_error {α β : Type} {m : M α} {s : State} {e : Stop} (h : m s = .error e) (f : α → M β) : (m >>= f) s = .error e := by rw [M_bind, h]

/-- The slot of an arrived result that its arrival code has made visible is taken and freed (R69). -/
theorem takeSlot_ok {s : State} {n : Nat} {vec : Bool} (slot : Nat) (arrived : (s.me.regs.ls.getD n {}).st = .arrived)
    (kind : (s.me.regs.ls.getD n {}).vec = vec) (visible : (s.me.regs.ls.getD n {}).visible ≤ s.me.st.cc) (clean : (s.me.regs.ls.getD n {}).mark = 0) :
    takeSlot slot n vec s = .ok (s.me.regs.ls.getD n {}, s.updMe fun x => { x with regs.ls := x.regs.ls.set n {} }) := by
  rw [takeSlot, bind_ok (getMe_run s)]
  simp only [arrived, kind, clean, Nat.not_lt.mpr visible, reduceCtorEq, ne_eq, not_true_eq_false, if_false]
  rfl

theorem roomX_updRegs {s : State} {d : BitVec 5} (room : RoomX s d) (f : Regs → Regs) : RoomX (s.updMe fun x => { x with regs := f x.regs }) d := by
  rwa [RoomX, me_updMe]

/-- STAMP moved by a step that may move it: the records of its output yards follow it (R203). -/
theorem moveStamp_ok {s : State} {v : Word} (plain : s.me.priv = false) (mode : (myOp s).pmode = 2) (isOpen : isClosed v.toNat = false)
    (later : s.me.sys.stamp.toNat ≤ v.toNat) :
    moveStamp v s = .ok ((), s.countRecs s.cur.l (myOp s).parish
      (((myOp s).outYards.map fun y => (y, v.toNat, (1 : Int))) ++ (myOp s).outYards.map fun y => (y, s.me.sys.stamp.toNat, (-1 : Int)))) := by
  rw [myOp] at mode
  rw [moveStamp, bind_ok (getS_run s), bind_ok (check_ok (by simp [plain, mode]) ..), bind_ok (check_ok (by simp [isOpen]) ..),
    bind_ok (check_ok (by simpa using later) ..)]
  rfl

/-- The system registers that only a privileged context may write (R255). -/
theorem mts_allowed {p : Bool} {n : BitVec 14} (h : p = true ∨ ¬(n = 5#14 ∨ n = 6#14 ∨ n = 10#14 ∨ n = 11#14)) :
    (p || !(n == 5#14 || n == 6#14 || n == 10#14 || n == 11#14)) = true := by
  simpa [or_assoc, and_assoc] using h

theorem opTake_ok {s : State} {d l : BitVec 5} (arrived : (s.me.regs.ls.getD l.toNat {}).st = .arrived)
    (kind : (s.me.regs.ls.getD l.toNat {}).vec = false) (visible : (s.me.regs.ls.getD l.toNat {}).visible ≤ s.me.st.cc)
    (clean : (s.me.regs.ls.getD l.toNat {}).mark = 0) (room : RoomX s d) :
    opTake d l s = .ok ((), sentX (s.updMe fun x => { x with regs.ls := x.regs.ls.set l.toNat {} }) d 1
      (BitVec.ofNat 64 (s.me.regs.ls.getD l.toNat {}).data.toNat)) := by
  rw [opTake, bind_ok (takeSlot_ok 3 arrived kind visible clean)]
  exact sendScalar_ok (roomX_updRegs room fun r => { r with ls := r.ls.set l.toNat {} }) ..

theorem opMts_ok {s : State} {a : BitVec 5} {n : BitVec 14} {x : Word} (hx : ScalarIs s a x) (hn : n ≠ 2#14)
    (allowed : s.me.priv = true ∨ ¬(n = 5#14 ∨ n = 6#14 ∨ n = 10#14 ∨ n = 11#14)) :
    opMts a n s = .ok ((), s.updMe (inFlight 0 1 (.sysreg n.toNat) (.scalar x) 0)) := by
  rw [opMts, bind_ok (readScalar_is hx 3), bind_ok (getMe_run s), bind_ok (check_ok (mts_allowed allowed) ..), if_neg hn]
  rfl

/-- A system register that the context may not write is privileged (R255). -/
theorem opMts_trap {s : State} {a : BitVec 5} {n : BitVec 14} {x : Word} (hx : ScalarIs s a x) (plain : s.me.priv = false)
    (hn : n = 5#14 ∨ n = 6#14 ∨ n = 10#14 ∨ n = 11#14) : opMts a n s = .error (.trap { cause := 0x01E, slot := 3 }) := by
  rw [opMts, bind_ok (readScalar_is hx 3), bind_ok (getMe_run s)]
  exact bind_error (check_trap (by rcases hn with rfl | rfl | rfl | rfl <;> rw [plain] <;> rfl) ..) _

theorem opMts_stamp_ok {s : State} {a : BitVec 5} {x : Word} (hx : ScalarIs s a x) (plain : s.me.priv = false) (mode : (myOp s).pmode = 2)
    (isOpen : isClosed x.toNat = false) (later : s.me.sys.stamp.toNat ≤ x.toNat) :
    opMts a 2#14 s = .ok ((), (s.countRecs s.cur.l (myOp s).parish
      (((myOp s).outYards.map fun y => (y, x.toNat, (1 : Int))) ++ (myOp s).outYards.map fun y => (y, s.me.sys.stamp.toNat, (-1 : Int)))).updMe
        (inFlight 0 1 (.sysreg 2) (.scalar x) 0)) := by
  rw [opMts, bind_ok (readScalar_is hx 3), bind_ok (getMe_run s), bind_ok (check_ok (mts_allowed (.inr (by decide))) ..), if_pos rfl]
  exact bind_ok (moveStamp_ok plain mode isOpen later) _

/-- A branch that is not taken resolves to what follows (R265). -/
theorem opBx_falls {s : State} {c : BitVec 3} {a b : BitVec 5} {o : BitVec 11} {x y : Word} (hx : ScalarIs s a x) (hy : ScalarIs s b y)
    (no : condHolds c x y = false) : opBx c a b o s = .ok ((), s.updMe (·.resolve none)) := by
  rw [opBx, bind_ok (readScalar_is hx 3), bind_ok (readScalar_is hy 3), no]
  rfl

/-- A branch that is taken resolves to its target, once the code up to there has been read (R265). -/
theorem opBx_taken {s : State} {c : BitVec 3} {a b : BitVec 5} {o : BitVec 11} {x y : Word} {va : Nat} (hx : ScalarIs s a x) (hy : ScalarIs s b y)
    (yes : condHolds c x y = true) (target : s.target s.cur.l s.cur.k s.cur.c s.me.exBundle.1 o.toInt = .ok va) :
    opBx c a b o s = .ok ((), (scanned s s.me.exBundle.1 va).updMe (·.resolve (some va))) := by
  rw [opBx, bind_ok (readScalar_is hx 3), bind_ok (readScalar_is hy 3), yes, if_pos rfl, bind_ok (getS_run s), target]
  rfl

/-- A jump to a bundle's address resolves to it (R295). -/
theorem opJx_ok {s : State} {a : BitVec 5} {x : Word} {w : BitVec 32} (hx : ScalarIs s a x) (aligned : x.toNat % 4 = 0)
    (code : s.codeWord s.cur.l s.cur.k s.cur.c x.toNat = .ok w) (mark : isMark w = true) :
    opJx a s = .ok ((), (scanned s x.toNat x.toNat).updMe (·.resolve (some x.toNat))) := by
  rw [opJx, bind_ok (readScalar_is hx 3), bind_ok (getS_run s), bind_ok (check_ok (by rw [aligned]; rfl) ..), code, scanned, Nat.min_self, Nat.max_self]
  simp only [mark]
  rfl

/-- Settles O6, word by word. -/
theorem takeMtsBranch : Obligations.TakeMtsBranch := by
  refine ⟨fun s d l arrived kind visible clean room => runSlot_ok _ s _ (opTake_ok arrived kind visible clean room),
    fun s a n x hx _ hn => ⟨fun allowed => runSlot_ok _ s _ (opMts_ok hx hn allowed), fun plain h => runSlot_trap _ s _ (opMts_trap hx plain h)⟩,
    fun s a x o hx ho plain mode isOpen later => ?_,
    fun s c a b o x y hx hy _ => ⟨fun no => runSlot_ok _ s _ (opBx_falls hx hy no), fun va yes target => runSlot_ok _ s _ (opBx_taken hx hy yes target)⟩,
    fun s a x w hx aligned code mark => runSlot_ok _ s _ (opJx_ok hx aligned code mark)⟩
  subst ho
  exact runSlot_ok _ s _ (opMts_stamp_ok hx plain mode isOpen later)

end Sys2Proof.Machine

/-! Vector results, and the words vtake and vpush (R69, R249, R323, R324). -/

namespace Sys2Proof.Machine

open Sys2Proof.Claim

/-- A vector result goes where its destination code says (R260, R304). -/
theorem sendVector_ok (s : State) (d : BitVec 4) (lat : Nat) (o : VOut) : sendVector d lat o.data o.side o.fl s = .ok ((), sentV s d lat o) := by
  unfold sendVector sentV
  by_cases flags : d = 1#4
  · rw [if_pos flags, if_pos flags]
    rfl
  · rw [if_neg flags, if_neg flags]
    rfl

/-- An entry of a vector data queue with room is reserved (R249). -/
theorem reserveVector_ok (slot : Nat) (s : State) (room : s.me.st.vq.length < 8) :
    reserveVector slot s = .ok (s.me.st.nextId,
      s.updMe fun x => { x with st.vq := x.st.vq ++ [{ id := x.st.nextId }], st.nextId := x.st.nextId + 1 }) := by
  rw [reserveVector, bind_ok (getMe_run s), if_neg (Nat.not_le.mpr room)]
  rfl

/-- A full vector data queue takes no entry (R249). -/
theorem reserveVector_full (slot : Nat) (s : State) (full : 8 ≤ s.me.st.vq.length) :
    reserveVector slot s = .error (.trap { cause := 0x214, access := decide (slot ≤ 2), slot := slot }) := by
  rw [reserveVector, bind_ok (getMe_run s), if_pos full]
  rfl

theorem opVtake_ok {s : State} {d l : BitVec 4} {h : BitVec 1} (arrived : (s.me.regs.ls.getD (16 * h.toNat + l.toNat) {}).st = .arrived)
    (kind : (s.me.regs.ls.getD (16 * h.toNat + l.toNat) {}).vec = true)
    (visible : (s.me.regs.ls.getD (16 * h.toNat + l.toNat) {}).visible ≤ s.me.st.cc)
    (clean : (s.me.regs.ls.getD (16 * h.toNat + l.toNat) {}).mark = 0) :
    opVtake d l h s = .ok ((), sentV (s.updMe fun x => { x with regs.ls := x.regs.ls.set (16 * h.toNat + l.toNat) {} }) d 1
      { data := (s.me.regs.ls.getD (16 * h.toNat + l.toNat) {}).data.toNat, side := (s.me.regs.ls.getD (16 * h.toNat + l.toNat) {}).side.toNat }) := by
  rw [opVtake, bind_ok (takeSlot_ok 4 arrived kind visible clean)]
  exact sendVector_ok _ d 1 { data := _, side := _ }

theorem opVpush_ok {s : State} {a : BitVec 4} {va : VReg} (ha : VectorIs s a va) (room : s.me.st.vq.length < 8) :
    opVpush a s = .ok ((), s.updMe fun x =>
      { inFlight 1 1 (.queue x.st.nextId) (.vec va.data va.side) 0 x with st.vq := x.st.vq ++ [{ id := x.st.nextId }], st.nextId := x.st.nextId + 1 }) := by
  rw [opVpush, bind_ok (readVector_is ha 4), bind_ok (reserveVector_ok 4 s room), sendResult_run, updMe_updMe]
  rfl

/-- A push on a full vector data queue is an overrun (R249). -/
theorem opVpush_full {s : State} {a : BitVec 4} {va : VReg} (ha : VectorIs s a va) (full : 8 ≤ s.me.st.vq.length) :
    opVpush a s = .error (.trap { cause := 0x214, slot := 4 }) := by
  rw [opVpush, bind_ok (readVector_is ha 4)]
  exact bind_error (reserveVector_full 4 s full) _

/-- Settles O23: a slot of vtake and a queue entry of vpush, with and without room. -/
theorem vectorTakePush : Obligations.VectorTakePush := by
  refine ⟨?_, fun s a va ha => ⟨fun room => runSlot_ok _ s _ (opVpush_ok ha room), fun full => runSlot_trap _ s _ (opVpush_full ha full)⟩⟩
  rintro s d l h _ rfl arrived kind visible clean
  exact runSlot_ok _ s _ (opVtake_ok arrived kind visible clean)

end Sys2Proof.Machine

/-! Access sources, local places and the loads lds and ldv (R68 to R70, R275 to R277). -/

namespace Sys2Proof.Machine

open Sys2Proof.Claim

/-- An access source is read (R260, R272). -/
theorem readAccess_source {s t : State} {c : BitVec 4} {v : Word} (h : accessSource s c = some (v, t)) : readAccess 1 c s = .ok (v, t) := by
  by_cases queue : c = 15#4
  · subst queue
    rw [readAccess, if_pos rfl, if_neg (by decide)]
    exact popScalar_ok h 1
  · exact readAccess_register queue h 1

/-- The read of an access source changes at most the scalar data queue. -/
theorem accessSource_after {s t : State} {c : BitVec 4} {v : Word} (h : accessSource s c = some (v, t)) :
    t = s ∨ ∃ q, t = s.updMe fun x => { x with st.sq := q } := by
  by_cases queue : c = 15#4
  · rw [accessSource, if_pos queue] at h
    match hq : s.me.st.sq, h with
    | [], h => simp at h
    | { id := i, val := some x, poison := false } :: r, h =>
      obtain ⟨_, rfl⟩ := by simpa using h
      exact .inr ⟨r, rfl⟩
    | { id := i, val := some x, poison := true } :: r, h => simp at h
    | { id := i, val := none, poison := p } :: r, h => simp at h
  · rw [accessSource, if_neg queue] at h
    split at h
    · obtain ⟨_, rfl⟩ := by simpa using h
      exact .inl rfl
    · simp at h

theorem here_updMe (s : State) (f : Ctx → Ctx) : here (s.updMe f) = (here s).updCtx s.cur.c f := score_updCore_same ..

/-- What the read of an access source leaves as it was: the registers, and the core but for this context. -/
theorem accessSource_keeps {s t : State} {c : BitVec 4} {v : Word} (h : accessSource s c = some (v, t)) :
    t.cur = s.cur ∧ t.me.regs = s.me.regs ∧ ∃ m, here t = { here s with ctxs := m } := by
  rcases accessSource_after h with rfl | ⟨q, rfl⟩
  · exact ⟨rfl, rfl, _, rfl⟩
  · exact ⟨rfl, by rw [me_updMe], _, here_updMe ..⟩

theorem spRead_ctxs (x : Core) (m : List (Nat × Ctx)) (mode off n : Nat) : Core.spRead { x with ctxs := m } mode off n = x.spRead mode off n := by
  induction n generalizing off with
  | zero => rfl
  | succ n ih => rw [Core.spRead, ih]; rfl

theorem readVec_ctxs (x : Core) (m : List (Nat × Ctx)) (mode rl off : Nat) (side : Bool) :
    Core.readVec { x with ctxs := m } mode rl off side = x.readVec mode rl off side := by
  simp only [Core.readVec, spRead_ctxs]
  rfl

theorem effective_ok {s t : State} {b : BitVec 4} {v : Word} (h : accessSource s b = some (v, t)) (disp : Int) (unit : Nat) :
    effective b disp unit s = .ok (eaOf v disp unit, t) := bind_ok (readAccess_source h) _

theorem needSlot_ok {s : State} {l : Nat} (free : SlotFree s l) : needSlot l s = .ok ((), s) := by
  rw [needSlot, bind_ok (getMe_run s), if_pos (by exact free)]
  rfl

/-- A local access within its limits and aligned has its place: the core's own bank, or another's (R13, R275). -/
theorem localPlace_ok {nbr : Bool} {ea span align : Nat} (h : LocalOk nbr ea span align) (wide : 0 < span) (s : State) :
    localPlace nbr ea span align s = .ok ((if nbr then ea / 2 ^ 22 else s.cur.k, if nbr then ea % 2 ^ 22 else ea), s) := by
  obtain ⟨core, within, aligned⟩ := h
  rw [localPlace, bind_ok (getS_run s)]
  cases nbr with
  | false =>
    simp only [Bool.false_eq_true, if_false] at within
    simp only [Bool.false_and, Bool.false_eq_true, if_false]
    rw [if_neg (by omega), if_neg (by omega), if_neg (by omega)]
    rfl
  | true =>
    have core := core rfl
    simp only [if_true] at within
    simp only [Bool.true_and, if_true, decide_eq_true_eq]
    rw [if_neg (by omega), if_neg (by omega), if_neg (by omega), if_neg (by omega), if_neg (by omega)]
    rfl

theorem widthBytes_pos (w : BitVec 3) : 0 < widthBytes w := by revert w; decide

theorem vecSpan_pos (z : BitVec 2) (r : BitVec 1) (side : Bool) : 0 < vecSpan (rowLength z r) side := by revert z r side; decide

/-- A load's place is found and its slot is free; nothing else has changed (R68, R275). -/
theorem opLds_ok {s t : State} {l : BitVec 5} {b y : BitVec 4} {v : Word} (source : accessSource s b = some (v, t)) (free : SlotFree s l.toNat)
    (w : BitVec 3) (x : BitVec 7) {ea : Nat} (hea : ea = eaOf v x.toInt (widthBytes w)) :
    (LocalOk false ea (widthBytes w) (widthBytes w) → opLds l b y w 0#1 x s = .ok ((), t.updMe (pendSlot l.toNat y {
      due := (here s).clk + 6, here := true, mark := if (here s).spBad 0 ea (widthBytes w) then 0x1C0 else 0,
      data := BitVec.ofNat 2048 (extendVal (widthSigned w) (widthBytes w) (leNat ((here s).spRead 0 ea (widthBytes w)))) }))) ∧
    (LocalOk true ea (widthBytes w) (widthBytes w) → opLds l b y w 1#1 x s = .ok ((), sentNbr (t.updMe (pendSlot l.toNat y { due := (here s).clk + 23 }))
      (ea / 2 ^ 22) { src := 0, ctx := 0, sid := 0, kind := 0, off := ea % 2 ^ 22, n := widthBytes w, slot := l.toNat, sx := widthSigned w })) := by
  obtain ⟨cur, regs, m, core⟩ := accessSource_keeps source
  have slot : SlotFree t l.toNat := by rwa [SlotFree, regs]
  have got : getCore t = .ok ({ here s with ctxs := m }, t) := by rw [← core]; rfl
  subst hea
  constructor <;> intro ok <;>
    rw [opLds, bind_ok (effective_ok source ..), bind_ok (needSlot_ok slot)] <;>
    refine (bind_ok (localPlace_ok ok (widthBytes_pos w) t) _).trans ((bind_ok got _).trans ?_)
  · simp only [spRead_ctxs]
    rfl
  · rfl

theorem opLdv_ok {s t : State} {l : BitVec 5} {b y : BitVec 4} {v : Word} (source : accessSource s b = some (v, t)) (free : SlotFree s l.toNat)
    (z : BitVec 2) (r g : BitVec 1) (x : BitVec 6) {ea rl : Nat} (hea : ea = eaOf v x.toInt 256) (hrl : rl = rowLength z r) :
    (LocalOk false ea (vecSpan rl (g == 1#1)) 4 → opLdv l b y z r 0#1 g x s = .ok ((), t.updMe (pendSlot l.toNat y {
      vec := true, due := (here s).clk + 5 + vecTime z.toNat rl ea (g == 1#1), here := true,
      data := BitVec.ofNat 2048 ((here s).readVec z.toNat rl ea (g == 1#1)).1, side := BitVec.ofNat 256 ((here s).readVec z.toNat rl ea (g == 1#1)).2.1,
      mark := if ((here s).readVec z.toNat rl ea (g == 1#1)).2.2 then 0x1C0 else 0 }))) ∧
    (LocalOk true ea (vecSpan rl (g == 1#1)) 4 → opLdv l b y z r 1#1 g x s = .ok ((), sentNbr (t.updMe (pendSlot l.toNat y { vec := true, due := (here s).clk + 23 }))
      (ea / 2 ^ 22) { src := 0, ctx := 0, sid := 0, kind := 1, off := ea % 2 ^ 22, slot := l.toNat, swz := z.toNat, rl := rl, side := g == 1#1 })) := by
  obtain ⟨cur, regs, m, core⟩ := accessSource_keeps source
  have slot : SlotFree t l.toNat := by rwa [SlotFree, regs]
  have got : getCore t = .ok ({ here s with ctxs := m }, t) := by rw [← core]; rfl
  subst hea hrl
  constructor <;> intro ok <;>
    rw [opLdv, bind_ok (effective_ok source ..), bind_ok (needSlot_ok slot)] <;>
    refine (bind_ok (localPlace_ok ok (vecSpan_pos z r _) t) _).trans ((bind_ok got _).trans ?_)
  · simp only [readVec_ctxs]
    rfl
  · rfl

/-- Settles O8, lds and ldv, each with OWN and NBR. -/
theorem scratchpadLoads : Obligations.ScratchpadLoads := by
  intro s t l b y v source free
  constructor
  · intro w x ea hea
    obtain ⟨own, nbr⟩ := opLds_ok (y := y) source free w x hea
    exact ⟨fun ok => runSlot_ok _ s _ (own ok), fun ok => runSlot_ok _ s _ (nbr ok)⟩
  · intro z r g x ea rl hea hrl
    obtain ⟨own, nbr⟩ := opLdv_ok (y := y) source free z r g x hea hrl
    exact ⟨fun ok => runSlot_ok _ s _ (own ok), fun ok => runSlot_ok _ s _ (nbr ok)⟩

end Sys2Proof.Machine

/-! The ring words rget, rput, radv.r, radv.w and rset (R60, R62, R64, R170, R283). -/

namespace Sys2Proof.Machine

open Sys2Proof.Claim

/-- A hod count within the ring's is read (R283). -/
theorem ringN_ok {s x : State} {a : BitVec 4} {c : BitVec 1} {n : BitVec 7} {k : Nat} {r : Ring} (count : hodCount s a c n = some (k, x)) (one : 1 ≤ k)
    (fits : k ≤ ringCount r.cfg) : ringN a c n r s = .ok (k, x) := by
  have within : (decide (1 ≤ k) && decide (k ≤ ringCount r.cfg)) = true := by simp [one, fits]
  rw [hodCount] at count
  rw [ringN]
  split at count <;> rename_i field
  · obtain ⟨rfl, rfl⟩ := by simpa using count
    rw [if_pos field]
    exact (bind_ok rfl _).trans (bind_ok (check_ok within ..) _)
  · obtain ⟨⟨v, _⟩, source, here_⟩ := Option.map_eq_some_iff.mp count
    obtain ⟨rfl, rfl⟩ := by simpa using here_
    rw [if_neg field, bind_ok (readAccess_source source)]
    exact (bind_ok rfl _).trans (bind_ok (check_ok within ..) _)

/-- Reading tags acquires once, where a fresh one is among them (R170). -/
theorem acquireTags_run (s : State) (id : Nat) (r : Ring) (hods : List Nat) : acquireTags id r hods s = .ok ((), tagsRead s id r hods) := by
  rw [acquireTags, tagsRead]
  split <;> rfl

theorem consume_run (s : State) (id : Nat) (r : Ring) (n : Nat) : consume id r n s = .ok ((), consumed s id r n) := rfl

theorem opRget_ok {s x : State} {d a t : BitVec 4} {c : BitVec 1} {n : BitVec 7} {id k : Nat} {r : Ring} (ring : RingIs s t.toNat id r)
    (count : ringN a c n r s = .ok (k, x)) (clear : r.ovf = false) (ready : r.getReady k = true) :
    opRget d a t c n s = .ok ((), withA (tagsRead x id r (r.oldest k)) d (BitVec.ofNat 64 (r.offset r.rp))) := by
  rw [opRget, bind_ok (readRing_ok ring 1)]
  dsimp only
  rw [bind_ok count, bind_ok (check_ok (by rw [clear]; rfl) ..), if_pos ready, bind_ok (acquireTags_run ..)]
  rfl

theorem opRadvR_ok {s x : State} {a t : BitVec 4} {c : BitVec 1} {n : BitVec 7} {id k : Nat} {r : Ring} (ring : RingIs s t.toNat id r)
    (count : ringN a c n r s = .ok (k, x)) (clear : r.ovf = false) (ready : r.getReady k = true) :
    opRadvR a t c n s = .ok ((), consumed x id r k) := by
  rw [opRadvR, bind_ok (readRing_ok ring 1)]
  dsimp only
  rw [bind_ok count, bind_ok (check_ok (by rw [clear]; rfl) ..), bind_ok (check_ok ready ..)]
  rfl

theorem opRput_ok {s x : State} {d a t : BitVec 4} {c : BitVec 1} {n : BitVec 7} {id k : Nat} {r : Ring} (ring : RingIs s t.toNat id r)
    (count : ringN a c n r s = .ok (k, x)) (room : k ≤ r.free) : opRput d a t c n s = .ok ((), withA x d (BitVec.ofNat 64 (r.offset r.wp))) := by
  rw [opRput, bind_ok (readRing_ok ring 1)]
  dsimp only
  rw [bind_ok count, if_pos room]
  rfl

theorem opRadvW_ok {s x : State} {a t : BitVec 4} {c : BitVec 1} {n : BitVec 7} {id k : Nat} {r : Ring} (ring : RingIs s t.toNat id r)
    (count : ringN a c n r s = .ok (k, x)) (room : k ≤ r.free) : opRadvW a t c n s = .ok ((), updRingS x id fun r =>
      { r with
        wp := r.hod r.wp k, used := r.used + k
        counts := ((List.range k).map (r.hod r.wp)).foldl (fun m h => mput m h (ringSectors r.cfg)) r.counts }) := by
  rw [opRadvW, bind_ok (readRing_ok ring 1)]
  dsimp only
  rw [bind_ok count, bind_ok (check_ok (by simpa using room) ..)]
  rfl

theorem opRset_ok {s x : State} {a t : BitVec 4} {v : Word} (source : accessSource s a = some (v, x)) (ok : ringOk v.toNat = true) {id : Nat}
    (hid : id = (s.me.regs.rh.getD t.toNat none).getD (here s).newRing) :
    opRset a t s = .ok ((), updRingS (x.updMe fun y => { y with regs.rh := y.regs.rh.set t.toNat (some id) }) id fun r =>
      { r with cfg := v, poison := false, ovf := false, rp := 0, wp := 0, used := 0, counts := [], landed := [], rcur := 0 }) := by
  obtain ⟨_, regs, m, core⟩ := accessSource_keeps source
  have got : getCore x = .ok ({ here s with ctxs := m }, x) := by rw [← core]; rfl
  subst hid
  rw [opRset, bind_ok (readAccess_source source), bind_ok (check_ok ok ..), bind_ok (getMe_run x), bind_ok got, regs]
  rfl

/-- A ring control that breaks the rules of R60 is refused. -/
theorem opRset_trap {s x : State} {a t : BitVec 4} {v : Word} (source : accessSource s a = some (v, x)) (bad : ringOk v.toNat = false) :
    opRset a t s = .error (.trap { cause := 0x208, access := true, slot := 1 }) := by
  rw [opRset, bind_ok (readAccess_source source)]
  exact bind_error (check_trap bad ..) _

/-- Settles O13, word by word. -/
theorem ringWords : Obligations.RingWords := by
  constructor
  · intro s x d a t c n id k r ring hods one fits
    have count := ringN_ok hods one fits
    exact ⟨fun clear ready => ⟨runSlot_ok _ s _ (opRget_ok ring count clear ready), runSlot_ok _ s _ (opRadvR_ok ring count clear ready)⟩,
      fun room => ⟨runSlot_ok _ s _ (opRput_ok ring count room), runSlot_ok _ s _ (opRadvW_ok ring count room)⟩⟩
  · intro s x a t v source
    exact ⟨fun ok id hid => runSlot_ok _ s _ (opRset_ok source ok hid), fun bad => runSlot_trap _ s _ (opRset_trap source bad)⟩

end Sys2Proof.Machine

/-! Claims of planes and tiles, and the words rclaim and rrel (R77, R78, R349, R352, R353). -/

namespace Sys2Proof.Machine

open Sys2Proof.Claim

/-- An update of the current core that leaves its contexts leaves the current context. -/
theorem me_updHere {s : State} {f : Core → Core} (h : (f (here s)).ctxs = (here s).ctxs) : (updHere s f).me = s.me := by
  rw [State.me, State.ctx, updHere, updCore_cur, score_updCore_same, Core.ctx]
  exact congrArg (fun m => mgetD m s.cur.c {}) h

theorem here_updHere (s : State) (f : Core → Core) : here (updHere s f) = f (here s) := score_updCore_same ..

theorem setClaim_ctxs (y : Core) (tile : Bool) (n : Nat) (f : Claim → Claim) : (y.setClaim tile n f).ctxs = y.ctxs := by cases tile <;> rfl

theorem undefine_ctxs (y : Core) (tile : Bool) (n d : Nat) : (y.undefine tile n d).ctxs = y.ctxs := by cases tile <;> rfl

/-- A field of an object in a list, after a change of that object. -/
theorem getD_modify_same {α β : Type} (xs : List α) (n : Nat) (z : α) (f : α → α) (p : α → β) (q : β → β) (each : ∀ x, p (f x) = q (p x)) :
    p ((xs.modify n f).getD n z) = if n < xs.length then q (p (xs.getD n z)) else p z := by
  simp only [List.getD_eq_getElem?_getD, List.getElem?_modify, if_true]
  split <;> rename_i h
  · simp [h, each]
  · simp [List.getElem?_eq_none (Nat.not_lt.mp h)]

/-- The object's claim after a change of it; an object that is not there stays free. -/
theorem claim_setClaim (y : Core) (tile : Bool) (n : Nat) (f : Claim → Claim) (there : (y.claim tile n).st ≠ .free) :
    (y.setClaim tile n f).claim tile n = f (y.claim tile n) := by
  cases tile with
  | true =>
    have inside : n < y.tiles.length := by
      by_contra out
      exact there (by simp [Core.claim, List.getElem?_eq_none (Nat.not_lt.mp out)])
    have changed := getD_modify_same y.tiles n {} (fun t => { t with claim := f t.claim }) Tile.claim f fun _ => rfl
    rwa [if_pos inside] at changed
  | false =>
    have inside : n < y.planes.length := by
      by_contra out
      exact there (by simp [Core.claim, List.getElem?_eq_none (Nat.not_lt.mp out)])
    have changed := getD_modify_same y.planes n {} (fun t => { t with claim := f t.claim }) Plane.claim f fun _ => rfl
    rwa [if_pos inside] at changed

/-- An object whose contents become undefined keeps its claim. -/
theorem claim_undefine (y : Core) (tile : Bool) (n d : Nat) : (y.undefine tile n d).claim tile n = y.claim tile n := by
  have same {α : Type} {xs : List α} {z : α} {f : α → α} {p : α → Claim} (each : ∀ x, p (f x) = p x) : p ((xs.modify n f).getD n z) = p (xs.getD n z) := by
    rw [getD_modify_same xs n z f p id each]
    split <;> rename_i h
    · rfl
    · simp [List.getElem?_eq_none (Nat.not_lt.mp h)]
  cases tile with
  | true => exact same (p := Tile.claim) fun _ => rfl
  | false => exact same (p := Plane.claim) fun _ => rfl

/-- A claim set, the contents undefined and the claim set again: the contents undefined and the claim set once. -/
theorem setClaim_undefine_setClaim (y : Core) (tile : Bool) (n d : Nat) (f g : Claim → Claim) :
    ((y.setClaim tile n f).undefine tile n d).setClaim tile n g = (y.undefine tile n d).setClaim tile n fun c => g (f c) := by
  cases tile <;> simp [Core.setClaim, Core.undefine, List.modify_modify_eq, Function.comp_def]

/-- An object is the current step's first (R78) when every rival on the core comes after the step. -/
theorem claimFirst_of {s : State} {c : Claim} (seat : s.cur.c < 4)
    (ahead : ∀ e ∈ (here s).ctxs, e.1 < 4 → e.2.live = true → e.2.sid ∈ c.waiting → e.2.sid ≠ s.me.sid → claimsBefore s.ticks s.me e.2 = true) :
    s.claimFirst s.cur.l s.cur.k s.cur.c c s.me = true := by
  simp only [State.claimFirst, State.claimants, decide_eq_true seat, Bool.true_and, Bool.true_or, Bool.and_true, List.all_eq_true, List.mem_filter]
  rintro e ⟨mem, here_⟩
  simp only [Bool.and_eq_true, decide_eq_true_eq, List.contains_iff_mem] at here_
  obtain ⟨⟨seated, live⟩, waits⟩ := here_
  by_cases mine : e.2.sid = s.me.sid
  · simp [mine]
  · simp [ahead e mem seated live waits mine]

/-- An object is not the current step's first while a rival on the core comes before the step. -/
theorem claimFirst_not {s : State} {c : Claim} {e : Nat × Ctx} (mem : e ∈ (here s).ctxs) (seated : e.1 < 4) (live : e.2.live = true)
    (waits : e.2.sid ∈ c.waiting) (other : e.2.sid ≠ s.me.sid) (behind : claimsBefore s.ticks s.me e.2 = false) :
    s.claimFirst s.cur.l s.cur.k s.cur.c c s.me = false := by
  rw [State.claimFirst, Bool.and_eq_false_iff]
  refine .inl (List.all_eq_false.mpr ⟨e, List.mem_filter.mpr ⟨mem, ?_⟩, ?_⟩)
  · simp [seated, live, waits]
  · simp [other, behind]

theorem takeObject_run (tile : Bool) (n : Nat) (s : State) : takeObject tile n s = .ok ((), updHere { s with draw := s.draw + 1 } fun y =>
    (y.undefine tile n s.draw).setClaim tile n fun c => { c with st := .held, gen := c.gen + 1, again := c.again - 1 }) := rfl

/-- A free object that is the step's first is reserved for it (R78). -/
theorem reserveObject_free {s : State} {tile : Bool} {n : Nat} (free : ((here s).claim tile n).st = .free)
    (first : s.claimFirst s.cur.l s.cur.k s.cur.c ((here s).claim tile n) s.me = true) :
    reserveObject tile n s = .ok (true, updHere s fun y => y.setClaim tile n fun c =>
      { c with st := .reserved, owner := s.me.sid, readers := 0, faulted := 0, again := 1, waiting := c.waiting.filter (· != s.me.sid) }) := by
  have granted : (((here s).claim tile n).st == .free && s.claimFirst s.cur.l s.cur.k s.cur.c ((here s).claim tile n) s.me) = true := by simp [free, first]
  rw [reserveObject, bind_ok (getMe_run s), bind_ok (getCore_run s), bind_ok (getS_run s)]
  exact if_pos granted ▸ rfl

theorem opRclaim_again {s : State} {o : BitVec 1} {n : BitVec 2} (held : Held s (o == 1#1) n.toNat) :
    opRclaim o n s = .ok ((), updHere s fun y => y.setClaim (o == 1#1) n.toNat fun c => { c with again := c.again - 1 }) := by
  obtain ⟨st, mine⟩ := held
  rw [opRclaim, bind_ok (getMe_run s), bind_ok (getCore_run s), bind_ok (getS_run s)]
  rw [← here, if_pos (by simp [st, mine])]
  rfl

/-- An object reserved for the step becomes held, its contents undefined (R77, R78). -/
theorem opRclaim_reserved {s : State} {o : BitVec 1} {n : BitVec 2} (st : ((here s).claim (o == 1#1) n.toNat).st = .reserved)
    (mine : ((here s).claim (o == 1#1) n.toNat).owner = s.me.sid) : opRclaim o n s = takeObject (o == 1#1) n.toNat s := by
  rw [opRclaim, bind_ok (getMe_run s), bind_ok (getCore_run s), bind_ok (getS_run s)]
  rw [← here, if_neg (by simp [st]), if_pos (by simp [st, mine])]

/-- A free object that is the step's first becomes held, its contents undefined (R77, R78). -/
theorem opRclaim_free {s : State} {o : BitVec 1} {n : BitVec 2} (st : ((here s).claim (o == 1#1) n.toNat).st = .free)
    (first : s.claimFirst s.cur.l s.cur.k s.cur.c ((here s).claim (o == 1#1) n.toNat) s.me = true) :
    opRclaim o n s = .ok ((), updHere { s with draw := s.draw + 1 } fun y => (y.undefine (o == 1#1) n.toNat s.draw).setClaim (o == 1#1) n.toNat fun c =>
      { c with st := .held, owner := s.me.sid, gen := c.gen + 1, readers := 0, faulted := 0, again := 0, waiting := c.waiting.filter (· != s.me.sid) }) := by
  rw [opRclaim, bind_ok (getMe_run s), bind_ok (getCore_run s), bind_ok (getS_run s)]
  rw [← here, if_neg (by simp [st]), if_neg (by simp [st]), if_pos (by simp [st, first]), bind_ok (reserveObject_free st first), takeObject_run]
  exact congrArg (fun t => Except.ok ((), t)) ((updCore_updCore { s with draw := s.draw + 1 } ..).trans
    (congrArg (updHere _) (funext fun y => setClaim_undefine_setClaim y ..)))

/-- A claim that is not granted waits (R78). -/
theorem opRclaim_waits {s : State} {o : BitVec 1} {n : BitVec 2}
    (later : ((here s).claim (o == 1#1) n.toNat).st = .free → s.claimFirst s.cur.l s.cur.k s.cur.c ((here s).claim (o == 1#1) n.toNat) s.me = false)
    (other : ((here s).claim (o == 1#1) n.toNat).owner = s.me.sid →
      ((here s).claim (o == 1#1) n.toNat).st ≠ .held ∧ ((here s).claim (o == 1#1) n.toNat).st ≠ .reserved) :
    opRclaim o n s = .error (.frozen (claimWait (o == 1#1) n.toNat) false) := by
  rw [opRclaim, bind_ok (getMe_run s), bind_ok (getCore_run s), bind_ok (getS_run s)]
  rw [← here, if_neg, if_neg, if_neg]
  · rfl
  · simpa using later
  · simpa using fun mine => (other mine).2
  · simpa using fun mine => (other mine).1

/-- The state after a release, whose number of loads cut is `cut`: the claim released, and with loads under way the plane undefined (R349). -/
def afterRelease (s : State) (tile : Bool) (n : Nat) : State :=
  let t := updHere { s with draw := s.draw + 1 } fun y => y.setClaim tile n Claim.released
  if !tile && s.me.loads.any fun v => v.plane == n then
    updHere (t.updMe fun x => { x with loads := x.loads.filter fun v => v.plane != n }) fun y => y.undefine false n s.draw
  else t

theorem releaseObject_run (tile : Bool) (n : Nat) (s : State) : releaseObject tile n s = .ok ((), afterRelease s tile n) := by
  rw [releaseObject, bind_ok (getMe_run s), bind_ok (fresh_run s), bind_ok (updCore_run ..), afterRelease]
  split <;> rfl

/-- What a release of a held object leaves (R349). -/
theorem afterRelease_spec {s : State} {tile : Bool} {n : Nat} (there : ((here s).claim tile n).st ≠ .free) :
    (here (afterRelease s tile n)).claim tile n = ((here s).claim tile n).released ∧ (afterRelease s tile n).me.regs = s.me.regs ∧
    (tile = false → ∀ v ∈ (afterRelease s tile n).me.loads, v.plane ≠ n) ∧ (tile = true → (afterRelease s tile n).me = s.me) := by
  let t := updHere { s with draw := s.draw + 1 } fun y => y.setClaim tile n Claim.released
  have me : t.me = s.me := me_updHere (s := { s with draw := s.draw + 1 }) (setClaim_ctxs ..)
  have core : here t = (here s).setClaim tile n Claim.released := here_updHere ..
  have released : (here t).claim tile n = ((here s).claim tile n).released := by rw [core, claim_setClaim _ _ _ _ there]
  by_cases cut : (!tile && s.me.loads.any fun v => v.plane == n) = true
  · obtain ⟨plane, _⟩ := by simpa using cut
    subst plane
    let u := t.updMe fun x => { x with loads := x.loads.filter fun v => v.plane != n }
    have after : afterRelease s false n = updHere u fun y => y.undefine false n s.draw := if_pos cut
    have kept : (afterRelease s false n).me = { s.me with loads := s.me.loads.filter fun v => v.plane != n } := by
      rw [after, me_updHere (undefine_ctxs ..), me_updMe, me]
    refine ⟨?_, by rw [kept], fun _ v mem => ?_, by simp⟩
    · rw [after, here_updHere, claim_undefine, here_updMe, ← released]
      rfl
    · rw [kept] at mem
      simpa using (List.mem_filter.mp mem).2
  · have after : afterRelease s tile n = t := if_neg cut
    refine ⟨by rw [after, released], by rw [after, me], fun plane v mem same => cut ?_, fun _ => by rw [after, me]⟩
    rw [after, me] at mem
    simp only [plane, Bool.not_false, Bool.true_and, List.any_eq_true]
    exact ⟨v, mem, by simpa using same⟩

theorem opRrel_ok {s : State} {o : BitVec 1} {n : BitVec 2} (held : Held s (o == 1#1) n.toNat) :
    opRrel o n s = .ok ((), afterRelease s (o == 1#1) n.toNat) := by
  obtain ⟨st, mine⟩ := held
  rw [opRrel, bind_ok (getMe_run s), bind_ok (getCore_run s), ← here]
  exact (bind_ok (check_ok (by simp [st, mine]) ..) _).trans (releaseObject_run ..)

/-- Only the holder may release (R353). -/
theorem opRrel_trap {s : State} {o : BitVec 1} {n : BitVec 2} (held : ¬Held s (o == 1#1) n.toNat) :
    opRrel o n s = .error (.trap { cause := if o == 1#1 then 0x10B else 0x10A, slot := 5 }) := by
  rw [opRrel, bind_ok (getMe_run s), bind_ok (getCore_run s), ← here]
  exact bind_error (check_trap (by simpa [Held] using held) ..) _

/-- An execute word that freezes leaves its stream waiting (R248). -/
theorem runSlot_freezes {m : M Unit} {s : State} {w : Wait} {late : Bool} (h : m s = .error (.frozen w late)) :
    runSlot m s = .next (s.updMe fun x => x.waitX w s.ticks) := by rw [runSlot, h]

/-- Settles O26: a claim that is granted, held already or not granted, and a release by the holder and by another. -/
theorem claimAndRelease : Obligations.ClaimAndRelease := by
  rintro s o n _ _ rfl rfl rival
  refine ⟨fun free seat ahead => runSlot_ok _ s _ (opRclaim_free free (claimFirst_of seat ?_)),
    fun st mine => runSlot_ok _ s _ ((opRclaim_reserved st mine).trans (takeObject_run ..)), fun held => runSlot_ok _ s _ (opRclaim_again held),
    fun later other => ?_, fun held => ?_, fun held => runSlot_trap _ s _ (opRrel_trap held)⟩
  · intro e mem seated live waits other
    rw [claimsBefore, Bool.or_eq_true, Bool.and_eq_true, decide_eq_true_eq, decide_eq_true_eq, beq_iff_eq]
    exact (ahead e ⟨mem, seated, live, waits, other⟩).imp_right fun ⟨same, first⟩ => ⟨same.symm, first⟩
  · refine runSlot_freezes (opRclaim_waits (fun free => ?_) other)
    obtain ⟨e, ⟨mem, seated, live, waits, other⟩, before⟩ := later free
    refine claimFirst_not mem seated live waits other ?_
    simp only [claimsBefore, Bool.or_eq_false_iff, Bool.and_eq_false_iff, decide_eq_false_iff_not, beq_eq_false_iff_ne]
    omega
  · have there : ((here s).claim (o == 1#1) n.toNat).st ≠ .free := by simp [held.1]
    obtain ⟨released, regs, plane, tile⟩ := afterRelease_spec there
    exact ⟨_, runSlot_ok _ s _ (opRrel_ok held), released, regs, plane, tile⟩

end Sys2Proof.Machine

/-! Schedule events: switches, ageing, contexts that leave and come back (R78, R105, R114, R131, R206 to R208, R212, R429, R432). -/

namespace Sys2Proof.Machine

open Sys2Proof.Claim

/-! What translations and writes of records leave: the time and the contexts -/

/-- The contexts of a core of a die. -/
def contextsOf (k : Nat) (x : Ld) : Smap Ctx := (x.core k).ctxs

theorem contextsOf_congr {x y : Ld} (h : x.cores = y.cores) (k : Nat) : contextsOf k x = contextsOf k y := by rw [contextsOf, contextsOf, Ld.core, Ld.core, h]

theorem ctx_congr {s t : State} {l k : Nat} (h : contextsOf k (t.ld l) = contextsOf k (s.ld l)) (c : Nat) : t.ctx l k c = s.ctx l k c :=
  congrArg (fun m => mgetD m c ({} : Ctx)) h

/-- A change of a die that leaves its cores leaves the contexts. -/
theorem contextsOf_updLd {s : State} {j : Nat} {f : Ld → Ld} (h : ∀ x, (f x).cores = x.cores) (l k : Nat) :
    contextsOf k ((s.updLd j f).ld l) = contextsOf k (s.ld l) := updLd_keeps (contextsOf k) (fun x => contextsOf_congr (h x) k) l

theorem contextsOf_errLog (s : State) (j sev unit cause loc : Nat) (unq : Bool) (l k : Nat) :
    contextsOf k ((s.errLog j sev unit cause loc unq).ld l) = contextsOf k (s.ld l) := contextsOf_updLd (by intro; rfl) l k

theorem contextsOf_noteBrokenRead (s : State) (home a n l k : Nat) :
    contextsOf k ((s.noteBrokenRead home a n).ld l) = contextsOf k (s.ld l) := by
  unfold State.noteBrokenRead
  split
  · rfl
  · refine foldl_keeps (fun s : State => contextsOf k (s.ld l)) (fun s line => ?_) _ s
    dsimp only
    split
    · exact (contextsOf_errLog ..).trans (contextsOf_updLd (by intro; rfl) l k)
    · rfl

theorem contextsOf_noteBroken (s : State) (j a n l k : Nat) : contextsOf k ((s.noteBroken j a n).ld l) = contextsOf k (s.ld l) := by
  refine foldl_keeps (fun s : State => contextsOf k (s.ld l)) (fun s line => ?_) _ s
  split
  · exact contextsOf_errLog ..
  · rfl

theorem contextsOf_readThrough (s : State) (ca : Nat) (rs : List (Nat × Nat × Nat)) (by_ : Ctx) (l k : Nat) :
    contextsOf k ((s.readThrough ca rs by_).ld l) = contextsOf k (s.ld l) := by
  refine foldl_keeps (fun s : State => contextsOf k (s.ld l)) (fun s r => ?_) _ s
  dsimp only
  split
  · rfl
  · exact (contextsOf_updLd (by intro x; exact touch_cores x ..) l k).trans (contextsOf_noteBrokenRead ..)

theorem contextsOf_pokeAt (s : State) (p : Phys) (bs : List (BitVec 8 × Bool)) (l k : Nat) :
    contextsOf k ((s.pokeAt p bs).ld l) = contextsOf k (s.ld l) := by
  unfold State.pokeAt
  split
  · rfl
  · exact (contextsOf_updLd (by intro x; exact touch_cores ..) l k).trans (contextsOf_noteBroken ..)

theorem contextsOf_msix (s : State) (j v l k : Nat) : contextsOf k ((s.msix j v).ld l) = contextsOf k (s.ld l) :=
  contextsOf_updLd (by intro x; split <;> rfl) l k

theorem contextsOf_learnFar (s : State) (j leaf va l k : Nat) : contextsOf k ((s.learnFar j leaf va).ld l) = contextsOf k (s.ld l) := by
  unfold State.learnFar
  split
  · exact contextsOf_updLd (by intro x; exact learn_cores x _) l k
  · rfl

/-- A core whose contexts stay, changed. -/
theorem contextsOf_updCore (x : Ld) (j k : Nat) {f : Core → Core} (h : ∀ y, (f y).ctxs = y.ctxs) : contextsOf k (x.updCore j f) = contextsOf k x := by
  rw [contextsOf, core_updCore, contextsOf]
  split
  · exact h _
  · rfl

/-- A translation leaves entries in the TLBs and reads in the caches (R27). -/
theorem contextsOf_afterXl (s : State) (j i sp a l k : Nat) : contextsOf k ((s.afterXl j i sp a).ld l) = contextsOf k (s.ld l) := by
  unfold State.afterXl
  split
  · rfl
  · rename_i va _
    split
    · rfl
    · dsimp only
      have filled (x : Ld) : contextsOf k (if i < 48 then
          match tlbFind (x.core i).l1 (va / 65536), tlbFind x.l2 (va / 65536) with
          | none, some e => x.updCore i fun y => { y with l1 := l1Add y.l1 e }
          | _, _ => x
        else x) = contextsOf k x := by
        split
        · split
          · exact contextsOf_updCore x i k fun _ => rfl
          · rfl
        · rfl
      split
      rw [contextsOf_learnFar]
      all_goals
        refine (updLd_keeps (contextsOf k) (fun x => ?_) l).trans (contextsOf_readThrough ..)
        refine (filled _).trans ?_
        split
        · rfl
        · exact contextsOf_congr (learn_cores ..) k

/-- Completion records leave the contexts (R216). -/
theorem contextsOf_writeCrecs (s : State) (j : Nat) (rs : List (Launch × Nat)) (l k : Nat) :
    contextsOf k ((s.writeCrecs j rs).ld l) = contextsOf k (s.ld l) := by
  induction rs generalizing s with
  | nil => exact contextsOf_updLd (by intro; rfl) l k
  | cons e rest ih =>
    obtain ⟨n, r⟩ := e
    have signalled (t : State) : contextsOf k ((if n.msie then t.msix j n.msix else t).ld l) = contextsOf k (t.ld l) := by
      split
      · exact contextsOf_msix ..
      · rfl
    rw [State.writeCrecs]
    dsimp only
    split
    · rw [ih, signalled]
    · split
      · rw [ih, signalled, contextsOf_pokeAt, contextsOf_afterXl]
      · rw [ih, signalled, contextsOf_errLog]
      · split
        · exact contextsOf_updLd (by intro; rfl) l k
        · rw [ih, signalled, contextsOf_errLog]

theorem contextsOf_complete (s : State) (j : Nat) (n : Launch) (status cause start steps faults l k : Nat) :
    contextsOf k ((s.complete j n status cause start steps faults).ld l) = contextsOf k (s.ld l) := contextsOf_writeCrecs ..

theorem ticks_noteBrokenRead (s : State) (home a n : Nat) : (s.noteBrokenRead home a n).ticks = s.ticks := by
  unfold State.noteBrokenRead
  split
  · rfl
  · refine foldl_keeps State.ticks (fun s line => ?_) _ s
    dsimp only
    split <;> rfl

theorem ticks_readSlot (s : State) (l slot : Nat) (v : Saved) : (s.readSlot l slot v).ticks = s.ticks := ticks_noteBrokenRead ..

theorem ticks_noteBroken (s : State) (l a n : Nat) : (s.noteBroken l a n).ticks = s.ticks := by
  refine foldl_keeps State.ticks (fun s line => ?_) _ s
  split <;> rfl

theorem ticks_putBie (s : State) (l i st owner : Nat) : (s.putBie l i st owner).ticks = s.ticks := by
  have poked (s : State) (a : Nat) (bs : List (BitVec 8)) : (s.pokeLd l a bs).ticks = s.ticks := ticks_noteBroken ..
  rw [State.putBie, poked, poked]

/-! Contexts that come back -/

/-- A saved context moved to another core keeps all but the names of its rings (R208). -/
theorem moveSaved_spec (s : State) (l k : Nat) (v : Saved) :
    (s.moveSaved l k v).1.ticks = s.ticks ∧ ∃ rh, (s.moveSaved l k v).2.ctx = { v.ctx with regs.rh := rh } ∧ (k = v.core → rh = v.ctx.regs.rh) := by
  unfold State.moveSaved
  split
  · exact ⟨rfl, _, rfl, fun _ => rfl⟩
  · exact ⟨rfl, _, rfl, fun same => absurd same ‹_›⟩

/-- What stands in a context that has come back (R208, R432): the image of its save slot, resident from now. -/
theorem restore_ctx (s : State) (l k slot : Nat) (v : Saved) : ∃ r,
    let y := (s.restore l k slot v).ctx l k r
    let w := ((s.readSlot l slot v).ld l).restored slot v
    y.sid = w.ctx.sid ∧ y.live = w.ctx.live ∧ y.st = w.ctx.st ∧ y.sys.stamp = w.ctx.sys.stamp ∧ y.residAt = s.ticks ∧ y.resumed = [] ∧
      (k = w.core → y.regs = w.ctx.regs) := by
  have moved := moveSaved_spec (s.readSlot l slot v) l k (((s.readSlot l slot v).ld l).restored slot v)
  unfold State.restore
  dsimp only
  generalize ((s.readSlot l slot v).ld l).restored slot v = w at moved ⊢
  generalize (s.readSlot l slot v).moveSaved l k w = m at moved ⊢
  obtain ⟨u, _⟩ := m
  obtain ⟨ticks, rh, ctx, same⟩ := moved
  dsimp only at ticks ctx ⊢
  rw [ctx]
  refine ⟨(u.core l k).freeCtxs.headD 0, ?_⟩
  rw [ctx_congr (foldl_keeps (fun s : State => contextsOf k (s.ld l)) (fun s n => contextsOf_complete ..) _ _), sctx_updCtx_same]
  refine ⟨rfl, rfl, rfl, rfl, ?_, rfl, fun here => by rw [same here]⟩
  exact (foldl_keeps State.ticks (fun s b => ticks_putBie ..) _ _).trans (ticks.trans (ticks_readSlot ..))

/-! The events -/

/-- A context that has waited longer than the switch threshold gives its core to the best ready one (R206). -/
theorem exec_switchThresholdExpiry {s : State} {l k c t : Nat} {b : Nat × Ctx} (units : (dieOk l && decide (k < 48)) = true)
    (active : (s.core l k).active = some c) (live : (s.ctx l k c).live = true) (waits : (s.ctx l k c).waiting = true) (since : (s.ctx l k c).waitSince = some t)
    (best : (s.core l k).bestReady (fun e => e.1 != c && (s.core l k).mayTake e.2) = some b) :
    exec (.switchThresholdExpiry l k) s = .next ((timeTo s (t + 4 * (s.ctx l k c).swth + 1)).switchTo l k b.1) := by
  refine runEv_ok units ?_
  rw [evSwitchThresholdExpiry, bind_ok (getS_run s)]
  rw [State.ctx] at live waits since
  simp only [active, since, best]
  exact bind_ok (need_ok (by rw [live, waits]; rfl) s) _

/-- A context whose slice is spent gives its core to the best ready one of its priority (R206). -/
theorem exec_sliceExpiry {s : State} {l k c : Nat} {b : Nat × Ctx} (units : (dieOk l && decide (k < 48)) = true)
    (active : (s.core l k).active = some c) (live : (s.ctx l k c).live = true) (sliced : (s.ctx l k c).slice ≠ 0)
    (spent : 1750 * (s.ctx l k c).slice ≤ (s.core l k).issuing)
    (best : (s.core l k).bestReady (fun e => e.1 != c && e.2.effPri == (s.ctx l k c).effPri && (s.core l k).mayTake e.2) = some b) :
    exec (.sliceExpiry l k) s = .next (s.switchTo l k b.1) := by
  refine runEv_ok units ?_
  rw [evSliceExpiry, bind_ok (getS_run s)]
  rw [State.ctx] at live sliced spent best
  simp only [active, best]
  exact bind_ok (need_ok (by simp [live, sliced, spent]) s) _

/-- A ready context on a core ages (R207). -/
theorem exec_priorityAgeing {s : State} {l k c : Nat} (on : OnCtx l k c) (ready : (s.ctx l k c).ready = true)
    (below : (s.ctx l k c).effPri < (s.ctx l k c).maxPri) : exec (.priorityAgeing l k c) s =
      .next ((timeTo s ((s.ctx l k c).agedAt + 7000000)).updCtx l k c fun y => { y with ageing := y.ageing + 1, agedAt := y.agedAt + 7000000 }) := by
  obtain ⟨hl, hk, hc⟩ := on
  refine runEv_ok (by simp [hl, hk, show c < 65540 by omega]) ?_
  rw [evPriorityAgeing, bind_ok (getS_run s)]
  dsimp only
  rw [if_pos hc]
  exact bind_ok (need_ok (by simp [ready, below]) s) _

/-- So does one in a save slot (R207, R208). -/
theorem exec_priorityAgeing_saved {s : State} {l k n : Nat} {v : Saved} (units : (dieOk l && decide (k < 48)) = true) (hn : n < 65536)
    (saved : mget (s.ld l).saved n = some v) (core : v.core = k) (ready : v.ctx.ready = true) (below : v.ctx.effPri < v.ctx.maxPri) :
    exec (.priorityAgeing l k (n + 4)) s = .next ((timeTo s (v.ctx.agedAt + 7000000)).updLd l fun z =>
      { z with saved := mput z.saved n { v with ctx := { v.ctx with ageing := v.ctx.ageing + 1, agedAt := v.ctx.agedAt + 7000000 } } }) := by
  refine runEv_ok (by rw [units, Bool.true_and]; exact decide_eq_true (by omega)) ?_
  rw [evPriorityAgeing, bind_ok (getS_run s)]
  dsimp only
  rw [if_neg (by omega), Nat.add_sub_cancel]
  simp only [saved]
  exact bind_ok (need_ok (by simp [core, ready, below]) s) _

/-- When a context may leave its core (R208, R432): it has a save slot to go to, or is discarded, and nothing of it is under way that must end first. -/
theorem mayLeave_of {s : State} {l k c : Nat} {x : Ctx} (hx : x = s.ctx l k c) (live : x.live = true) (plain : x.priv = false)
    (place : (∃ n, (s.ld l).freeSlot = some n ∧ s.commitHolds l ((s.ld l).slotAt n) (2 ^ 20) = false) ∨ (x.op.restart = true ∧ x.paused = none))
    (loads : ∀ v ∈ x.loads, v.bank = none) (cmds : ∀ q ∈ (s.core l k).queue, q.sid = x.sid → (s.ld l).settled q.id = true ∧ q.onSet = false) :
    s.mayLeave l k c = true := by
  have goes : (((s.ld l).freeSlot.any fun n => !s.commitHolds l ((s.ld l).slotAt n) (2 ^ 20)) || (x.op.restart && x.paused.isNone)) = true := by
    rcases place with ⟨n, free, idle⟩ | ⟨restart, runs⟩
    · rw [free, Option.any_some, idle]
      rfl
    · simp [restart, runs]
  have unlocked : (x.loads.any fun v => v.bank.isSome) = false := by
    simp only [List.any_eq_false]
    intro v mem
    simp [loads v mem]
  have settled : ((s.core l k).queue.all fun q => q.sid != x.sid || ((s.ld l).settled q.id && !q.onSet)) = true := by
    simp only [List.all_eq_true]
    intro q mem
    by_cases mine : q.sid = x.sid
    · simp [mine, cmds q mem mine]
    · simp [mine]
  subst hx
  rw [State.mayLeave]
  simp only [live, plain, goes, unlocked, settled]
  rfl

theorem exec_swapThresholdExpiry {s : State} {l k c t : Nat} (on : OnCtx l k c) (may : s.mayLeave l k c = true) (since : (s.ctx l k c).waitSince = some t)
    (waits : (s.ctx l k c).waiting = true) (runs : (s.ctx l k c).paused = none) (wanted : s.wanting l k ≠ []) :
    exec (.swapThresholdExpiry l k c) s = .next ((timeTo s (t + 70 * (s.ctx l k c).swapth + 1)).leaveCore l k c) := by
  obtain ⟨hl, hk, hc⟩ := on
  refine runEv_ok (by simp [hl, hk, hc]) ?_
  rw [evSwapThresholdExpiry, bind_ok (getS_run s)]
  simp only [since]
  exact bind_ok (need_ok (by simp [may, waits, runs, wanted]) s) _

theorem exec_swapOut {s : State} {l k c : Nat} (on : OnCtx l k c) (may : s.mayLeave l k c = true)
    (must : (s.ctx l k c).paused.isSome = true ∨ s.displaced l k c = true ∨ s.evicted l k (s.ctx l k c) = true)
    (reported : ∀ r ∈ (s.ld l).faultQ, r.1 ≠ (s.ctx l k c).sid + 1) : exec (.swapOut l k c) s = .next (s.leaveCore l k c) := by
  obtain ⟨hl, hk, hc⟩ := on
  have clear : ((s.ld l).faultQ.any fun r => r.1 == (s.ctx l k c).sid + 1) = false := by simpa using reported
  have goes : ((s.ctx l k c).paused.isSome || s.displaced l k c || s.evicted l k (s.ctx l k c)) = true := by simpa [or_assoc] using must
  refine runEv_ok (by simp [hl, hk, hc]) ?_
  rw [evSwapOut, bind_ok (getS_run s)]
  exact bind_ok (need_ok (by simp only [may, goes, clear]; rfl) s) _

theorem exec_swapIn {s : State} {l slot j : Nat} {v : Saved} (hl : dieOk l = true) (hslot : slot < 65536) (saved : mget (s.ld l).saved slot = some v)
    (home : s.returnCore l v = some j) (idle : s.commitHolds l ((s.ld l).slotAt slot) (2 ^ 20) = false)
    (first : ∀ w ∈ (s.ld l).saved, w.1 = slot ∨ s.returnCore l w.2 ≠ some j ∨ savedBefore v w.2 = true) :
    exec (.swapIn l slot) s = .next (s.restore l j slot v) := by
  have before : ((s.ld l).saved.all fun w => w.1 == slot || s.returnCore l w.2 != some j || savedBefore v w.2) = true := by
    simpa [or_assoc] using first
  refine runEv_ok (by simp [hl, hslot]) ?_
  rw [evSwapIn, bind_ok (getS_run s)]
  simp only [saved, home]
  exact bind_ok (need_ok (by rw [idle, before]; rfl) s) _

/-- Settles O46, event by event. -/
theorem scheduleEvents : Obligations.ScheduleEvents := by
  rintro s l k c _ on rfl
  have units := units_of_onCtx on
  refine ⟨fun t b active live waits since best => exec_switchThresholdExpiry units active live waits since best,
    fun b active live sliced spent best => exec_sliceExpiry units active live sliced spent best, exec_priorityAgeing on,
    fun n v hn saved core ready below => exec_priorityAgeing_saved units hn saved core ready below, ⟨?_, ?_⟩, ?_⟩
  · rintro t ⟨live, plain, place, loads, cmds⟩ since waits runs wanted
    exact exec_swapThresholdExpiry on (mayLeave_of rfl live plain place loads cmds) since waits runs wanted
  · rintro ⟨live, plain, place, loads, cmds⟩ must reported
    exact exec_swapOut on (mayLeave_of rfl live plain place loads cmds) must reported
  · intro slot j v hslot saved home idle first
    obtain ⟨r, back⟩ := restore_ctx s l j slot v
    exact ⟨_, r, exec_swapIn on.1 hslot saved home idle first, back⟩

end Sys2Proof.Machine

/-! Core events: the clock, landings, grants, bank service and the ends of waits (R56, R57, R70, R78, R122, R178, R246, R248, R251, R256, R276, R401,
R402, R416 to R418). -/

namespace Sys2Proof.Machine

open Sys2Proof.Claim

/-! The clock of a core (R246, R248, R251) -/

/-- No error detected in the context has come due. -/
theorem dueTrap_none {x : Ctx} : x.dueTrap = none ↔ ∀ f ∈ x.st.dtraps, x.st.cc < f.after := by
  simp [Ctx.dueTrap, List.find?_eq_none]

/-- The end of a clock: a step that has nothing more to do begins to retire (R416). -/
def clockEnds (l k c : Nat) (v : State) : State :=
  let x := v.ctx l k c
  if x.live = true ∧ x.retiring = 1 ∧ x.st.run = [] ∧ x.paused = none ∧ (∀ f ∈ x.st.dtraps, x.st.cc < f.after) then v.beginRetire l k c else v

theorem clockEnds_eq (l k c : Nat) (v : State) : (let x := v.ctx l k c
    if x.live && x.retiring == 1 && x.st.run.isEmpty && x.paused.isNone && x.dueTrap.isNone then v.beginRetire l k c else v) = clockEnds l k c v := by
  refine if_congr ?_ rfl rfl
  simp only [Bool.and_eq_true, beq_iff_eq, List.isEmpty_iff, Option.isNone_iff_eq_none, dueTrap_none, and_assoc]

/-- The clock's number, a retest of the waits of the other contexts and, outside a switch, the choice of the active one (R206,
R246). It is irreducible, so that no unification evaluates it. -/
@[irreducible] def clockBegun (s : State) (l k : Nat) : State :=
  let t := { s with ticks := max s.ticks (4 * max ((s.core l k).clk + 1) (s.ticks / 4)) }.updCore l k fun y =>
    { y with clk := max ((s.core l k).clk + 1) (s.ticks / 4), eccHold := y.eccHold - 1 }
  let r := t.retestOthers l k
  if (r.core l k).switching = 0 then r.reschedule l k else r

/-- A clock of a freeze passes. -/
def thawed (l k : Nat) (v : State) : State := v.updCore l k fun y => { y with freeze := y.freeze - 1 }

/-- A context runs in a clock: it is live, not paused, and its codebooks are the core's. -/
def Runs (y : Core) (c : Nat) : Prop := (y.ctx c).live = true ∧ (y.ctx c).paused = none ∧ y.hasSet (y.ctx c) = true

theorem runs_iff (y : Core) (c : Nat) : (!(y.ctx c).live || (y.ctx c).paused.isSome || !y.hasSet (y.ctx c)) = true ↔ ¬Runs y c := by
  rw [Runs]
  cases (y.ctx c).live <;> cases (y.ctx c).paused <;> cases y.hasSet (y.ctx c) <;> simp

/-- A context that is dead or paused, or whose codebooks are not the core's, does not run. -/
theorem not_runs {y : Core} {c : Nat} (h : (y.ctx c).live = false ∨ (y.ctx c).paused.isSome = true ∨ y.hasSet (y.ctx c) = false) : ¬Runs y c := by
  rintro ⟨live, unpaused, set⟩
  simp [live, unpaused, set] at h

/-- What a clock of a context does: results land and the array moves on unless a freeze holds it; then the streams, or in a freeze the access stream
alone, go on (R248, R251). -/
def clockWork (u : State) (l k c : Nat) : State :=
  let v := if (u.core l k).freeze = 0 then (u.landNow l k c).arrayClock l k c else u
  if (v.core l k).freeze ≠ 0 then ((thawed l k v).updCtx l k c fun x => x.countFreeze false).accessAlone l k c else v.streams l k c

theorem clockWork_frozen {u : State} {l k c : Nat} (frozen : (u.core l k).freeze ≠ 0) :
    clockWork u l k c = ((thawed l k u).updCtx l k c fun x => x.countFreeze false).accessAlone l k c := by
  rw [clockWork, if_neg frozen, if_pos frozen]

theorem clockWork_freezes {u : State} {l k c : Nat} (free : (u.core l k).freeze = 0)
    (late : (((u.landNow l k c).arrayClock l k c).core l k).freeze ≠ 0) :
    clockWork u l k c = ((thawed l k ((u.landNow l k c).arrayClock l k c)).updCtx l k c fun x => x.countFreeze false).accessAlone l k c := by
  rw [clockWork, if_pos free, if_pos late]

theorem clockWork_moves {u : State} {l k c : Nat} (free : (u.core l k).freeze = 0)
    (moves : (((u.landNow l k c).arrayClock l k c).core l k).freeze = 0) :
    clockWork u l k c = ((u.landNow l k c).arrayClock l k c).streams l k c := by
  rw [clockWork, if_pos free, if_neg (not_not_intro moves)]

section

variable {s u : State} {l k c : Nat} (begun : u = clockBegun s l k)

include begun

theorem clock_switching (switches : (u.core l k).switching ≠ 0) :
    s.clock l k = u.updCore l k fun y => { y with switching := y.switching - 1, freeze := y.freeze - 1 } := by
  unfold State.clock
  extract_lets n t r w y
  have hw : w = u := by rw [begun, clockBegun]
  have hy : y = u.core l k := congrArg (·.core l k) hw
  have switches := fun stays => switches ((congrArg Core.switching hy).symm.trans stays)
  rw [if_pos switches, hw]

theorem clock_inactive (chosen : (u.core l k).switching = 0) (none_ : (u.core l k).active = none) : s.clock l k = thawed l k u := by
  unfold State.clock
  extract_lets n t r w y
  have hw : w = u := by rw [begun, clockBegun]
  have hy : y = u.core l k := congrArg (·.core l k) hw
  have chosen := (congrArg Core.switching hy).trans chosen
  have none_ := (congrArg Core.active hy).trans none_
  rw [if_neg (not_not_intro chosen)]
  simp only [none_]
  rw [hw, thawed]

theorem clock_stands (chosen : (u.core l k).switching = 0) (active : (u.core l k).active = some c) (stands : ¬Runs (u.core l k) c) :
    s.clock l k = thawed l k u := by
  unfold State.clock
  extract_lets n t r w y
  have hw : w = u := by rw [begun, clockBegun]
  have hy : y = u.core l k := congrArg (·.core l k) hw
  have chosen := (congrArg Core.switching hy).trans chosen
  have active := (congrArg Core.active hy).trans active
  rw [if_neg (not_not_intro chosen)]
  simp only [active]
  have stands := (runs_iff y c).mpr (by rwa [hy])
  rw [if_pos stands, hw, thawed]

theorem clock_runs (chosen : (u.core l k).switching = 0) (active : (u.core l k).active = some c) (runs : Runs (u.core l k) c) :
    s.clock l k = clockEnds l k c (clockWork u l k c) := by
  unfold State.clock
  extract_lets n t r w y
  have hw : w = u := by rw [begun, clockBegun]
  have hy : y = u.core l k := congrArg (·.core l k) hw
  have chosen := (congrArg Core.switching hy).trans chosen
  have active := (congrArg Core.active hy).trans active
  rw [if_neg (not_not_intro chosen)]
  simp only [active]
  have moves := fun stands => (runs_iff y c).mp stands (by rwa [hy])
  rw [if_neg moves, ← hw]
  exact clockEnds_eq l k c _

end

/-- An error of the context that has come due is taken first (R416). -/
theorem streams_due {s : State} {l k c : Nat} {t : TrapInfo} (due : (s.ctx l k c).dueTrap = some t) : s.streams l k c = s.takeDetected l k c t := by
  unfold State.streams
  simp only [due]

/-- A trap of the access stream is taken once the execute stream has caught up (R417). -/
theorem streams_access {s : State} {l k c : Nat} {t : TrapInfo} (due : (s.ctx l k c).dueTrap = none) (trap : (s.ctx l k c).st.atrap = some t)
    (caught : (s.ctx l k c).st.run = []) : s.streams l k c = takeTrap l k c t s := by
  unfold State.streams
  simp only [due, trap, caught, List.isEmpty_nil]

/-- What the end of the execute stream's part leaves of a clock (R246, R248, R416): `full`, with 16 bundles issued ahead, both streams move together;
`joint`, the access stream has issued a bundle that both must. -/
def streamsEnd (l k c : Nat) (landed s2 : State) (full joint : Bool) : ExecEnd → State
  | .issued => (s2.noteStart l k c).updCore l k fun y => { y with issuing := y.issuing + 1 }
  | .trapped t => takeTrap l k c { t with access := false } ((if full then landed else s2).updCtx l k c fun x => { x with st.atrap := x.st.keepSysc })
  | .frozen w late => (if joint then landed else s2).updCtx l k c fun x => (x.waitX w landed.ticks).countFreeze late
  | .catchUp =>
    let v := s2.updCtx l k c fun x => x.countFreeze false
    match (v.ctx l k c).deadlock with
    | some t => takeTrap l k c t v
    | none => v

/-- With no trap to take, results land, the access stream and then the execute stream may issue (R246, R248). -/
theorem streams_issue {s : State} {l k c : Nat} (due : (s.ctx l k c).dueTrap = none) (trap : (s.ctx l k c).st.atrap = none ∨ (s.ctx l k c).st.run ≠ [])
    {s1 s2 : State} {a : AccessEnd} {e : ExecEnd}
    (access : if (s.ctx l k c).mayAccess = true ∧ (s.ctx l k c).st.run.length ≤ 16 then (s.landNow l k c).accessTry l k c = (s1, a)
      else s1 = s.landNow l k c ∧ a = .stalled)
    (execute : s1.execTry l k c = (s2, e)) :
    s.streams l k c = streamsEnd l k c (s.landNow l k c) s2 ((s.ctx l k c).st.run.length == 16)
      ((s.ctx l k c).st.run.length == 16 || (a == .issued && ((s1.ctx l k c).st.run.getLast?.map (·.sync)).getD false)) e := by
  have access : (if (s.ctx l k c).mayAccess && decide ((s.ctx l k c).st.run.length ≤ 16) then (s.landNow l k c).accessTry l k c
      else (s.landNow l k c, .stalled)) = (s1, a) := by
    split at access <;> rename_i may
    · rw [if_pos (by simpa using may), access]
    · obtain ⟨rfl, rfl⟩ := access
      rw [if_neg (by simpa using may)]
  unfold State.streams
  simp only [due]
  split
  · rename_i t h1 h2
    simp [h1, List.isEmpty_iff.mp h2] at trap
  · rw [State.landNow] at access ⊢
    rw [access]
    dsimp only
    rw [execute]
    cases e <;> rfl
/-! Landings and the ends of waits (R56, R70, R178, R256, R401, R402) -/

theorem exec_resultLanding {s : State} {l k c : Nat} (units : (dieOk l && decide (k < 48)) = true) (active : (s.core l k).active = some c)
    (live : (s.ctx l k c).live = true) (due : ∃ f ∈ (s.ctx l k c).st.flight, f.land ≤ (s.ctx l k c).st.cc) :
    exec (.resultLanding l k) s = .next (s.updCtx l k c fun x => x.landAll s.ticks) := by
  refine runEv_ok units ?_
  rw [evResultLanding, bind_ok (getS_run s)]
  simp only [active]
  exact bind_ok (need_ok (by simpa [live] using due) s) _

theorem exec_landingSlotFill {s : State} {l k e d n : Nat} {u : State} {back : State → State} (h : At s l k e u d back)
    (units : (dieOk l && decide (k < 48)) = true) (hn : n < 32) (live : (u.ctx l k d).live = true)
    (pending : ((u.ctx l k d).regs.ls.getD n {}).st = .pending) (local_ : ((u.ctx l k d).regs.ls.getD n {}).here = true)
    (due : ((u.ctx l k d).regs.ls.getD n {}).due ≤ (u.core l k).clk + 1) : exec (.landingSlotFill l k e n) s =
      .next (back (u.updCtx l k d fun x => { x with regs.ls := x.regs.ls.modify n fun sl => { sl with st := .arrived } })) := by
  refine runEv_ok (by rw [units_of_at h units]; exact decide_eq_true hn) (onCtx_at h ?_)
  rw [bind_ok (getS_run u)]
  exact bind_ok (need_ok (by simp only [State.slotDue, live, pending, local_, due]; rfl) u) _

theorem exec_fenceComplete {s : State} {l k c n : Nat} (on : OnCtx l k c) (fence : (s.ctx l k c).fence = some n) (live : (s.ctx l k c).live = true)
    (met : s.fenceMet l k c n = true) : exec (.fenceComplete l k c) s = .next (s.updCtx l k c fun x =>
      { x.endWaitA (s.chargeTick l k c) with fence := none, readyAt := s.ticks, agedAt := s.ticks }) := by
  obtain ⟨hl, hk, hc⟩ := on
  refine runEv_ok (by simp [hl, hk, hc]) ?_
  rw [evFenceComplete, bind_ok (getS_run s)]
  simp only [fence]
  exact bind_ok (need_ok (by rw [live, met]; rfl) s) _

theorem exec_waitcTimeout {s : State} {l k c : Nat} {w : Waitc} (on : OnCtx l k c) (waits : (s.ctx l k c).waitc = some w)
    (may : (s.ctx l k c).mayAccess = true) (active : (s.core l k).active = some c) (uncal : (s.core l k).calRun = 0)
    (chosen : (s.core l k).switching = 0) : exec (.waitcTimeout l k c) s = .next ((timeTo s w.ends).accessAlone l k c) := by
  obtain ⟨hl, hk, hc⟩ := on
  refine runEv_ok (by simp [hl, hk, hc]) ?_
  rw [evWaitcTimeout, bind_ok (getS_run s)]
  simp only [waits]
  exact bind_ok (need_ok (by simp [may, active, uncal, chosen]) s) _

/-- The access stream alone issues while fewer than 16 bundles are ahead (R246). -/
theorem accessAlone_eq {s : State} {l k c : Nat} (may : (s.ctx l k c).mayAccess = true) :
    s.accessAlone l k c = if (s.ctx l k c).st.run.length ≤ 15 then (s.accessTry l k c false).1 else s := by
  rw [State.accessAlone, may]
  simp

/-! Grants (R78) -/

/-- The first of a list by claim order is the one that comes strictly before all others. -/
theorem foldl_claimsBefore {now : Nat} {e : Nat × Ctx} {b : Nat × Ctx} {qs : List (Nat × Ctx)} (mem : e = b ∨ e ∈ qs)
    (first : ∀ q, q = b ∨ q ∈ qs → q = e ∨ (claimsBefore now e.2 q.2 = true ∧ claimsBefore now q.2 e.2 = false)) :
    (qs.foldl (fun b q => if claimsBefore now b.2 q.2 then b else q) b) = e := by
  induction qs generalizing b with
  | nil => exact (mem.resolve_right List.not_mem_nil).symm
  | cons q qs ih =>
    rw [List.foldl_cons]
    refine ih ?_ fun p hp => first p ?_
    · rcases mem with rfl | mem
      · rcases first q (by simp) with rfl | ⟨before, _⟩
        · exact .inl (ite_self _).symm
        · exact .inl (if_pos before).symm
      · rcases List.mem_cons.mp mem with rfl | mem
        · rcases first b (.inl rfl) with rfl | ⟨_, after⟩
          · exact .inl (ite_self _).symm
          · exact .inl (by rw [after]; rfl)
        · exact .inr mem
    · rcases hp with rfl | hp
      · exact (ite_eq_or_eq _ b q).imp_right fun same => by rw [same]; exact List.mem_cons_self
      · exact .inr (List.mem_cons_of_mem q hp)

theorem mem_claimants {s : State} {l k : Nat} {c : Claim} {q : Nat × Ctx} :
    q ∈ s.claimants l k c ↔ q ∈ (s.core l k).ctxs ∧ q.1 < 4 ∧ q.2.live = true ∧ q.2.sid ∈ c.waiting := by
  simp [State.claimants, and_assoc]

/-- A free object goes to its first claimant on the core (R78). -/
theorem exec_claimGrant {s : State} {l k n : Nat} {tile : Bool} {e : Nat × Ctx} (units : (dieOk l && decide (k < 48)) = true) (hn : n < 4)
    (free : ((s.core l k).claim tile n).st = .free) (waits : e ∈ s.claimants l k ((s.core l k).claim tile n))
    (first : ∀ q ∈ s.claimants l k ((s.core l k).claim tile n), q = e ∨ (claimsBefore s.ticks e.2 q.2 = true ∧ claimsBefore s.ticks q.2 e.2 = false)) :
    let t := s.updCore l k fun y => y.setClaim tile n fun c =>
      { c with st := .reserved, owner := e.2.sid, readers := 0, faulted := 0, again := 0, waiting := c.waiting.filter (· != e.2.sid) }
    exec (.claimGrant l k tile n) s = .next (t.updCtx l k e.1 fun x =>
      { x.endClaimWaits (t.chargeTick l k e.1) with claimWait := none, readyAt := t.ticks, agedAt := t.ticks }) := by
  refine runEv_ok (by rw [units]; exact decide_eq_true hn) ?_
  rw [evClaimGrant, bind_ok (getS_run s)]
  dsimp only
  match hqs : s.claimants l k ((s.core l k).claim tile n), waits, first with
  | b :: qs, waits, first =>
    have chosen : qs.foldl (fun b q => if claimsBefore s.ticks b.2 q.2 then b else q) b = e :=
      foldl_claimsBefore (List.mem_cons.mp waits) fun q hq => first q (List.mem_cons.mpr hq)
    simp only [chosen]
    exact bind_ok (need_ok (by rw [free]; rfl) s) _

/-! Bank service (R57, R276) -/

/-- A core's bank serves the oldest request for it. -/
theorem exec_nbrRequestArrival {s : State} {l k : Nat} {r : NbrReq} {rest : List NbrReq} (units : (dieOk l && decide (k < 48)) = true)
    (oldest : (s.core l k).nbrQ = r :: rest) :
    exec (.nbrRequestArrival l k) s = .next ((s.updCore l k fun y => { y with nbrQ := rest }).serveNbr l k r) := by
  refine runEv_ok units ?_
  rw [evNbrRequestArrival, bind_ok (getS_run s)]
  simp only [oldest]
  rfl

theorem serveNbr_load (s : State) (l k : Nat) {r : NbrReq} (kind : r.kind = 0) : s.serveNbr l k r =
    s.answerNbr l r (extendVal r.sx r.n (leNat ((s.core l k).spRead 0 r.off r.n))) 0 ((s.core l k).spBad 0 r.off r.n) 1 := by
  unfold State.serveNbr
  simp only [kind]

theorem serveNbr_loadVec (s : State) (l k : Nat) {r : NbrReq} (kind : r.kind = 1) : s.serveNbr l k r =
    s.answerNbr l r ((s.core l k).readVec r.swz r.rl r.off r.side).1 ((s.core l k).readVec r.swz r.rl r.off r.side).2.1
      ((s.core l k).readVec r.swz r.rl r.off r.side).2.2 (vecTime r.swz r.rl r.off r.side) := by
  unfold State.serveNbr
  simp only [kind]

theorem serveNbr_store (s : State) (l k : Nat) {r : NbrReq} (kind : r.kind = 2) : s.serveNbr l k r = s.updCore l k fun y => y.spWrite 0 r.off r.data := by
  unfold State.serveNbr
  simp only [kind]

theorem serveNbr_storeVec (s : State) (l k : Nat) {r : NbrReq} (kind : r.kind = 3) : s.serveNbr l k r =
    s.updCore l k fun y => y.writeVec r.swz r.rl r.off r.side
      { data := BitVec.ofNat 2048 (leNat (r.data.take 256)), side := BitVec.ofNat 256 (leNat (r.data.drop 256)) } := by
  unfold State.serveNbr
  simp only [kind]

/-- An atomic on the bank writes unless the word read is poisoned or a comparison fails, and answers with the old value (R276). -/
theorem serveNbr_atomic (s : State) (l k : Nat) {r : NbrReq} (kind : 4 ≤ r.kind) : s.serveNbr l k r =
    let old := leNat ((s.core l k).spRead 0 r.off r.n)
    let bad := (s.core l k).spBad 0 r.off r.n
    let v := r.v.toNat % 2 ^ (8 * r.n)
    (if bad = true ∨ (r.opn = 9 ∧ old ≠ v) then s
      else s.updCore l k fun y => y.spWrite 0 r.off (natLe r.n (atomNew r.opn (8 * r.n) old v (r.w.toNat % 2 ^ (8 * r.n))))).answerNbr l r old 0 bad 1 := by
  unfold State.serveNbr
  split
  · omega
  · omega
  · omega
  · omega
  · simp

/-! The obligation -/

theorem exec_bundleIssue {s t : State} {l k : Nat} (units : (dieOk l && decide (k < 48)) = true) (clock : s.clock l k = t) :
    exec (.bundleIssue l k) s = .next t := by
  refine runEv_ok (m := evBundleIssue l k) units ?_
  rw [evBundleIssue, updS_run, clock]

/-- What a bundle's clock answers, by the state `u` in which the clock has begun: a switch, no context, a context that stands and one that runs. -/
theorem exec_bundleIssue_answers {s u : State} {l k c : Nat} (units : (dieOk l && decide (k < 48)) = true) (begun : u = clockBegun s l k) :
    ((u.core l k).switching ≠ 0 →
      exec (.bundleIssue l k) s = .next (u.updCore l k fun y => { y with switching := y.switching - 1, freeze := y.freeze - 1 })) ∧
    ((u.core l k).switching = 0 → (u.core l k).active = none → exec (.bundleIssue l k) s = .next (thawed l k u)) ∧
    ((u.core l k).switching = 0 → (u.core l k).active = some c →
      (((u.core l k).ctx c).live = false ∨ ((u.core l k).ctx c).paused.isSome = true ∨ (u.core l k).hasSet ((u.core l k).ctx c) = false →
        exec (.bundleIssue l k) s = .next (thawed l k u)) ∧
      (((u.core l k).ctx c).live = true → ((u.core l k).ctx c).paused = none → (u.core l k).hasSet ((u.core l k).ctx c) = true →
        ((u.core l k).freeze ≠ 0 →
          exec (.bundleIssue l k) s = .next (clockEnds l k c (((thawed l k u).updCtx l k c fun x => x.countFreeze false).accessAlone l k c))) ∧
        ((u.core l k).freeze = 0 →
          let v := (u.landNow l k c).arrayClock l k c
          ((v.core l k).freeze ≠ 0 →
            exec (.bundleIssue l k) s = .next (clockEnds l k c (((thawed l k v).updCtx l k c fun x => x.countFreeze false).accessAlone l k c))) ∧
          ((v.core l k).freeze = 0 → exec (.bundleIssue l k) s = .next (clockEnds l k c (v.streams l k c)))))) := by
  refine ⟨fun switches => exec_bundleIssue units (clock_switching begun switches),
    fun chosen inactive => exec_bundleIssue units (clock_inactive begun chosen inactive), fun chosen active =>
    ⟨fun stands => exec_bundleIssue units (clock_stands begun chosen active (not_runs stands)), fun live unpaused set => ?_⟩⟩
  have run := clock_runs begun chosen active ⟨live, unpaused, set⟩
  refine ⟨fun frozen => ?_, fun free => ⟨fun late => ?_, fun moves => ?_⟩⟩
  · exact exec_bundleIssue units (run.trans (congrArg _ (clockWork_frozen frozen)))
  · exact exec_bundleIssue units (run.trans (congrArg _ (clockWork_freezes free late)))
  · exact exec_bundleIssue units (run.trans (congrArg _ (clockWork_moves free moves)))

/-- What a clock of the streams leaves, by how the execute stream ends (R246, R248, R416). -/
theorem streams_ends {s : State} {l k c : Nat} (due : (s.ctx l k c).dueTrap = none) (trap : (s.ctx l k c).st.atrap = none ∨ (s.ctx l k c).st.run ≠ [])
    {landed s1 s2 : State} {a : AccessEnd} {e : ExecEnd} (hlanded : landed = s.landNow l k c)
    (access : if (s.ctx l k c).mayAccess = true ∧ (s.ctx l k c).st.run.length ≤ 16 then landed.accessTry l k c = (s1, a) else s1 = landed ∧ a = .stalled)
    (execute : s1.execTry l k c = (s2, e)) :
    let full := (s.ctx l k c).st.run.length = 16
    let synced := full ∨ (a = .issued ∧ ((s1.ctx l k c).st.run.getLast?.map (·.sync)).getD false = true)
    (e = .issued → s.streams l k c = (s2.noteStart l k c).updCore l k fun y => { y with issuing := y.issuing + 1 }) ∧
    (∀ w late, e = .frozen w late → s.streams l k c = (if synced then landed else s2).updCtx l k c fun x => (x.waitX w landed.ticks).countFreeze late) ∧
    (∀ t, e = .trapped t → s.streams l k c =
      takeTrap l k c { t with access := false } ((if full then landed else s2).updCtx l k c fun x => { x with st.atrap := x.st.keepSysc })) ∧
    (e = .catchUp →
      let v := s2.updCtx l k c fun x => x.countFreeze false
      ((v.ctx l k c).deadlock = none → s.streams l k c = v) ∧ ∀ t, (v.ctx l k c).deadlock = some t → s.streams l k c = takeTrap l k c t v) := by
  subst hlanded
  rw [streams_issue due trap access execute]
  refine ⟨?_, ?_, ?_, ?_⟩
  · rintro rfl
    rfl
  · rintro w late rfl
    exact congrArg (fun u : State => u.updCtx l k c _) (if_congr (by simp) rfl rfl)
  · rintro t rfl
    exact congrArg (fun u : State => takeTrap l k c _ (u.updCtx l k c _)) (if_congr (by simp) rfl rfl)
  · rintro rfl
    exact ⟨fun none_ => by simp only [streamsEnd, none_], fun t some_ => by simp only [streamsEnd, some_]⟩

/-- Settles O39, event by event. -/
theorem coreEvents_hold : Obligations.CoreEvents := by
  intro s l k c on
  have units := units_of_onCtx on
  refine ⟨?_, ⟨fun t => streams_due, fun t => streams_access, fun due trap landed s1 s2 a e => streams_ends due trap⟩,
    fun active live due => exec_resultLanding units active live due,
    fun e d n u back at_ hn live pending local_ due => exec_landingSlotFill at_ units hn live pending local_ due,
    fun n fence live met => exec_fenceComplete on fence live met, ?_, ?_, ?_,
    fun held => runEv_ok units ((bind_ok (getS_run s) _).trans (bind_ok (need_ok (by simpa using held) s) _))⟩
  · intro t r u y thaw ends
    have begun : u = clockBegun s l k := by rw [clockBegun]
    have answers := exec_bundleIssue_answers (c := c) units begun
    have hends : ends = clockEnds l k c := rfl
    have hthaw : thaw = thawed l k := rfl
    clear_value ends thaw u
    subst hends hthaw
    exact answers
  · intro w waits may active uncal chosen
    have wait := exec_waitcTimeout on waits may active uncal chosen
    rw [accessAlone_eq (s := timeTo s w.ends) may] at wait
    refine ⟨fun few => wait.trans ?_, fun many => wait.trans ?_⟩
    · exact congrArg _ (if_pos few)
    · exact congrArg _ (if_neg (Nat.not_le.mpr many))
  · intro tile n e hn free waits_ waits first
    refine exec_claimGrant units hn free (mem_claimants.mpr waits) fun q hq => (first q (mem_claimants.mp hq)).imp_right fun before => ?_
    simp only [claimsBefore, Bool.or_eq_true, Bool.and_eq_true, decide_eq_true_eq, beq_iff_eq, Bool.or_eq_false_iff, Bool.and_eq_false_iff,
      decide_eq_false_iff_not, beq_eq_false_iff_ne]
    omega
  · intro r rest oldest
    have serve := exec_nbrRequestArrival units oldest
    exact ⟨fun kind => serve.trans (congrArg _ (serveNbr_load _ l k kind)), fun kind => serve.trans (congrArg _ (serveNbr_loadVec _ l k kind)),
      fun kind => serve.trans (congrArg _ (serveNbr_store _ l k kind)), fun kind => serve.trans (congrArg _ (serveNbr_storeVec _ l k kind)),
      fun kind => serve.trans (congrArg _ (serveNbr_atomic _ l k kind))⟩

end Sys2Proof.Machine

/-! Array events (R357, R359): a renormalisation step with no pass to count it. -/

namespace Sys2Proof.Machine

open Sys2Proof.Claim

/-- A state whose core has an active context, an accumulator overflow to renormalise and no pass, with its contexts listed out of order. -/
def unorderedContexts : State := { lds := [(0, { cores := [(0, { ctxs := [(1, {}), (0, { live := true })], active := some 0, renorm := some 0 })] })] }

theorem unorderedContexts_array : ArrayOf unorderedContexts 0 0 0 { live := true } := ⟨rfl, rfl, rfl, rfl, rfl⟩

/-- The entries of a core's contexts after an outcome, by their numbers. -/
def contextNumbers (l k : Nat) : Res → List Nat
  | .next t => (contextsOf k (t.ld l)).map (·.1)
  | _ => []

/-- The step writes the active context back, which adds an entry for it: the one that the list holds is not where the map looks for it. -/
theorem contextNumbers_renormalisation : contextNumbers 0 0 (exec (.renormalisationStep 0 0 0) unorderedContexts) = [0, 1, 0] := rfl

/-- Refutes O43: with no pass to count the step the statement leaves the contexts as they are; the model writes the active one back, and where the
state lists its contexts out of order (`unorderedContexts`) that adds an entry. -/
theorem not_arrayEvents : ¬ Obligations.ArrayEvents := by
  intro holds
  obtain ⟨events, -⟩ := holds unorderedContexts 0 0 0 { live := true } ⟨rfl, by decide, by decide⟩
  obtain ⟨-, -, renormalises, -⟩ := events unorderedContexts_array
  have unchanged := (renormalises 0 (by decide) rfl).1 fun p mem => absurd mem List.not_mem_nil
  have same := (contextNumbers_renormalisation.symm.trans (congrArg (contextNumbers 0 0) unchanged)).trans (show _ = [1, 0] from rfl)
  exact absurd same (by decide)

end Sys2Proof.Machine

/-! Codebooks: banks read through indices, and the words vcbx and vcbi (R80, R91, R99, R100, R316, R317). -/

namespace Sys2Proof.Machine

open Sys2Proof.Claim

/-! Banks and their entries -/

/-- A bank whose registers hold no poison may be used (R437). -/
theorem useBank_ok {s : State} {n : Nat} (clean : ((here s).banks.getD n {}).regsClean = true) (slot : Nat) :
    useBank slot n s = .ok ((here s).banks.getD n {}, s) := by
  rw [useBank, bind_ok (show getBank n s = .ok ((here s).banks.getD n {}, s) from rfl), bind_ok (check_ok clean slot 0x1C3 0 s), M_pure]

/-- A valid entry without poison is read (R91, R100). -/
theorem readEntry_ok {b : Bank} {i : Nat} (valid : b.valid i = true) (clean : b.poison.has i = false) (slot bank col : Nat) (s : State) :
    readEntry slot bank b i col s = .ok (b.entry i, s) := by
  rw [readEntry, valid, clean]
  rfl

theorem readEntries_ok {b : Bank} {is : List Nat} (readable : Readable b is) (slot bank col : Nat) (s : State) :
    readEntries slot bank b col is s = .ok (is.map b.entry, s) := by
  induction is generalizing col with
  | nil => rfl
  | cons i r ih =>
    obtain ⟨valid, clean⟩ := readable i List.mem_cons_self
    have rest := ih (fun j mem => readable j (List.mem_cons_of_mem i mem)) (col + 1)
    rw [readEntries, bind_ok (readEntry_ok valid clean slot bank col s), bind_ok rest, M_pure, List.map_cons]

/-- The indices of an expansion through a scalar bank are as many as its elements fill a vector with (R84, R86). -/
theorem expandVector_scalar {b : Bank} {w : Nat} {v : VReg} (kind : b.kind = 1) (readable : Readable b (indices w (2048 / fw b.elem) v.data.toNat))
    (slot bank : Nat) (s : State) :
    expandVector slot bank w b v s = .ok (packNat (fw b.elem) ((indices w (2048 / fw b.elem) v.data.toNat).map b.entry), s) := by
  rw [expandVector, if_pos kind, bind_ok (readEntries_ok readable slot bank 0 s), M_pure]

/-- An expansion through a short-vector bank has 32 indices, each of 64 bits (R84, R86). -/
theorem expandVector_short {b : Bank} {w : Nat} {v : VReg} (kind : b.kind ≠ 1) (readable : Readable b (indices w 32 v.data.toNat))
    (slot bank : Nat) (s : State) : expandVector slot bank w b v s = .ok (packNat 64 ((indices w 32 v.data.toNat).map b.entry), s) := by
  rw [expandVector, if_neg kind, bind_ok (readEntries_ok readable slot bank 0 s), M_pure]

/-! vcbx (R316) -/

section

variable {s : State} {a x : BitVec 4} {va : VReg} {b : Bank} {w : Nat} (ha : VectorIs s a va) (hb : b = (here s).banks.getD (x.toNat / 4) {})
  (clean : b.regsClean = true) (hw : w = indexWidth (x.toNat % 4))

include ha hb clean hw

/-- Through a bank of elements or short vectors, vcbx sends the expansion of its operand. -/
theorem opVcbx_expands {data : Nat} (kind : b.kind = 1 ∨ b.kind = 2) (d : BitVec 4)
    (expands : expandVector 4 (x.toNat / 4) w b va s = .ok (data, s)) : opVcbx d a x s = .ok ((), sentV s d 2 { data := data }) := by
  subst hb hw
  have holds : (((here s).banks.getD (x.toNat / 4) {}).kind != 0) = true := by rcases kind with kind | kind <;> rw [kind] <;> rfl
  rw [opVcbx, bind_ok (readVector_is ha 4), bind_ok (useBank_ok clean 4), bind_ok (check_ok holds _ _ _ s), if_pos (by omega), bind_ok expands]
  exact sendVector_ok s d 2 { data := data }

/-- Through a bank of offsets, it sends each entry of 6 or 5 bits sign-extended to a byte. -/
theorem opVcbx_offsets {k : Nat} (kind : b.kind = 3 ∧ k = 6 ∨ b.kind = 4 ∧ k = 5) (readable : Readable b (indices w 256 va.data.toNat)) (d : BitVec 4) :
    opVcbx d a x s = .ok ((), sentV s d 2
      { data := packNat 8 (((indices w 256 va.data.toNat).map b.entry).map fun e => wrap 8 (sext e k)) }) := by
  subst hb hw
  have holds : (((here s).banks.getD (x.toNat / 4) {}).kind != 0) = true := by rcases kind with ⟨kind, -⟩ | ⟨kind, -⟩ <;> rw [kind] <;> rfl
  have width : (if ((here s).banks.getD (x.toNat / 4) {}).kind = 3 then 6 else 5) = k := by rcases kind with ⟨kind, rfl⟩ | ⟨kind, rfl⟩ <;> rw [kind] <;> rfl
  rw [opVcbx, bind_ok (readVector_is ha 4), bind_ok (useBank_ok clean 4), bind_ok (check_ok holds _ _ _ s), if_neg (by omega),
    bind_ok (readEntries_ok readable 4 _ 0 s)]
  dsimp only
  rw [width, pure_bind]
  exact sendVector_ok s d 2 { data := _ }

end

/-! The order of values and their distance (R317) -/

theorem rational_atExp (n : Bool) (m : Nat) {e q : Int} (h : q ≤ e) : rational n m e = (atExp n m e q : ℚ) * 2 ^ q := by
  obtain ⟨j, rfl⟩ : ∃ j : Nat, e = q + j := ⟨(e - q).toNat, by omega⟩
  rw [rational, atExp, add_sub_cancel_left, Int.toNat_natCast, Nat.shiftLeft_eq, zpow_add₀ two_ne_zero, zpow_natCast]
  push_cast
  ring

theorem rational_not (n : Bool) (m : Nat) (e : Int) : rational (!n) m e = -rational n m e := by
  cases n <;> simp [rational]

theorem rational_zero (n : Bool) (e : Int) : rational n 0 e = 0 := by simp [rational]

theorem rational_abs (n : Bool) (m : Nat) (e : Int) : rational false m e = |rational n m e| := by
  cases n <;> simp [rational, abs_mul]

/-- An integer taken apart into sign and magnitude, at an exponent. -/
theorem rational_ofInt (x e : Int) : rational (decide (x < 0)) x.natAbs e = (x : ℚ) * 2 ^ e := by
  rw [rational, Nat.cast_natAbs]
  by_cases neg : x < 0
  · simp [neg, abs_of_neg neg]
  · simp [neg, abs_of_nonneg (not_lt.mp neg)]

theorem fin_lt_iff (n m e n' m' e') : (FV.fin n m e).lt (.fin n' m' e') = true ↔ rational n m e < rational n' m' e' := by
  rw [rational_atExp n m (min_le_left e e'), rational_atExp n' m' (min_le_right e e'), mul_lt_mul_iff_left₀ (zpow_pos two_pos _), Int.cast_lt]
  exact decide_eq_true_iff

/-- The sum of two finite values is exact. -/
theorem fin_add (n m e n' m' e' rdn) :
    ∃ n'' m'' e'', (FV.fin n m e).add (.fin n' m' e') rdn = .fin n'' m'' e'' ∧ rational n'' m'' e'' = rational n m e + rational n' m' e' := by
  have exact_ : rational n m e + rational n' m' e' = ((atExp n m e (min e e') + atExp n' m' e' (min e e') : Int) : ℚ) * 2 ^ min e e' := by
    rw [rational_atExp n m (min_le_left e e'), rational_atExp n' m' (min_le_right e e'), Int.cast_add, add_mul]
  rw [FV.add]
  dsimp only
  by_cases zero : m = 0
  · subst zero
    by_cases zero' : m' = 0
    · subst zero'
      exact ⟨_, _, _, if_pos ⟨rfl, rfl⟩, by simp only [rational_zero, add_zero]⟩
    · rw [if_neg fun both => zero' both.2, if_pos rfl]
      exact ⟨_, _, _, rfl, by rw [rational_zero, zero_add]⟩
  rw [if_neg fun both => zero both.1, if_neg zero]
  by_cases zero' : m' = 0
  · subst zero'
    exact ⟨_, _, _, if_pos rfl, by rw [rational_zero, add_zero]⟩
  rw [if_neg zero', exact_]
  by_cases sum : atExp n m e (min e e') + atExp n' m' e' (min e e') = 0
  · rw [if_pos sum, sum]
    exact ⟨_, _, _, rfl, by rw [rational_zero, Int.cast_zero, zero_mul]⟩
  · rw [if_neg sum]
    exact ⟨_, _, _, rfl, rational_ofInt _ _⟩

/-- One finite value is nearer to a third than another when the exact distance is less. -/
theorem fin_dist_lt_iff (n m e n1 m1 e1 n2 m2 e2) :
    (((FV.fin n m e).add (.fin (!n2) m2 e2) false).abs).lt (((FV.fin n m e).add (.fin (!n1) m1 e1) false).abs) = true ↔
      |rational n m e - rational n2 m2 e2| < |rational n m e - rational n1 m1 e1| := by
  obtain ⟨p, i, j, sum, value⟩ := fin_add n m e (!n2) m2 e2 false
  obtain ⟨p', i', j', sum', value'⟩ := fin_add n m e (!n1) m1 e1 false
  rw [rational_not, ← sub_eq_add_neg] at value value'
  rw [sum, sum', FV.abs, FV.abs, fin_lt_iff, rational_abs p, rational_abs p', value, value']

/-- The order of values is that of the rationals between the two infinities. -/
theorem lt_iff_extended {v w : FV} (hv : v.isNan = false) (hw : w.isNan = false) : v.lt w = true ↔ extended v < extended w := by
  cases v with
  | nan => cases hv
  | inf n =>
    cases w with
    | nan => cases hw
    | inf p => cases n <;> cases p <;> simp [FV.lt, extended]
    | fin p i j => cases n <;> simp [FV.lt, extended, WithBot.bot_lt_coe]
  | fin n m e =>
    cases w with
    | nan => cases hw
    | inf p =>
      cases p with
      | true => simp [FV.lt, extended]
      | false => exact iff_of_true rfl (WithBot.coe_lt_coe.mpr (WithTop.coe_lt_top _))
    | fin p i j => rw [fin_lt_iff, extended, extended, WithBot.coe_lt_coe, WithTop.coe_lt_coe]

@[simp] theorem neg_isNan (v : FV) : v.neg.isNan = v.isNan := by cases v <;> rfl

theorem neg_lt_neg_value (v w : FV) : v.neg.lt w.neg = w.lt v := by
  cases v with
  | nan => cases w <;> rfl
  | inf n =>
    cases w with
    | nan => rfl
    | inf p => cases n <;> cases p <;> rfl
    | fin p i j => cases n <;> rfl
  | fin n m e =>
    cases w with
    | nan => rfl
    | inf p => cases p <;> rfl
    | fin p i j =>
      rw [Bool.eq_iff_iff, FV.neg, FV.neg, fin_lt_iff, fin_lt_iff, rational_not, rational_not, neg_lt_neg_iff]

/-- The model's comparison of two candidates says which is at the lesser distance. -/
theorem nearer_iff {a : FV} {c e : Nat × FV} (ha : a.isNan = false) (hc : c.2.isNan = false) (he : e.2.isNan = false) :
    nearer a c e = true ↔ away a e.2 < away a c.2 := by
  obtain ⟨i, v⟩ := c
  obtain ⟨j, w⟩ := e
  cases a with
  | nan => cases ha
  | inf n =>
    cases n with
    | true => exact lt_iff_extended he hc
    | false =>
      refine Iff.trans ?_ (lt_iff_extended ((neg_isNan w).trans he) ((neg_isNan v).trans hc))
      rw [neg_lt_neg_value]
      rfl
  | fin n m e =>
    cases v with
    | nan => cases hc
    | inf p =>
      cases w with
      | nan => cases he
      | inf q => simp [nearer, away]
      | fin q i j => exact iff_of_true rfl (WithBot.coe_lt_coe.mpr (WithTop.coe_lt_top _))
    | fin p i j =>
      cases w with
      | nan => cases he
      | inf q => simp [nearer, away]
      | fin q i j =>
        refine (fin_dist_lt_iff _ _ _ _ _ _ _ _ _).trans ?_
        rw [away, away, WithBot.coe_lt_coe, WithTop.coe_lt_coe]

/-! The nearest candidate -/

/-- Candidates in the order of R317: by their distance, then by their index. -/
def rank (a : FV) (e : Nat × FV) : WithBot (WithTop ℚ) ×ₗ Nat := toLex (away a e.2, e.1)

theorem nearest_of_rank {a v : FV} {i : Nat} {cs : List (Nat × FV)} (mem : (i, v) ∈ cs) (least : ∀ e ∈ cs, rank a (i, v) ≤ rank a e) :
    Nearest a cs i := ⟨v, mem, fun e he => (Prod.Lex.toLex_le_toLex).mp (least e he)⟩

/-- The one that the search keeps of two candidates. -/
def kept (a : FV) (best e : Nat × FV) : Nat × FV := if nearer a best e then e else best

theorem kept_eq (a : FV) (best e : Nat × FV) : kept a best e = best ∨ kept a best e = e := by
  rw [kept]
  split
  · exact .inr rfl
  · exact .inl rfl

/-- Of a candidate and one of a higher index the search keeps one that neither comes before. -/
theorem rank_kept_le {a : FV} {c e : Nat × FV} (ha : a.isNan = false) (hc : c.2.isNan = false) (he : e.2.isNan = false) (before : c.1 < e.1) :
    rank a (kept a c e) ≤ rank a c ∧ rank a (kept a c e) ≤ rank a e := by
  rw [kept]
  split <;> rename_i near <;> rw [nearer_iff ha hc he] at near
  · exact ⟨(Prod.Lex.toLex_le_toLex).mpr (.inl near), le_rfl⟩
  · refine ⟨le_rfl, (Prod.Lex.toLex_le_toLex).mpr ?_⟩
    exact (not_lt.mp near).lt_or_eq.imp_right fun same => ⟨same, before.le⟩

/-- The search over candidates of rising indices ends at one that no other comes before. -/
theorem foldl_kept {a : FV} (ha : a.isNan = false) (r : List (Nat × FV)) (c : Nat × FV) (values : ∀ e ∈ c :: r, e.2.isNan = false)
    (rising : (c :: r).Pairwise fun e f => e.1 < f.1) :
    r.foldl (kept a) c ∈ c :: r ∧ ∀ e ∈ c :: r, rank a (r.foldl (kept a) c) ≤ rank a e := by
  induction r generalizing c with
  | nil => simp
  | cons e r ih =>
    obtain ⟨first, later⟩ := List.pairwise_cons.mp rising
    have hc := values c List.mem_cons_self
    have he := values e (List.mem_cons_of_mem c List.mem_cons_self)
    obtain ⟨below, below'⟩ := rank_kept_le ha hc he (first e List.mem_cons_self)
    have sub : ∀ f ∈ kept a c e :: r, f ∈ c :: e :: r := by
      intro f mem
      rcases List.mem_cons.mp mem with rfl | mem
      · rcases kept_eq a c e with same | same <;> simp [same]
      · simp [mem]
    have before : ∀ f ∈ r, (kept a c e).1 < f.1 := by
      intro f mem
      rcases kept_eq a c e with same | same <;> rw [same]
      · exact first f (List.mem_cons_of_mem e mem)
      · exact (List.pairwise_cons.mp later).1 f mem
    obtain ⟨mem, least⟩ := ih (kept a c e) (fun f mem => values f (sub f mem)) (List.pairwise_cons.mpr ⟨before, (List.pairwise_cons.mp later).2⟩)
    rw [List.foldl_cons]
    refine ⟨sub _ mem, fun f hf => ?_⟩
    have top := least _ List.mem_cons_self
    rcases List.mem_cons.mp hf with rfl | hf
    · exact top.trans below
    rcases List.mem_cons.mp hf with rfl | hf
    · exact top.trans below'
    · exact least f (List.mem_cons_of_mem _ hf)

/-- The search finds the lowest index of a candidate at the least distance (R317). -/
theorem nearest_finds {a : FV} (ha : a.isNan = false) {cs : List (Nat × FV)} (some_ : cs ≠ []) (values : ∀ e ∈ cs, e.2.isNan = false)
    (rising : cs.Pairwise fun e f => e.1 < f.1) : Nearest a cs ((nearest a cs).getD 0) := by
  cases cs with
  | nil => exact absurd rfl some_
  | cons c r =>
    obtain ⟨mem, least⟩ := foldl_kept ha r c values rising
    exact nearest_of_rank mem least

/-! vcbi (R317) -/

/-- The value of an entry of a scalar bank. -/
def Bank.value (b : Bank) (i : Nat) : FV := codeValue b.elem (b.entry i % 2 ^ fw b.elem)

/-- The candidates for a value that is no NaN: the entries among some that are no NaN, each with its index. -/
def Bank.candidates (b : Bank) (valid : List Nat) : List (Nat × FV) := (valid.map fun i => (i, b.value i)).filter fun e => !e.2.isNan

/-- The index that vcbi writes for a value (R317). -/
def Bank.indexFor (b : Bank) (valid : List Nat) (v : FV) : Nat :=
  if v.isNan then (valid.find? fun i => (b.value i).isNan).getD 0 else (nearest v (b.candidates valid)).getD 0

/-- The search of the model takes the index of a NaN from the entries listed with their indices. -/
theorem indexFor_eq (b : Bank) (valid : List Nat) :
    (fun v : FV => if v.isNan then (((valid.map fun i => (i, b.value i)).find? fun e => e.2.isNan).map (·.1)).getD 0
      else (nearest v (b.candidates valid)).getD 0) = b.indexFor valid := by
  funext v
  rw [Bank.indexFor, List.find?_map, Option.map_map]
  exact if_congr Iff.rfl (congrArg (Option.getD · 0) Option.map_id') rfl

theorem isNone_find?_nan (b : Bank) (valid : List Nat) :
    ((valid.map fun i => (i, b.value i)).find? fun e => e.2.isNan).isNone = (valid.find? fun i => (b.value i).isNan).isNone := by
  rw [List.find?_map, Option.isNone_map]
  rfl

theorem candidates_values (b : Bank) (valid : List Nat) : ∀ e ∈ b.candidates valid, e.2.isNan = false := by
  intro e mem
  simpa using (List.mem_filter.mp mem).2

/-- The candidates among the valid indices of a width stand in the order of their indices. -/
theorem candidates_rising (b : Bank) (w : Nat) : (b.candidates ((List.range (2 ^ w)).filter b.valid)).Pairwise fun e f => e.1 < f.1 :=
  ((List.pairwise_lt_range.filter b.valid).map (fun i => (i, b.value i)) fun _ _ below => below).filter _

/-- vcbi sends an index for each element (R317). -/
theorem opVcbi_ok {s : State} {a x : BitVec 4} {va : VReg} {b : Bank} {w : Nat} {valid : List Nat} (ha : VectorIs s a va)
    (hb : b = (here s).banks.getD (x.toNat / 4) {}) (clean : b.regsClean = true) (hw : w = indexWidth (x.toNat % 4)) (kind : b.kind = 1)
    (hvalid : valid = (List.range (2 ^ w)).filter b.valid) (unpoisoned : ∀ i ∈ valid, b.poison.has i = false)
    (enough : b.candidates valid = [] → ∀ v ∈ values b.elem va.data.toNat va.side.toNat, v.isNan = true) (d : BitVec 4) :
    opVcbi d a x s = .ok ((), sentV s d 7
      { data := packNat w ((values b.elem va.data.toNat va.side.toNat).map (b.indexFor valid))
        fl := flagIf ((valid.find? fun i => (b.value i).isNan).isNone && (values b.elem va.data.toNat va.side.toNat).any FV.isNan) fNV }) := by
  have unpoisoned : (!(valid.any b.poison.has)) = true := by simpa using unpoisoned
  have enough : (!((b.candidates valid).isEmpty && (values b.elem va.data.toNat va.side.toNat).any fun v => !v.isNan)) = true := by
    by_cases none_ : b.candidates valid = []
    · simpa [none_] using enough none_
    · simp [none_]
  rw [← indexFor_eq, ← isNone_find?_nan]
  subst hb hw hvalid
  have scalar : (((here s).banks.getD (x.toNat / 4) {}).kind == 1) = true := beq_iff_eq.mpr kind
  rw [opVcbi, bind_ok (readVector_is ha 4), bind_ok (useBank_ok clean 4), bind_ok (check_ok scalar _ _ _ s), bind_ok (check_ok unpoisoned _ _ _ s)]
  exact (bind_ok (check_ok enough _ _ _ s) _).trans (sendVector_ok s d 7 { data := _, fl := _ })

/-- The index for a value that is no NaN is that of the nearest candidate (R317). -/
theorem indexFor_nearest {b : Bank} {w : Nat} {v : FV} (hv : v.isNan = false) (some_ : b.candidates ((List.range (2 ^ w)).filter b.valid) ≠ []) :
    Nearest v (b.candidates ((List.range (2 ^ w)).filter b.valid)) (b.indexFor ((List.range (2 ^ w)).filter b.valid) v) := by
  rw [Bank.indexFor, hv, if_neg Bool.false_ne_true]
  exact nearest_finds hv some_ (candidates_values b _) (candidates_rising b w)

/-- Settles O22: vcbx by the kind of its bank; vcbi by a search whose fold keeps the least of the candidates by distance and index. -/
theorem codebookVectors : Obligations.CodebookVectors := by
  intro s d a x va b w ha hb clean hw
  refine ⟨?_, ?_⟩
  · rintro n rfl readable
    refine ⟨fun kind => ?_, fun kind => ?_, fun kind => ?_, fun kind => ?_⟩ <;> simp only [kind] at readable ⊢
    · exact runSlot_ok _ s _ (opVcbx_expands ha hb clean hw (.inl kind) d (expandVector_scalar kind readable 4 _ s))
    · exact runSlot_ok _ s _ (opVcbx_expands ha hb clean hw (.inr kind) d (expandVector_short (by omega) readable 4 _ s))
    · exact runSlot_ok _ s _ (opVcbx_offsets ha hb clean hw (.inl ⟨kind, rfl⟩) readable d)
    · exact runSlot_ok _ s _ (opVcbx_offsets ha hb clean hw (.inr ⟨kind, rfl⟩) readable d)
  · intro kind valid hvalid unpoisoned value vs cands nan enough
    refine ⟨vs.map (b.indexFor valid), List.length_map _, fun e he => ?_, runSlot_ok _ s _ (opVcbi_ok ha hb clean hw kind hvalid unpoisoned enough d)⟩
    have at_ : vs.getD e (.inf false) = vs[e] := List.getD_eq_getElem _ _ he
    have index : (vs.map (b.indexFor valid)).getD e 0 = b.indexFor valid vs[e] := by
      rw [List.getD_eq_getElem _ _ (by rwa [List.length_map]), List.getElem_map]
    rw [at_, index]
    refine ⟨fun isNan => if_pos isNan, fun noNan => ?_⟩
    subst hvalid
    refine indexFor_nearest noNan fun none_ => ?_
    rw [enough none_ vs[e] (List.getElem_mem he)] at noNan
    cases noNan

end Sys2Proof.Machine

/-! Engine events (R97, R105 to R107, R126 to R132, R164, R381 to R393, R408, R423): what the copy engine, the transform core and codebook commands do
with the command that runs, and where the bytes of a copy go. -/

namespace Sys2Proof.Machine

open Sys2Proof.Claim

theorem units_of_event {l k c : Nat} (on : OnCtx l k c) : (dieOk l && decide (k < 48) && decide (c < 4)) = true := by
  obtain ⟨hl, hk, hc⟩ := on
  rw [hl, decide_eq_true hk, decide_eq_true hc]
  rfl

/-- A field that reaches to the top of a word is a quotient. -/
theorem bits_high (v : Word) : bits v.toNat 32 32 = v.toNat / 2 ^ 32 := by
  rw [bits, Nat.shiftRight_eq_div_pow]
  exact Nat.mod_eq_of_lt (by omega)

theorem updCtx_congr {s : State} {l k c : Nat} {f g : Ctx → Ctx} (h : f (s.ctx l k c) = g (s.ctx l k c)) : s.updCtx l k c f = s.updCtx l k c g := by
  have same : (s.core l k).updCtx c f = (s.core l k).updCtx c g := by rw [Core.updCtx, ← State.ctx, h, Core.updCtx, ← State.ctx]
  rw [State.updCtx, State.updCtx, State.updCore, State.updCore]
  exact updLd_congr (by rw [Ld.updCore, ← State.core, same, Ld.updCore, ← State.core])

/-! The command that runs -/

/-- The command that a context's engine works on is the one it runs, when it is of the kind asked for (R122, R377). -/
theorem runningCmd_ok {s : State} {l k c : Nat} {q : Cmd} (run : Running s l k c q) {ok : Cmd → Bool} (is : ok q = true) :
    runningCmd l k c ok s = .ok (q, s) := by
  obtain ⟨oldest, runs, free⟩ := run
  rw [runningCmd, bind_ok (getS_run s)]
  simp only [oldest]
  exact bind_ok (need_ok (by rw [runs, is, free]; rfl) s) _

theorem transforming_ok {s : State} {l k c ending : Nat} {q : Cmd} (run : Running s l k c q) (started : q.started = true)
    (ends : q.outcome.ending = ending) : transforming l k c ending s = .ok (q, s) :=
  runningCmd_ok run (by rw [started, ends]; exact beq_self_eq_true ending)

/-- An event of the running command changes the state as its kind says. -/
theorem running_updS {s : State} {l k c : Nat} {q : Cmd} (run : Running s l k c q) {ok : Cmd → Bool} (is : ok q = true) (g : Cmd → State → State) :
    (runningCmd l k c ok >>= fun q => updS (g q)) s = .ok ((), g q s) := by rw [bind_ok (runningCmd_ok run is), updS_run]

/-- A change of a command that leaves it its context is a change of the context's oldest command (R388). -/
theorem cmdOf_updCmd {s : State} {l k c : Nat} {q : Cmd} (oldest : (s.core l k).cmdOf c = some q) {f : Cmd → Cmd} (keeps : ∀ r, (f r).ctx = r.ctx) :
    ((s.updCmd l k q.id f).core l k).cmdOf c = some (f q) := by
  have same : ((fun r : Cmd => r.ctx == c) ∘ fun r => if r.id = q.id then f r else r) = fun r => r.ctx == c := by
    funext r
    rw [Function.comp_apply, apply_ite Cmd.ctx, keeps, ite_self]
  rw [Core.cmdOf] at oldest ⊢
  rw [State.updCmd, score_updCore_same, List.find?_map, same, oldest, Option.map_some, if_pos rfl]

/-! Acceptance (R377, R458) -/

section

variable {s : State} {l k c : Nat} {q : Cmd} (on : OnCtx l k c) (oldest : (s.core l k).cmdOf c = some q) (waits : q.st = .waiting)
  (free : (s.core l k).eccHold = 0) (limit : (s.pkg (pkgOf l)).holding = true → bit (s.regionOf l (s.ctx l k c).sys.opid).rcb.toNat 234 = true)
  (stands : q.isCopy = true → dSsp q.d0 = 3 → (s.core l k).renorming q.tileNo = false)

include waits free limit stands

/-- Nothing holds the acceptance of the command. -/
theorem acceptable : (q.st == .waiting && (s.core l k).eccHold == 0 &&
    !((s.pkg (pkgOf l)).holding && !bit (s.regionOf l (s.ctx l k c).sys.opid).rcb.toNat 234) &&
    !(dSsp q.d0 == 3 && q.isCopy && (s.core l k).renorming q.tileNo)) = true := by
  have unheld : ((s.pkg (pkgOf l)).holding && !bit (s.regionOf l (s.ctx l k c).sys.opid).rcb.toNat 234) = false := by simpa using limit
  have whole : (dSsp q.d0 == 3 && q.isCopy && (s.core l k).renorming q.tileNo) = false := by
    rw [Bool.and_assoc]
    simpa using fun source copy => stands copy source
  rw [waits, free, unheld, whole]
  rfl

include on oldest

theorem exec_engineCommandAccept_copy (copy : q.isCopy = true) : exec (.engineCommandAccept l k c) s = .next (s.acceptCopy l k q) := by
  refine runEv_ok (units_of_event on) ?_
  rw [evEngineCommandAccept, bind_ok (getS_run s)]
  simp only [oldest]
  rw [bind_ok (need_ok (acceptable waits free limit stands) s), if_pos copy, updS_run]

theorem exec_engineCommandAccept_other (other : q.isCopy = false) : exec (.engineCommandAccept l k c) s =
    .next ((s.fixView l k q).updCmd l k q.id fun q =>
      { q with accepted := true, st := .running, total := if q.kind = .accst then 64 * accRow q.tileFmt else q.total }) := by
  refine runEv_ok (units_of_event on) ?_
  rw [evEngineCommandAccept, bind_ok (getS_run s)]
  simp only [oldest]
  rw [bind_ok (need_ok (acceptable waits free limit stands) s), if_neg (by rw [other]; exact Bool.false_ne_true), updS_run]

end

/-! Events of the command that runs -/

section

variable {s : State} {l k c : Nat} {q : Cmd} (on : OnCtx l k c) (run : Running s l k c q)

include on run

/-! Chunks (R130, R383) -/

section

variable (chunked : q.chunked = true) (idle : q.chunk = none) (unread : q.input = none) (more : 4096 * q.chix < q.total)

include chunked idle unread more

/-- A chunk whose source does not translate stops the command. -/
theorem exec_copyChunkTranslate_unread {e : Nat × Nat} (src : s.chunkSrc l k q = .error e) :
    exec (.copyChunkTranslate l k c) s = .next (s.stopOr l k q e) := by
  refine runEv_ok (units_of_event on) ?_
  rw [evCopyChunkTranslate, running_updS run (by simp [chunked, idle, unread, more])]
  simp only [src]

variable {bs ahead : List (BitVec 8 × Bool)} {v : Ctx} (src : s.chunkSrc l k q = .ok (bs, ahead, v))

include src

/-- A chunk waits behind the packets on the way to its source's dies. -/
theorem exec_copyChunkTranslate_held (way : s.wayHeld l (farDies l (v.reads.map (·.1))) = true) :
    exec (.copyChunkTranslate l k c) s = .next s := by
  refine runEv_ok (units_of_event on) ?_
  rw [evCopyChunkTranslate, running_updS run (by simp [chunked, idle, unread, more])]
  simp only [src]
  rw [if_pos way]

/-- The chunk of a transform is read into IN; its destination follows its routine. -/
theorem exec_copyChunkTranslate_input (way : s.wayHeld l (farDies l (v.reads.map (·.1))) = false) (kind : q.kind = .cpyx) :
    exec (.copyChunkTranslate l k c) s = .next (((s.keepView l k q v).updCmd l k q.id fun q => { q with ahead := ahead }).updCmd l k q.id fun q =>
      { q with input := some (bs.map (·.1), bs.any (·.2)) }) := by
  refine runEv_ok (units_of_event on) ?_
  rw [evCopyChunkTranslate, running_updS run (by simp [chunked, idle, unread, more])]
  simp only [src]
  rw [if_neg (by rw [way]; exact Bool.false_ne_true), if_pos kind]

/-- A chunk whose destination does not translate stops the command, and the state is as it was before the read. -/
theorem exec_copyChunkTranslate_unplaced {e : Nat × Nat} (way : s.wayHeld l (farDies l (v.reads.map (·.1))) = false) (kind : q.kind ≠ .cpyx)
    (dst : ((s.keepView l k q v).updCmd l k q.id fun q => { q with ahead := ahead }).dstRun l k { q with view := v } (4096 * q.chix) bs = .error e) :
    exec (.copyChunkTranslate l k c) s = .next (s.stopOr l k { q with view := v } e) := by
  refine runEv_ok (units_of_event on) ?_
  rw [evCopyChunkTranslate, running_updS run (by simp [chunked, idle, unread, more])]
  simp only [src]
  rw [if_neg (by rw [way]; exact Bool.false_ne_true), if_neg kind]
  simp only [dst]

theorem exec_copyChunkTranslate_placed {ds : List DstB} (way : s.wayHeld l (farDies l (v.reads.map (·.1))) = false) (kind : q.kind ≠ .cpyx)
    (dst : ((s.keepView l k q v).updCmd l k q.id fun q => { q with ahead := ahead }).dstRun l k { q with view := v } (4096 * q.chix) bs = .ok ds) :
    exec (.copyChunkTranslate l k c) s = .next (((s.keepView l k q v).updCmd l k q.id fun q => { q with ahead := ahead }).chunkReady l k
      { q with view := v } (4096 * (q.chix + 1)) ds) := by
  refine runEv_ok (units_of_event on) ?_
  rw [evCopyChunkTranslate, running_updS run (by simp [chunked, idle, unread, more])]
  simp only [src]
  rw [if_neg (by rw [way]; exact Bool.false_ne_true), if_neg kind]
  simp only [dst]

end

/-! Transforms (R126 to R129, R386) -/

/-- A routine starts on its chunk, unless the chunk is poisoned (R124). -/
theorem exec_transformChunkStart {bs : List (BitVec 8)} {bad : Bool} (kind : q.kind = .cpyx) (input : q.input = some (bs, bad))
    (fresh : q.started = false) (idle : q.chunk = none) : exec (.transformChunkStart l k c) s =
      .next (if bad then s.stopCmd l k q 0x1C2 0 else s.updCmd l k q.id fun q => { q with started := true }) := by
  refine runEv_ok (units_of_event on) ?_
  rw [evTransformChunkStart, running_updS run (by simp [kind, input, fresh, idle])]
  simp only [input]
  cases bad <;> rfl

section

variable (started : q.started = true)

include started

theorem exec_transformTimeout (ends : q.outcome.ending = 3) : exec (.transformTimeout l k c) s = .next (s.stopCmd l k q 0x28A 0) := by
  refine runEv_ok (units_of_event on) ?_
  rw [evTransformTimeout, bind_ok (transforming_ok run started ends), updS_run]

theorem exec_transformException {access : Bool} (ends : q.outcome.ending = if access then 1 else 2) :
    exec (.transformException l k c access) s = .next (s.stopCmd l k q (if access then 0x289 else 0x28B) 0) := by
  refine runEv_ok (units_of_event on) ?_
  rw [evTransformException, bind_ok (transforming_ok run started ends), updS_run]

theorem exec_transformEcall_long (ends : q.outcome.ending = 0) (long : 4096 < q.outcome.a0.toNat) :
    exec (.transformEcall l k c) s = .next (s.stopCmd l k q 0x28C 0) := by
  refine runEv_ok (units_of_event on) ?_
  rw [evTransformEcall, bind_ok (transforming_ok run started ends), updS_run]
  exact congrArg (fun t => Except.ok ((), t)) (if_pos long)

/-- What a routine's chunk gives the stream: its output, cut where the copy's length ends (R128, R386). -/
def chunkOutput (q : Cmd) : List (BitVec 8 × Bool) :=
  let out := (List.range q.outcome.a0.toNat).map fun i => (q.outcome.out.getD i 0#8, false)
  if (q.d.getD 7 0#64).toNat / 2 ^ 32 = 0 then out else out.take ((q.d.getD 7 0#64).toNat / 2 ^ 32 - q.outPos)

omit on run started in
/-- The model cuts the output at the high half of the descriptor's last word. -/
theorem chunkOutput_eq (q : Cmd) : (if bits (q.d.getD 7 0#64).toNat 32 32 = 0
    then (List.range q.outcome.a0.toNat).map fun i => (q.outcome.out.getD i 0#8, false)
    else ((List.range q.outcome.a0.toNat).map fun i => (q.outcome.out.getD i 0#8, false)).take (bits (q.d.getD 7 0#64).toNat 32 32 - q.outPos)) = chunkOutput q := by
  rw [bits_high]
  rfl

theorem exec_transformEcall_unplaced {e : Nat × Nat} (ends : q.outcome.ending = 0) (fits : q.outcome.a0.toNat ≤ 4096)
    (dst : s.dstRun l k q q.outPos (chunkOutput q) = .error e) : exec (.transformEcall l k c) s = .next (s.stopOr l k q e) := by
  refine runEv_ok (units_of_event on) ?_
  rw [evTransformEcall, bind_ok (transforming_ok run started ends), updS_run]
  dsimp only
  rw [if_neg (Nat.not_lt.mpr fits), chunkOutput_eq]
  simp only [dst]

theorem exec_transformEcall_placed {ds : List DstB} {b : Bool} (ends : q.outcome.ending = 0) (fits : q.outcome.a0.toNat ≤ 4096)
    (dst : s.dstRun l k q q.outPos (chunkOutput q) = .ok ds) (hb : b = decide ((chunkOutput q).length < q.outcome.a0.toNat)) :
    exec (.transformEcall l k c) s = .next ((s.updCmd l k q.id fun r => { r with outLen := (chunkOutput q).length, beyond := b }).chunkReady
      l k { q with outLen := (chunkOutput q).length, beyond := b } (q.outPos + (chunkOutput q).length) ds) := by
  refine runEv_ok (units_of_event on) ?_
  rw [evTransformEcall, bind_ok (transforming_ok run started ends), updS_run, hb]
  dsimp only
  rw [if_neg (Nat.not_lt.mpr fits), chunkOutput_eq]
  simp only [dst]

end

/-! Blocks (R130) -/

section

variable {bs : List (List DstB)} {b : Nat} (chunk : q.chunk = some bs) (hb : b < bs.length) (unissued : bit q.issued b = false)
  (issued : ∀ i < b, bit q.issued i = true) (way : s.wayHeld l (blockDies l (bs.getD b [])) = false)

include chunk hb unissued issued way

omit on run chunk way in
theorem find?_unissued : (List.range bs.length).find? (fun b => !bit q.issued b) = some b := by
  rw [List.find?_range_eq_some]
  exact ⟨by rw [unissued]; rfl, List.mem_range.mpr hb, fun i below => by rw [issued i below]; rfl⟩

/-- A block that the fabric cannot carry stops the command (R415). -/
theorem exec_copyBlockWrite_lost {e : Nat} (lost : (blockDies l (bs.getD b [])).findSome? (s.roundTrip l) = some e) :
    exec (.copyBlockWrite l k c) s = .next (s.stopCmd l k q e q.dst.toNat) := by
  refine runEv_ok (units_of_event on) ?_
  rw [evCopyBlockWrite, bind_ok (runningCmd_ok run (by rw [chunk]; rfl))]
  simp only [chunk, Option.getD_some, find?_unissued hb unissued issued]
  rw [bind_ok (getS_run s), bind_ok (need_ok (by rw [way]; rfl) s), updS_run]
  simp only [lost]

/-- The first block that has not been issued is issued and written (R130). -/
theorem exec_copyBlockWrite_issues {ds : List DstB} {w : List (Nat × (BitVec 8 × Bool) × (BitVec 8 × Bool))}
    (arrives : (blockDies l (bs.getD b [])).findSome? (s.roundTrip l) = none) (either : s.eitherWrite l q (bs.getD b []) q.wrote = (ds, w)) :
    exec (.copyBlockWrite l k c) s = .next
      (({ s with draw := s.draw + 1 }.updCmd l k q.id fun q => { q with issued := q.issued ||| 2 ^ b, wrote := w }).writeBlock l k q b ds) := by
  refine runEv_ok (units_of_event on) ?_
  rw [evCopyBlockWrite, bind_ok (runningCmd_ok run (by rw [chunk]; rfl))]
  simp only [chunk, Option.getD_some, find?_unissued hb unissued issued]
  rw [bind_ok (getS_run s), bind_ok (need_ok (by rw [way]; rfl) s), updS_run]
  simp only [arrives, either]

end

omit on run in
/-- The sectors of a ring's block go on their way (R64). -/
theorem writeBlock_ring {b : Nat} {ds : List DstB} (copy : q.isCopy = true) (ring : dRing q.d0 = true) :
    s.writeBlock l k q b ds = s.updLd l fun x => { x with landing := x.landing ++ landingsOf q.id b (q.ring.getD (0, 0)).1 ds } := by
  rw [State.writeBlock, copy, ring]
  rfl

omit on run in
/-- Any other block is written at once. -/
theorem writeBlock_placed {b : Nat} {ds : List DstB} (placed : q.isCopy = false ∨ dRing q.d0 = false) :
    s.writeBlock l k q b ds = (s.writeBytes l k q ds).blockDone l k q.id b := by
  rw [State.writeBlock]
  exact if_neg (by rcases placed with placed | placed <;> simp [placed])

/-! Completion (R386, R387, R167) -/

/-- The acknowledgement that a stamped copy owes its die (R143). -/
def ackDue (l k : Nat) (q : Cmd) (t : State) : State :=
  match q.stamped with
  | some (p, y, v) => t.updLd l fun x => { x with acksDue := x.acksDue ++ [(p, y, v, k)] }
  | none => t

/-- What a completed copy publishes: all that it wrote when it is stamped or its step has ended. -/
def published (l k : Nat) (q : Cmd) (t : State) : State := if q.stamped.isSome || !t.cmdAlive l k q then t.publishCopy l k q else t

section

variable (chunked : q.chunked = true) (past : q.total ≤ 4096 * q.chix) (idle : q.chunk = none) (settled : (s.ld l).settled q.id = true)

include chunked past idle settled

/-- A transform that wrote fewer bytes than OLEN stops. -/
theorem exec_copyComplete_short (short : q.kind = .cpyx ∧ q.total ≠ 0 ∧ q.outPos < (q.d.getD 7 0#64).toNat / 2 ^ 32) :
    exec (.copyComplete l k c) s = .next ((s.flushTail l k q).stopCmd l k q 0x284 0) := by
  refine runEv_ok (units_of_event on) ?_
  rw [evCopyComplete, bind_ok (runningCmd_ok run (by simp [chunked, past, idle])), bind_ok (getS_run s), bind_ok (need_ok settled s), updS_run, bits_high]
  exact congrArg (fun t => Except.ok ((), t)) (if_pos short)

theorem exec_copyComplete_whole (whole : ¬(q.kind = .cpyx ∧ q.total ≠ 0 ∧ q.outPos < (q.d.getD 7 0#64).toNat / 2 ^ 32)) :
    exec (.copyComplete l k c) s = .next (((ackDue l k q (published l k q (s.flushTail l k q))).readerPast l k q).dropCmd l k q.id) := by
  refine runEv_ok (units_of_event on) ?_
  rw [evCopyComplete, bind_ok (runningCmd_ok run (by simp [chunked, past, idle])), bind_ok (getS_run s), bind_ok (need_ok settled s), updS_run, bits_high]
  exact congrArg (fun t => Except.ok ((), t)) (if_neg whole)

end

/-! Codebook commands (R93 to R98, R390 to R393) -/

section

variable {a : Nat} (kind : q.kind = .cbld) (floor : s.floorMet l k q q.next = true) (ha : a = wrap 64 ((q.src.toNat : Int) + 8 * q.next))

include kind floor ha

theorem exec_cbldEntryCommit_unread {e : Nat × Nat} (read : s.cbRead l k q a = .error e) :
    exec (.cbldEntryCommit l k c) s = .next (s.stopOr l k q e) := by
  subst ha
  refine runEv_ok (units_of_event on) ?_
  rw [evCbldEntryCommit, bind_ok (runningCmd_ok run (by rw [kind]; rfl)), bind_ok (getS_run s), bind_ok (need_ok floor s), updS_run]
  simp only [read]

/-- A poisoned entry stops the command (R124). -/
theorem exec_cbldEntryCommit_poisoned {v : Nat} {w : Ctx} (read : s.cbRead l k q a = .ok (v, true, w)) :
    exec (.cbldEntryCommit l k c) s = .next ((s.keepView l k q w).stopCmd l k q 0x1C2 a) := by
  subst ha
  refine runEv_ok (units_of_event on) ?_
  rw [evCbldEntryCommit, bind_ok (runningCmd_ok run (by rw [kind]; rfl)), bind_ok (getS_run s), bind_ok (need_ok floor s), updS_run]
  simp only [read]

/-- An entry as a cbld writes it into its bank (R93). -/
def entryLoaded (q : Cmd) (v : Nat) (y : Core) : Core :=
  y.updBank q.bank fun b => { b with entries := mset b.entries (q.first + q.next) (BitVec.ofNat 64 v) 0#64, poison := b.poison.upd (q.first + q.next) false }

theorem exec_cbldEntryCommit_loads {v : Nat} {w : Ctx} (read : s.cbRead l k q a = .ok (v, false, w)) :
    exec (.cbldEntryCommit l k c) s = .next (if q.next + 1 = q.count then ((s.keepView l k q w).updCore l k (entryLoaded q v)).dropCmd l k q.id
      else ((s.keepView l k q w).updCore l k (entryLoaded q v)).updCmd l k q.id fun q => { q with next := q.next + 1 }) := by
  subst ha
  refine runEv_ok (units_of_event on) ?_
  rw [evCbldEntryCommit, bind_ok (runningCmd_ok run (by rw [kind]; rfl)), bind_ok (getS_run s), bind_ok (need_ok floor s), updS_run]
  simp only [read]
  rfl

end

theorem exec_cbvalCommit (kind : q.kind = .cbval) (floor : s.floorMet l k q 0 = true) : exec (.cbvalCommit l k c) s = .next
    ((s.updCore l k fun y => y.updBank q.bank fun b =>
      { b with vmap := q.vm.getD (BitVec.allOnes 256), fmt := q.fmt, lim := q.lim, poison := b.poison.filter fun e => decide (e.1 < 256) }).dropCmd l k q.id) := by
  refine runEv_ok (units_of_event on) ?_
  rw [evCbvalCommit, bind_ok (runningCmd_ok run (by rw [kind]; rfl)), bind_ok (getS_run s), bind_ok (need_ok floor s), updS_run]

omit on run

/-- The bytes that a cbsave writes (R104, R393). -/
def savedBytes (s : State) (l k : Nat) (q : Cmd) : List (BitVec 8 × Bool) :=
  let b := (s.core l k).banks.getD q.bank {}
  (((List.range q.count).map fun i => q.first + i).flatMap fun i => b.wordBytes i 8 (b.entry i)) ++ if q.regOut then b.regBytes else []

/-- The place of a byte that a cbsave writes (R393). -/
def savedPlace (s : State) (l k : Nat) (q : Cmd) (v : (BitVec 8 × Bool) × Nat) : Except (Nat × Nat) DstB :=
  s.dstByte l k q (if q.sp = 1 then 0 else 1) 0 (wrap 64 ((q.dst.toNat : Int) + v.2)) v.1.1 v.1.2

/-- Answers gathered in front of those before them, when none is refused. -/
theorem foldl_gather {α β ε : Type} {put : α → Except ε β} {step : Except ε (List β) → α → Except ε (List β)}
    (gathers : ∀ ds v, step (.ok ds) v = (put v).map fun d => d :: ds) {vs : List α} {ds : List β} (placed : vs.map put = ds.map .ok) (acc : List β) :
    vs.foldl step (.ok acc) = .ok (ds.reverse ++ acc) := by
  induction vs generalizing ds acc with
  | nil =>
    cases ds with
    | nil => rfl
    | cons d ds => cases placed
  | cons v vs ih =>
    cases ds with
    | nil => cases placed
    | cons d ds =>
      rw [List.map_cons, List.map_cons, List.cons.injEq] at placed
      obtain ⟨first, rest⟩ := placed
      rw [List.foldl_cons, gathers, first, Except.map, ih rest, List.reverse_cons, List.append_assoc, List.singleton_append]

include on run

theorem exec_cbsaveComplete {ds : List DstB} (kind : q.kind = .cbsave) (owns : s.cmdAlive l k q = true → (s.core l k).cbOwner = some (s.ctx l k q.ctx).setKey)
    (placed : (savedBytes s l k q).zipIdx.map (savedPlace s l k q) = ds.map .ok) :
    let t := s.writeBytes l k q ds
    exec (.cbsaveComplete l k c) s = .next
      ((if t.cmdAlive l k q then t else t.publishCopy l k (((t.core l k).queue.find? fun r => r.id == q.id).getD q)).dropCmd l k q.id) := by
  have held : (!s.cmdAlive l k q || (s.core l k).cbOwner == some (s.ctx l k q.ctx).setKey) = true := by
    cases alive : s.cmdAlive l k q with
    | false => rfl
    | true => simpa using owns alive
  have gathered := fun step gathers => foldl_gather (step := step) (put := savedPlace s l k q) gathers placed []
  dsimp only [savedBytes] at gathered
  refine runEv_ok (units_of_event on) ?_
  rw [evCbsaveComplete, bind_ok (runningCmd_ok run (by rw [kind]; rfl)), bind_ok (getS_run s), bind_ok (need_ok held s), updS_run]
  dsimp only
  rw [gathered _ fun _ _ => rfl]
  dsimp only
  rw [List.append_nil, List.reverse_reverse]

end

/-! Engine faults (R131, R389, R424) -/

/-- The upper half of the record of a command's fault (R428). -/
def engineRecord (s : State) (l k : Nat) (q : Cmd) (addr : Nat) : Nat :=
  let tile := if q.heldF && ((s.core l (q.readAt.getD k)).claim true q.tileNo).st == .faulted then 2 ^ q.tileNo else 0
  engineHalf addr q.smask q.chix q.kind.code tile q.xstamp

section

variable {s : State} {l k c : Nat} {q : Cmd} {cause addr : Nat} (on : OnCtx l k c) (oldest : (s.core l k).cmdOf c = some q)
  (fault : q.fault = some (cause, addr)) (settled : (s.ld l).settled q.id = true)

include on oldest fault settled

theorem exec_engineFaultReport_step (alive : s.cmdAlive l k q = true) (runs : (s.ctx l k q.ctx).paused = none) :
    exec (.engineFaultReport l k c) s = .next
      ((if q.refused then (s.flushTail l k q).dropCmd l k q.id
        else (s.flushTail l k q).updCmd l k q.id fun q => { q with fault := none }).engineFault l q.sid cause (engineRecord s l k q addr)) := by
  refine runEv_ok (units_of_event on) ?_
  rw [evEngineFaultReport, bind_ok (getS_run s)]
  simp only [oldest, fault]
  rw [bind_ok (need_ok settled s), bind_ok (updS_run s _), if_pos alive, bind_ok (need_ok (by rw [runs]; rfl) _), updS_run]
  rfl

/-- A command whose step has ended is reported for it and cancelled. -/
theorem exec_engineFaultReport_ended {t : State} (ended : s.cmdAlive l k q = false)
    (ht : t = (((s.flushTail l k q).uncount l q).readerPast l k q).dropCmd l k q.id) :
    exec (.engineFaultReport l k c) s = .next ((t.queueRecord l 0 (faultRecord t.ns (dieOf l)
      { stamp := q.stamp, trapb := q.va, opid := q.opid, core := k, ctx := q.ctx, kind := 2, act := 3, cause := cause } (engineRecord s l k q addr))).countFault
        l q.opid cause) := by
  subst ht
  refine runEv_ok (units_of_event on) ?_
  rw [evEngineFaultReport, bind_ok (getS_run s)]
  simp only [oldest, fault]
  rw [bind_ok (need_ok settled s), bind_ok (updS_run s _), if_neg (by rw [ended]; exact Bool.false_ne_true), updS_run]
  rfl

end

/-! Acknowledgements, landings and the exchange of codebook sets (R64, R105, R143) -/

theorem exec_stampedCopyAck {s : State} {l p y t j : Nat} {r : List (Nat × Nat × Nat × Nat)} (hl : dieOk l = true) (due : (s.ld l).acksDue = (p, y, t, j) :: r) :
    exec (.stampedCopyAck l) s = .next ((s.updLd l fun x => { x with acksDue := r }).countAt l p y t (-1)) := by
  refine runEv_ok hl ?_
  rw [evStampedCopyAck, bind_ok (getS_run s)]
  simp only [due]
  exact updS_run s _

theorem exec_sectorLanding {s : State} {l k r hod sector : Nat} {w : Landing} (units : (dieOk l && decide (k < 48)) = true) (hh : hod < 64) (hs : sector < 512)
    (flies : ((s.ld l).landing.find? fun w => w.core == k && w.ring == r && w.hod == hod && w.sector == sector) = some w) (data : BitVec 256) :
    exec (.sectorLanding l k r hod sector data) s = .next ((s.updLd l fun x => { x with landing := x.landing.erase w }).landSector l w) := by
  refine runEv_ok (by rw [units, decide_eq_true hh, decide_eq_true hs]; rfl) ?_
  rw [evSectorLanding, bind_ok (getS_run s)]
  simp only [flies]
  exact updS_run s _

/-- The banks that a context kept come in when its set may be exchanged (R105, R107). -/
theorem exec_codebookExchange {s : State} {l k c : Nat} {x : Ctx} {bs : List Bank} (on : OnCtx l k c) (hx : x = s.ctx l k c) (live : x.live = true)
    (plain : x.priv = false) (runs : x.paused = none) (active : (s.core l k).active = some c) (lacks : (s.core l k).hasSet x = false)
    (free : (s.core l k).exchangeFree = true) (way : s.exchangeHeld l k c = false) (banks : ((s.storeSet l k).ctx l k c).banks = some bs)
    (good : ((s.storeSet l k).ctx l k c).badBanks = false) :
    exec (.codebookExchange l k c) s = .next (((s.storeSet l k).updCore l k fun y =>
      { y with banks := bs, cbOwner := some ((s.storeSet l k).ctx l k c).setKey, switching := y.switching + 1200 }).updCtx l k c fun x =>
        { x with banks := none }) := by
  subst hx
  rw [State.ctx] at live plain runs lacks banks good
  refine runEv_ok (units_of_event on) ?_
  rw [evCodebookExchange, bind_ok (getS_run s)]
  dsimp only
  rw [bind_ok (need_ok (by rw [live, plain, runs, active, lacks, free, way]; simp) s), updS_run]
  simp only [good, banks]
  rfl

/-! Where bytes go (R123, R165) -/

/-- A non-empty list of one value has one value. -/
theorem eraseDups_replicate {α : Type} [BEq α] [LawfulBEq α] (n : Nat) (v : α) : (List.replicate (n + 1) v).eraseDups = [v] := by
  rw [List.replicate_succ, List.eraseDups_cons, List.filter_eq_nil_iff.mpr, List.eraseDups_nil]
  intro w mem
  simp [List.eq_of_mem_replicate mem]

/-- Bytes of one core's scratchpad are written there together. -/
theorem writeBytes_core {s : State} {l k j : Nat} {q : Cmd} {ds : List DstB} (some_ : ds ≠ []) (own : ∀ d ∈ ds, d.core = some j) :
    s.writeBytes l k q ds = s.updCore l j fun y => y.writePlaces ds := by
  have cores : (ds.filterMap (·.core)).eraseDups = [j] := by
    have same : ds.filterMap (·.core) = ds.map fun _ => j := by
      rw [← List.filterMap_eq_map]
      exact List.filterMap_congr own
    obtain ⟨d, r, rfl⟩ := List.exists_cons_of_ne_nil some_
    rw [same, List.map_const', List.length_cons, eraseDups_replicate]
  have mine : (ds.filter fun d => d.core == some j) = ds := List.filter_eq_self.mpr fun d mem => by simp [own d mem]
  have glob : (ds.filter fun d => d.core.isNone) = [] := List.filter_eq_nil_iff.mpr fun d mem => by simp [own d mem]
  rw [State.writeBytes, cores, List.foldl_cons, List.foldl_nil, mine, glob]
  rfl

theorem get_writePlaces {ds : List DstB} (a : Nat) {m : Mem} (ok : m.wf = true) :
    Mem.get (ds.foldl (fun (m : Mem) d => Mem.set m d.addr d.val) m) a = ((ds.reverse.find? fun d => d.addr == a).map (·.val)).getD (Mem.get m a) := by
  induction ds generalizing m with
  | nil => rfl
  | cons d ds ih =>
    rw [List.foldl_cons, ih (Mem.wf_set m d.addr d.val ok), List.reverse_cons, List.find?_append]
    cases (ds.reverse.find? fun d => d.addr == a) with
    | some e => rfl
    | none =>
      by_cases here : d.addr = a
      · subst here
        simp [Mem.get_set_same m d.addr d.val ok]
      · simp [here, Mem.get_set_other m d.addr a d.val (Ne.symm here)]

/-- A copy's global byte as its step has it, unpublished (R165). -/
def ownByte (q : Cmd) (seq : Nat) (d : DstB) : Own := { val := d.val, seq := seq, comp := d.comp, poison := d.bad, copy := some q.id }

/-- The unpublished stores with a copy's bytes added. -/
def withOwn (q : Cmd) (seq : Nat) (ds : List DstB) (m : Smap (Smap Own)) : Smap (Smap Own) :=
  ds.foldl (fun m d => mput m d.home (mput (mgetD m d.home []) d.addr (ownByte q seq d))) m

/-- Of a copy's bytes to one place the last stands. -/
theorem get_withOwn (q : Cmd) (seq : Nat) (ds : List DstB) (m : Smap (Smap Own)) (h a : Nat) :
    mget (mgetD (withOwn q seq ds m) h []) a =
      ((ds.reverse.find? fun d => d.home == h && d.addr == a).map (ownByte q seq)).or (mget (mgetD m h []) a) := by
  induction ds generalizing m with
  | nil => rfl
  | cons d ds ih =>
    have step : withOwn q seq (d :: ds) m = withOwn q seq ds (mput m d.home (mput (mgetD m d.home []) d.addr (ownByte q seq d))) := rfl
    rw [step, ih, List.reverse_cons, List.find?_append]
    cases (ds.reverse.find? fun d => d.home == h && d.addr == a) with
    | some e => rfl
    | none =>
      by_cases home : d.home = h
      · subst home
        by_cases addr : d.addr = a
        · subst addr
          simp
        · simp [addr, mget_mput_other _ _ _ _ (Ne.symm addr)]
      · simp [home, mgetD_mput_other _ _ _ _ _ (Ne.symm home)]

/-- Global bytes of a live step's copy on its own die become its unpublished stores, one of its stores in all. -/
theorem writeBytes_global {s : State} {l k : Nat} {q : Cmd} {ds : List DstB} (some_ : ds ≠ []) (global : ∀ d ∈ ds, d.core = none)
    (near : farDies l (ds.map (·.home)) = []) (alive : s.cmdAlive l k q = true) : s.writeBytes l k q ds =
      s.updCtx l k q.ctx fun x => { x with stores := x.stores + 1, own := withOwn q (x.stores + 1) ds x.own } := by
  have cores : ds.filterMap (·.core) = [] := List.filterMap_eq_nil_iff.mpr global
  have glob : (ds.filter fun d => d.core.isNone) = ds := List.filter_eq_self.mpr fun d mem => by simp [global d mem]
  rw [State.writeBytes, cores, List.eraseDups_nil, List.foldl_nil, glob, if_neg (by simpa using some_), near, List.foldl_nil, State.copyStores,
    if_pos alive]
  rfl

/-! Blocks of a ring's chunk (R130, R384) -/

theorem cutBlocks_cons (n : Nat) (d : DstB) (ds : List DstB) :
    cutBlocks (n + 1) (d :: ds) = (d :: ds).take 256 :: cutBlocks n ((d :: ds).drop 256) := rfl

theorem length_cutBlocks (n : Nat) (ds : List DstB) (fits : ds.length ≤ 256 * n) : (cutBlocks n ds).length = (ds.length + 255) / 256 := by
  induction n generalizing ds with
  | zero =>
    rw [List.length_eq_zero_iff.mp (Nat.le_zero.mp fits)]
    rfl
  | succ n ih =>
    cases ds with
    | nil => rfl
    | cons d ds =>
      have rest := ih ((d :: ds).drop 256) (by rw [List.length_drop]; omega)
      rw [List.length_drop] at rest
      rw [cutBlocks_cons, List.length_cons, rest]
      simp only [List.length_cons]
      omega

/-- Byte `y` of block `p` is byte 256 p + y of the chunk. -/
theorem getElem?_cutBlocks (n p y : Nat) (ds : List DstB) (fits : ds.length ≤ 256 * n) (hy : y < 256) :
    ((cutBlocks n ds).getD p [])[y]? = ds[256 * p + y]? := by
  induction n generalizing ds p with
  | zero =>
    rw [List.length_eq_zero_iff.mp (Nat.le_zero.mp fits)]
    rfl
  | succ n ih =>
    cases ds with
    | nil => rfl
    | cons d ds =>
      rw [cutBlocks_cons]
      cases p with
      | zero => rw [List.getD_cons_zero, List.getElem?_take_of_lt hy, Nat.mul_zero, Nat.zero_add]
      | succ p =>
        rw [List.getD_cons_succ, ih p _ (by rw [List.length_drop]; omega), List.getElem?_drop]
        congr 1
        omega

/-- A chunk of a ring copy that is translated is cut into blocks of 256 bytes, none of them issued (R130). -/
theorem chunkReady_ring {s : State} {l k next : Nat} {q : Cmd} {ds : List DstB} (copy : q.isCopy = true) (ring : dRing q.d0 = true) (tail : q.tail = [])
    (mask : q.smask = 0) (some_ : ds ≠ []) (fits : ds.length ≤ 4096) (pages : ∀ d ∈ ds, d.page = none) (more : 4096 * (q.chix + 1) < q.total) :
    s.chunkReady l k q next ds =
      { s with draw := s.draw + 1 }.updCmd l k q.id fun q => { q with chunk := some (cutBlocks 16 ds), issued := q.smask, tail := [] } := by
  have noTail : s.tailOf l k q next ds = [] := by rw [State.tailOf, copy, ring]; rfl
  have noPages : ds.filterMap (·.page) = [] := List.filterMap_eq_nil_iff.mpr pages
  have count := length_cutBlocks 16 ds fits
  have unwritten : ((List.range (cutBlocks 16 ds).length).all (bit q.smask)) = false := by
    have positive := List.length_pos_iff.mpr some_
    rw [List.all_eq_false]
    exact ⟨0, List.mem_range.mpr (by omega), by rw [mask]; decide⟩
  rw [State.chunkReady]
  dsimp only
  rw [noTail, List.length_nil, Nat.sub_zero, List.take_length, tail, copy, ring, noPages, List.eraseDups_nil, if_neg (Nat.not_le.mpr more)]
  simp only [Bool.and_self, if_true, List.isEmpty_nil, unwritten]
  rfl

/-- Settles O42, event by event. -/
theorem engineEvents : Obligations.EngineEvents := by
  intro s l k c on
  refine ⟨fun q oldest waits free limit stands => ⟨exec_engineCommandAccept_copy on oldest waits free limit stands,
      exec_engineCommandAccept_other on oldest waits free limit stands⟩,
    fun q run => ⟨?translate, fun bs bad kind input fresh idle => exec_transformChunkStart on run kind input fresh idle, ?transform, ?block, ?complete,
      ?load, exec_cbvalCommit on run, ?save⟩,
    fun q cause addr oldest fault settled => ⟨exec_engineFaultReport_step on oldest fault settled, fun ended =>
      exec_engineFaultReport_ended on oldest fault settled ended rfl⟩,
    fun p y t j r => exec_stampedCopyAck on.1,
    fun r hod sector data w hh hs flies => exec_sectorLanding (units_of_onCtx on) hh hs flies data,
    fun x bs hx live plain runs active lacks free way => exec_codebookExchange on hx live plain runs active lacks free way,
    fun q ds some_ => ⟨fun j => writeBytes_core some_, fun y a => get_writePlaces a, ?global⟩, ?publish, ?cut⟩
  case translate =>
    intro chunked idle unread more
    refine ⟨fun e => exec_copyChunkTranslate_unread on run chunked idle unread more, fun bs ahead v src =>
      ⟨exec_copyChunkTranslate_held on run chunked idle unread more src, fun way => ⟨?_, ?_, ?_⟩⟩⟩
    · exact exec_copyChunkTranslate_input on run chunked idle unread more src way
    · exact fun e => exec_copyChunkTranslate_unplaced on run chunked idle unread more src way
    · exact fun ds => exec_copyChunkTranslate_placed on run chunked idle unread more src way
  case transform =>
    intro started
    refine ⟨exec_transformTimeout on run started, exec_transformException on run started (access := true),
      exec_transformException on run started (access := false), exec_transformEcall_long on run started, fun ends fits => ⟨?_, ?_⟩⟩
    · exact fun e dst => exec_transformEcall_unplaced on run started ends fits dst
    · exact fun ds dst => exec_transformEcall_placed on run started ends fits dst rfl
  case block =>
    intro bs b chunk hb unissued issued way
    refine ⟨fun e => exec_copyBlockWrite_lost on run chunk hb unissued issued way, fun ds w arrives either => ?_⟩
    have issues := exec_copyBlockWrite_issues on run chunk hb unissued issued way arrives either
    exact ⟨fun copy ring => issues.trans (congrArg _ (writeBlock_ring copy ring)), fun placed => issues.trans (congrArg _ (writeBlock_placed placed))⟩
  case complete =>
    intro chunked past idle settled
    refine ⟨fun kind total short => exec_copyComplete_short on run chunked past idle settled ⟨kind, total, short⟩, fun whole => ?_⟩
    exact exec_copyComplete_whole on run chunked past idle settled whole
  case load =>
    intro kind floor a ha
    exact ⟨fun e => exec_cbldEntryCommit_unread on run kind floor ha, fun v w => exec_cbldEntryCommit_poisoned on run kind floor ha,
      fun v w => exec_cbldEntryCommit_loads on run kind floor ha⟩
  case save =>
    intro kind owns b word bytes put ds placed
    exact exec_cbsaveComplete on run kind owns placed
  case global =>
    intro global near alive x
    refine ⟨_, writeBytes_global some_ global near alive, ⟨withOwn q (x.stores + 1) ds x.own, updCtx_congr rfl⟩, fun h a => ?_⟩
    rw [sctx_updCtx_same, get_withOwn]
    cases (ds.reverse.find? fun d => d.home == h && d.addr == a) <;> rfl
  case publish =>
    intro q alive
    rw [State.publishCopy, if_pos alive]
  case cut =>
    intro q next ds p y copy ring tail mask some_ fits pages oldest _ more _ hy
    refine ⟨{ q with chunk := some (cutBlocks 16 ds), issued := q.smask, tail := [] }, cutBlocks 16 ds, ?_, rfl, rfl, mask,
      length_cutBlocks 16 ds fits, getElem?_cutBlocks 16 p y ds fits hy⟩
    rw [chunkReady_ring copy ring tail mask some_ fits pages more]
    exact cmdOf_updCmd (s := { s with draw := s.draw + 1 }) oldest fun _ => rfl

end Sys2Proof.Machine

/-! Memory events (R109 to R125, R139, R163, R174, R176, R282, R415, R441): what reads leave of a stack, and the requests, lines and accesses that
homes serve. -/

namespace Sys2Proof.Machine

open Sys2Proof.Claim

/-! What a walk through the die cache leaves of a die (R110, R442) -/

/-- A die but for its cache and for what the host holds of its lines. -/
def Ld.besidesCache (x : Ld) : Ld := { x with cache := [], cacheAt := 0, hostHeld := [], snooped := [] }

@[simp] theorem besidesCache_snoop (x : Ld) (line : Nat) : (x.snoop line).besidesCache = x.besidesCache := by unfold Ld.snoop; split <;> rfl

theorem besidesCache_touchLine (x : Ld) (line secs ca : Nat) (dirty : Bool) : (x.touchLine line secs ca dirty).besidesCache = x.besidesCache := by
  have snooped : (if dirty = true then x.snoop line else x).besidesCache = x.besidesCache := by
    split
    · exact besidesCache_snoop x line
    · rfl
  unfold Ld.touchLine
  generalize (if dirty = true then x.snoop line else x) = y at snooped ⊢
  dsimp only
  split
  · exact snooped
  · split <;> exact snooped

theorem besidesCache_touch (x : Ld) (a n ca : Nat) (dirty : Bool) : (x.touch a n ca dirty).besidesCache = x.besidesCache :=
  foldl_keeps Ld.besidesCache (fun x line => besidesCache_touchLine x line ..) _ x

@[simp] theorem touch_hbm (x : Ld) (a n ca : Nat) (dirty : Bool) : (x.touch a n ca dirty).hbm = x.hbm :=
  (congrArg Ld.hbm (besidesCache_touch x a n ca dirty) :)

@[simp] theorem touch_regs (x : Ld) (a n ca : Nat) (dirty : Bool) : (x.touch a n ca dirty).regs = x.regs :=
  (congrArg Ld.regs (besidesCache_touch x a n ca dirty) :)

/-! What reads leave of a stack (R125) -/

theorem Nset.upd_true (p : Nset) (n : Nat) : p.upd n true = mput p n true := rfl

theorem Nset.has_upd_same (p : Nset) (n : Nat) : (p.upd n true).has n = true := by rw [Nset.upd_true, Nset.has, mgetD_mput_same]

theorem Nset.has_upd_of_has {p : Nset} {m : Nat} (h : p.has m = true) (n : Nat) : (p.upd n true).has m = true := by
  by_cases hm : m = n
  · rw [hm, Nset.has_upd_same]
  · rwa [Nset.upd_true, Nset.has, mgetD_mput_other _ _ _ _ _ hm]

theorem Nset.has_foldl_upd_of_has (f : Nat → Nat) {p : Nset} {m : Nat} (h : p.has m = true) (l : List Nat) :
    Nset.has (l.foldl (fun (p : Nset) q => p.upd (f q) true) p) m = true :=
  List.foldlRecOn (motive := fun p : Nset => p.has m = true) l _ h fun _ h _ _ => Nset.has_upd_of_has h _

/-- Members added one after another: the set has each of them. -/
theorem Nset.has_foldl_upd_of_mem (f : Nat → Nat) {q : Nat} {l : List Nat} (hq : q ∈ l) (p : Nset) :
    Nset.has (l.foldl (fun (p : Nset) q => p.upd (f q) true) p) (f q) = true := by
  obtain ⟨as, bs, rfl⟩ := List.append_of_mem hq
  rw [List.foldl_append, List.foldl_cons]
  exact Nset.has_foldl_upd_of_has f (Nset.has_upd_same _ _) bs

/-- Reads change a stack no further than this: its tags stand, and the poison of no sector goes. -/
def Hbm.ReadFrom (h g : Hbm) : Prop := g.tags = h.tags ∧ ∀ n, h.poison.has n = true → g.poison.has n = true

theorem Hbm.ReadFrom.refl (h : Hbm) : h.ReadFrom h := ⟨rfl, fun _ => id⟩

theorem Hbm.ReadFrom.trans {h g k : Hbm} (hg : h.ReadFrom g) (gk : g.ReadFrom k) : h.ReadFrom k :=
  ⟨gk.1.trans hg.1, fun n hn => gk.2 n (hg.2 n hn)⟩

theorem readFrom_updLd {s : State} {j : Nat} {f : Ld → Ld} (h : ∀ x : Ld, x.hbm.ReadFrom (f x).hbm) (l : Nat) :
    (s.ld l).hbm.ReadFrom ((s.updLd j f).ld l).hbm := by
  by_cases hl : l = j
  · rw [hl, ld_updLd_same]
    exact h _
  · rw [ld_updLd_other _ _ _ _ hl]
    exact .refl _

@[simp] theorem hbm_errLog (s : State) (j sev unit cause loc : Nat) (unq : Bool) (l : Nat) :
    ((s.errLog j sev unit cause loc unq).ld l).hbm = (s.ld l).hbm := updLd_keeps Ld.hbm (by intro; rfl) l

/-- The sectors of a line with a reserved tag that a read has poisoned (R125). -/
def Ld.poisons (x : Ld) (line secs : Nat) : Ld :=
  { x with hbm.poison := (setBits secs 4).foldl (fun (p : Nset) q => p.upd (4 * line + q) true) x.hbm.poison }

theorem readFrom_poisons (x : Ld) (line secs : Nat) : x.hbm.ReadFrom (x.poisons line secs).hbm :=
  ⟨rfl, fun _ hn => Nset.has_foldl_upd_of_has (4 * line + ·) hn _⟩

theorem readFrom_noteBrokenRead (s : State) (home a n l : Nat) : (s.ld l).hbm.ReadFrom ((s.noteBrokenRead home a n).ld l).hbm := by
  unfold State.noteBrokenRead
  split
  · exact .refl _
  · refine List.foldlRecOn (motive := fun t : State => (s.ld l).hbm.ReadFrom (t.ld l).hbm) _ _ (.refl _) fun t h line _ => h.trans ?_
    dsimp only
    split
    · rw [hbm_errLog]
      exact readFrom_updLd (fun x => readFrom_poisons x line _) l
    · exact .refl _

theorem readFrom_readThrough (s : State) (ca : Nat) (rs : List (Nat × Nat × Nat)) (by_ : Ctx) (l : Nat) :
    (s.ld l).hbm.ReadFrom ((s.readThrough ca rs by_).ld l).hbm := by
  refine List.foldlRecOn (motive := fun t : State => (s.ld l).hbm.ReadFrom (t.ld l).hbm) _ _ (.refl _) fun t h r _ => h.trans ?_
  dsimp only
  split
  · exact .refl _
  · refine (readFrom_noteBrokenRead t r.1 r.2.1 r.2.2 l).trans (readFrom_updLd (fun x => ?_) l)
    rw [touch_hbm]
    exact .refl _

/-- A sector lies in one line. -/
theorem linesOf_sector {line q : Nat} (hq : q < 4) : linesOf (128 * line + 32 * q) 32 = [line] := by
  have one : (128 * line + 32 * q + 32 + 127) / 128 - (128 * line + 32 * q) / 128 = 1 := by omega
  have first : (128 * line + 32 * q) / 128 = line := by omega
  rw [linesOf, one, first]
  rfl

theorem sectorsOf_sector {line q : Nat} (hq : q < 4) : sectorsOf line (128 * line + 32 * q) 32 = 2 ^ q := by
  have meets (r : Nat) : (128 * line + 32 * q < 128 * line + 32 * r + 32 ∧ 128 * line + 32 * r < 128 * line + 32 * q + 32) ↔ q = r := by omega
  rw [sectorsOf]
  simp only [meets]
  clear meets
  interval_cases q <;> rfl

/-- A read of one sector of a line with a reserved tag leaves it poisoned (R125). -/
theorem poison_readSector {s : State} {l line q : Nat} (stack : l ≠ hostKey) (hq : q < 4) (broken : 6 ≤ mgetD (s.ld l).hbm.tags line 0) (ca : Nat) :
    ((s.readThrough ca [(l, 128 * line + 32 * q, 32)]).ld l).hbm.poison.has (4 * line + q) = true := by
  have noted : s.noteBrokenRead l (128 * line + 32 * q) 32 = (s.updLd l fun x => x.poisons line (2 ^ q)).errLog l 1 7 0x1C1 (128 * line) true := by
    rw [State.noteBrokenRead, if_neg stack, linesOf_sector hq, List.foldl_cons, List.foldl_nil, if_pos broken, sectorsOf_sector hq]
    rfl
  have mine : q ∈ setBits (2 ^ q) 4 := List.mem_filter.mpr ⟨List.mem_range.mpr hq, Nat.testBit_two_pow_self⟩
  rw [State.readThrough, List.foldl_cons, List.foldl_nil, if_neg stack, noted, ld_updLd_same, touch_hbm, hbm_errLog, ld_updLd_same]
  exact Nset.has_foldl_upd_of_mem (4 * line + ·) mine _

/-- Of sectors of such a line that are read one after another each is poisoned. -/
theorem poison_readSectors {s : State} {l line q : Nat} (stack : l ≠ hostKey) (hq : q < 4) (broken : 6 ≤ mgetD (s.ld l).hbm.tags line 0) (ca : Nat)
    {qs : List Nat} (mem : q ∈ qs) :
    ((s.readThrough ca (qs.map fun q => (l, 128 * line + 32 * q, 32))).ld l).hbm.poison.has (4 * line + q) = true := by
  obtain ⟨as, bs, rfl⟩ := List.append_of_mem mem
  have parts (rs ts : List (Nat × Nat × Nat)) (r : Nat × Nat × Nat) :
      s.readThrough ca (rs ++ r :: ts) = ((s.readThrough ca rs).readThrough ca [r]).readThrough ca ts := by
    rw [State.readThrough, List.foldl_append]
    rfl
  rw [List.map_append, List.map_cons, parts]
  refine (readFrom_readThrough ..).2 _ (poison_readSector stack hq ?_ ca)
  rwa [(readFrom_readThrough s ca _ {} l).1]

theorem ne_hostKey_of_dieOk {l : Nat} (h : dieOk l = true) : l ≠ hostKey := by
  rintro rfl
  exact absurd h (by decide)

/-! Lines (R117 to R119) -/

theorem exec_lineReadExpand {s : State} {l line : Nat} (hl : dieOk l = true) (mask : BitVec 4) (hline : line < 2 ^ 29) :
    exec (.lineReadExpand l line mask) s = .next (s.readThrough 0 ((setBits mask.toNat 4).map fun q => (l, 128 * line + 32 * q, 32))) :=
  runEv_ok hl (bind_ok (need_ok (decide_eq_true hline) s) _)

theorem bits_byte (v i : Nat) : bits v (8 * i) 8 = v / 2 ^ (8 * i) % 2 ^ 8 := by rw [bits, Nat.shiftRight_eq_div_pow]

theorem exec_fullLineWrite {s : State} {l line : Nat} (hl : dieOk l = true) (comp : Bool) (data : BitVec 1024) (hline : line < 2 ^ 29) :
    exec (.fullLineWrite l line comp data) s = .next (s.updLd l fun x =>
      { x with hbm := x.hbm.mergeLine line comp fun i => some (BitVec.ofNat 8 (data.toNat / 2 ^ (8 * i) % 2 ^ 8), false) }) := by
  refine runEv_ok hl ((bind_ok (need_ok (decide_eq_true hline) s) _).trans ?_)
  simp only [updS_run, bits_byte]

theorem exec_partialLineWrite {s : State} {l addr : Nat} (hl : dieOk l = true) (comp : Bool) {bytes : List (BitVec 8)} (ha : addr < 2 ^ 36)
    (some_ : bytes ≠ []) (part : bytes.length < 128) (line : addr % 128 + bytes.length ≤ 128) :
    exec (.partialLineWrite l addr comp bytes) s = .next (s.pokeLd l addr bytes comp) := by
  refine runEv_ok hl (bind_ok (need_ok ?_ s) _)
  rw [dpaOk, decide_eq_true ha, decide_eq_true part, decide_eq_true line]
  simpa using some_

/-- A write of clean bytes, published as it is made. -/
theorem pokeLd_eq (s : State) (l addr : Nat) (bs : List (BitVec 8)) (comp : Bool) (ca : Nat) : s.pokeLd l addr bs comp ca =
    (s.noteBroken l addr bs.length).updLd l fun x =>
      { x with hbm := x.hbm.writeBad addr (bs.map fun b => (b, false)) comp }.touch addr bs.length ca true := by
  rw [State.pokeLd, State.pokeBad, List.length_map]

/-! Requests at a home (R111, R163, R173, R176, R282) -/

/-- The state once the image that a load reads is fixed (R172). -/
def State.fixedFor (s : State) (r : HomeReq) : State :=
  if r.isLoad && r.fixed.isNone then s.fixImage r.src r.sid r.home r.addr r.n else s

/-- The state in which a home serves a request: that image is fixed, and the request has left the queue. -/
def State.taken (s : State) (l : Nat) (r : HomeReq) : State :=
  (s.fixedFor r).updLd l fun x => { x with homeQ := x.homeQ.eraseIdx ((s.ld l).homeQ.findIdx (· == r)) }

/-- The oldest request that nothing holds is performed (R111); the loss of an answer that no step waits for is noted (R415). -/
theorem exec_dieCacheRequest {s u : State} {l : Nat} (hl : dieOk l = true) {r q : HomeReq} {rest : List HomeReq}
    (first : s.servable [] (s.ld l).homeQ = r :: rest) (hq : ((s.fixedFor r).ld l).homeQ.getD ((s.ld l).homeQ.findIdx (· == r)) r = q)
    (hu : (s.taken l r).serveHome q = u) :
    exec (.dieCacheRequest l) s = .next (
      if (u.stepOf q.src q.sid).isNone && !q.pref && (u.answerCause q).isSome then u.notice l 6 2 10 0x304 q.src else u) := by
  subst hq hu
  refine runEv_ok hl ?_
  rw [evDieCacheRequest, bind_ok (getS_run s), first]
  rfl

theorem serveHome_pref {s : State} {r : HomeReq} (plain : r.atom = none) (pref : r.pref = true) :
    s.serveHome r = s.readThrough r.ca [(r.home, r.addr, r.n)] := by
  simp only [State.serveHome, plain, pref, if_true]

theorem serveHome_ended {s : State} {r : HomeReq} (plain : r.atom = none) (load : r.pref = false) (ended : s.stepOf r.src r.sid = none) :
    s.serveHome r = s := by
  simp only [State.serveHome, plain, load, ended, Bool.false_eq_true, if_false]

theorem serveHome_load {s : State} {r : HomeReq} {x : Ctx} (plain : r.atom = none) (load : r.pref = false) (step : s.stepOf r.src r.sid = some x) :
    s.serveHome r = s.serveLoad r x := by
  simp only [State.serveHome, plain, load, step, Bool.false_eq_true, if_false]

theorem serveHome_atomic {s : State} {r : HomeReq} {op : Nat} (atom : r.atom = some op) : s.serveHome r = s.serveAtomic r op := by
  simp only [State.serveHome, atom]

/-- The value that an atomic finds at its home, the value that it is to leave there, and the cause that keeps it from that (R124, R176, R282). -/
def State.atomOld (s : State) (r : HomeReq) : Nat := leNat (s.homeBytes r.home r.addr r.n)
def State.atomBytes (s : State) (r : HomeReq) (op : Nat) : List (BitVec 8) :=
  natLe r.n (atomNew op (8 * r.n) (s.atomOld r) (r.v.toNat % 2 ^ (8 * r.n)) (r.w.toNat % 2 ^ (8 * r.n)))
def State.atomMark (s : State) (r : HomeReq) : Nat :=
  let bad := if r.home = hostKey then 0 else (s.ld r.home).hbm.badRange r.addr r.n
  if bad = 0 then (if r.poison then 0x1C0 else 0) else bad
/-- An atomic writes: no poison stands against it, and it is no cas that fails. -/
def State.AtomWrites (s : State) (r : HomeReq) (op : Nat) : Prop := s.atomMark r = 0 ∧ ¬(op = 9 ∧ s.atomOld r ≠ r.v.toNat % 2 ^ (8 * r.n))

theorem atomWrites_iff (s : State) (r : HomeReq) (op : Nat) :
    (s.atomMark r == 0 && !(op == 9 && s.atomOld r != r.v.toNat % 2 ^ (8 * r.n))) = true ↔ s.AtomWrites r op := by
  simp [State.AtomWrites, imp_iff_not_or]

theorem serveAtomic_writes {s : State} {r : HomeReq} {op : Nat} (writes : s.AtomWrites r op) {a d : State}
    (ha : s.readThrough r.ca [(r.home, r.addr, r.n)] = a)
    (hd : (if r.home = hostKey then { a with host := Mem.setBytes a.host r.addr (s.atomBytes r op) }
        else a.updLd r.home fun x => { x with hbm := x.hbm.write r.addr (s.atomBytes r op) r.comp }.touch r.addr r.n r.ca true).updLd
      (homeDie r.src r.home) (fun d => { d with homeQ := d.homeQ.map fun p => p.after r (s.atomBytes r op) }) = d) :
    s.serveAtomic r op = (d.updStep r.src r.sid fun x => (x.storeAtomic r.home r.addr r.seq (s.atomBytes r op)).fillPart r.slot 0 (s.atomOld r)
      ((d.answerCause r).getD (s.atomMark r))).answered r (natLe r.n (s.atomOld r)) := by
  subst ha hd
  have w := (atomWrites_iff s r op).mpr writes
  rw [State.atomMark, State.atomOld] at w
  unfold State.serveAtomic
  simp only [w, if_true]
  rfl

theorem serveAtomic_keeps {s : State} {r : HomeReq} {op : Nat} (keeps : ¬s.AtomWrites r op) {a : State}
    (ha : s.readThrough r.ca [(r.home, r.addr, r.n)] = a) :
    s.serveAtomic r op = (a.updStep r.src r.sid fun x => x.fillPart r.slot 0 (s.atomOld r)
      ((a.answerCause r).getD (s.atomMark r))).answered r (natLe r.n (s.atomOld r)) := by
  subst ha
  have w := Bool.eq_false_iff.mpr (mt (atomWrites_iff s r op).mp keeps)
  rw [State.atomMark, State.atomOld] at w
  unfold State.serveAtomic
  simp only [w, Bool.false_eq_true, if_false]
  rfl

/-! The host's accesses (R174, R441, R442) -/

section

variable {s : State} {l : Nat} {write : Bool} (addr : Nat) {n len : Nat} {bytes : List (BitVec 8)} (hlen : (if write then bytes.length else n) = len)
  (some_ : 1 ≤ len) (most : len ≤ 64)

include hlen some_ most

/-- The host of a die writes through the home die cache, or reads and then holds what it has read. -/
theorem evHostCxlMemAccess_stack (die : l % 16 < 8) (bound : (s.ld l).host.isSome = true) (fits : addr + len ≤ 2 ^ 36)
    (free : s.commitHolds l addr len = false) (lines : s.linesFree l addr len = true) : evHostCxlMemAccess l write addr n bytes s =
      .ok ((), if write then (s.updLd l fun x => x.hostHolds addr len false).pokeLd l addr bytes
        else ((s.updLd l fun x => x.answers x.peerAns (s.peekAt { home := l, addr := addr } n)).readThrough 0 [(l, addr, n)]).updLd l fun x =>
          x.hostHolds addr n true) := by
  subst hlen
  rw [evHostCxlMemAccess, bind_ok (getS_run s)]
  refine (bind_ok (need_ok (by rw [decide_eq_true some_, decide_eq_true most]; rfl) s) _).trans ?_
  rw [if_neg (by omega)]
  exact bind_ok (need_ok (by rw [decide_eq_true fits, decide_eq_true die, bound, free, lines]; rfl) s) _

/-- At a green the host has its own memory (R174). -/
theorem evHostCxlMemAccess_green (green : l % 16 = 8) : evHostCxlMemAccess l write addr n bytes s =
    .ok ((), if write then s.hostWrites addr bytes else s) := by
  subst hlen
  rw [evHostCxlMemAccess, bind_ok (getS_run s)]
  refine (bind_ok (need_ok (by rw [decide_eq_true some_, decide_eq_true most]; rfl) s) _).trans ?_
  rw [if_pos green]
  rfl

end

/-! Published bytes -/

theorem length_bytes (m : Mem) (a n : Nat) : (Mem.bytes m a n).length = n := by
  induction n generalizing a with
  | zero => rfl
  | succ n ih => rw [Mem.bytes, List.length_cons, ih]

theorem length_read (h : Hbm) (a n : Nat) : (h.read a n).length = n := by
  induction n generalizing a with
  | zero => rfl
  | succ n ih => rw [Hbm.read, List.length_cons, ih]

@[simp] theorem length_homeBytes (s : State) (home a n : Nat) : (s.homeBytes home a n).length = n := by
  rw [State.homeBytes]
  split
  · exact length_bytes ..
  · exact length_read ..

/-- A byte read from outside, with the cause that consuming it raises (R22, R123, R125). -/
theorem getD_peekAt (s : State) (p : Phys) {n j : Nat} (hj : j < n) : (s.peekAt p n).getD j (0#8, 0) =
    ((s.homeBytes p.home p.addr n).getD j 0#8,
      let bad := if p.home = hostKey then 0 else (s.ld p.home).hbm.bad (p.addr + j)
      if bad = 0 ∧ p.pr = true then 0x1C0 else bad) := by
  have hb : j < (s.homeBytes p.home p.addr n).length := by rwa [length_homeBytes]
  simp only [State.peekAt, List.getD_eq_getElem?_getD, List.getElem?_map, List.getElem?_zipIdx, List.getElem?_eq_getElem hb, Option.map_some,
    Option.getD_some, Nat.zero_add]

/-! A peer's requests (R39, R415) -/

/-- A write of clean bytes at a place that a translation gave. -/
theorem pokeAt_clean (s : State) (p : Phys) (bs : List (BitVec 8)) : s.pokeAt p (bs.map fun b => (b, false)) =
    if p.home = hostKey then { s with host := Mem.setBytes s.host p.addr bs } else s.pokeLd p.home p.addr bs p.comp p.ca := by
  have clean : (bs.map fun b => (b, false)).map (·.1) = bs := by simp [Function.comp_def]
  rw [State.pokeAt, clean]
  rfl

/-- What the owner's checks of a peer's request have read (R39). -/
def State.peerRead (s : State) (l expidx e : Nat) : State := (s.readThrough 0 (s.exportReads l expidx e)).afterXl l 64 0 e

section

variable {s : State} {l ipkg idie expidx gen e kind : Nat} {rights : BitVec 3} {bytes : List (BitVec 8)} {answer : Xl} (hl : dieOk l = true)
  (lo : 1 ≤ kind) (hi : kind ≤ 5) (some_ : bytes ≠ []) (most : bytes.length ≤ 256) (held : s.anyHeld (s.exportReads l expidx e) = false)

include lo hi some_ most held

/-- The request is one, and no commit holds what its checks read (R39, R114). -/
theorem peerRequest_may : (decide (1 ≤ kind) && decide (kind ≤ 5) && !bytes.isEmpty && decide (bytes.length ≤ 256) &&
    !s.anyHeld (s.exportReads l expidx e)) = true := by
  simp [lo, hi, some_, most, held]

include hl

theorem exec_peerRequestCheck_fails {c : Nat}
    (r : s.exportCheck l ipkg idie expidx gen rights e kind bytes.length = answer) (fails : answer = .fault c ∨ answer = .lost c) :
    exec (.peerRequestCheck l ipkg idie expidx gen rights e kind bytes) s =
      .next ((s.peerRead l expidx e).updLd l fun x => { x with peerAns := some (c, 0), lastRead := [], lastBad := [] }) := by
  refine runEv_ok hl ?_
  rw [evPeerRequestCheck, bind_ok (getS_run s)]
  refine (bind_ok (need_ok (peerRequest_may lo hi some_ most held) s) _).trans ?_
  rw [r]
  rcases fails with rfl | rfl <;> rfl

variable {p : Phys} (r : s.exportCheck l ipkg idie expidx gen rights e kind bytes.length = .ok p)
  (free : s.commitHolds p.home p.addr bytes.length = false) (lines : s.linesFree p.home p.addr bytes.length = true)

include r free lines

theorem exec_peerRequestCheck_reads (k2 : kind ≠ 2) (k5 : kind ≠ 5) :
    exec (.peerRequestCheck l ipkg idie expidx gen rights e kind bytes) s =
      .next (((s.peerRead l expidx e).updLd l fun x => x.answers (some (0, p.addr)) ((s.peerRead l expidx e).peekAt p bytes.length)).readThrough
        p.ca [(p.home, p.addr, bytes.length)]) := by
  refine runEv_ok hl ?_
  rw [evPeerRequestCheck, bind_ok (getS_run s)]
  refine (bind_ok (need_ok (peerRequest_may lo hi some_ most held) s) _).trans ?_
  rw [r]
  refine (bind_ok (need_ok (by simp [free, lines]) s) _).trans ?_
  simp only [updS_run]
  rw [if_neg (by omega)]
  rfl

theorem exec_peerRequestCheck_writes (k : kind = 2 ∨ kind = 5) {u : State}
    (hu : ((s.peerRead l expidx e).updLd l fun x => { x with peerAns := some (0, p.addr), lastRead := [], lastBad := [] }) = u) :
    exec (.peerRequestCheck l ipkg idie expidx gen rights e kind bytes) s =
      .next (if p.home = hostKey then { u with host := Mem.setBytes u.host p.addr bytes } else u.pokeLd p.home p.addr bytes p.comp p.ca) := by
  subst hu
  refine runEv_ok hl ?_
  rw [evPeerRequestCheck, bind_ok (getS_run s)]
  refine (bind_ok (need_ok (peerRequest_may lo hi some_ most held) s) _).trans ?_
  rw [r]
  refine (bind_ok (need_ok (by simp [free, lines]) s) _).trans ?_
  simp only [updS_run]
  rw [if_pos k, pokeAt_clean]
  rfl

end

/-! The loss of an answer (R415) -/

/-- The requests of a step's landing slot. -/
def HomeReq.ofSlot (r : HomeReq) (l sid n : Nat) : Bool := r.ofStep l sid && !r.pref && r.slot == n

/-- A landing slot gives up a request that another die has not answered. -/
theorem exec_peerResponseTimeout_slot {s : State} {l k e d n : Nat} {u : State} {back : State → State} (hl : dieOk l = true) (hk : k < 48)
    (hn : n < 32) (at_ : At s l k e u d back) (live : (u.ctx l k d).live = true) (pending : ((u.ctx l k d).regs.ls.getD n {}).st = .pending)
    (far : ∃ e ∈ u.lds, e.1 ≠ l ∧ ∃ r ∈ e.2.homeQ, r.ofSlot l (u.ctx l k d).sid n = true ∧ r.home ≠ hostKey) :
    exec (.peerResponseTimeout l k e n) s = .next (back
      ({ u with lds := u.lds.map (fun (e : Nat × Ld) => (e.1, { e.2 with homeQ := e.2.homeQ.filter fun r => !r.ofSlot l (u.ctx l k d).sid n })),
                ticks := u.ticks + 700000 }.updCtx l k d fun x => x.fillSlot n 0 0 0x300 0)) := by
  have units := units_of_at at_ (by rw [hl, decide_eq_true hk]; rfl)
  have open_ : (u.lds.any fun e => e.1 != l && e.2.homeQ.any fun r => r.ofSlot l (u.ctx l k d).sid n && r.home != hostKey) = true := by
    simpa [List.any_eq_true] using far
  refine runEv_ok (by rw [units]; exact decide_eq_true (by omega)) ?_
  rw [evPeerResponseTimeout, if_neg (by omega)]
  refine onCtx_at at_ ?_
  rw [bind_ok (getS_run u)]
  refine (bind_ok (need_ok ?_ u) _).trans rfl
  rw [live, pending]
  exact open_

/-- A copy gives up a chunk that another die has not answered. -/
theorem exec_peerResponseTimeout_copy {s : State} {l k c a : Nat} {q : Cmd} (on : OnCtx l k c) (run : Running s l k c q) (chunked : q.chunked = true)
    (more : q.chunk.isSome = true ∨ (q.input = none ∧ 4096 * q.chix < q.total)) (far : s.farChunk l k q = some a) :
    exec (.peerResponseTimeout l k c 32) s = .next ({ s with ticks := s.ticks + 700000 }.stopCmd l k q 0x300 a) := by
  obtain ⟨hl, hk, hc⟩ := on
  have units := units_of_at (.inl ⟨hc, rfl, rfl, rfl⟩ : At s l k c s c id) (by rw [hl, decide_eq_true hk]; rfl)
  refine runEv_ok (by rw [units]; rfl) ?_
  rw [evPeerResponseTimeout, if_pos rfl, copyTimeout, bind_ok (runningCmd_ok run (by simpa [chunked] using more)), bind_ok (getS_run s), far]
  rfl

/-- Settles O40, event by event. The sectors that a read of a line with a reserved tag brings in are poisoned by `poison_readSectors`. -/
theorem memoryEvents : Obligations.MemoryEvents := by
  intro s l hl
  refine ⟨?request, ?expand, fun line comp data => exec_fullLineWrite hl comp data, fun addr comp bytes => exec_partialLineWrite hl comp,
    pokeLd_eq s l, ?host, ?green, ?peer, fun p n j => getD_peekAt s p,
    fun k e d n u back hk hn => exec_peerResponseTimeout_slot hl hk hn, fun k c q a hk hc => exec_peerResponseTimeout_copy ⟨hl, hk, hc⟩⟩
  case request =>
    intro r rest hr i t q t' u
    refine ⟨exec_dieCacheRequest hl hr rfl rfl, serveHome_pref, serveHome_ended, fun x got plain load step hgot => ?_, fun op atom => ?_⟩
    · subst hgot
      exact serveHome_load plain load step
    · exact ⟨fun writes => (serveHome_atomic atom).trans (serveAtomic_writes writes rfl rfl),
        fun keeps => (serveHome_atomic atom).trans (serveAtomic_keeps keeps rfl)⟩
  case expand =>
    intro line mask hline
    refine ⟨_, exec_lineReadExpand hl mask hline, rfl, fun q hq asked broken => ?_⟩
    exact poison_readSectors (ne_hostKey_of_dieOk hl) hq broken 0 (List.mem_filter.mpr ⟨List.mem_range.mpr hq, asked⟩)
  case host =>
    intro die bound addr n bytes
    refine ⟨fun some_ most fits free lines => ?_, fun some_ most fits free lines => ?_⟩
    · exact runEv_ok hl (evHostCxlMemAccess_stack (write := true) addr rfl some_ most die bound fits free lines)
    · exact runEv_ok hl (evHostCxlMemAccess_stack (write := false) addr rfl some_ most die bound fits free lines)
  case green =>
    intro green addr n bytes
    refine ⟨fun some_ most => ?_, fun some_ most => ?_⟩
    · exact runEv_ok hl (evHostCxlMemAccess_green (write := true) addr rfl some_ most green)
    · exact runEv_ok hl (evHostCxlMemAccess_green (write := false) addr rfl some_ most green)
  case peer =>
    intro ipkg idie expidx gen rights e kind bytes lo hi some_ most held i r t
    refine ⟨fun c => exec_peerRequestCheck_fails hl lo hi some_ most held rfl, fun p ok free lines => ⟨?_, fun k => ?_⟩⟩
    · exact exec_peerRequestCheck_reads hl lo hi some_ most held ok free lines
    · exact exec_peerRequestCheck_writes hl lo hi some_ most held ok free lines k rfl

end Sys2Proof.Machine

/-! Reports and the staged start (R114, R217, R424 to R428, R439, R441 to R448): fault records, interrupts, machine checks and resets, the stages of a
start, and the images that the ROM runs. -/

namespace Sys2Proof.Machine

open Sys2Proof.Claim

/-! Fault records (R114, R424, R426) -/

/-- A write to a stack leaves FQMSI of every die. -/
theorem fqmsi_pokeLd (s : State) (j a : Nat) (bs : List (BitVec 8)) (comp : Bool) (ca l : Nat) :
    ((s.pokeLd j a bs comp ca).ld l).regs.fqmsi = (s.ld l).regs.fqmsi := by
  have noted : ((s.noteBroken j a bs.length).ld l).regs.fqmsi = (s.ld l).regs.fqmsi := by
    refine foldl_keeps (fun s : State => (s.ld l).regs.fqmsi) (fun s line => ?_) _ s
    split
    · exact updLd_keeps (fun x => x.regs.fqmsi) (by intro; rfl) l
    · rfl
  rw [pokeLd_eq, ← noted]
  exact updLd_keeps (fun x => x.regs.fqmsi) (by intro; rw [touch_regs]) l

/-- The place of the next fault record (R426). -/
def Ld.recordPlace (x : Ld) : Nat := 4096 * (x.regs.fqbase.toNat / 2 ^ 12 % 2 ^ 40) + 64 * (x.regs.fqtail.toNat % 2 ^ (x.regs.fqbase.toNat % 2 ^ 6))

theorem recordPlace_eq (x : Ld) :
    4096 * bits x.regs.fqbase.toNat 12 40 + 64 * (x.regs.fqtail.toNat % 2 ^ bits x.regs.fqbase.toNat 0 6) = x.recordPlace := by
  rw [bits, bits, Nat.shiftRight_eq_div_pow, Nat.shiftRight_zero, Ld.recordPlace]

/-- The oldest waiting record is in the queue, and FQTAIL has moved (R426). -/
def State.recordIn (s : State) (l tag : Nat) (r : BitVec 512) (rest : List (Nat × BitVec 512)) : State :=
  (s.pokeLd l (s.ld l).recordPlace (natLe 64 r.toNat)).updLd l fun x =>
    { x with
      faultQ := rest
      pausedRecs := if resumable tag r then mput x.pausedRecs (s.ld l).recordPlace (tag, r) else mdel x.pausedRecs (s.ld l).recordPlace
      regs.fqtail := BitVec.ofNat 64 ((x.regs.fqtail.toNat + 1) % 2 ^ 32) }

/-- The queue's vector is signalled, when it has one (R426). -/
def State.signalRecord (s : State) (l : Nat) : State :=
  if (s.ld l).regs.fqmsi.getLsbD 11 then s.msix l ((s.ld l).regs.fqmsi.toNat % 2 ^ 11) else s

theorem fqmsi_recordIn (s : State) (l tag : Nat) (r : BitVec 512) (rest : List (Nat × BitVec 512)) :
    ((s.recordIn l tag r rest).ld l).regs.fqmsi = (s.ld l).regs.fqmsi := by
  rw [State.recordIn, ld_updLd_same, fqmsi_pokeLd]

/-- A record is written, its vector signalled, and what the policy says of its step done after that. -/
theorem exec_faultRecordWrite {s : State} {l tag : Nat} {r : BitVec 512} {rest : List (Nat × BitVec 512)} (hl : dieOk l = true)
    (oldest : (s.ld l).faultQ = (tag, r) :: rest) (room : (s.ld l).fqRoom = true) (free : s.commitHolds l (s.ld l).recordPlace 64 = false) :
    exec (.faultRecordWrite l) s = .next (
      if tag = 0 then (s.recordIn l tag r rest).signalRecord l else ((s.recordIn l tag r rest).signalRecord l).afterRecord l (tag - 1) r) := by
  have low (v : Nat) : bits v 0 11 = v % 2 ^ 11 := rfl
  refine runEv_ok hl ?_
  rw [evFaultRecordWrite, bind_ok (getS_run s), State.signalRecord, fqmsi_recordIn]
  simp only [oldest, recordPlace_eq, low]
  refine (bind_ok (need_ok (by rw [room, free]; rfl) s) _).trans ?_
  rw [updS_run]
  rfl

/-! Interrupts (R443) -/

/-- A vector whose pending bit is set is signalled as it is unmasked, once. -/
theorem setMsix_unmasked (x : Ld) (v : Nat) {e : MsixEntry} (unmasked : e.masked = false) : x.setMsix v e =
    if x.msixPend.has v then { x with msix := mput x.msix v e, msixPend := x.msixPend.upd v false, msixSent := x.msixSent ++ [(v, e.addr, e.data)] }
    else { x with msix := mput x.msix v e } := by
  rw [Ld.setMsix, unmasked]
  cases x.msixPend.has v
  · rfl
  · simp [Ld.signal]

theorem exec_msixUnmask {s : State} {l v : Nat} (hl : dieOk l = true) (hv : v < 2048) {e : MsixEntry}
    (he : { mgetD (s.ld l).msix v {} with masked := false } = e) : exec (.msixUnmask l v) s = .next (s.updLd l fun x => x.setMsix v e) := by
  subst he
  refine runEv_ok (m := evMsixUnmask l v) (by rw [hl, decide_eq_true hv]; rfl) ?_
  rw [evMsixUnmask, updS_run]
  exact congrArg (fun t => Except.ok ((), t)) (updLd_congr rfl)

theorem exec_msixUnmask_quiet {s : State} {l v : Nat} (hl : dieOk l = true) (hv : v < 2048) (none_ : (s.ld l).msixPend.has v = false) :
    exec (.msixUnmask l v) s = .next (s.updLd l fun x => { x with msix := mput x.msix v { mgetD (s.ld l).msix v {} with masked := false } }) := by
  rw [exec_msixUnmask hl hv rfl]
  refine congrArg Host.Outcome.next (updLd_congr ?_)
  rw [setMsix_unmasked _ _ rfl, none_]
  rfl

theorem exec_msixUnmask_pending {s : State} {l v : Nat} (hl : dieOk l = true) (hv : v < 2048) {e : MsixEntry}
    (he : { mgetD (s.ld l).msix v {} with masked := false } = e) (pending : (s.ld l).msixPend.has v = true) :
    exec (.msixUnmask l v) s = .next ((s.updLd l fun x => { x with msix := mput x.msix v e }).updLd l fun x =>
      { x with msixPend := x.msixPend.upd v false, msixSent := x.msixSent ++ [(v, e.addr, e.data)] }) := by
  rw [exec_msixUnmask hl hv he, updLd_updLd]
  refine congrArg Host.Outcome.next (updLd_congr ?_)
  rw [setMsix_unmasked _ _ (by rw [← he]), pending]
  rfl

theorem msix_masked {s : State} {l v : Nat} (masked : (mgetD (s.ld l).msix v {}).masked = true) :
    s.msix l v = s.updLd l fun x => { x with msixPend := x.msixPend.upd v true } :=
  updLd_congr (by rw [if_pos masked])

theorem msix_unmasked {s : State} {l v : Nat} (unmasked : (mgetD (s.ld l).msix v {}).masked = false) :
    s.msix l v = s.updLd l fun x => { x with msixSent := x.msixSent ++ [(v, (mgetD x.msix v {}).addr, (mgetD x.msix v {}).data)] } :=
  updLd_congr (by rw [if_neg (by rw [unmasked]; exact Bool.false_ne_true)]; rfl)

/-! Binding (R441, R444) -/

/-- A port that a host has already, or that none has, is bound as it stands; any other change resets the function. -/
theorem exec_virtualHierarchyBinding {s : State} {l : Nat} (hl : dieOk l = true) (die : l % 16 < 8) (host : Option Nat) :
    exec (.virtualHierarchyBinding l host) s = .next ((if host.isSome && ((s.ld l).host.isNone || (s.ld l).host == host) then s else s.flr l).updLd l
      fun x => { x with host := host }) :=
  runEv_ok hl (bind_ok (need_ok (decide_eq_true die) s) _)

/-! Stages (R446, R447) -/

section

variable {s : State} {l : Nat} (hl : dieOk l = true) (die : l % 16 < 8) (early : (s.ld l).stage < 3)
  (starts : (s.ld l).failed = 0 ∨ ((s.ld l).stage = 0 ∧ (s.ld l).failed ≤ 2))

include die early starts

/-- A start is under way: no stage has failed, or the ROM waits at stage 0 for an image. -/
theorem starting : (decide (l % 16 < 8) && decide ((s.ld l).stage < 3) &&
    ((s.ld l).failed == 0 || ((s.ld l).stage == 0 && decide ((s.ld l).failed ≤ 2)))) = true := by
  simpa [die, early] using starts

include hl

theorem exec_startStageAdvance (ready : s.stageReady l = true) : exec (.startStageAdvance l 0) s = .next (s.enterStage l) := by
  refine runEv_ok hl ?_
  rw [evStartStageAdvance, bind_ok (getS_run s)]
  refine (bind_ok (need_ok (starting die early starts) s) _).trans ?_
  rw [if_pos (.inl rfl)]
  exact bind_ok (need_ok ready s) _

theorem exec_startStageAdvance_fails {r : Nat} (lo : 1 ≤ r) (hi : r ≤ 5) :
    exec (.startStageAdvance l r) s = .next (s.updLd l fun x => { x with failed := r }) := by
  refine runEv_ok hl ?_
  rw [evStartStageAdvance, bind_ok (getS_run s)]
  refine (bind_ok (need_ok (starting die early starts) s) _).trans ?_
  rw [if_neg (by omega)]
  exact bind_ok (need_ok (by rw [decide_eq_true lo, decide_eq_true hi]; rfl) s) _

end

/-! Every die of a package (R446, R447) -/

/-- A change that may be made twice, made of the dies of a list: each of them has it, and no other. -/
theorem ld_foldl_updLd {f : Ld → Ld} (idem : ∀ x, f (f x) = f x) (ls : List Nat) (s : State) (i : Nat) :
    (ls.foldl (fun s l => s.updLd l f) s).ld i = if i ∈ ls then f (s.ld i) else s.ld i := by
  induction ls generalizing s with
  | nil => rfl
  | cons l ls ih =>
    rw [List.foldl_cons, ih]
    by_cases here : i = l
    · subst here
      rw [ld_updLd_same, idem]
      simp
    · rw [ld_updLd_other _ _ _ _ here]
      simp [here]

theorem pkgs_foldl_updLd (f : Ld → Ld) (ls : List Nat) (s : State) : (ls.foldl (fun s l => s.updLd l f) s).pkgs = s.pkgs :=
  foldl_keeps State.pkgs (fun s l => updLd_pkgs s l f) ls s

/-- After a power-on the package is quiet, and each of its dies and its green is as an unlisted one (R447). -/
theorem exec_powerOnReset (s : State) {p : Nat} (hp : p < 1024) :
    ∃ t, exec (.powerOnReset p) s = .next t ∧ t.pkg p = { idleAt := some s.ticks } ∧ ∀ d < 9, t.ld (ldNo p d) = {} := by
  refine ⟨_, runEv_ok (m := evPowerOnReset p) (decide_eq_true hp) rfl, pkg_updPkg_same .., fun d hd => ?_⟩
  have dies (u : State) : (List.range 9).foldl (fun s d => s.putLd (ldNo p d) {}) u =
      ((List.range 9).map (ldNo p)).foldl (fun s l => s.updLd l fun _ => {}) u := by
    rw [List.foldl_map]
    rfl
  rw [updPkg_ld, dies, ld_foldl_updLd (f := fun _ => {}) (fun _ => rfl), if_pos (List.mem_map.mpr ⟨d, List.mem_range.mpr hd, rfl⟩)]

/-! Images (R446, R448) -/

/-- A list's candidate of the highest version so far: a later one replaces it only when its version is higher. -/
def laterManifest (b : Option Manifest) (m : Manifest) : Option Manifest := if b.all fun c => decide (c.version < m.version) then some m else b

/-- `b` is a newest of `ms`. -/
def IsNewest (b : Option Manifest) (ms : List Manifest) : Prop :=
  (∀ w ∈ ms, ∃ m, b = some m ∧ w.version ≤ m.version) ∧ ∀ m, b = some m → m ∈ ms

theorem isNewest_laterManifest {b : Option Manifest} {ms : List Manifest} (h : IsNewest b ms) (m : Manifest) :
    IsNewest (laterManifest b m) (ms ++ [m]) := by
  obtain ⟨tops, mem⟩ := h
  cases b with
  | none =>
    have empty : ms = [] := List.eq_nil_iff_forall_not_mem.mpr fun w hw => by simpa using tops w hw
    subst empty
    exact ⟨by simp [laterManifest], by simp [laterManifest]⟩
  | some c =>
    have bound (w : Manifest) (hw : w ∈ ms) : w.version ≤ c.version := by simpa using tops w hw
    have inside : c ∈ ms := mem c rfl
    by_cases newer : c.version < m.version
    · have next : laterManifest (some c) m = some m := by simp [laterManifest, newer]
      rw [next]
      refine ⟨fun w hw => ⟨m, rfl, ?_⟩, by simp⟩
      rcases List.mem_append.mp hw with hw | hw
      · exact (bound w hw).trans newer.le
      · rw [List.mem_singleton.mp hw]
    · have next : laterManifest (some c) m = some c := by simp [laterManifest, newer]
      rw [next]
      refine ⟨fun w hw => ⟨c, rfl, ?_⟩, by simp [inside]⟩
      rcases List.mem_append.mp hw with hw | hw
      · exact bound w hw
      · rw [List.mem_singleton.mp hw]
        exact Nat.le_of_not_lt newer

theorem isNewest_foldl (ms : List Manifest) : IsNewest (ms.foldl laterManifest none) ms := by
  induction ms using List.reverseRecOn with
  | nil => exact ⟨by simp, by simp⟩
  | append_singleton ms m ih =>
    rw [List.foldl_append]
    exact isNewest_laterManifest ih m

theorem newestManifest_isNewest (ms : List Manifest) : IsNewest (newestManifest ms) (ms.filter manifestOk) := isNewest_foldl _

theorem pkg_imageRefused (s : State) (p reason : Nat) : (s.imageRefused p reason).pkg p = { s.pkg p with fwRefused := true, mailbox := none } := by
  rw [State.imageRefused, State.pkg, pkgs_foldl_updLd, ← State.pkg, pkg_updPkg_same]

/-- The reason for which an LD at stage 0 waits (R446). -/
def Ld.waitsFor (reason : Nat) (x : Ld) : Ld := if x.stage = 0 then { x with failed := reason } else x

theorem waitsFor_waitsFor (reason : Nat) (x : Ld) : (x.waitsFor reason).waitsFor reason = x.waitsFor reason := by
  by_cases h : x.stage = 0 <;> simp [Ld.waitsFor, h]

theorem failed_imageRefused {s : State} {p d : Nat} (reason : Nat) (hd : d < 8) (early : (s.ld (ldNo p d)).stage = 0) :
    ((s.imageRefused p reason).ld (ldNo p d)).failed = reason := by
  have mem : ldNo p d ∈ diesOf p := List.mem_map.mpr ⟨d, List.mem_range.mpr hd, rfl⟩
  have waits := ld_foldl_updLd (waitsFor_waitsFor reason) (diesOf p) (s.updPkg p fun g => { g with fwRefused := true, mailbox := none }) (ldNo p d)
  rw [if_pos mem, updPkg_ld, Ld.waitsFor, if_pos early] at waits
  exact congrArg Ld.failed waits

section

variable {s : State} {p : Nat} (hp : p < 1024) {flash : Option Signed} {ms : List Manifest} {fromHost : Bool} (waits : (s.pkg p).fwOk = none)
  (may : if fromHost then (s.pkg p).mailbox ≠ none else (s.pkg p).fwRefused = false)

include waits may

/-- The ROM looks for an image: in flash until one there is refused, or in a mailbox that holds one (R448). -/
theorem looksForImage : ((s.pkg p).fwOk.isNone && (if fromHost then (s.pkg p).mailbox.isSome else !(s.pkg p).fwRefused)) = true := by
  rw [waits]
  cases fromHost
  · rw [if_neg Bool.false_ne_true] at may
    rw [may]
    rfl
  · rw [if_pos rfl] at may
    exact Option.isSome_iff_ne_none.mpr may

include hp

theorem exec_firmwareVerify_missing (image : (if fromHost then (s.pkg p).mailbox else flash) = none) :
    exec (.firmwareVerify p flash ms fromHost) s = .next (s.imageRefused p 2) := by
  refine runEv_ok (decide_eq_true hp) ?_
  rw [evFirmwareVerify, bind_ok (getS_run s)]
  refine (bind_ok (need_ok (looksForImage waits may) s) _).trans ?_
  simp only [updS_run, image]

/-- The image that is there is run when it verifies; else the ROM waits for another. -/
theorem exec_firmwareVerify_image {i : Signed} (image : (if fromHost then (s.pkg p).mailbox else flash) = some i) :
    exec (.firmwareVerify p flash ms fromHost) s =
      .next (if mayRun i ms then s.updPkg p fun g => { g with fwOk := some i, fwRefused := false, mailbox := none } else s.imageRefused p 1) := by
  refine runEv_ok (decide_eq_true hp) ?_
  rw [evFirmwareVerify, bind_ok (getS_run s)]
  refine (bind_ok (need_ok (looksForImage waits may) s) _).trans ?_
  simp only [updS_run, image]

end

theorem signedUnder_iff (i : Signed) (keys : List (BitVec 8) × List (BitVec 8)) : signedUnder i keys = true ↔
    Config.verifies false keys.1 i.image i.ed25519 = true ∧ Config.verifies true keys.2 i.image i.mldsa65 = true := by
  rw [signedUnder, Bool.and_eq_true]

theorem manifestOk_iff (m : Manifest) : manifestOk m = true ↔
    Config.verifies false Config.rootKeys.1 (Config.manifestText m.version m.edKey m.mlKey) m.ed25519 = true ∧
      Config.verifies true Config.rootKeys.2 (Config.manifestText m.version m.edKey m.mlKey) m.mldsa65 = true := by
  rw [manifestOk, Bool.and_eq_true]

theorem mayRun_iff (i : Signed) (ms : List Manifest) : mayRun i ms = true ↔
    signedUnder i Config.rootKeys = true ∨ ∃ m, newestManifest ms = some m ∧ signedUnder i (m.edKey, m.mlKey) = true := by
  rw [mayRun, Bool.or_eq_true, Option.any_eq_true]

/-- Settles O49, event by event. -/
theorem reportAndStartEvents : Obligations.ReportAndStartEvents := by
  intro s l hl
  refine ⟨?record, fun v => runEv_ok (m := evFqheadWrite l v) hl rfl, fun v => runEv_ok (m := evFqbaseWrite l v) hl rfl, ?check, ?vector,
    fun r => runEv_ok (m := evSpdmRequest l r) hl rfl, runEv_ok (m := evFunctionLevelReset l) hl rfl, ?bind, ?stage, ?package⟩
  case record =>
    intro tag r rest oldest room base a free t u
    have next := exec_faultRecordWrite hl oldest room free
    refine ⟨fun none_ => ?_, fun step => ?_⟩
    · rwa [if_pos none_] at next
    · rwa [if_neg step] at next
  case check =>
    intro unit hu die
    exact runEv_ok (m := evMachineCheck l unit) (by rw [hl, decide_eq_true hu]; rfl) (bind_ok (need_ok (decide_eq_true die) s) _)
  case vector =>
    intro v hv e t
    exact ⟨exec_msixUnmask_quiet hl hv, exec_msixUnmask_pending hl hv rfl, msix_masked, msix_unmasked⟩
  case bind =>
    intro die
    refine ⟨fun h _ same => ?_, fun h g _ bound other => ?_, exec_virtualHierarchyBinding hl die none⟩
    · rw [exec_virtualHierarchyBinding hl die, if_pos]
      rcases same with same | same <;> simp [same]
    · rw [exec_virtualHierarchyBinding hl die, if_neg]
      simp [bound, other]
  case stage =>
    intro die early starts
    exact ⟨exec_startStageAdvance hl die early starts, fun r => exec_startStageAdvance_fails hl die early starts⟩
  case package =>
    intro p hp
    refine ⟨exec_powerOnReset s hp, fun image waits => ?_, ?_⟩
    · refine runEv_ok (m := evDoeImageWrite p image) (decide_eq_true hp) ?_
      rw [evDoeImageWrite, bind_ok (getS_run s)]
      exact bind_ok (need_ok (by rw [waits]; rfl) s) _
    · intro flash ms fromHost waits may signed good runs waiting
      obtain ⟨tops, mem⟩ := newestManifest_isNewest ms
      have beaten (w : Manifest) (hw : w ∈ ms) (ok : good w) : ∃ m, newestManifest ms = some m ∧ w.version ≤ m.version :=
        tops w (List.mem_filter.mpr ⟨hw, (manifestOk_iff w).mpr ok⟩)
      have run (i : Signed) : mayRun i ms = true ↔ runs i := by simp only [mayRun_iff, signedUnder_iff]; rfl
      have stays (why : Nat) : waiting (s.imageRefused p why) why := by
        refine ⟨by rw [pkg_imageRefused], by rw [pkg_imageRefused], by rw [pkg_imageRefused, waits], fun d hd => failed_imageRefused why hd⟩
      refine ⟨fun m hm => ?_, fun none_ w hw ok => ?_, fun i image => ?_, fun missing =>
        ⟨_, exec_firmwareVerify_missing hp waits may missing, stays 2⟩⟩
      · obtain ⟨listed, ok⟩ := List.mem_filter.mp (mem m hm)
        exact ⟨listed, (manifestOk_iff m).mp ok, fun w hw good => by simpa [hm] using beaten w hw good⟩
      · simpa [none_] using beaten w hw ok
      · have next := exec_firmwareVerify_image (ms := ms) hp waits may image
        refine ⟨fun yes => ?_, fun no => ⟨_, ?_, stays 1⟩⟩
        · rwa [if_pos ((run i).mpr yes)] at next
        · rwa [if_neg (mt (run i).mp no)] at next

end Sys2Proof.Machine

/-! Tokens and the belfry (R137, R139, R143 to R160, R202, R394 to R399, R474): how a token's step, its ring and its die's batches stand after each
event, and what notices, replies and spilled entries leave. -/

namespace Sys2Proof.Machine

open Sys2Proof.Claim

/-! Tokens (R396 to R399) -/

/-- A part of a die in which no change of a step's context shows, wherever the step is. -/
structure StepFree {α : Type} (g : Ld → α) : Prop where
  resident : ∀ (x : Ld) (k c : Nat) (f : Ctx → Ctx), g (x.updCore k fun y => y.updCtx c f) = g x
  saved : ∀ (x : Ld) (m : Smap Saved), g { x with saved := m } = g x

theorem stepFree_tokWait : StepFree Ld.tokWait := ⟨fun _ _ _ _ => rfl, fun _ _ => rfl⟩

theorem stepFree_landing : StepFree Ld.landing := ⟨fun _ _ _ _ => rfl, fun _ _ => rfl⟩

theorem stepFree_rings (k : Nat) : StepFree fun x => (x.core k).rings := by
  refine ⟨fun x j c f => ?_, fun _ _ => rfl⟩
  rw [core_updCore]
  split
  · exact updCtx_rings ..
  · rfl

theorem StepFree.updStep {α : Type} {g : Ld → α} (h : StepFree g) (s : State) (l sid : Nat) (f : Ctx → Ctx) (i : Nat) :
    g ((s.updStep l sid f).ld i) = g (s.ld i) := by
  unfold State.updStep
  split
  · exact updLd_keeps g (fun x => h.resident x ..) i
  · exact updLd_keeps g (fun x => h.saved x _) i
  · rfl

theorem StepFree.tokenSettled {α : Type} {g : Ld → α} (h : StepFree g) (s : State) (t : Token) (i : Nat) :
    g ((s.tokenSettled t).ld i) = g (s.ld i) :=
  (h.updStep ..).trans (h.updStep ..)

/-- A ring whose next free hod a token has taken (R202, R396). -/
def State.ringTaken (s : State) (l : Nat) (t : Token) (g : Ring) : Ring :=
  let o := s.opOf l t.opid
  { g with
    wp := g.hod g.wp 1, used := g.used + 1, tags := mput g.tags g.wp { parish := o.parish, yard := o.yard, stamp := t.stamp, port := t.dyard }
    bound := if o.pmode = 2 then none else some (o.ord t.stamp.toNat) }

section

variable {s : State} {l : Nat} (hl : dieOk l = true)

include hl

/-- A token that has arrived is refused, waits for its ring, or is a signal that is consumed as it lands. -/
theorem exec_tokenArrival {t : Token} {u : State} (oldest : ((s.ld l).tokIn.find? fun t => t.way.isNone) = some t)
    (hu : u = s.updLd l fun x => { x with tokIn := x.tokIn.erase t }) :
    exec (.tokenArrival l) s = .next (
      if u.tokenOk l t = false then u.refuseToken t
      else if portRing ((u.opOf l t.opid).inport t.port) then
        (u.updLd l fun x => { x with tokWait := x.tokWait ++ [{ t with at_ := s.ticks }] }).testTokens t.src t.sid
      else (u.countAt l (u.opOf l t.opid).parish t.dyard t.stamp.toNat (-1)).tokenSettled t) := by
  subst hu
  refine runEv_ok hl ?_
  rw [evTokenArrival, bind_ok (getS_run s)]
  simp only [oldest, updS_run, Bool.not_eq_true']
  rfl

/-- A token that is accepted takes a hod of its ring, whose sectors go on their way. -/
theorem exec_tokenAcceptance {t : Token} {k r : Nat} (next : s.nextToken l [] (s.ld l).tokWait = some t) (ring : s.tokenRing l t = some (k, r)) :
    ∃ sectors : List Landing, sectors.length = ringStage (mgetD (s.core l k).rings r {}).cfg / 32 ∧
      exec (.tokenAcceptance l) s = .next (((s.updCore l k fun y =>
        { y with rings := mput y.rings r (s.ringTaken l t (mgetD (s.core l k).rings r {})) }).updLd l fun x =>
          { x with tokWait := x.tokWait.erase t, landing := x.landing ++ sectors }).tokenSettled t) := by
  apply Exists.intro
  refine And.intro ?length (runEv_ok hl ?run)
  case run =>
    rw [evTokenAcceptance, bind_ok (getS_run s)]
    simp only [next, ring, updS_run]
    rfl
  case length => rw [List.length_map, List.length_range]

section

variable {t : Token} {u : State}
  (oldest : ((s.ld l).tokBack.find? fun t => !(s.stepOf l t.sid).any fun x => x.paused.isSome) = some t)
  (hu : u = ((s.updLd l fun x => { x with tokBack := x.tokBack.erase t }).countAt l t.parish t.dyard t.stamp.toNat (-1)).tokenSettled t)

include oldest hu

/-- The sender of a refused token counts it, when its step has ended too. -/
theorem exec_tokenRefusal_ended (ended : (u.ld l).findStep t.sid = none) : exec (.tokenRefusal l) s = .next u := by
  refine runEv_ok (m := evTokenRefusal l) hl ?_
  rw [evTokenRefusal, bind_ok (getS_run s)]
  simp only [oldest, updS_run, ← hu, ended]

/-- An engine fault is reported of the sender of a refused token, or a record alone is written while it retires (R398, R408). -/
theorem exec_tokenRefusal_step {p : Place} {k : Nat} {x : Ctx} (found : (u.ld l).findStep t.sid = some (p, k, x)) :
    exec (.tokenRefusal l) s = .next (
      if x.retiring ≠ 0 then
        (u.countFault l x.sys.opid 0x285).queueRecord l 0 (faultRecord (u.countFault l x.sys.opid 0x285).ns (dieOf l) {
          stamp := x.sys.stamp.toNat, trapb := x.st.pc, opid := x.sys.opid, core := k, ctx := p.ctxNo, kind := 2, act := 3, cause := 0x285 }
          (engineHalf t.route.toNat 0 0 7 0 t.stamp.toNat))
      else u.engineFault l t.sid 0x285 (engineHalf t.route.toNat 0 0 7 0 t.stamp.toNat)) := by
  refine runEv_ok (m := evTokenRefusal l) hl ?_
  rw [evTokenRefusal, bind_ok (getS_run s)]
  simp only [oldest, updS_run, ← hu, found]

end

/-! Batches (R155 to R157) -/

theorem exec_batchCloseTimeout {b : Batch} {r : List Batch} (open_ : (s.ld l).belfry.openB = b :: r) :
    exec (.batchCloseTimeout l) s = .next (((timeTo s (b.at_ + 70)).updLd l fun x => { x with belfry.openB := r }).sendBatch b) := by
  refine runEv_ok hl ?_
  rw [evBatchCloseTimeout, bind_ok (getS_run s)]
  simp only [open_]
  exact updS_run s _

section

variable {b : Batch} {t : State} (oldest : ((s.ld l).belfry.inbox.find? fun b => b.way.isNone) = some b)
  (ht : t = s.updLd l fun x => { x with belfry.inbox := x.belfry.inbox.erase b, belfry.seqIn := mput x.belfry.seqIn b.src ((b.seq + 1) % 2 ^ 32) })

include oldest ht

/-- A batch that has arrived and breaks no rule is applied as a whole. -/
theorem exec_batchApply_good (good : s.batchCause l b = none) : exec (.batchApply l) s = .next (t.applyRecs l b.recs (t.announced l)) := by
  subst ht
  refine runEv_ok (m := evBatchApply l) hl ?_
  rw [evBatchApply, bind_ok (getS_run s)]
  simp only [oldest, updS_run, good]

/-- Another is discarded as a whole, and the parishes that it names stop; its number is the sender's last all the same. -/
theorem exec_batchApply_bad {c : Nat} (bad : s.batchCause l b = some c) :
    exec (.batchApply l) s = .next (((b.recs.map (·.parish)).eraseDups).foldl
      (fun s p => s.updParish l p fun q => { q with stopped := true }) (t.errLog l 2 4 c b.src true)) := by
  subst ht
  refine runEv_ok (m := evBatchApply l) hl ?_
  rw [evBatchApply, bind_ok (getS_run s)]
  simp only [oldest, updS_run, bad]

end

/-! Notices (R154, R474) -/

/-- A curfew notice raises the local curfew of a parish that is enabled, authorised and not stopped, and may complete operators and regions. -/
theorem exec_curfewNoticeApply {n : Notice} {p : Nat} {t : State} (next : (s.ld l).nextNotice = some (n, p)) (curfew : n.root = false)
    (ht : t = s.updLd l fun x => { x with belfry.notices := x.belfry.notices.erase n }) :
    exec (.curfewNoticeApply l) s = .next (
      if (t.parish l p).enabled = false then t
      else if t.authOk l n.src n.auth = false then t.noticeRefused l p
      else if (t.parish l p).stopped then t
      else ((t.updParish l p fun q => { q with curfews := mput q.curfews n.yard (max (q.curfew n.yard) n.value) }).completeOps l p).completeRegions l) := by
  subst ht
  refine runEv_ok hl ?_
  rw [evCurfewNoticeApply, bind_ok (getS_run s)]
  simp only [next]
  rw [bind_ok (need_ok (by rw [curfew]; rfl) s)]
  simp only [updS_run, Bool.not_eq_true']

/-- A root notice changes the copy of the root or seals it; the reply stands behind what the die has sent before. -/
theorem exec_rootNoticeApply {n : Notice} {p : Nat} {t : State} (next : (s.ld l).nextNotice = some (n, p)) (root : n.root = true)
    (ht : t = s.updLd l fun x => { x with belfry.notices := x.belfry.notices.erase n }) :
    exec (.rootNoticeApply l) s = .next (
      if t.authOk l n.src n.auth = false then t.noticeRefused l p
      else
        let u := (t.updParish l p fun q => if n.sealN then { q with isSealed := true } else { q with root := n.value }).closeBatch l n.src
        u.sendReply n.src { src := l, parish := n.parish, value := mgetD (u.ld l).belfry.seqOut n.src 0 }) := by
  subst ht
  refine runEv_ok hl ?_
  rw [evRootNoticeApply, bind_ok (getS_run s)]
  simp only [next]
  rw [bind_ok (need_ok root s)]
  simp only [updS_run, Bool.not_eq_true']

/-- The home's own reply ends the command; the last of the other members' sends the command's batch. -/
theorem exec_rootNoticeReply {r : Notice} {u t : State}
    (oldest : ((s.ld l).belfry.replies.find? fun r => r.way.isNone && seqReached r.value (mgetD (s.ld l).belfry.seqIn r.src 0)) = some r)
    (hu : u = s.updLd l fun x => { x with belfry.replies := x.belfry.replies.erase r })
    (ht : t = u.updParish l r.parish fun q => { q with replies := q.replies + 1 }) :
    exec (.rootNoticeReply l) s = .next (
      if r.src = l then u.updLd l Ld.ltDone
      else if (t.parish l r.parish).cmd.isSome = true ∧ ((t.parish l r.parish).others l).length ≤ (t.parish l r.parish).replies then t.sendRoot l r.parish
      else t) := by
  subst ht hu
  refine runEv_ok hl ?_
  rw [evRootNoticeReply, bind_ok (getS_run s)]
  simp only [oldest, updS_run, Bool.and_eq_true, decide_eq_true_eq]

/-! The spill area (R159, R160) -/

theorem exec_spillReadback {p : Nat} {e : Nat × Nat × Nat × Int}
    (first : ((s.ld l).parishes.findSome? fun p => p.2.spilled.head?.map fun e => (p.1, e)) = some (p, e)) (room : (s.ld l).resident < residentMax) :
    exec (.spillReadback l) s = .next ((s.updParish l p fun q =>
      { q with spilled := q.spilled.erase e, counts := addCount e.2.1 e.2.2.1 e.2.2.2 q.counts }).endFull l) := by
  refine runEv_ok hl ?_
  rw [evSpillReadback, bind_ok (getS_run s)]
  simp only [first]
  rw [bind_ok (need_ok (decide_eq_true room) s), updS_run]

/-- A smaller area is ignored while an entry of some parish is spilled. -/
theorem exec_ltspszWrite (v : BitVec 64) : exec (.ltspszWrite l v) s = .next (
    if v.toNat % 2 ^ 16 < (s.ld l).regs.ltspsz.toNat % 2 ^ 16 ∧ (∃ p ∈ (s.ld l).parishes, p.2.spilled ≠ []) then s
    else ((s.updLd l fun x => { x with regs.ltspsz := v &&& 0xFFFF#64 }).makeRoom l).endFull l) := by
  have low (w : Nat) : bits w 0 16 = w % 2 ^ 16 := rfl
  have spilled : (s.ld l).parishes.any (fun p => !p.2.spilled.isEmpty) = true ↔ ∃ p ∈ (s.ld l).parishes, p.2.spilled ≠ [] := by simp
  refine runEv_ok (m := evLtspszWrite l v) hl ?_
  simp only [evLtspszWrite, updS_run, low, spilled]

end

/-- A reply to a root notice, without a packet at the home itself. -/
theorem sendReply_eq (s : State) (dst : Nat) (n : Notice) : s.sendReply dst n = (s.updLd dst fun x => { x with
    belfry.replies := x.belfry.replies ++ [{ n with way := if n.src = dst then none else some s.draw }] }).post n.src dst 2 (Config.packetBody s.draw) := by
  rw [State.sendReply, State.packed, List.append_nil]
  rfl

/-! Open batches (R139, R155) -/

/-- A batch's records go to a home under a handle. -/
def Batch.under (home : Nat) (auth : Option (Nat × Nat)) (b : Batch) : Bool := b.home == home && b.auth == auth

theorem joins_apply (b a : Batch) : b.joins a = a.under b.home b.auth := by
  rw [Batch.under, Batch.joins, BEq.comm (a := b.home), BEq.comm (a := b.auth)]

section

variable {b : Batch} {l home : Nat} {auth : Option (Nat × Nat)} (src : b.src = l) (dst : b.home = home) (handle : b.auth = auth)

include dst handle

/-- The open batches that a batch joins are those for its home under its handle. -/
theorem joins_eq : b.joins = Batch.under home auth := by
  subst dst handle
  exact funext (joins_apply b)

include src

theorem dropBatch_eq (s : State) : s.dropBatch b = s.updLd l fun x =>
    { x with belfry.openB := x.belfry.openB.filter fun y => !y.under home auth } := by
  rw [State.dropBatch, src, joins_eq dst handle]

theorem openBatch_eq (s : State) : s.openBatch b = s.updLd l fun x => { x with
    belfry.openB := if x.belfry.openB.any (Batch.under home auth) then x.belfry.openB.map fun y => if y.under home auth then b else y
      else x.belfry.openB ++ [b] } := by
  rw [State.openBatch, src, joins_eq dst handle]
  refine updLd_congr ?_
  split <;> rfl

/-- A batch with 256 records is closed and sent; another is open as the only one for its home under its handle. -/
theorem keepBatch_eq (s : State) : s.keepBatch b =
    if 256 ≤ b.recs.length then (s.updLd l fun x => { x with belfry.openB := x.belfry.openB.filter fun y => !y.under home auth }).sendBatch b
    else s.updLd l fun x => { x with
      belfry.openB := if x.belfry.openB.any (Batch.under home auth) then x.belfry.openB.map fun y => if y.under home auth then b else y
        else x.belfry.openB ++ [b] } := by
  rw [State.keepBatch, dropBatch_eq src dst handle, openBatch_eq src dst handle]

end

/-- Records go into a new batch where none is open for their home under their handle. -/
theorem addRecs_closed {s : State} {l home : Nat} {auth : Option (Nat × Nat)} (closed : (s.ld l).belfry.openB.find? (Batch.under home auth) = none)
    (rs : List Rec) : s.addRecs l home auth rs = s.keepBatch { src := l, home := home, recs := rs, at_ := s.ticks, auth := auth } := by
  have joined := joins_eq (b := { src := l, home := home, recs := rs, at_ := s.ticks, auth := auth }) rfl rfl
  simp only [State.addRecs, joined, closed]

/-- Records go into the open batch where it has room for them, and else into a new one behind it. -/
theorem addRecs_open {s : State} {l home : Nat} {auth : Option (Nat × Nat)} {a : Batch}
    (open_ : (s.ld l).belfry.openB.find? (Batch.under home auth) = some a) (rs : List Rec) : s.addRecs l home auth rs =
      if a.recs.length + rs.length ≤ 256 then s.keepBatch { a with recs := a.recs ++ rs }
      else ((s.dropBatch a).sendBatch a).keepBatch { src := l, home := home, recs := rs, at_ := s.ticks, auth := auth } := by
  have joined := joins_eq (b := { src := l, home := home, recs := rs, at_ := s.ticks, auth := auth }) rfl rfl
  simp only [State.addRecs, joined, open_]

/-- Settles O47, event by event. What an acceptance leaves of the die shows no change of the token's step (`StepFree.tokenSettled`); records
join the open batch that `joins_eq` describes. -/
theorem tokenAndBelfryEvents : Obligations.TokenAndBelfryEvents := by
  intro s l hl
  refine ⟨fun t oldest => exec_tokenArrival hl oldest rfl, ?accepted, ?refused, ?fault, fun b r => exec_batchCloseTimeout hl, ?batch,
    fun n p next curfew => exec_curfewNoticeApply hl next curfew rfl, ?root, ?reply, fun p e => exec_spillReadback hl, exec_ltspszWrite hl, ?recs⟩
  case accepted =>
    intro t k r next ring g o
    obtain ⟨sectors, length, accepted⟩ := exec_tokenAcceptance hl next ring
    refine ⟨_, accepted, ?_, ?_, ?_⟩
    · rw [stepFree_tokWait.tokenSettled, ld_updLd_same]
      simp [State.updCore]
    · rw [stepFree_landing.tokenSettled, ld_updLd_same]
      simp [State.updCore, length, g]
    · have rings := (stepFree_rings k).tokenSettled
      rw [State.core, rings, ld_updLd_same]
      refine (congrArg (fun y : Core => mgetD y.rings r {}) (score_updCore_same ..)).trans ?_
      exact mgetD_mput_same ..
  case refused =>
    intro t oldest u
    refine ⟨exec_tokenRefusal_ended hl oldest rfl, fun p k x found => ?_⟩
    have refused := exec_tokenRefusal_step hl oldest rfl found
    refine ⟨fun runs => ?_, fun retires => ?_⟩
    · exact refused.trans (congrArg Host.Outcome.next (if_neg (not_not_intro runs)))
    · exact refused.trans (congrArg Host.Outcome.next (if_pos retires))
  case fault =>
    intro sid cause hi p k x found va t u
    refine ⟨fun j c resident => ?_, fun n left => ?_⟩
    · subst resident
      rw [State.engineFault]
      simp only [found, u, t, va]
    · subst left
      rw [State.engineFault]
      simp only [found, u, t, va]
  case batch =>
    intro b oldest t
    exact ⟨exec_batchApply_good hl oldest rfl, fun c => exec_batchApply_bad hl oldest rfl⟩
  case root =>
    intro n p next root t
    have applied := exec_rootNoticeApply hl next root rfl
    refine ⟨fun refused => ?_, fun authorised => ?_⟩
    · rw [applied, if_pos refused]
    · rw [applied, if_neg (by rw [authorised]; exact Bool.noConfusion)]
      exact congrArg Host.Outcome.next (sendReply_eq ..)
  case reply =>
    intro r oldest u t
    have replied := exec_rootNoticeReply hl oldest rfl rfl
    refine ⟨fun own => ?_, fun other => ?_⟩
    · rw [replied, if_pos own]
    · rw [replied, if_neg other]
  case recs =>
    intro home auth rs mine keep new
    refine ⟨fun closed => (addRecs_closed closed rs).trans (keepBatch_eq rfl rfl rfl s), fun a found src => ?_⟩
    obtain ⟨dst, handle⟩ : a.home = home ∧ a.auth = auth := by simpa [mine] using List.find?_some found
    have added := addRecs_open (auth := auth) found rs
    refine ⟨fun fits => ?_, fun full => ?_⟩
    · rw [added, if_pos fits]
      exact keepBatch_eq (b := { a with recs := a.recs ++ rs }) src dst handle s
    · rw [added, if_neg (Nat.not_le.mpr full), dropBatch_eq src dst handle]
      exact keepBatch_eq rfl rfl rfl _

end Sys2Proof.Machine

/-! The commands of LTCMD (R141, R142, R152, R474). -/

namespace Sys2Proof.Machine

open Sys2Proof.Claim

/-- A change of one die, as an operation whose change is known at the die as it stands. -/
theorem updS_updLd {s : State} {l : Nat} {f g : Ld → Ld} (h : f (s.ld l) = g (s.ld l)) : updS (fun s => s.updLd l f) s = .ok ((), s.updLd l g) :=
  congrArg (fun t => Except.ok ((), t)) (updLd_congr h)

theorem units_of_parish {l p : Nat} (hl : dieOk l = true) (hp : p < 64) : (dieOk l && decide (p < 64)) = true := by
  rw [hl, decide_eq_true hp]
  rfl

theorem exec_ltBadCommand {s : State} {l : Nat} (hl : dieOk l = true) {v : BitVec 64}
    (bad : (s.ld l).ltBusy = true ∨ v.toNat / 2 ^ 8 % 16 = 0 ∨ 4 < v.toNat / 2 ^ 8 % 16) : exec (.ltBadCommand l v) s = .next (s.updLd l Ld.ltIgnored) := by
  have cmd : bits v.toNat 8 4 = v.toNat / 2 ^ 8 % 16 := by
    rw [bits, Nat.shiftRight_eq_div_pow]
    rfl
  have needed : ((s.ld l).ltBusy || bits v.toNat 8 4 == 0 || decide (4 < bits v.toNat 8 4)) = true := by
    rw [cmd]
    simpa [or_assoc] using bad
  refine runEv_ok hl ?_
  rw [evLtBadCommand, bind_ok (getS_run s), bind_ok (need_ok needed s), updS_run]

/-- A parish is disabled and DONE set: its names stay, the notices of its home go (R142, R475). -/
def State.ltDisabled (s : State) (l p : Nat) : State :=
  (s.updParish l p fun q => { desc := q.desc, members := q.members, auths := q.auths }).updLd l fun x =>
    { x.ltDone with belfry.notices := x.belfry.notices.filter fun n => !(n.src == (s.parish l p).home && n.parish == (s.parish l p).hpar) }

theorem enabled_ltDisabled (s : State) (l p : Nat) : ((s.ltDisabled l p).parish l p).enabled = false := by
  rw [State.ltDisabled, State.parish, ld_updLd_same]
  exact congrArg Parish.enabled (parish_updParish_same s l p _)

theorem ltst_ltDisabled (s : State) (l p : Nat) : ((s.ltDisabled l p).ld l).regs.ltst = stEnd (s.ld l).regs.ltst := by
  rw [State.ltDisabled, ld_updLd_same, Ld.ltDone, updParish_regs]

section

variable {s : State} {l p : Nat} (units : (dieOk l && decide (p < 64)) = true)

include units

/-- A command that finds another under way is ignored (R141). -/
theorem exec_ltCommand_busy (busy : (s.ld l).ltBusy = true) :
    ∀ i ∈ [Instr.ltEnable l p, .ltAdvanceRoot l p, .ltSeal l p, .ltDisable l p], exec i s = .next (s.updLd l Ld.ltIgnored) := by
  have ignored (f : State → State) : updS (fun s => if (s.ld l).ltBusy then s.updLd l Ld.ltIgnored else f s) s = .ok ((), s.updLd l Ld.ltIgnored) :=
    congrArg (fun t => Except.ok ((), t)) (if_pos busy)
  intro i hi
  simp only [List.mem_cons, List.not_mem_nil, or_false] at hi
  rcases hi with rfl | rfl | rfl | rfl
  · exact runEv_ok (m := evLtEnable l p) units (updS_updLd (if_pos busy))
  · exact runEv_ok (m := evLtAdvanceRoot l p) units (ignored _)
  · exact runEv_ok (m := evLtSeal l p) units (ignored _)
  · exact runEv_ok (m := evLtDisable l p) units (ignored _)

/-! A command that starts (R142) -/

section

variable (free : (s.ld l).ltBusy = false)

include free

theorem exec_ltEnable_refused {c : Nat} (cause : (s.ld l).enableCause p = some c) :
    exec (.ltEnable l p) s = .next (s.updLd l fun x => (x.ltStart 1 p).ltRefused c) :=
  runEv_ok (m := evLtEnable l p) units (updS_updLd (by simp [free, cause]))

/-- An Enable that is not refused keeps what the memory says of the parish. -/
theorem exec_ltEnable_starts (good : (s.ld l).enableCause p = none) :
    exec (.ltEnable l p) s = .next (s.updLd l fun x =>
      { x.ltStart 1 p with
        parishes := mput (x.ltStart 1 p).parishes p {
          enabling := true
          desc := BitVec.ofNat 256 (x.parDesc p)
          members := x.memberList (x.parDesc p)
          auths := (x.memberList (x.parDesc p)).map fun e => (x.memberAuth e).getD (0, 0)
          pst := x.readPst (x.parDesc p) } }) :=
  runEv_ok (m := evLtEnable l p) units (updS_updLd (by simp [free, good]))

/-- AdvanceRoot tests the parish, then LTARG, then that the root does not fall. -/
theorem exec_ltAdvanceRoot {t : State} {arg : Nat} (ht : t = s.updLd l fun x => x.ltStart 2 p) (harg : arg = (s.ld l).regs.ltarg.toNat) :
    exec (.ltAdvanceRoot l p) s = .next (
      if t.rootRefusal l p then t.updLd l fun x => x.ltRefused 0x245
      else if isClosed arg then t.updLd l fun x => x.ltRefused 0x241
      else if arg < (t.parish l p).root then t.updLd l fun x => x.ltRefused 0x242
      else t.startRoot l p 2 arg) := by
  subst ht harg
  refine runEv_ok (m := evLtAdvanceRoot l p) units ?_
  rw [evLtAdvanceRoot, updS_run]
  simp only [free]
  rfl

theorem exec_ltSeal {t : State} (ht : t = s.updLd l fun x => x.ltStart 3 p) :
    exec (.ltSeal l p) s = .next (if t.rootRefusal l p then t.updLd l fun x => x.ltRefused 0x245 else t.startRoot l p 3 0) := by
  subst ht
  refine runEv_ok (m := evLtSeal l p) units ?_
  rw [evLtSeal, updS_run, free]
  rfl

/-- Disable tests the parish and, at its home, that it is sealed and nothing is counted; else the parish is disabled. -/
theorem exec_ltDisable {t : State} {pa : Parish} (ht : t = s.updLd l fun x => x.ltStart 4 p) (hpa : pa = t.parish l p) :
    exec (.ltDisable l p) s = .next (
      if pa.enabled = false then t.updLd l fun x => x.ltRefused 0x245
      else if pa.home = l ∧ pa.hpar = p ∧ (pa.isSealed = false ∨ pa.allCounts ≠ []) then t.updLd l fun x => x.ltRefused 0x243
      else t.ltDisabled l p) := by
  subst hpa ht
  refine runEv_ok (m := evLtDisable l p) units ?_
  rw [evLtDisable, updS_run, free]
  simp only [Bool.not_eq_true', List.isEmpty_eq_false_iff]
  rfl

end

/-- An Enable ends (R142, R143): the parish is enabled and DONE set, and the home counts the root. -/
theorem exec_ltEnableComplete {t : State} (enabling : (s.parish l p).enabling = true)
    (ht : t = (s.updParish l p fun q => { q with enabling := false, enabled := true }).updLd l Ld.ltDone) :
    exec (.ltEnableComplete l p) s = .next (
      if (t.parish l p).home = l ∧ (t.parish l p).hpar = p then
        t.applyRecs l [{ parish := p, yard := (t.parish l p).rooty, stamp := 0, delta := 1 }] (fun _ _ => 0)
      else t) := by
  subst ht
  refine runEv_ok units ?_
  rw [evLtEnableComplete, bind_ok (getS_run s), bind_ok (need_ok enabling s), updS_run]

end

/-- Settles O48, command by command: each command that starts by the equation of its tests, in their order. -/
theorem logicalTimeCommands : Obligations.LogicalTimeCommands := by
  intro s l p hl hp
  have units := units_of_parish hl hp
  refine ⟨fun v => exec_ltBadCommand hl, exec_ltCommand_busy units, fun free => ?free, fun enabling => exec_ltEnableComplete units enabling rfl⟩
  case free =>
    refine ⟨fun c => exec_ltEnable_refused units free, fun good => ?enable, ?commands⟩
    case enable =>
      refine ⟨_, exec_ltEnable_starts units free good, ?_⟩
      simp [State.parish, Ld.parish]
    case commands =>
      intro t arg
      have advance := exec_ltAdvanceRoot units free (t := t 2) (arg := arg) rfl rfl
      have sealing := exec_ltSeal units free (t := t 3) rfl
      have disable := exec_ltDisable units free (t := t 4) rfl rfl
      refine ⟨fun refused => ?_, fun mayRoot closed => ?_, fun mayRoot isOpen falls => ?_, fun mayRoot isOpen rises => ?_, fun refused => ?_,
        fun mayRoot => ?_, fun disabled => ?_, fun enabled member => ?_, fun enabled home hpar => ⟨fun holds => ?_, fun sealed empty => ?_⟩⟩
      · rw [advance, if_pos refused]
      · rw [advance, mayRoot, closed]
        rfl
      · rw [advance, mayRoot, isOpen, if_pos falls]
        rfl
      · rw [advance, mayRoot, isOpen, if_neg (Nat.not_lt.mpr rises)]
        rfl
      · rw [sealing, if_pos refused]
      · rw [sealing, mayRoot]
        rfl
      · rw [disable, if_pos disabled]
      · rw [if_neg (by rw [enabled]; exact Bool.noConfusion), if_neg fun h => member ⟨h.1, h.2.1⟩] at disable
        exact ⟨_, disable, enabled_ltDisabled .., ltst_ltDisabled ..⟩
      · rw [disable, if_neg (by rw [enabled]; exact Bool.noConfusion), if_pos ⟨home, hpar, holds⟩]
      · rw [if_neg (by rw [enabled]; exact Bool.noConfusion), if_neg (by simp [sealed, empty])] at disable
        exact ⟨_, disable, enabled_ltDisabled ..⟩

end Sys2Proof.Machine

/-! Fences (R178, R286): what each waits for, and what a fence that passes and one that waits leave. -/

namespace Sys2Proof.Machine

open Sys2Proof.Claim

@[simp] theorem settle_fence (x : Ctx) (now : Nat) : (x.settle now).fence = x.fence := by unfold Ctx.settle; split <;> rfl

/-- A slot word whose operation waits leaves its fence and a wait of its kind (R205, R211). -/
theorem runSlot_waits_kind {m : M Unit} {s : State} {w : Wait} {ask : State → State} (h : m s = .error (.wait w ask)) :
    ∃ u v, runSlot m s = .next u ∧ u.me.fence = (ask s).me.fence ∧ u.me.st.aWait = some v ∧ v.kind = w.kind := by
  refine ⟨_, { w with since := sinceOf (ask s).me.st.aWait w s.ticks }, by rw [runSlot, h], ?_, ?_, rfl⟩
  · rw [me_updMe, Ctx.waitA, settle_fence]
  · rw [me_updMe, Ctx.waitA, settle_st]

theorem nbrBusy_eq_false {x : Ld} {sid : Nat} (h : ∀ k ∈ x.cores, ∀ r ∈ k.2.nbrQ, r.sid = sid → r.kind < 2) : x.nbrBusy sid = false := by
  simpa [Ld.nbrBusy] using fun k y mem r hr sid => h (k, y) mem r hr sid

section

variable {s : State} {l k c : Nat}

theorem fenceMet_scratchpad (ended : ∀ e ∈ (s.ld l).cores, ∀ r ∈ e.2.nbrQ, r.sid = (s.ctx l k c).sid → r.kind < 2) : s.fenceMet l k c 0 = true := by
  simp [State.fenceMet, nbrBusy_eq_false ended]

theorem fenceMet_engine (issued : (s.ctx l k c).st.run = []) (loads : (s.ctx l k c).loads = [])
    (queue : ∀ q ∈ (s.core l k).queue, q.sid ≠ (s.ctx l k c).sid) : s.fenceMet l k c 1 = true := by
  simpa [State.fenceMet, issued, loads] using queue

theorem fenceMet_global (stores : s.storesDue l k c (fun _ _ => true) = false) (requests : s.hasRequests l (s.ctx l k c).sid (fun _ => true) = false)
    (slots : ∀ sl ∈ (s.ctx l k c).regs.ls, sl.glob = true → sl.st ≠ .pending) : s.fenceMet l k c 2 = true := by
  simpa [State.fenceMet, stores, requests, or_iff_not_imp_left] using slots

end

/-- A fence whose condition holds passes. -/
theorem runSlot_fenceOp_passes {s : State} {n : Nat} (met : s.fenceMet s.cur.l s.cur.k s.cur.c n = true) :
    runSlot (fenceOp n) s = .next (s.updMe fun x => { x with fence := none }) := by
  refine runSlot_ok _ s _ ?_
  rw [fenceOp, bind_ok (getS_run s), if_pos met]
  rfl

/-- A fence whose condition does not hold is noted, and the access stream waits for it. -/
theorem runSlot_fenceOp_waits {s : State} {n : Nat} (due : s.fenceMet s.cur.l s.cur.k s.cur.c n = false) :
    ∃ t w, runSlot (fenceOp n) s = .next t ∧ t.me.fence = some n ∧ t.me.st.aWait = some w ∧ w.kind = 0x80#8 := by
  have waits : fenceOp n s = .error (.wait (kindWait 7) fun s => s.updMe fun x => { x with fence := some n }) := by
    rw [fenceOp, bind_ok (getS_run s), due]
    rfl
  obtain ⟨t, w, next, fence, wait, kind⟩ := runSlot_waits_kind waits
  exact ⟨t, w, next, by rw [fence, me_updMe], wait, kind⟩

/-- Settles O15: each fence passes by what it waits for, and waits by one lemma for all three. -/
theorem fenceWords : Obligations.FenceWords := fun _ =>
  ⟨fun ended => runSlot_fenceOp_passes (fenceMet_scratchpad ended), fun issued loads queue => runSlot_fenceOp_passes (fenceMet_engine issued loads queue),
    fun stores requests slots => runSlot_fenceOp_passes (fenceMet_global stores requests slots),
    runSlot_fenceOp_waits, runSlot_fenceOp_waits, runSlot_fenceOp_waits⟩

end Sys2Proof.Machine

/-! Queue events (R183 to R198, R423, R434): a doorbell, and the next record of a queue, kind by kind. -/

namespace Sys2Proof.Machine

open Sys2Proof.Claim

/-- An event that begins by looking at the state. -/
theorem runEv_getS (b : Bool) (f : State → M Unit) (s : State) : runEv b (getS >>= f) s = runEv b (f s) s := by
  rw [runEv, runEv, bind_ok (getS_run s)]

section

variable {s : State} {l q : Nat} (units : (dieOk l && decide (q < 8192)) = true)

include units

/-- A doorbell is taken at once on a die that runs, and kept until stage 3 elsewhere (R187, R447). -/
theorem exec_doorbellWrite (tail : BitVec 32) (bound : (s.ld l).host.isSome = true) {t : State}
    (ht : t = s.updLd l fun x => { x with regs.wqdb := mput x.regs.wqdb q (tail.setWidth 64) }) :
    exec (.doorbellWrite l q tail) s = .next (if (t.ld l).stage = 3 ∧ (t.ld l).out = false then t.takeDoorbell l q
      else t.updLd l fun x => { x with wqWork := x.wqWork.upd q true }) := by
  subst ht
  refine runEv_ok units ?_
  rw [evDoorbellWrite, bind_ok (getS_run s), bind_ok (need_ok bound s), updS_run]

/-- The next record of a queue that passes a test is read with its block, processed, and passed (R183, R187). -/
theorem runEv_withRecord {r : Nat} {ok : Nat → Bool} {f : Nat → State → State} (next : s.nextRecord l q = some r) (good : ok r = true)
    (free : s.blockHeld l r = false) {t : State} (ht : f r (recordRead s l q r) = t) :
    runEv (dieOk l && decide (q < 8192)) (withRecord l q ok f) s = .next (t.advanceHead l q) := by
  subst ht
  refine runEv_ok units ?_
  rw [withRecord, bind_ok (getS_run s), next]
  exact bind_ok (need_ok (by rw [good, free]; rfl) s) _

/-- An ill-formed record is refused (R189). -/
theorem exec_launchRefused {r : Nat} (next : s.nextRecord l q = some r) (bad : recordBad r = true) (free : s.blockHeld l r = false) :
    exec (.launchRefused l q) s = .next (((recordRead s l q r).refuseRecord l r 0x2C2).advanceHead l q) :=
  runEv_withRecord units next bad free rfl

/-- A well-formed record of a kind is processed as its kind says (R189): `t` is what becomes of the state that its reading leaves. -/
theorem runEv_withRecord_kind {kind r : Nat} {f : Nat → State → State} (is : RecordIs s l q kind r) {t : State} (ht : f r (recordRead s l q r) = t) :
    runEv (dieOk l && decide (q < 8192)) (withRecord l q (isKind kind) f) s = .next (t.advanceHead l q) := by
  obtain ⟨next, good, kind, free⟩ := is
  exact runEv_withRecord units next (by simp [isKind, good, kind]) free ht

variable {r : Nat} {u : State} (hu : recordRead s l q r = u)

include hu

/-! Regions (R191 to R193, R212) -/

theorem exec_openRegion_unread (is : RecordIs s l q 1 r) {c : Nat} (block : u.readBlock l (recBlock r) 256 = .error c) :
    exec (.openRegion l q) s = .next ((u.refuseRecord l r c).advanceHead l q) :=
  runEv_withRecord_kind units is (by simp only [hu, block])

theorem exec_openRegion_refused (is : RecordIs s l q 1 r) {v c : Nat} (block : u.readBlock l (recBlock r) 256 = .ok v)
    (cause : (u.ld l).openCause v = some c) : exec (.openRegion l q) s = .next ((u.refuseRecord l r c).advanceHead l q) :=
  runEv_withRecord_kind units is (by simp only [hu, block, cause])

/-- A region opens under its parent, with its fields in effect and its cores reserved (R192, R212). -/
theorem exec_openRegion_opens (is : RecordIs s l q 1 r) {v e : Nat} {par : Option Region} {cores : List Nat}
    (block : u.readBlock l (recBlock r) 256 = .ok v) (good : (u.ld l).openCause v = none)
    (hpar : par = if v % 2 ^ 64 = 0 then none else (u.ld l).openAt (v % 2 ^ 64)) (he : e = rcbEffective v ((par.map (·.eff)).getD 0#2048).toNat)
    (hcores : cores = if bit v 234 then ((u.ld l).unreserved (bits e 64 48)).take (rcbResc v) else []) :
    exec (.openRegion l q) s = .next ((u.updLd l fun x => { x with regions := mput x.regions (recBlock r) {
      rcb := BitVec.ofNat 2048 v, eff := BitVec.ofNat 2048 e, depth := (par.map (·.depth + 1)).getD 1
      reserved := cores.foldl (fun m k => m ||| 2 ^ k) 0, launch := launchOf r } }).advanceHead l q) := by
  subst hcores he hpar
  refine runEv_withRecord_kind units is ?_
  simp only [hu, block, good]
  rfl

theorem exec_closeRegion_closes (is : RecordIs s l q 4 r) {g : Region} (region : mget (u.ld l).regions (recBlock r) = some g)
    (alive : g.killed = false) : exec (.closeRegion l q) s =
      .next ((((u.updRegion l (recBlock r) fun g => { g with closed := true }).recordDone l r).completeRegions l).advanceHead l q) :=
  runEv_withRecord_kind units is (by simp only [hu, region, alive]; rfl)

theorem exec_closeRegion_refused (is : RecordIs s l q 4 r) (dead : ∀ g, mget (u.ld l).regions (recBlock r) = some g → g.killed = true) :
    exec (.closeRegion l q) s = .next ((u.refuseRecord l r 0x2C3).advanceHead l q) := by
  refine runEv_withRecord_kind units is ?_
  rw [hu]
  match region : mget (u.ld l).regions (recBlock r) with
  | none => rfl
  | some g => exact if_pos (dead g region)

theorem exec_killRegion (is : RecordIs s l q 5 r) : exec (.killRegion l q) s =
    .next ((if (mget (u.ld l).regions (recBlock r)).isSome then (u.killRegionAll l (recBlock r)).recordDone l r else u.refuseRecord l r 0x2C3).advanceHead l q) :=
  runEv_withRecord_kind units is (by rw [hu])

/-! Refresh (R190) -/

theorem exec_refresh_region (is : RecordIs s l q 3 r) {g : Region} {v : Nat} (region : mget (u.ld l).regions (recBlock r) = some g)
    (runs : g.complete = false) (block : u.readBlock l (recBlock r) 256 = .ok v) :
    exec (.refresh l q) s = .next ((u.refreshRcb l r g v).advanceHead l q) := by
  have found : (mget (u.ld l).regions (recBlock r)).filter (fun g => !g.complete) = some g := by simp [region, runs]
  exact runEv_withRecord_kind units is (by simp only [hu, found, block])

/-- Where no region is refreshed, the operator placed from the block is, but for what R190 fixes. -/
theorem exec_refresh_operator (is : RecordIs s l q 3 r) (noRegion : (mget (u.ld l).regions (recBlock r)).filter (fun g => !g.complete) = none)
    {o : Nat × Op} {v : Nat} (op : ((u.ld l).ops.find? fun o => o.2.va == recBlock r && !o.2.complete) = some o)
    (block : u.readBlock l (recBlock r) 512 = .ok v) :
    exec (.refresh l q) s = .next ((if sameOutside o.2.opb.toNat v 128 68 then (u.updOp l o.1 fun o => { o with opb := BitVec.ofNat 4096 v }).recordDone l r
      else u.refuseRecord l r 0x2C8).advanceHead l q) := by
  refine runEv_withRecord_kind units is ?_
  simp only [hu, noRegion, op, block]
  cases sameOutside o.2.opb.toNat v 128 68 <;> rfl

theorem exec_refresh_unknown (is : RecordIs s l q 3 r) (noRegion : (mget (u.ld l).regions (recBlock r)).filter (fun g => !g.complete) = none)
    (noOp : ((u.ld l).ops.find? fun o => o.2.va == recBlock r && !o.2.complete) = none) :
    exec (.refresh l q) s = .next ((u.refuseRecord l r 0x2C3).advanceHead l q) :=
  runEv_withRecord_kind units is (by simp only [hu, noRegion, noOp])

/-! Resume (R423, R434) -/

theorem exec_resume_fault (is : RecordIs s l q 6 r) {c : Nat} (place : u.translateNow l 48 0 0 1 (recBlock r) 64 = .fault c) :
    exec (.resume l q) s = .next ((u.refuseRecord l r c).advanceHead l q) :=
  runEv_withRecord_kind units is (by simp only [hu, place])

/-- A Resume that names the fault record of a paused or a discarded step: the step goes on or runs again, and the record names it no more. -/
theorem exec_resume_step (is : RecordIs s l q 6 r) {p : Phys} {tag : Nat} {f : BitVec 512} {t : State}
    (place : u.translateNow l 48 0 0 1 (recBlock r) 64 = .ok p) (home : p.home = l) (rec_ : mget (u.ld l).pausedRecs p.addr = some (tag, f))
    (clear : faultRsvSet ((u.ld l).num p.addr 64) = false)
    (resumes : (let ract := (u.ld l).num p.addr 64 / 2 ^ 70 % 2 ^ 2
      if bit f.toNat 28 then u.rerunStep l f.toNat r else if 2 ≤ ract then none else u.resumeStep l (tag - 1) r (ract == 1)) = some t) :
    exec (.resume l q) s = .next ((t.updLd l fun x => { x with pausedRecs := mdel x.pausedRecs p.addr }).advanceHead l q) := by
  refine runEv_withRecord_kind units is ?_
  dsimp only at resumes
  simp only [hu, place, home, rec_, clear, bits, Nat.shiftRight_eq_div_pow, if_true, Bool.false_eq_true, if_false, resumes]

theorem exec_resume_refused (is : RecordIs s l q 6 r) {p : Phys} (place : u.translateNow l 48 0 0 1 (recBlock r) 64 = .ok p) (home : p.home = l)
    (bad : mget (u.ld l).pausedRecs p.addr = none ∨ faultRsvSet ((u.ld l).num p.addr 64) = true) :
    exec (.resume l q) s = .next ((u.refuseRecord l r 0x2C2).advanceHead l q) := by
  refine runEv_withRecord_kind units is ?_
  rw [hu]
  match rec_ : mget (u.ld l).pausedRecs p.addr with
  | none => simp only [place, home, rec_, if_true]
  | some _ => simp only [place, home, rec_, bad.resolve_left (by simp [rec_]), if_true]

/-! Operators (R195 to R199) -/

/-- A placement that need not wait for room is processed (R160): `t` is what becomes of the state that its reading leaves. -/
theorem runEv_placement {f : Nat → State → State} (is : RecordIs s l q 2 r) (room : s.placeWaits l r = false) {t : State} (ht : f r u = t) :
    runEv (dieOk l && decide (q < 8192)) (getS >>= fun s => withRecord l q (fun r => isKind 2 r && !s.placeWaits l r) f) s = .next (t.advanceHead l q) := by
  obtain ⟨next, good, kind, free⟩ := is
  subst hu
  rw [runEv_getS]
  exact runEv_withRecord units next (by simp [isKind, good, kind, room]) free ht

section

variable (is : RecordIs s l q 2 r) (room : s.placeWaits l r = false)

include is room

theorem exec_placeOperator_unread {c : Nat} (block : u.readBlock l (recBlock r) 512 = .error c) :
    exec (.placeOperator l q) s = .next ((u.refuseRecord l r c).advanceHead l q) :=
  runEv_placement units hu is room (by simp only [block])

theorem exec_placeOperator_refused {v c : Nat} (block : u.readBlock l (recBlock r) 512 = .ok v)
    (cause : u.placeCause l r { opb := BitVec.ofNat 4096 v } = some c) :
    exec (.placeOperator l q) s = .next ((u.refuseRecord l r c).advanceHead l q) :=
  runEv_placement units hu is room (by simp only [block, cause])

theorem exec_placeOperator_places {v opid : Nat} {g : Region} (block : u.readBlock l (recBlock r) 512 = .ok v)
    (good : u.placeCause l r { opb := BitVec.ofNat 4096 v } = none) (region : (u.ld l).openAt (Op.rcbVa { opb := BitVec.ofNat 4096 v }) = some g)
    (slot : (u.ld l).freeOpid = some opid) :
    exec (.placeOperator l q) s = .next ((u.place l r opid { opb := BitVec.ofNat 4096 v } g).advanceHead l q) :=
  runEv_placement units hu is room (by simp only [block, good, region, slot])

end

end

/-- Settles O44, record by record. -/
theorem queueEvents : Obligations.QueueEvents := by
  intro s l q hl hq
  have units : (dieOk l && decide (q < 8192)) = true := by simp [hl, hq]
  refine ⟨fun tail bound => exec_doorbellWrite units tail bound rfl, fun r => exec_launchRefused units, fun r is => ?openRegion, fun r is room => ?place,
    fun r is => ?refresh, fun r is => ?close, fun r is => exec_killRegion units rfl is, fun r is => ?resume⟩
  case openRegion =>
    exact ⟨fun c => exec_openRegion_unread units rfl is, fun v c => exec_openRegion_refused units rfl is,
      fun v block good => exec_openRegion_opens units rfl is block good rfl rfl rfl⟩
  case place =>
    exact ⟨fun c => exec_placeOperator_unread units rfl is room, fun v c => exec_placeOperator_refused units rfl is room,
      fun v g opid => exec_placeOperator_places units rfl is room⟩
  case refresh =>
    exact ⟨fun g v => exec_refresh_region units rfl is, fun noRegion o v => exec_refresh_operator units rfl is noRegion,
      exec_refresh_unknown units rfl is⟩
  case close => exact ⟨fun g => exec_closeRegion_closes units rfl is, exec_closeRegion_refused units rfl is⟩
  case resume =>
    exact ⟨fun c => exec_resume_fault units rfl is, fun p tag f t => exec_resume_step units rfl is, fun p => exec_resume_refused units rfl is⟩

end Sys2Proof.Machine

/-! Global stores and pref (R163, R165, R278, R279, R415, R450, R456): a store's bytes go to the places of its pieces; the request of a pref finds its
way to its home, and what its translation and its way there leave as it was. -/

namespace Sys2Proof.Machine

open Sys2Proof.Claim

/-! Stores (R165, R278) -/

/-- An address within its space's limit and aligned passes (R13, R275). -/
theorem globalForm_ok {sp ea align : Nat} (h : GlobalOk sp ea align) (slot kind : Nat) (s : State) : globalForm slot sp kind ea align s = .ok ((), s) := by
  obtain ⟨within, aligned⟩ := h
  rw [globalForm]
  exact (bind_ok (check_ok (decide_eq_true within) ..) _).trans (check_ok (by simpa using aligned) ..)

/-- The filled head of the vector data queue is popped (R249, R278). -/
theorem popVector_ok {s t : State} {v : VReg} (h : vectorHead s = some (v, t)) (slot : Nat) : popVector slot s = .ok (v, t) := by
  rw [vectorHead] at h
  rw [popVector, bind_ok (getMe_run s)]
  match hq : s.me.st.vq, h with
  | [], h => simp at h
  | { id := i, val := none } :: r, h => simp at h
  | { id := i, val := some x } :: r, h =>
    obtain ⟨clean, rfl, rfl⟩ := by simpa using h
    dsimp only
    rw [bind_ok (updMe_run ..), if_neg (by simp [clean])]
    rfl

theorem storeGlobal_run (qs : List (Phys × Nat)) (bs : List (BitVec 8)) (s : State) : storeGlobal qs bs s = .ok ((), storedAt qs bs s) := by
  induction qs generalizing bs s with
  | nil => rfl
  | cons e r ih => exact ih ..

section

variable {s t t' t2 : State} {b : BitVec 4} {p : BitVec 2} {x : BitVec 6} {v : Word} {ea : Nat} {qs : List (Phys × Nat)}
  (source : accessSource s b = some (v, t))

include source

theorem opStg_ok {w : BitVec 3} {u : Word} (hea : ea = eaOf v x.toInt (widthBytes w)) (ok : GlobalOk p.toNat ea (widthBytes w))
    (reach : Reach t p.toNat 2 ea [(ea, widthBytes w)] qs t') (data : accessSource t' 15#4 = some (u, t2)) :
    opStg b w p x s = .ok ((), storedAt qs (natLe (widthBytes w) u.toNat) t2) := by
  subst hea
  rw [opStg, bind_ok (effective_ok source ..), bind_ok (globalForm_ok ok ..), bind_ok reach, bind_ok (popScalar_ok data _)]
  exact storeGlobal_run ..

theorem opStvg_ok {g : BitVec 1} {d : VReg} {n : Nat} (hn : n = if g = 1#1 then 288 else 256) (hea : ea = eaOf v x.toInt 256)
    (ok : GlobalOk p.toNat ea 32) (reach : Reach t p.toNat 2 ea (pagePieces p.toNat ea n) qs t') (data : vectorHead t' = some (d, t2)) :
    opStvg b g p x s = .ok ((), storedAt qs ((natLe 256 d.data.toNat ++ natLe 32 d.side.toNat).take n) t2) := by
  subst hea hn
  rw [opStvg, bind_ok (effective_ok source ..), bind_ok (globalForm_ok ok ..), bind_ok reach, bind_ok (popVector_ok data _)]
  exact storeGlobal_run ..

end

/-! The way of a packet that the fabric can carry (R450, R456) -/

/-- A packet that arrives from where it stands, not yet turned, is not lost at its first step. -/
theorem nextHop_of_arrives {g : Pkg} {b : Nat × Nat} {n : Nat} {t : Transit} (fresh : t.turned = false) (straight : t.via = [])
    (arrives : (g.arrives b (n + 1) t.pos false).isSome = true) (c : Nat) : g.nextHop b t ≠ .lost c := by
  unfold Pkg.nextHop
  rw [straight]
  dsimp only
  split
  · exact nofun
  · rename_i away
    rw [Pkg.arrives, if_neg away] at arrives
    split
    · split <;> exact nofun
    · rename_i down
      rw [if_neg down] at arrives
      split
      · rename_i stuck
        rw [fresh] at stuck
        simp only [Bool.false_or, Bool.not_eq_true'] at stuck
        simp [stuck] at arrives
      · split
        · exact nofun
        · split <;> exact nofun

/-- Nothing is lost on the way from one state to another: at every die all stands as it did, or what travels in one packet has arrived. -/
structure Carried (s t : State) : Prop where
  cur  : t.cur = s.cur
  host : t.host = s.host
  dies : ∀ l, t.ld l = s.ld l ∨ ∃ id, t.ld l = (s.ld l).arrived id

theorem Carried.refl (s : State) : Carried s s := ⟨rfl, rfl, fun _ => .inl rfl⟩

theorem carried_updPkg (s : State) (p : Nat) (f : Pkg → Pkg) : Carried s (s.updPkg p f) := ⟨rfl, rfl, fun _ => .inl rfl⟩

theorem carried_arrived (s : State) (d id : Nat) : Carried s (s.updLd d fun x => x.arrived id) := by
  refine ⟨rfl, rfl, fun l => ?_⟩
  by_cases h : l = d
  · exact .inr ⟨id, by rw [h, ld_updLd_same]⟩
  · exact .inl (ld_updLd_other _ _ _ _ h)

/-- A packet that a usable port leads to its package is not lost at the green (R456). -/
theorem carried_toPort {s : State} {p : Nat} {t : Transit} (valid : bit (mgetD (s.pkg p).table (pkgOf t.pkt.dst) 0#64).toNat 12 = true)
    (ports : (s.pkg p).portsTo (pkgOf t.pkt.dst) ≠ []) : Carried s (s.toPort p t) := by
  have index : (dieOf t.pkt.src + dieOf t.pkt.dst) % ((s.pkg p).portsTo (pkgOf t.pkt.dst)).length < ((s.pkg p).portsTo (pkgOf t.pkt.dst)).length :=
    Nat.mod_lt _ (List.length_pos_iff.mpr ports)
  unfold State.toPort
  dsimp only
  rw [List.getElem?_eq_getElem index, valid]
  split
  · exact carried_updPkg ..
  · rw [if_neg (by decide)]
    dsimp only
    split <;> exact carried_updPkg ..

/-- A way between two dies begins with a way through the mesh of the source's package: to the destination there, or to the green. -/
theorem arrives_of_route {s : State} {src dst : Nat} (route : s.route src dst = none) :
    ((s.pkg (pkgOf src)).arrives (if pkgOf dst = pkgOf src then diePos (dieOf dst) else (1, 1)) 5 (diePos (dieOf src)) false).isSome = true := by
  rw [State.route] at route
  split at route <;> rename_i same
  · rw [if_pos same.symm]
    split at route
    · rename_i mesh
      exact mesh
    · cases route
  · rw [if_neg fun h => same h.symm]
    split at route
    · cases route
    · rename_i turned mesh
      exact Option.isSome_iff_exists.mpr ⟨turned, mesh⟩

/-- A way to another package has a usable port to it (R456). -/
theorem ports_of_route {s : State} {src dst : Nat} (route : s.route src dst = none) (far : pkgOf dst ≠ pkgOf src) :
    bit (mgetD (s.pkg (pkgOf src)).table (pkgOf dst) 0#64).toNat 12 = true ∧ (s.pkg (pkgOf src)).portsTo (pkgOf dst) ≠ [] := by
  rw [State.route, if_neg fun h => far h.symm] at route
  split at route
  · cases route
  split at route
  · cases route
  rename_i valid
  split at route
  · cases route
  rename_i ports
  exact ⟨by simpa using valid, by simpa using ports⟩

/-- A packet that has a way from its source to its destination is not lost as it leaves (R450, R456). -/
theorem carried_hop {s : State} {k : Packet} (route : s.route k.src k.dst = none) :
    Carried s (s.hop (pkgOf k.src) { pkt := k, pos := diePos (dieOf k.src) }) := by
  have goes := nextHop_of_arrives (t := { pkt := k, pos := diePos (dieOf k.src) }) rfl rfl (arrives_of_route route)
  unfold State.hop
  dsimp only
  split
  · exact carried_updPkg ..
  · split
    · split
      · exact carried_arrived ..
      · rename_i far
        obtain ⟨valid, ports⟩ := ports_of_route route far
        exact carried_toPort valid ports
    · exact carried_updPkg ..
    · exact carried_updPkg ..
    · rename_i lost
      exact absurd lost (goes _)

theorem carried_post {s : State} {src dst : Nat} (way : src = dst ∨ s.route src dst = none) (vc : Nat) (body : List (BitVec 8)) :
    Carried s (s.post src dst vc body) := by
  unfold State.post
  split
  · exact .refl s
  · have sent := carried_hop (s := { s with draw := s.draw + 1 }) (k := { id := s.draw, src := src, dst := dst, vc := vc, body := body })
      (way.resolve_left ‹_›)
    exact ⟨sent.cur, sent.host, sent.dies⟩

section

variable {s t : State} (h : Carried s t)

include h

/-- A part of every die that no arrival changes. -/
theorem Carried.keeps {α : Type} {g : Ld → α} (hg : ∀ x id, g (Ld.arrived x id) = g x) (l : Nat) : g (t.ld l) = g (s.ld l) := by
  rcases h.dies l with same | ⟨id, arrived⟩
  · rw [same]
  · rw [arrived, hg]

theorem Carried.me : t.me = s.me := by
  rw [State.me, State.me, h.cur]
  exact ctx_congr (h.keeps (g := contextsOf s.cur.k) (fun _ _ => rfl) _) _

/-- A request that stands at its home stands there still. -/
theorem Carried.homeQ {l : Nat} {r : HomeReq} (mem : r ∈ (s.ld l).homeQ) : ∃ w, { r with way := w } ∈ (t.ld l).homeQ := by
  rcases h.dies l with same | ⟨id, arrived⟩
  · exact ⟨r.way, by rwa [same]⟩
  · rw [arrived]
    exact ⟨_, List.mem_map_of_mem mem⟩

end

/-- The state once a request stands in its home's queue, its packet about to leave. -/
def State.asked (s : State) (r : HomeReq) : State :=
  s.updLd (homeDie r.src r.home) fun x => { x with homeQ := x.homeQ ++ [{ r with way := s.ticket r.src (homeDie r.src r.home) }] }

/-- A request that is of its home's die, or that the fabric carries there, is not lost as it is sent. -/
theorem carried_sendReq {s : State} {r : HomeReq} (way : r.src = homeDie r.src r.home ∨ s.route r.src (homeDie r.src r.home) = none) :
    Carried (s.asked r) (s.sendReq r) := carried_post (s := s.asked r) way ..

theorem mem_homeQ_asked (s : State) (r : HomeReq) : ∃ w, { r with way := w } ∈ ((s.asked r).ld (homeDie r.src r.home)).homeQ := by
  refine ⟨s.ticket r.src (homeDie r.src r.home), ?_⟩
  rw [State.asked, ld_updLd_same]
  exact List.mem_append_right _ (List.mem_singleton_self _)

theorem me_asked (s : State) (r : HomeReq) : (s.asked r).me = s.me := ctx_congr (contextsOf_updLd (by intro; rfl) _ _) _

theorem hbm_asked (s : State) (r : HomeReq) (l : Nat) : ((s.asked r).ld l).hbm = (s.ld l).hbm := updLd_keeps Ld.hbm (by intro; rfl) l

/-! What a translation leaves (R27, R125) -/

/-- What no read of a stack and no translation changes: the current context's place, the packages, host memory, and a die's stored bytes and tags. -/
structure Stock where
  cur   : Cur
  pkgs  : Smap Pkg
  host  : Mem
  slots : Mem
  tags  : Smap Nat

def State.stock (l : Nat) (s : State) : Stock :=
  { cur := s.cur, pkgs := s.pkgs, host := s.host, slots := (s.ld l).hbm.slots, tags := (s.ld l).hbm.tags }

theorem stock_updLd {s : State} {j : Nat} {f : Ld → Ld} (h : ∀ x, (f x).hbm.slots = x.hbm.slots ∧ (f x).hbm.tags = x.hbm.tags) (l : Nat) :
    (s.updLd j f).stock l = s.stock l := by
  have slots := updLd_keeps (s := s) (l := j) (fun x => x.hbm.slots) (fun x => (h x).1) l
  have tags := updLd_keeps (s := s) (l := j) (fun x => x.hbm.tags) (fun x => (h x).2) l
  rw [State.stock, slots, tags]
  rfl

theorem stock_errLog (s : State) (j sev unit cause loc : Nat) (unq : Bool) (l : Nat) : (s.errLog j sev unit cause loc unq).stock l = s.stock l :=
  stock_updLd (by intro; exact ⟨rfl, rfl⟩) l

theorem stock_noteBrokenRead (s : State) (home a n l : Nat) : (s.noteBrokenRead home a n).stock l = s.stock l := by
  unfold State.noteBrokenRead
  split
  · rfl
  · refine foldl_keeps (State.stock l) (fun s line => ?_) _ s
    dsimp only
    split
    · exact (stock_errLog ..).trans (stock_updLd (by intro; exact ⟨rfl, rfl⟩) l)
    · rfl

theorem stock_readThrough (s : State) (ca : Nat) (rs : List (Nat × Nat × Nat)) (by_ : Ctx) (l : Nat) : (s.readThrough ca rs by_).stock l = s.stock l := by
  refine foldl_keeps (State.stock l) (fun s r => ?_) _ s
  dsimp only
  split
  · rfl
  · exact (stock_updLd (fun x => by simp) l).trans (stock_noteBrokenRead ..)

@[simp] theorem learn_hbm (x : Ld) (va : Nat) : (x.learn va).hbm = x.hbm := by
  unfold Ld.learn
  split
  · rfl
  · dsimp only
    split <;> rfl

theorem stock_learnFar (s : State) (j leaf va l : Nat) : (s.learnFar j leaf va).stock l = s.stock l := by
  unfold State.learnFar
  split
  · exact stock_updLd (fun x => by simp) l
  · rfl

/-- A translation leaves entries in the TLBs and reads in the caches (R27). -/
theorem stock_afterXl (s : State) (j k sp a l : Nat) : (s.afterXl j k sp a).stock l = s.stock l := by
  unfold State.afterXl
  split
  · rfl
  · split
    · rfl
    · dsimp only
      split
      rw [stock_learnFar]
      all_goals
        refine (stock_updLd (fun x => ?_) l).trans (stock_readThrough ..)
        (repeat' split) <;> simp

theorem me_afterXl (s : State) (j k sp a : Nat) : (s.afterXl j k sp a).me = s.me := by
  have cur : (s.afterXl j k sp a).cur = s.cur := congrArg Stock.cur (stock_afterXl s j k sp a 0)
  rw [State.me, State.me, cur]
  exact ctx_congr (contextsOf_afterXl ..) _

theorem route_congr {s t : State} (h : t.pkgs = s.pkgs) : t.route = s.route := by
  have pkg : t.pkg = s.pkg := by
    funext p
    rw [State.pkg, State.pkg, h]
  funext src dst
  rw [State.route, State.route, pkg]

/-! Where a translated load goes (R39, R46, R415) -/

/-- A place is in host memory, in the die's own stack, or in one that a request of the die reaches. -/
def State.InReach (s : State) (l home : Nat) : Prop := home = hostKey ∨ home = l ∨ s.route l home = none

theorem home_resolveBie {s : State} {me : Nat} {x : Ctx} {l leaf va kind : Nat} {p : Phys} (h : resolveBie s me x l leaf va kind = .ok p) : p.home = l := by
  unfold resolveBie at h
  dsimp only at h
  split at h
  · cases h
  · split at h
    · cases h
    · split at h
      · cases h
      · cases h
        rfl

/-- A leaf that names no peer gives a place in host memory or in the stack of its tables' die. -/
theorem home_resolveLeaf_own {s : State} {me : Nat} {x : Ctx} {l leaf va kind : Nat} {p : Phys} (h : resolveLeaf s me x 0 l leaf va kind = .ok p) :
    p.home = hostKey ∨ p.home = l := by
  rw [resolveLeaf] at h
  split at h
  · cases h
  split at h
  · cases h
    exact .inl rfl
  split at h
  · exact .inr (home_resolveBie h)
  split at h
  · cases h
  · cases h
    exact .inr rfl

/-- A load's place is in reach of its die: behind a handle, the fabric carries its request to the handle's owner (R39, R415). -/
theorem inReach_resolveLeaf {s : State} {me : Nat} {x : Ctx} {l leaf va : Nat} {p : Phys} (h : resolveLeaf s me x 1 l leaf va 1 = .ok p) :
    s.InReach l p.home := by
  rw [resolveLeaf] at h
  split at h
  · cases h
  split at h
  · cases h
    exact .inl rfl
  split at h
  · exact .inr (.inl (home_resolveBie h))
  split at h
  case isFalse =>
    cases h
    exact .inr (.inl rfl)
  case isTrue =>
    dsimp only at h
    split at h
    · cases h
    split at h
    · cases h
    split at h
    · cases h
    rename_i route
    split at h
    · cases h
    split at h
    · cases h
    split at h
    · rename_i own
      cases h
      rcases home_resolveLeaf_own own with host | owner
      · exact .inl host
      · exact .inr (.inr (owner ▸ route))
    · rename_i lost
      exact absurd h (lost _)

theorem home_windowed {s : State} {kind n : Nat} {r : Xl} {p : Phys} (h : s.windowed kind n r = .ok p) : ∃ q, r = .ok q ∧ p.home = q.home := by
  unfold State.windowed at h
  split at h
  · rename_i q
    split at h
    · cases h
      exact ⟨_, rfl, rfl⟩
    split at h
    · cases h
      exact ⟨q, rfl, rfl⟩
    · rename_i lost
      exact absurd h (lost _)
  · rename_i lost
    exact absurd h (lost _)

/-- A load that translates at once goes to a place in reach (R27, R39). -/
theorem inReach_translateNow {s : State} {l k c sp a n : Nat} {p : Phys} (device : sp ≠ 1) (h : s.translateNow l k c sp 1 a n = .ok p) :
    s.InReach l p.home := by
  rw [State.translateNow, State.translateFor] at h
  rw [if_neg device] at h
  split at h
  · cases h
  split at h
  · cases h
  split at h
  · cases h
  split at h
  · cases h
  split at h
  · rename_i placed
    obtain ⟨q, leaf, home⟩ := home_windowed placed
    split at h
    · cases h
    · cases h
      rw [home]
      exact inReach_resolveLeaf leaf
  · rename_i lost
    exact absurd h (lost _)

/-! pref (R279) -/

/-- The request that a pref sends for the line of a place. -/
def prefReq (s : State) (q : Phys) : HomeReq :=
  { blankReq with src := s.cur.l, core := s.cur.k, ctx := s.cur.c, sid := s.me.sid, home := q.home, addr := q.addr / 128 * 128, n := 128, ca := q.ca, pref := true }

/-- The state that a pref of an address leaves (R279): its line is asked for where its translation succeeds. -/
def State.prefetched (s : State) (p : BitVec 2) (ea : Nat) : State :=
  if p = 1#2 then s
  else
    match s.translateNow s.cur.l s.cur.k s.cur.c p.toNat 1 ea 1 with
    | .ok q =>
      let u := s.afterXl s.cur.l s.cur.k p.toNat ea
      if q.home = hostKey then u else u.sendReq (prefReq u q)
    | _ => s

/-- A pref that no commit keeps waiting. -/
theorem opPref_run {s t : State} {b : BitVec 4} {p : BitVec 2} {x : BitVec 6} {v : Word} {ea : Nat} (source : accessSource s b = some (v, t))
    (hea : ea = eaOf v x.toInt 128) (free : t.translateNow t.cur.l t.cur.k t.cur.c p.toNat 1 ea 1 ≠ .lost heldCode) :
    opPref b p x s = .ok ((), t.prefetched p ea) := by
  subst hea
  rw [opPref, bind_ok (effective_ok source ..), bind_ok (getS_run t)]
  cases xl : t.translateNow t.cur.l t.cur.k t.cur.c p.toNat 1 (eaOf v x.toInt 128) 1 with
  | ok q => rfl
  | fault c => rfl
  | lost e =>
    have other : e ≠ heldCode := fun h => free (by rw [xl, h])
    exact congrFun (if_neg other) t

section

variable {s : State} {p : BitVec 2} {ea : Nat}

/-- HOST space has no lines to bring in (R279). -/
theorem prefetched_hostSpace (s : State) (ea : Nat) : s.prefetched 1#2 ea = s := if_pos rfl

/-- Where its translation fails a pref does nothing. -/
theorem prefetched_fails (fails : ∀ q, s.translateNow s.cur.l s.cur.k s.cur.c p.toNat 1 ea 1 ≠ .ok q) : s.prefetched p ea = s := by
  unfold State.prefetched
  split
  · rfl
  split
  · rename_i ok
    exact absurd ok (fails _)
  · rfl

theorem prefetched_ok {q : Phys} (device : p ≠ 1#2) (ok : s.translateNow s.cur.l s.cur.k s.cur.c p.toNat 1 ea 1 = .ok q) {u : State}
    (hu : u = s.afterXl s.cur.l s.cur.k p.toNat ea) : s.prefetched p ea = if q.home = hostKey then u else u.sendReq (prefReq u q) := by
  subst hu
  rw [State.prefetched, if_neg device, ok]

/-- A pref that asks for its line changes no context, no host memory, no stored byte and no tag; the request stands at the line's home. -/
theorem prefetched_spec {q : Phys} (device : p ≠ 1#2) (ok : s.translateNow s.cur.l s.cur.k s.cur.c p.toNat 1 ea 1 = .ok q) :
    let t := s.prefetched p ea
    t.me = s.me ∧ t.host = s.host ∧ (∀ l, (t.ld l).hbm.slots = (s.ld l).hbm.slots ∧ (t.ld l).hbm.tags = (s.ld l).hbm.tags) ∧
      (q.home ≠ hostKey → ∃ r ∈ (t.ld q.home).homeQ, r.pref = true ∧ r.home = q.home ∧ r.addr = q.addr / 128 * 128 ∧ r.n = 128 ∧ r.ca = q.ca) := by
  obtain ⟨u, hu⟩ : ∃ u, u = s.afterXl s.cur.l s.cur.k p.toNat ea := ⟨_, rfl⟩
  have me : u.me = s.me := by rw [hu, me_afterXl]
  have stock (l : Nat) : u.stock l = s.stock l := by rw [hu, stock_afterXl]
  have host : u.host = s.host := congrArg Stock.host (stock 0)
  have bytes (l : Nat) : (u.ld l).hbm.slots = (s.ld l).hbm.slots ∧ (u.ld l).hbm.tags = (s.ld l).hbm.tags :=
    ⟨congrArg Stock.slots (stock l), congrArg Stock.tags (stock l)⟩
  dsimp only
  rw [prefetched_ok device ok hu]
  split
  · rename_i atHost
    exact ⟨me, host, bytes, fun stack => absurd atHost stack⟩
  · rename_i stack
    have cur : u.cur = s.cur := congrArg Stock.cur (stock 0)
    have home : homeDie (prefReq u q).src (prefReq u q).home = q.home := if_neg stack
    have device : p.toNat ≠ 1 := fun h => device (BitVec.eq_of_toNat_eq h)
    have sent : Carried (u.asked (prefReq u q)) (u.sendReq (prefReq u q)) := by
      refine carried_sendReq ?_
      rw [home, route_congr (congrArg Stock.pkgs (stock 0)), show (prefReq u q).src = s.cur.l from congrArg Cur.l cur]
      exact ((inReach_translateNow device ok).resolve_left stack).imp_left Eq.symm
    refine ⟨by rw [sent.me, me_asked, me], sent.host.trans host, fun l => ?_, fun _ => ?_⟩
    · rw [sent.keeps (g := Ld.hbm) (fun _ _ => rfl), hbm_asked]
      exact bytes l
    · obtain ⟨w, queued⟩ := mem_homeQ_asked u (prefReq u q)
      obtain ⟨w', stands⟩ := sent.homeQ queued
      rw [home] at stands
      exact ⟨_, stands, rfl, rfl, rfl, rfl, rfl⟩

end

/-- Settles O12: the stores word by word, pref by whether its translation succeeds. -/
theorem globalStores : Obligations.GlobalStores := by
  intro s t t' t2 b p x v ea qs source
  refine ⟨fun w u hea ok reach data => runSlot_ok _ s _ (opStg_ok source hea ok reach data),
    fun g d n hn hea ok reach data => runSlot_ok _ s _ (opStvg_ok source hn hea ok reach data), fun hea free => ?_⟩
  have run : exec (.pref b p x) s = .next (t.prefetched p ea) := runSlot_ok _ s _ (opPref_run source hea free)
  refine ⟨fun host => ?_, fun _ fails => ?_, fun q device ok => ⟨_, run, prefetched_spec device ok⟩⟩
  · rw [run, host, prefetched_hostSpace]
  · rw [run, prefetched_fails fails]

end Sys2Proof.Machine

/-! Traps of a step (R194, R195, R416 to R427): the handler's entry and its return, the fault record of a trap that no handler takes with each of its
fields, and what the policy does once the record is written. -/

namespace Sys2Proof.Machine

open Sys2Proof.Claim

/-! The handler's entry and its return (R195, R419, R420) -/

/-- Whether the stream that a trap belongs to runs in the handler (R419). -/
def Ctx.trapsInHandler (x : Ctx) (t : TrapInfo) : Bool :=
  if t.access then x.st.handler else ((x.st.run.head?).map (·.inH)).getD x.st.handler

theorem handlerTakes_iff {x : Ctx} {o : Op} {t : TrapInfo} :
    handlerTakes x o t = true ↔
      ∃ b, handlerBit (t.cause / 64) = some b ∧ bit o.hcls b = true ∧ x.trapsInHandler t = false ∧ x.st.rstack.length < 8 ∧ x.priv = false := by
  unfold handlerTakes
  cases handlerBit (t.cause / 64) with
  | none => simp
  | some b => simp [Ctx.trapsInHandler, and_assoc]

/-- Giving reservations back changes no context. -/
theorem unreserve_ctxs (y : Core) (claims : List (Bool × Nat)) :
    (claims.foldl (fun y b => y.setClaim b.1 b.2 Claim.unreserve) y).ctxs = y.ctxs :=
  foldl_keeps Core.ctxs (fun y _ => setClaim_ctxs y ..) claims y

/-- Both streams of the current context wait no more (R210). -/
def State.waitsEnded (s : State) : State := s.updMe fun y => y.endWaits (s.chargeTick s.cur.l s.cur.k s.cur.c)

theorem st_waitsEnded (s : State) : s.waitsEnded.me.st = { s.me.st with aWait := none, xWait := none } := by
  rw [State.waitsEnded, me_updMe, Ctx.endWaits, settle_st]

theorem regs_waitsEnded (s : State) : s.waitsEnded.me.regs = s.me.regs := by
  rw [State.waitsEnded, me_updMe, Ctx.endWaits]
  unfold Ctx.settle
  split <;> rfl

/-- The place that a trap names does not depend on what the streams wait for. -/
theorem trapVa_waitsEnded (s : State) (t : TrapInfo) : s.waitsEnded.me.trapVa t = s.me.trapVa t := by
  rw [Ctx.trapVa, st_waitsEnded, Ctx.trapVa]

/-- A trap that the handler takes: the reservation of an rclaim that the return skips is given back, and the handler is entered (R419, R420). -/
theorem takeMine_of_takes {s : State} {t : TrapInfo} (takes : handlerTakes s.me { opb := s.me.opb } t = true) :
    takeMine t s =
      (if t.access then s.waitsEnded else updHere s.waitsEnded fun y => s.me.skippedClaim.foldl (fun y b => y.setClaim b.1 b.2 Claim.unreserve) y).updCtx
        s.cur.l s.cur.k s.cur.c fun x => x.enterHandler t ({ opb := s.me.opb } : Op).handler := if_pos takes

theorem me_takeMine_of_takes {s : State} {t : TrapInfo} (takes : handlerTakes s.me { opb := s.me.opb } t = true) :
    (takeMine t s).me = s.waitsEnded.me.enterHandler t ({ opb := s.me.opb } : Op).handler := by
  rw [takeMine_of_takes takes]
  split
  · exact me_updMe s.waitsEnded _
  · exact (me_updMe (updHere s.waitsEnded _) _).trans (congrArg (Ctx.enterHandler · t _) (me_updHere (unreserve_ctxs ..)))

/-- The HREF bit: HCLS names the class of the trap (R427). -/
def handlerNamed (o : Op) (t : TrapInfo) : Bool :=
  match handlerBit (t.cause / 64) with
  | some b => bit o.hcls b
  | none => false

/-- A trap that no handler takes: what the step has begun ends, and its fault is reported (R194, R417, R429). -/
theorem takeMine_of_not_takes {s u : State} {t : TrapInfo} (onCore : s.cur.c < 4) (refused : handlerTakes s.me { opb := s.me.opb } t = false)
    (hu : u = (s.waitsEnded.updMe fun y => y.stopAt t).finishReads s.cur.l s.cur.k s.cur.c) :
    takeMine t s = u.faultStep s.cur.l (.at_ s.cur.k s.cur.c) s.cur.k (u.ctx s.cur.l s.cur.k s.cur.c) t.kind t.cause
      (if t.kind = 4 then 0 else s.me.policy t.cause) (if t.kind = 4 then syscHalf t.args.1 t.args.2.1 t.args.2.2 else trapHalf t)
      (handlerNamed { opb := s.me.opb } t) (s.me.trapVa t) t := by
  have place : (if s.cur.c < 4 then Place.at_ s.cur.k s.cur.c else .slot 0) = .at_ s.cur.k s.cur.c := if_pos onCore
  rw [← place, hu]
  exact if_neg (ne_true_of_eq_false refused)

/-- A page fault and a sysc pause, whatever the policy (R422, R424). -/
theorem policy_or_pause (x : Ctx) (t : TrapInfo) :
    (if t.kind = 4 then 0 else x.policy t.cause) = if t.kind = 4 ∨ isPageFault t.cause = true then 0 else x.eff.toNat / 2 ^ 232 % 4 := by
  rw [Ctx.policy, bits, Nat.shiftRight_eq_div_pow, ← ite_or]
  rfl

/-! Fields of a fault record (R427) -/

theorem testBit_put (v lo n i : Nat) : (put v lo n).testBit i = (decide (lo ≤ i) && (decide (i - lo < n) && v.testBit (i - lo))) := by
  rw [put, Nat.testBit_shiftLeft, Nat.testBit_mod_two_pow]

/-- A field of a word is what was put there. -/
theorem extract_put (v : Nat) {lo n w : Nat} (fits : lo + n ≤ w) : (BitVec.ofNat w (put v lo n)).extractLsb' lo n = BitVec.ofNat n v := by
  refine BitVec.eq_of_getLsbD_eq fun i hi => ?_
  have inside : lo + i < w := by omega
  rw [BitVec.getLsbD_extractLsb', BitVec.getLsbD_ofNat, BitVec.getLsbD_ofNat, testBit_put]
  simp [inside, hi]

/-- A field puts nothing outside its bits. -/
theorem extract_put_apart (v w : Nat) {lo n a m : Nat} (apart : a + m ≤ lo ∨ lo + n ≤ a) :
    (BitVec.ofNat w (put v lo n)).extractLsb' a m = 0#m := by
  refine BitVec.eq_of_getLsbD_eq fun i hi => ?_
  have outside : ¬lo ≤ a + i ∨ ¬a + i - lo < n := by omega
  rw [BitVec.getLsbD_extractLsb', BitVec.getLsbD_ofNat, testBit_put, BitVec.getLsbD_zero]
  rcases outside with h | h <;> simp [h]

/-- A value that is shifted to the word's upper end is its last field. -/
theorem ofNat_shiftLeft_eq_put (v lo n : Nat) : BitVec.ofNat (lo + n) (v <<< lo) = BitVec.ofNat (lo + n) (put v lo n) := by
  refine BitVec.eq_of_getLsbD_eq fun i hi => ?_
  have low : i - lo < n ∨ ¬lo ≤ i := by omega
  rw [BitVec.getLsbD_ofNat, BitVec.getLsbD_ofNat, testBit_put, Nat.testBit_shiftLeft]
  rcases low with h | h <;> simp [h]

/-- A flag is a field of one bit. -/
theorem getLsbD_eq_of_extract {w i : Nat} {x : BitVec w} {b : Bool} (h : x.extractLsb' i 1 = BitVec.ofNat 1 b.toNat) : x.getLsbD i = b := by
  have bit : (x.extractLsb' i 1).getLsbD 0 = x.getLsbD i := by simp
  rw [← bit, h]
  cases b <;> rfl

/-- The fields of a fault record, each with its lowest bit and its width (R427). -/
def recordFields (ns die : Nat) (h : RecordHead) (hi : Nat) : List (Nat × Nat × Nat) := [
  (ns, 192, 64), (h.stamp, 128, 64), (h.trapb, 76, 52), (h.slip, 64, 6), (h.opid, 48, 16), (die, 44, 4), (h.core, 38, 6), (h.ctx, 36, 2),
  (h.kind, 32, 4), (h.act, 30, 2), (h.href.toNat, 29, 1), (h.rst.toNat, 28, 1), (h.ndisc, 22, 6), (h.cause, 0, 10), (hi, 256, 256)]

theorem extract_faultRecord (ns die : Nat) (h : RecordHead) (hi a m : Nat) :
    (faultRecord ns die h hi).extractLsb' a m =
      (recordFields ns die h hi).foldl (fun r f => r ||| (BitVec.ofNat 512 (put f.1 f.2.1 f.2.2)).extractLsb' a m) 0#m := by
  simp only [faultRecord, BitVec.ofNat_or, ofNat_shiftLeft_eq_put hi 256 256, BitVec.extractLsb'_or, recordFields, List.foldl_cons, List.foldl_nil,
    BitVec.zero_or]

theorem fields_faultRecord (ns die hi : Nat) (h : RecordHead) :
    let r := faultRecord ns die h hi
    r.extractLsb' 0 10 = BitVec.ofNat 10 h.cause ∧ r.extractLsb' 10 12 = 0#12 ∧ r.extractLsb' 22 6 = BitVec.ofNat 6 h.ndisc ∧
    r.getLsbD 28 = h.rst ∧ r.getLsbD 29 = h.href ∧ r.extractLsb' 30 2 = BitVec.ofNat 2 h.act ∧ r.extractLsb' 32 4 = BitVec.ofNat 4 h.kind ∧
    r.extractLsb' 36 2 = BitVec.ofNat 2 h.ctx ∧ r.extractLsb' 38 6 = BitVec.ofNat 6 h.core ∧ r.extractLsb' 44 4 = BitVec.ofNat 4 die ∧
    r.extractLsb' 48 16 = BitVec.ofNat 16 h.opid ∧ r.extractLsb' 64 6 = BitVec.ofNat 6 h.slip ∧ r.extractLsb' 70 6 = 0#6 ∧
    r.extractLsb' 76 52 = BitVec.ofNat 52 h.trapb ∧ r.extractLsb' 128 64 = BitVec.ofNat 64 h.stamp ∧ r.extractLsb' 192 64 = BitVec.ofNat 64 ns ∧
    r.extractLsb' 256 256 = BitVec.ofNat 256 hi := by
  have field := extract_faultRecord ns die h hi
  refine ⟨?_, ?_, ?_, getLsbD_eq_of_extract ?_, getLsbD_eq_of_extract ?_, ?_, ?_, ?_, ?_, ?_, ?_, ?_, ?_, ?_, ?_, ?_, ?_⟩ <;>
    simp [field, recordFields, extract_put, extract_put_apart]

/-! What follows once the record is written (R194, R424) -/

section

variable {s : State} {l sid k : Nat} {r : BitVec 512} {p : Place} {x : Ctx}

theorem afterRecord_eq (found : (s.ld l).findStep sid = some (p, k, x)) :
    s.afterRecord l sid r = match (r.extractLsb' 30 2).toNat with
      | 1 => (s.killOp l x.sys.opid).completeRegions l
      | 2 => s.killRegionAll l (s.opOf l x.sys.opid).region
      | _ => if r.getLsbD 28 then s.discardStep l p k x false else s := by
  rw [State.afterRecord, found]
  rfl

theorem afterRecord_kills (found : (s.ld l).findStep sid = some (p, k, x)) (act : r.extractLsb' 30 2 = 1#2) :
    s.afterRecord l sid r = (s.killOp l x.sys.opid).completeRegions l := by
  rw [afterRecord_eq found, act]
  rfl

theorem afterRecord_killsRegion (found : (s.ld l).findStep sid = some (p, k, x)) (act : r.extractLsb' 30 2 = 2#2) :
    s.afterRecord l sid r = s.killRegionAll l (s.opOf l x.sys.opid).region := by
  rw [afterRecord_eq found, act]
  rfl

theorem afterRecord_pauses (found : (s.ld l).findStep sid = some (p, k, x)) (act : r.extractLsb' 30 2 = 0#2 ∨ r.extractLsb' 30 2 = 3#2) :
    s.afterRecord l sid r = if r.getLsbD 28 then s.discardStep l p k x false else s := by
  rw [afterRecord_eq found]
  rcases act with act | act <;> rw [act] <;> rfl

end

/-- Settles O57: a trap enters the handler by `me_takeMine_of_takes` or is reported by `takeMine_of_not_takes`, as `handlerTakes_iff` says; the
record's fields by `fields_faultRecord`, what it leads to by `afterRecord_eq`. -/
theorem handlerEntryAndReturn : Obligations.HandlerEntryAndReturn := by
  refine ⟨fun s t o b ho cls enabled priv room outside => ?_, fun x e r top => ?_, fun s t o ho onCore refused => ?_,
    fun _ _ _ _ _ _ _ _ _ _ _ _ => rfl, fun ns die hi h => fields_faultRecord ns die hi h, fun s l sid k r p x found => ?_⟩
  · subst ho
    have stack : s.waitsEnded.me.st.rstack = s.me.st.rstack := by rw [st_waitsEnded]
    have loops : s.waitsEnded.me.st.loops = s.me.st.loops := by rw [st_waitsEnded]
    have takes : handlerTakes s.me { opb := s.me.opb } t = true := handlerTakes_iff.mpr ⟨b, cls, enabled, outside, room, priv⟩
    rw [me_takeMine_of_takes takes, ← stack, ← loops, ← trapVa_waitsEnded, ← regs_waitsEnded]
    exact ⟨_, rfl, rfl, rfl, rfl, rfl, rfl, rfl, rfl, rfl⟩
  · exact ⟨congrArg List.tail top, rfl, rfl, rfl, rfl, rfl⟩
  · subst ho
    have refused : handlerTakes s.me { opb := s.me.opb } t = false := by
      rw [← Bool.not_eq_true, handlerTakes_iff]
      rintro ⟨b, cls, enabled, outside, room, priv⟩
      rcases refused b cls with off | inPriv | full | inside
      · exact absurd enabled (ne_true_of_eq_false off)
      · exact absurd inPriv (ne_true_of_eq_false priv)
      · omega
      · exact absurd inside (ne_true_of_eq_false outside)
    rw [takeMine_of_not_takes onCore refused rfl, policy_or_pause]
    rfl
  · refine ⟨afterRecord_kills found, afterRecord_killsRegion found, fun act => ⟨fun rst => ?_, fun rst => ?_⟩⟩
    · rw [afterRecord_pauses found act, if_pos rst]
    · rw [afterRecord_pauses found act, if_neg (ne_true_of_eq_false rst)]

end Sys2Proof.Machine

/-! Results in flight (R233, R256 to R258, R294): the order in which two of them land, and what each leaves in the context. -/

namespace Sys2Proof.Machine

/-! The order of landings (R256, R257, R294) -/

/-- One result lands before another: earlier cc first, then system registers before the slots X, V, D, then issue order. -/
def LandsBefore (f g : Fly) : Prop :=
  f.land < g.land ∨ (f.land = g.land ∧ (flyRank f < flyRank g ∨ (flyRank f = flyRank g ∧ f.seq < g.seq)))

/-- The order that `Ctx.landDue` sorts by. -/
def landsUpTo (f g : Fly) : Bool :=
  decide (f.land < g.land) || (f.land == g.land && (decide (flyRank f < flyRank g) || (flyRank f == flyRank g && decide (f.seq ≤ g.seq))))

theorem landDue_eq (x : Ctx) :
    x.landDue = (sortBy landsUpTo (x.st.flight.filter fun f => decide (f.land ≤ x.st.cc))).foldl Ctx.landOne
      { x with st.flight := x.st.flight.filter fun f => !decide (f.land ≤ x.st.cc) } := rfl

theorem landsUpTo_of_before {f g : Fly} (before : LandsBefore f g) : landsUpTo f g = true ∧ landsUpTo g f = false := by
  rcases before with land | ⟨land, rank | ⟨rank, seq⟩⟩
  · simp [landsUpTo, land, land.not_gt, land.ne']
  · simp [landsUpTo, land, rank, rank.not_gt, rank.ne']
  · simp [landsUpTo, land, rank, seq, seq.le]

theorem sortBy_pair {α : Type} {le : α → α → Bool} {a b : α} (up : le a b = true) (down : le b a = false) :
    sortBy le [a, b] = [a, b] ∧ sortBy le [b, a] = [a, b] := by
  simp [sortBy, insertBy, up, down]

/-- Of two results that are due, the one before the other lands first, in whichever order they were sent. -/
theorem landDue_of_two {x : Ctx} {f g : Fly} (sent : x.st.flight = [f, g] ∨ x.st.flight = [g, f]) (dueF : f.land ≤ x.st.cc) (dueG : g.land ≤ x.st.cc)
    (before : LandsBefore f g) : x.landDue = (({ x with st.flight := [] } : Ctx).landOne f).landOne g := by
  obtain ⟨up, down⟩ := landsUpTo_of_before before
  obtain ⟨sortFG, sortGF⟩ := sortBy_pair up down
  rw [landDue_eq]
  rcases sent with sent | sent
  · simp [sent, dueF, dueG, sortFG]
  · simp [sent, dueF, dueG, sortGF]

/-! What one landing leaves (R233, R257, R258, R294) -/

@[simp] theorem regs_orV (x : Ctx) (f : BitVec 7) : (x.orV f).regs = x.regs := rfl
@[simp] theorem flight_orV (x : Ctx) (f : BitVec 7) : (x.orV f).st.flight = x.st.flight := rfl
@[simp] theorem vflags_orV (x : Ctx) (f : BitVec 7) : (x.orV f).sys.vflags = x.sys.vflags ||| f := rfl
@[simp] theorem rflags_orV (x : Ctx) (f : BitVec 7) : (x.orV f).sys.rflags = x.sys.rflags := rfl

section

variable {x : Ctx} {f : Fly} {n : Nat} {v : Word} {d : BitVec 2048} {s : BitVec 256}

theorem flight_landOne (x : Ctx) (f : Fly) : (x.landOne f).st.flight = x.st.flight := by
  unfold Ctx.landOne
  rw [flight_orV]
  split
  case h_7 => split <;> rfl
  all_goals rfl

/-- A result not for a system register leaves them all but for the flags it ORs into VFLAGS (R233). -/
theorem sys_landOne (plain : ∀ n, f.dest ≠ .sysreg n) : (x.landOne f).sys = (x.orV f.flags).sys := by
  unfold Ctx.landOne
  split
  case h_7 _ _ n _ sysreg _ => exact absurd sysreg (plain n)
  all_goals rfl

theorem landOne_age_scalar (dest : f.dest = .age) (pay : f.pay = .scalar v) :
    x.landOne f = ({ x with regs.b := { val := v, valid := true, poison := f.poison } :: x.regs.b.take 15 } : Ctx).orV f.flags := by
  rw [Ctx.landOne, dest, pay]

theorem landOne_age_vec (dest : f.dest = .age) (pay : f.pay = .vec d s) :
    x.landOne f = ({ x with regs.v := { data := d, side := s, valid := true, poison := f.poison } :: x.regs.v.take 7 } : Ctx).orV f.flags := by
  rw [Ctx.landOne, dest, pay]

theorem landOne_reg_scalar (dest : f.dest = .reg n) (pay : f.pay = .scalar v) :
    x.landOne f = ({ x with regs.k := x.regs.k.set n { val := v, valid := true, poison := f.poison } } : Ctx).orV f.flags := by
  rw [Ctx.landOne, dest, pay]

theorem landOne_reg_vec (dest : f.dest = .reg n) (pay : f.pay = .vec d s) :
    x.landOne f = ({ x with regs.w := x.regs.w.set n { data := d, side := s, valid := true, poison := f.poison } } : Ctx).orV f.flags := by
  rw [Ctx.landOne, dest, pay]

/-- An mts to VFLAGS writes it before the flags of its own landing are ORed in (R294). -/
theorem landOne_vflags (dest : f.dest = .sysreg 8) (pay : f.pay = .scalar v) :
    x.landOne f = ({ x with sys.poison := x.sys.poison.upd 8 false, sys.vflags := BitVec.ofNat 7 v.toNat } : Ctx).orV f.flags := by
  rw [Ctx.landOne, dest, pay]
  rfl

theorem landOne_rflags (dest : f.dest = .sysreg 9) (pay : f.pay = .scalar v) :
    x.landOne f = ({ x with sys.poison := x.sys.poison.upd 9 false, sys.rflags := BitVec.ofNat 4 v.toNat } : Ctx).orV f.flags := by
  rw [Ctx.landOne, dest, pay]
  rfl

end

/-- A result for an age is not for a system register. -/
theorem ne_sysreg_of_age {f : Fly} (dest : f.dest = .age) (n : Nat) : f.dest ≠ .sysreg n := by
  rw [dest]
  exact Dest.noConfusion

/-- Settles O58: `landDue_of_two` gives the order of the two landings; each clause is then two of the equations of `Ctx.landOne`. -/
theorem landing : Obligations.Landing := by
  intro x f g sent dueF dueG rank before y
  have landed : y = (({ x with st.flight := [] } : Ctx).landOne f).landOne g := landDue_of_two sent dueF dueG before
  rw [landed]
  refine ⟨?_, fun v w toF toG payF payG => ?_, fun d1 s1 d2 s2 toF toG payF payG => ?_, fun n v w toF toG payF payG => ?_,
    fun n d1 s1 d2 s2 toF toG payF payG => ?_, fun n v w toF toG payF payG => ?_, fun v w toF toG payF payG => ?_,
    fun v w toF toG payF payG => ?_, fun v toF payF toG => ?_, fun plainF plainG => ?_⟩
  · rw [flight_landOne, flight_landOne]
  · simp [landOne_age_scalar toG payG, landOne_age_scalar toF payF, List.take_take]
  · simp [landOne_age_vec toG payG, landOne_age_vec toF payF, List.take_take]
  · simp [landOne_reg_scalar toG payG, landOne_reg_scalar toF payF]
  · simp [landOne_reg_vec toG payG, landOne_reg_vec toF payF]
  · simp [landOne_age_scalar toG payG, landOne_reg_scalar toF payF]
  · simp [landOne_age_scalar toG payG, landOne_vflags toF payF]
  · simp [landOne_vflags toG payG]
  · simp [sys_landOne (ne_sysreg_of_age toG), landOne_rflags toF payF]
  · simp [sys_landOne plainG, sys_landOne plainF]

end Sys2Proof.Machine

/-! Slot words and their encodings (R243 to R264): what each slot accepts is the encoding of what it decodes to, and the encoding of a legal word
decodes to it. -/

namespace Sys2Proof.Machine

open Sys2Proof.Claim

/-! Words as bits (R5): a word against its parts from the highest bit down, and what is fixed under a mask -/

/-- Two parts joined are a word exactly when each is its part of the word. -/
theorem append_eq_iff {v n : Nat} {x : BitVec v} {y : BitVec n} {w : BitVec (v + n)} :
    x ++ y = w ↔ x = w.extractLsb' n v ∧ y = w.extractLsb' 0 n := by
  constructor
  · rintro rfl
    exact ⟨BitVec.extractLsb'_append_eq_left.symm, BitVec.extractLsb'_append_eq_right.symm⟩
  · rintro ⟨rfl, rfl⟩
    refine BitVec.eq_of_getLsbD_eq fun i hi => ?_
    rw [BitVec.getLsbD_append]
    split
    · simp [*]
    · simp [show i - n < v by omega, show n + (i - n) = i by omega]

/-- A mask leaves nothing of two parts joined exactly when its own parts leave nothing of them. -/
theorem append_and_eq_zero_iff {v n : Nat} {x : BitVec v} {y : BitVec n} {m : BitVec (v + n)} :
    (x ++ y) &&& m = 0#(v + n) ↔ x &&& m.extractLsb' n v = 0#v ∧ y &&& m.extractLsb' 0 n = 0#n := by
  have parts : m.extractLsb' n v ++ m.extractLsb' 0 n = m := append_eq_iff.2 ⟨rfl, rfl⟩
  conv_lhs => rw [← parts, BitVec.and_append, append_eq_iff, BitVec.extractLsb'_zero, BitVec.extractLsb'_zero]

/-- A field of a field is a field of the whole. -/
theorem extract_extract {n lo len a b : Nat} {w : BitVec n} (h : a + b ≤ len) : (w.extractLsb' lo len).extractLsb' a b = w.extractLsb' (lo + a) b := by
  refine BitVec.eq_of_getLsbD_eq fun i hi => ?_
  simp [show a + i < len by omega, Nat.add_assoc]

/-- A field that a mask covers is what is fixed there. -/
theorem extract_of_and_eq {n lo len : Nat} {w m c : BitVec n} (fixed : w &&& m = c) (covers : m.extractLsb' lo len = BitVec.allOnes len) :
    w.extractLsb' lo len = c.extractLsb' lo len := by
  rw [← fixed, BitVec.extractLsb'_and, covers, BitVec.and_allOnes]

/-- What is fixed under two masks is fixed under both together. -/
theorem and_or_eq {n : Nat} {w a b c d : BitVec n} (ha : w &&& a = c) (hb : w &&& b = d) : w &&& (a ||| b) = c ||| d := by
  rw [BitVec.and_or_distrib_left, ha, hb]

/-- A field with a known value, as bits fixed under a mask. -/
theorem and_field_eq {n len : Nat} {w : BitVec n} (lo : Nat) {c : BitVec len} (field : w.extractLsb' lo len = c) :
    w &&& (BitVec.allOnes len).setWidth n <<< lo = c.setWidth n <<< lo := by
  subst field
  refine BitVec.eq_of_getLsbD_eq fun i hi => ?_
  by_cases low : i < lo
  · simp [low]
  · by_cases inside : i - lo < len <;> simp [low, inside, hi, show lo + (i - lo) = i by omega]

theorem eq_ofNat_of_toNat_eq {n k : Nat} {x : BitVec n} (h : x.toNat = k) : x = BitVec.ofNat n k := by
  rw [← h, BitVec.ofNat_toNat, BitVec.setWidth_eq]

/-! The last checks on a word, and MARK (R8, R244) -/

theorem checked_eq_ok_iff {p : Nat} {w rsv : BitVec 32} {i j : Instr} :
    checked p w rsv j = .ok i ↔ w &&& rsv = 0#32 ∧ j.ill = none ∧ j = i := by
  unfold checked
  by_cases clear : w &&& rsv = 0#32
  · cases legal : j.ill <;> simp [clear]
  · simp [clear]

/-- MARK stands in the upper bits of an opcode's place. -/
theorem isHeader_eq (w : BitVec 32) : isHeader w = ((w.extractLsb' 24 8).extractLsb' 2 6 == 0b101101#6) := by
  rw [extract_extract (by decide)]
  rfl

/-! An accepted word is the encoding of what it decodes to (R253, R260 to R264), slot by slot: in each row of the opcode table, the opcode, the
reserved bits and the fields of the row's instruction make up the whole word. -/

/-- A row of an opcode table accepts a word that its opcode, its reserved bits and its fields make up. -/
theorem encodes_of_checked {k p n : Nat} {w rsv : BitVec 32} {i j : Instr} (op : (w.extractLsb' 24 8).toNat = n) (h : checked p w rsv j = .ok i)
    (slot : j.slot = some k) (whole : w.extractLsb' 24 8 = BitVec.ofNat 8 n → w &&& rsv = 0#32 → encode j = w) :
    i.slot = some k ∧ i.ill = none ∧ encode i = w := by
  obtain ⟨clear, legal, rfl⟩ := checked_eq_ok_iff.1 h
  exact ⟨slot, legal, whole (eq_ofNat_of_toNat_eq op) clear⟩

/-- The direction of radv and the function of a fence are part of their opcode. -/
theorem encode_of_decodeA {w : BitVec 32} {i : Instr} (h : decodeA w = .ok i) : i.slot = some 0 ∧ i.ill = none ∧ encode i = w := by
  unfold decodeA at h
  split at h
  case h_33 => cases h
  case h_24 op =>
    split at h
    case' isTrue read => have dir := read
    case' isFalse write => have dir := (BitVec.eq_zero_or_eq_one (w.extractLsb' 10 1)).resolve_left write
    all_goals
      refine encodes_of_checked op h rfl fun op clear => ?_
      have fixed := and_or_eq clear (and_field_eq 10 dir)
      simp only [encode, fld]
      repeat rw [append_eq_iff]
      simp [extract_extract, op, extract_of_and_eq fixed]
  case h_32 op =>
    split at h
    case h_4 => cases h
    all_goals
      next fn =>
      refine encodes_of_checked op h rfl fun op clear => ?_
      have fixed := and_or_eq clear (and_field_eq 0 (eq_ofNat_of_toNat_eq fn))
      rw [encode]
      repeat rw [append_eq_iff]
      simp [op, extract_of_and_eq fixed]
  all_goals
    refine encodes_of_checked ‹_› h rfl fun op fixed => ?_
    simp only [encode, fld]
    repeat rw [append_eq_iff]
    simp [extract_extract, op, extract_of_and_eq fixed]

theorem encode_of_decodeE {w : BitVec 32} {i : Instr} (h : decodeE w = .ok i) : i.slot = some 1 ∧ i.ill = none ∧ encode i = w := by
  unfold decodeE at h
  split at h
  case h_26 => cases h
  all_goals
    refine encodes_of_checked ‹_› h rfl fun op fixed => ?_
    simp only [encode, fld]
    repeat rw [append_eq_iff]
    simp [extract_extract, op, extract_of_and_eq fixed]

theorem encode_of_decodeX {w : BitVec 32} {i : Instr} (h : decodeX w = .ok i) : i.slot = some 2 ∧ i.ill = none ∧ encode i = w := by
  unfold decodeX at h
  split at h
  case h_47 => cases h
  all_goals
    refine encodes_of_checked ‹_› h rfl fun op fixed => ?_
    simp only [encode, fld]
    repeat rw [append_eq_iff]
    simp [extract_extract, op, extract_of_and_eq fixed]

/-- The fmt of the bitwise words and of vcbx and vcbi is part of their opcode. -/
theorem encode_of_decodeV {w : BitVec 32} {i : Instr} (h : decodeV w = .ok i) : i.slot = some 3 ∧ i.ill = none ∧ encode i = w := by
  unfold decodeV at h
  split at h
  case h_37 => cases h
  case h_12 op | h_13 op | h_14 op | h_15 op | h_22 op | h_23 op =>
    split at h
    case isFalse => cases h
    case isTrue fmt =>
      refine encodes_of_checked op h rfl fun op clear => ?_
      have fixed := and_or_eq clear (and_field_eq 4 fmt)
      simp only [encode, fld]
      repeat rw [append_eq_iff]
      simp [extract_extract, op, extract_of_and_eq fixed]
  all_goals
    refine encodes_of_checked ‹_› h rfl fun op fixed => ?_
    simp only [encode, fld]
    repeat rw [append_eq_iff]
    simp [extract_extract, op, extract_of_and_eq fixed]

theorem encode_of_decodeD {w : BitVec 32} {i : Instr} (h : decodeD w = .ok i) : i.slot = some 4 ∧ i.ill = none ∧ encode i = w := by
  unfold decodeD at h
  split at h
  case h_23 => cases h
  all_goals
    refine encodes_of_checked ‹_› h rfl fun op fixed => ?_
    simp only [encode, fld]
    repeat rw [append_eq_iff]
    simp [extract_extract, op, extract_of_and_eq fixed]

/-- Settles O52, slot by slot; a word with MARK is accepted by none. -/
theorem encodeOfDecode : Obligations.EncodeOfDecode := by
  intro k w i _ h
  unfold decodeSlot at h
  split at h
  · cases h
  · split at h
    · exact encode_of_decodeA h
    · exact encode_of_decodeE h
    · exact encode_of_decodeX h
    · exact encode_of_decodeV h
    · exact encode_of_decodeD h
    · cases h

/-! The encoding of a legal word decodes to it (R243 to R261), slot by slot: its opcode picks the row, each field reads its operand, and the row's
reserved bits are 0. -/

theorem decodeA_encode {i : Instr} (slot : i.slot = some 0) (legal : i.ill = none) : decodeSlot 0 (encode i) = .ok i := by
  cases i <;> cases slot
  all_goals
    simp (disch := decide) only [decodeSlot, isHeader_eq, decodeA, encode, fld, BitVec.extractLsb'_append_eq_of_add_le,
      BitVec.extractLsb'_append_eq_of_le, BitVec.extractLsb'_eq_self, BitVec.reduceExtractLsb', BitVec.reduceBEq, BitVec.reduceEq, BitVec.reduceToNat,
      Nat.sub_self, Nat.reduceSub, Bool.false_eq_true, if_false, if_true]
    refine checked_eq_ok_iff.2 ⟨?_, legal, rfl⟩
    repeat rw [append_and_eq_zero_iff]
    simp

theorem decodeE_encode {i : Instr} (slot : i.slot = some 1) (legal : i.ill = none) : decodeSlot 1 (encode i) = .ok i := by
  cases i <;> cases slot
  all_goals
    simp (disch := decide) only [decodeSlot, isHeader_eq, decodeE, encode, fld, BitVec.extractLsb'_append_eq_of_add_le,
      BitVec.extractLsb'_append_eq_of_le, BitVec.extractLsb'_eq_self, BitVec.reduceExtractLsb', BitVec.reduceBEq, BitVec.reduceToNat,
      Nat.sub_self, Nat.reduceSub, Bool.false_eq_true, if_false]
    refine checked_eq_ok_iff.2 ⟨?_, legal, rfl⟩
    repeat rw [append_and_eq_zero_iff]
    simp

theorem decodeX_encode {i : Instr} (slot : i.slot = some 2) (legal : i.ill = none) : decodeSlot 2 (encode i) = .ok i := by
  cases i <;> cases slot
  all_goals
    simp (disch := decide) only [decodeSlot, isHeader_eq, decodeX, encode, fld, BitVec.extractLsb'_append_eq_of_add_le,
      BitVec.extractLsb'_append_eq_of_le, BitVec.extractLsb'_eq_self, BitVec.reduceExtractLsb', BitVec.reduceBEq, BitVec.reduceToNat,
      Nat.sub_self, Nat.reduceSub, Bool.false_eq_true, if_false]
    refine checked_eq_ok_iff.2 ⟨?_, legal, rfl⟩
    repeat rw [append_and_eq_zero_iff]
    simp

theorem decodeV_encode {i : Instr} (slot : i.slot = some 3) (legal : i.ill = none) : decodeSlot 3 (encode i) = .ok i := by
  cases i <;> cases slot
  all_goals
    simp (disch := decide) only [decodeSlot, isHeader_eq, decodeV, encode, fld, BitVec.extractLsb'_append_eq_of_add_le,
      BitVec.extractLsb'_append_eq_of_le, BitVec.extractLsb'_eq_self, BitVec.reduceExtractLsb', BitVec.reduceBEq, BitVec.reduceToNat,
      Nat.sub_self, Nat.reduceSub, Bool.false_eq_true, if_false, if_true]
    refine checked_eq_ok_iff.2 ⟨?_, legal, rfl⟩
    repeat rw [append_and_eq_zero_iff]
    simp

theorem decodeD_encode {i : Instr} (slot : i.slot = some 4) (legal : i.ill = none) : decodeSlot 4 (encode i) = .ok i := by
  cases i <;> cases slot
  all_goals
    simp (disch := decide) only [decodeSlot, isHeader_eq, decodeD, encode, fld, BitVec.extractLsb'_append_eq_of_add_le,
      BitVec.extractLsb'_append_eq_of_le, BitVec.extractLsb'_eq_self, BitVec.reduceExtractLsb', BitVec.reduceBEq, BitVec.reduceToNat,
      Nat.sub_self, Nat.reduceSub, Bool.false_eq_true, if_false]
    refine checked_eq_ok_iff.2 ⟨?_, legal, rfl⟩
    repeat rw [append_and_eq_zero_iff]
    simp

theorem slot_lt_five {i : Instr} {k : Nat} (slot : i.slot = some k) : k < 5 := by
  cases i <;> cases slot <;> decide

/-- Settles O51, slot by slot. -/
theorem decodeOfEncode : Obligations.DecodeOfEncode := by
  intro i k slot legal
  match k, slot_lt_five slot with
  | 0, _ => exact decodeA_encode slot legal
  | 1, _ => exact decodeE_encode slot legal
  | 2, _ => exact decodeX_encode slot legal
  | 3, _ => exact decodeV_encode slot legal
  | 4, _ => exact decodeD_encode slot legal

end Sys2Proof.Machine

/-! Loops and the transfers of the access stream (R265 to R269, R284, R285, R420). -/

namespace Sys2Proof.Machine

open Sys2Proof.Claim

theorem me_readThrough (s : State) (ca : Nat) (rs : List (Nat × Nat × Nat)) (by_ : Ctx) : (s.readThrough ca rs by_).me = s.me := by
  have cur : (s.readThrough ca rs by_).cur = s.cur := congrArg Stock.cur (stock_readThrough s ca rs by_ 0)
  rw [State.me, State.me, cur]
  exact ctx_congr (contextsOf_readThrough ..) _

/-- Reading code leaves the contexts as they are: it fills TLBs and caches (R27, R109). -/
theorem me_scanned (s : State) (va v : Nat) : (scanned s va v).me = s.me := by
  refine foldl_keeps State.me (fun s i => ?_) _ s
  dsimp only
  split
  · exact (me_readThrough ..).trans (me_afterXl ..)
  · rfl

/-- A code address that is found has its way there read. -/
theorem reached_ok (slot va v : Nat) (s : State) : reached slot va (.ok v) s = .ok (v, scanned s va v) := rfl

/-! Loops (R266) -/

section

variable {s : State} {n first last after : Nat}

/-- The state once the code up to the three places that a loop word finds has been read. -/
def loopScanned (s : State) (first last after : Nat) : State :=
  scanned (scanned (scanned s s.me.st.pc first) s.me.st.pc last) s.me.st.pc after

theorem openLoop_ok {len : Nat} (toFirst : s.forward s.cur.l s.cur.k s.cur.c 1 s.me.st.pc = .ok first)
    (toLast : s.forward s.cur.l s.cur.k s.cur.c len s.me.st.pc = .ok last) (toAfter : s.forward s.cur.l s.cur.k s.cur.c (len + 1) s.me.st.pc = .ok after)
    (nested : ∀ v ∈ s.me.st.loops, v.frame = s.me.st.rstack.length → last ≤ v.last) (room : n ≠ 0 → s.me.st.loops.length < 4) :
    openLoop n len s = .ok ((), if n = 0 then (loopScanned s first last after).updMe fun x => { x with st.goto := .skip last after }
      else (loopScanned s first last after).updMe fun x =>
        { x with st.loops := { first := first, last := last, exit := after, count := n, frame := s.me.st.rstack.length } :: x.st.loops }) := by
  have inner : (!(s.me.st.loops.any fun v => v.frame == s.me.st.rstack.length && decide (v.last < last))) = true := by
    simpa using nested
  rw [openLoop, bind_ok (getS_run s)]
  dsimp only
  rw [toFirst, toLast, toAfter, bind_ok (reached_ok ..), bind_ok (reached_ok ..), bind_ok (reached_ok ..), bind_ok (check_ok inner ..)]
  split
  · rfl
  · rw [bind_ok (check_ok (decide_eq_true (room ‹_›)) ..)]
    rfl

end

/-! Branches, calls and returns (R265, R268, R269, R285) -/

section

variable {s : State} {o : BitVec 11} {va : Nat} (target : s.target s.cur.l s.cur.k s.cur.c s.me.st.pc o.toInt = .ok va)

include target

theorem offTarget_ok : offTarget o s = .ok (va, scanned s s.me.st.pc va) := by
  rw [offTarget, bind_ok (getS_run s), target, reached_ok]

theorem opBa_ok : opBa o s = .ok ((), (scanned s s.me.st.pc va).updMe fun x => { x with st.goto := .taken va }) := by
  rw [opBa, bind_ok (offTarget_ok target), updMe_run]

theorem opCall_ok {after : Nat} (follows : s.forward s.cur.l s.cur.k s.cur.c 1 s.me.st.pc = .ok after)
    (within : ∀ v ∈ s.me.st.loops, ¬(v.frame = s.me.st.rstack.length ∧ v.last = s.me.st.pc)) (room : s.me.st.rstack.length < 8) :
    opCall o s = .ok ((), (scanned (scanned s s.me.st.pc va) s.me.st.pc after).updMe fun x =>
      { x with st.rstack := { va := after, depth := s.me.st.loops.length } :: s.me.st.rstack, st.goto := .back va [] false }) := by
  have inside : (!(s.me.st.loops.any fun v => v.frame == s.me.st.rstack.length && v.last == s.me.st.pc)) = true := by simpa using within
  rw [opCall, bind_ok (getS_run s)]
  dsimp only
  rw [bind_ok (offTarget_ok target), follows, bind_ok (reached_ok ..), bind_ok (check_ok inside ..), bind_ok (check_ok (decide_eq_true room) ..), updMe_run]
  refine congrArg (fun u => Except.ok ((), u)) (updMe_congr _ _ _ ?_)
  rw [me_scanned, me_scanned]

end

theorem opRet_ok {s : State} {e : RetEntry} {r : List RetEntry} (top : s.me.st.rstack = e :: r)
    (closed : ∀ v ∈ s.me.st.loops, v.frame ≠ s.me.st.rstack.length) :
    opRet s = .ok ((), if e.trap then s.updMe (·.leaveHandler e) else s.updMe fun x => { x with st.rstack := r, st.goto := .back e.va [] false }) := by
  have none_open : (!(s.me.st.loops.any fun v => v.frame == (e :: r).length)) = true := by simpa [top] using closed
  rw [opRet, bind_ok (getMe_run s)]
  simp only [top]
  rw [bind_ok (check_ok none_open ..)]
  split <;> rfl

/-- Two access sources are read in turn. -/
theorem accessTwo_reads {s t : State} {a b : BitVec 4} {v w : Word} (h : accessTwo s a b = some (v, w, t)) :
    ∃ u, readAccess 1 a s = .ok (v, u) ∧ readAccess 1 b u = .ok (w, t) := by
  obtain ⟨p, first, h⟩ := Option.bind_eq_some_iff.1 h
  obtain ⟨q, second, same⟩ := Option.map_eq_some_iff.1 h
  cases same
  exact ⟨p.2, readAccess_source first, readAccess_source second⟩

/-- Settles O14, word by word. -/
theorem loopAndTransferWords : Obligations.LoopAndTransferWords := by
  refine ⟨fun s t n l first last after ⟨toFirst, toLast, toAfter⟩ nested room => ?_, fun s o va target => ⟨?_, fun after follows within room => ?_⟩,
    fun s t c a b o v w sources => ?_, fun s e r top closed => runSlot_ok _ s _ (opRet_ok top closed)⟩
  · have opens := openLoop_ok toFirst toLast toAfter nested room
    refine ⟨?_, fun a v source count fits => ?_⟩
    · rintro c rfl rfl
      exact runSlot_ok _ t _ opens
    · subst count
      refine runSlot_ok _ s _ ?_
      rw [opLoopa, bind_ok (readAccess_source source), bind_ok (check_ok (decide_eq_true fits) ..)]
      exact opens
  · exact runSlot_ok _ s _ (opBa_ok target)
  · exact runSlot_ok _ s _ (opCall_ok target follows within room)
  · obtain ⟨u, first, second⟩ := accessTwo_reads sources
    refine ⟨fun no => runSlot_ok _ s _ ?_, fun va yes target => runSlot_ok _ s _ ?_⟩ <;> rw [opBca, bind_ok first, bind_ok second]
    · rw [no]
      rfl
    · rw [yes]
      exact opBa_ok target

end Sys2Proof.Machine

/-! Words that no slot accepts, and words that the spec writes out (R244, R261 to R264). -/

namespace Sys2Proof.Machine

open Sys2Proof.Claim

/-- No slot's table has a row for opcode 0x00, and no slot word carries MARK (R244, R263). -/
theorem decodeSlot_unlisted {k : Nat} {w : BitVec 32} (unlisted : w.extractLsb' 24 8 = 0#8 ∨ w.extractLsb' 26 6 = 0b101101#6) :
    decodeSlot k w = .error ⟨k + 1, .opcode⟩ := by
  unfold decodeSlot
  split
  · rfl
  · next plain =>
    have op : w.extractLsb' 24 8 = 0#8 := unlisted.resolve_right fun mark => plain (by rw [isHeader, mark]; rfl)
    split
    · rw [decodeA, op]; rfl
    · rw [decodeE, op]; rfl
    · rw [decodeX, op]; rfl
    · rw [decodeV, op]; rfl
    · rw [decodeD, op]; rfl
    · rfl

/-- Settles O53: each word that the spec writes out is evaluated; the words that no slot accepts by `decodeSlot_unlisted`. -/
theorem writtenWords : Obligations.WrittenWords := by
  refine ⟨rfl, rfl, rfl, rfl, rfl, rfl, rfl, rfl, rfl, rfl, rfl, rfl, rfl, rfl, rfl, rfl, rfl, rfl, rfl, rfl, fun _ _ _ => decodeSlot_unlisted⟩

end Sys2Proof.Machine

/-! The step and the two streams' tries of a bundle (R243 to R251, R263, R264, R416). -/

namespace Sys2Proof.Machine

open Sys2Proof.Claim

/-! One step, and a slot word issued alone -/

theorem step_agenda {s : State} {i : Instr} {r : List Instr} (next : s.agenda = i :: r) : step s = exec i { s with agenda := r } := by
  rw [step, next]

theorem step_self {s : State} (empty : s.agenda = []) : step s = .next s.selfStep := by
  rw [step, empty]

/-- A slot word runs as its slot's operation (R261). -/
theorem exec_slot {i : Instr} {k : Nat} (slot : i.slot = some k) (s : State) : exec i s = runSlot (slotOp i) s := by
  cases i <;> cases slot <;> rfl

/-! The checks of a bundle (R245, R263, R264) -/

section

variable {x : Ctx} {b : Bundle} {i : Nat}

theorem checkSlot_absent (absent : b.words.getD i none = none) (hold : b.hold = 0#5) (s : State) : checkSlot x b i s = .ok (none, s) := by
  rw [checkSlot, absent, hold, BitVec.getLsbD_zero]
  rfl

theorem checkSlot_word {w : BitVec 32} {ins : Instr} (word : b.words.getD i none = some w) (hold : b.hold = 0#5) (reads : decodeSlot i w = .ok ins)
    (may : needsPriv ins = false ∨ x.priv = true) (s : State) : checkSlot x b i s = .ok (some ins, s) := by
  have allowed : (needsPriv ins && !x.priv) = false := by rcases may with h | h <;> simp [h]
  rw [checkSlot, word, hold, BitVec.getLsbD_zero]
  dsimp only
  rw [reads]
  simp only [allowed]
  rfl

theorem checkSlot_illegal {w : BitVec 32} {e : DecodeError} (word : b.words.getD i none = some w) (hold : b.hold = 0#5)
    (refuses : decodeSlot i w = .error e) (s : State) : checkSlot x b i s = illegal e s := by
  rw [checkSlot, word, hold, BitVec.getLsbD_zero]
  simp only [refuses]

end

theorem checkBundle_ok {b : Bundle} {s : State} {ia ie ix iv id : Option Instr} (ha : checkSlot s.me b 0 s = .ok (ia, s))
    (he : checkSlot s.me b 1 s = .ok (ie, s)) (hx : checkSlot s.me b 2 s = .ok (ix, s)) (hv : checkSlot s.me b 3 s = .ok (iv, s))
    (hd : checkSlot s.me b 4 s = .ok (id, s)) (one : [ia, ie, ix, iv, id].countP (fun o => o.any isTransfer) < 2) :
    checkBundle b s = .ok ([ia, ie, ix, iv, id], s) := by
  rw [checkBundle, bind_ok (getMe_run s), bind_ok ha, bind_ok he, bind_ok hx, bind_ok hv, bind_ok hd]
  rw [if_neg (Nat.not_le.mpr one), M_pure]

/-- One word is at most one transfer (R265). -/
theorem countP_lone (i : Instr) : [some i].countP (fun o => o.any isTransfer) < 2 := Nat.lt_succ_of_le List.countP_le_length

section

variable {b : Bundle} {s : State} {w : BitVec 32} {i : Instr}

theorem checkBundle_access (words : b.words = [some w, none, none, none, none]) (hold : b.hold = 0#5) (reads : decodeSlot 0 w = .ok i)
    (may : needsPriv i = false ∨ s.me.priv = true) : checkBundle b s = .ok ([some i, none, none, none, none], s) :=
  checkBundle_ok (checkSlot_word (by rw [words]; rfl) hold reads may s) (checkSlot_absent (by rw [words]; rfl) hold s)
    (checkSlot_absent (by rw [words]; rfl) hold s) (checkSlot_absent (by rw [words]; rfl) hold s) (checkSlot_absent (by rw [words]; rfl) hold s) (countP_lone i)

/-- A word that slot E accepts is not a privileged one: those are words of X and D (R255). -/
theorem needsPriv_engine (reads : decodeSlot 1 w = .ok i) : needsPriv i = false := by
  obtain ⟨slot, _⟩ := encodeOfDecode 1 w i (by decide) reads
  cases i <;> cases slot <;> rfl

theorem checkBundle_engine (words : b.words = [none, some w, none, none, none]) (hold : b.hold = 0#5) (reads : decodeSlot 1 w = .ok i) :
    checkBundle b s = .ok ([none, some i, none, none, none], s) :=
  checkBundle_ok (checkSlot_absent (by rw [words]; rfl) hold s) (checkSlot_word (by rw [words]; rfl) hold reads (.inl (needsPriv_engine reads)) s)
    (checkSlot_absent (by rw [words]; rfl) hold s) (checkSlot_absent (by rw [words]; rfl) hold s) (checkSlot_absent (by rw [words]; rfl) hold s) (countP_lone i)

end

/-- The checks of a bundle stop at its lowest illegal place. -/
theorem checkBundle_stops {b : Bundle} {s : State} {i : Nat} {e : Stop} (place : i < 5) (before : ∀ j < i, ∃ o, checkSlot s.me b j s = .ok (o, s))
    (stops : checkSlot s.me b i s = .error e) : checkBundle b s = .error e := by
  rw [checkBundle, bind_ok (getMe_run s)]
  match i, place with
  | 0, _ => exact bind_error stops _
  | 1, _ =>
    rw [bind_ok (before 0 (by decide)).choose_spec]
    exact bind_error stops _
  | 2, _ =>
    rw [bind_ok (before 0 (by decide)).choose_spec, bind_ok (before 1 (by decide)).choose_spec]
    exact bind_error stops _
  | 3, _ =>
    rw [bind_ok (before 0 (by decide)).choose_spec, bind_ok (before 1 (by decide)).choose_spec, bind_ok (before 2 (by decide)).choose_spec]
    exact bind_error stops _
  | 4, _ =>
    rw [bind_ok (before 0 (by decide)).choose_spec, bind_ok (before 1 (by decide)).choose_spec, bind_ok (before 2 (by decide)).choose_spec, bind_ok (before 3 (by decide)).choose_spec]
    exact bind_error stops _

/-! The access stream's try (R248, R416) -/

/-- The state in which a bundle is tried: where the access position goes if it falls through has been noted. -/
def State.tried (t : State) (b : Bundle) : State :=
  let f := ({ t.me with st.goto := .fall } : Ctx).fallsTo b
  t.updMe fun x => { x with st.goto := .fall, st.skipTo := f.1, st.skipLoops := f.2 }

/-- A bundle that has issued no half of its own is tried afresh. -/
theorem updMe_tried {t : State} (whole : t.me.st.half = none) (b : Bundle) :
    (t.updMe fun x =>
      if x.st.half.isSome then x
      else { x with
        st.goto := .fall, st.skipTo := (({ x with st.goto := .fall } : Ctx).fallsTo b).1
        st.skipLoops := (({ x with st.goto := .fall } : Ctx).fallsTo b).2 }) = t.tried b :=
  updMe_congr _ _ _ (if_neg (by rw [whole]; decide))

theorem me_tried (t : State) (b : Bundle) : (t.tried b).me =
    { t.me with
      st.goto := .fall, st.skipTo := (({ t.me with st.goto := .fall } : Ctx).fallsTo b).1
      st.skipLoops := (({ t.me with st.goto := .fall } : Ctx).fallsTo b).2 } := me_updMe ..

theorem half_tried {t : State} (whole : t.me.st.half = none) (b : Bundle) : (t.tried b).me.st.half = none := by
  rw [me_tried]
  exact whole

/-- A bundle no half of which has issued leaves nothing to take back (R416). -/
theorem takeBack_whole {s : State} {l k c : Nat} (whole : (s.ctx l k c).st.half = none) : s.takeBack l k c = s := by
  simp only [State.takeBack, whole]

section

variable {s t : State} {l k c : Nat} {b : Bundle} (current : { s with cur := { l := l, k := k, c := c } } = s) (stays : s.me.st.passOver = false)
  (fetched : fetchBundle s = .ok (b, t)) (whole : t.me.st.half = none)

include current stays fetched whole

theorem accessTry_issues {u v : State} {is : List (Option Instr)} (legal : checkBundle b (t.tried b) = .ok (is, u))
    (ran : accessHalves b is u = .ok ((), v)) :
    s.accessTry l k c = (v.updMe fun x => (x.advance (t.tried b).me b is).endWaitA v.ticks, .issued) := by
  have fresh := half_tried whole b
  have tries := updMe_tried whole b
  unfold State.accessTry
  simp only [current, stays, Bool.false_eq_true, if_false, fetched, Bool.not_true, Bool.false_and, tries, legal, ran, fresh]

theorem accessTry_traps {i : TrapInfo} (isIssuer : t.cur = { l := l, k := k, c := c }) (refused : checkBundle b (t.tried b) = .error (.trap i)) :
    s.accessTry l k c =
      ((t.tried b).updMe fun x => { x.endWaitA t.ticks with st.atrap := some { i with access := true, va := some x.st.pc } }, .trapped) := by
  have fresh : ((t.tried b).ctx l k c).st.half = none := by
    have mine : (t.tried b).ctx l k c = (t.tried b).me := by rw [State.me, State.tried, updMe_cur, isIssuer]
    rw [mine, half_tried whole b]
  have tries := updMe_tried whole b
  unfold State.accessTry
  simp only [current, stays, Bool.false_eq_true, if_false, fetched, Bool.not_true, Bool.false_and, tries, refused, takeBack_whole fresh]
  rfl

end

/-! The halves of the access stream (R246, R375) -/

section

variable {b : Bundle} {s u : State} {i : Instr}

theorem syncWait_ok (sync : b.sync = 0#2) (s : State) : syncWait b s = .ok ((), s) := by
  rw [syncWait, bind_ok (getMe_run s), bind_ok (getCore_run s), sync]
  rfl

/-- A bundle's lone A word runs as its slot's operation. -/
theorem accessHalves_access (sync : b.sync = 0#2) (whole : s.me.st.half = none) (ran : slotOp i s = .ok ((), u)) :
    accessHalves b [some i, none, none, none, none] s = .ok ((), u.updMe fun z => { z with st.half := none }) := by
  rw [accessHalves, bind_ok (syncWait_ok sync s), bind_ok (getS_run s)]
  simp only [whole]
  rw [bind_ok (bind_ok ran _)]
  rfl

/-- What takes back a bundle that has no A word: the registers and the levels as they stood. -/
def State.unmoved (s : State) : Half := { regs := s.me.regs.a, loops := s.me.st.loops, inH := s.me.st.handler, undo := some {} }

/-- A bundle's lone E word runs as an E word whose registers stand as before the bundle. -/
theorem accessHalves_engine (sync : b.sync = 0#2) (whole : s.me.st.half = none) (ran : eWord (fun _ => s.unmoved) i s = .ok ((), u)) :
    accessHalves b [none, some i, none, none, none] s = .ok ((), u.updMe fun z => { z with st.half := none }) := by
  rw [accessHalves, bind_ok (syncWait_ok sync s), bind_ok (getS_run s)]
  simp only [whole]
  rw [bind_ok (bind_ok (M_pure () s) _)]
  exact bind_ok ran _

/-- The access registers after an E word (R374): as they stood, but for the one that it writes. -/
def engineWrites (i : Instr) (before : List Reg) (x : Ctx) : List Reg :=
  match eResult i with
  | some d => before.set d.toNat (x.regs.a.getD d.toNat {})
  | none => before

/-- An E word whose operands are at hand and whose operation completes. -/
theorem eWord_ok {h : Half} {v : State} {vs : List Word} (first : h.popped = none)
    (took : takeQueued (eSources ({ s.me with regs.a := h.regs } : Ctx) i) (s.updMe fun x => { x with regs.a := h.regs }) = .ok (vs, v))
    (ran : slotOp i (v.updMe fun x => { x with st.popped := vs }) = .ok ((), u)) :
    eWord (fun _ => h) i s = .ok ((), u.updMe fun x => { x with st.popped := [], regs.a := engineWrites i s.me.regs.a x }) := by
  unfold eWord
  simp only [first, me_updMe, took, ran]
  rfl

end

/-! The execute stream's try (R245, R251, R256) -/

/-- No word and no hold: the slot does nothing. -/
theorem executeSlot_none (n : Nat) (s : State) : executeSlot n none false s = .ok ((), s) := rfl

/-- A present word runs as its slot's operation, and is its slot's last word from then on (R245). -/
theorem executeSlot_word {n : Nat} {w : BitVec 32} {i : Instr} {s u : State} (reads : decodeSlot n w = .ok i)
    (ran : slotOp i (s.updMe fun x => { x with st.last := x.st.last.set n (some w) }) = .ok ((), u)) (held : Bool) :
    executeSlot n (some w) held s = .ok ((), u) := by
  rw [executeSlot, bind_ok (getMe_run s)]
  simp only [Option.isSome_some, if_true, reads]
  rw [bind_ok (updMe_run ..), ran]

theorem execTry_issues {s t u : State} {l k c : Nat} {b : RunB} {r : List RunB}
    (landed : t = { s with cur := { l := l, k := k, c := c } }.updCtx l k c fun x => x.landAll s.ticks) (next : t.me.st.run = b :: r)
    (ran : executeHalves b t = .ok ((), u)) : s.execTry l k c = (u.updMe fun x => x.issuedX b t.ticks, .issued) := by
  subst landed
  unfold State.execTry
  simp only [next, ran]

/-! The places of decoding errors (R264) -/

/-- A decoding error names place `p`. -/
def ErrsAt (p : Nat) (r : Except DecodeError Instr) : Prop := ∀ e, r = .error e → e.place = p

@[simp] theorem errsAt_error (p q : Nat) (r : Reason) : ErrsAt p (.error ⟨q, r⟩) ↔ q = p := by
  simp [ErrsAt]

@[simp] theorem errsAt_checked (p : Nat) (w rsv : BitVec 32) (i : Instr) : ErrsAt p (checked p w rsv i) := by
  unfold checked
  split
  · split
    · exact nofun
    · simp
  · simp

theorem errsAt_decodeSlot (n : Nat) (w : BitVec 32) : ErrsAt (n + 1) (decodeSlot n w) := by
  unfold decodeSlot
  split
  · simp
  · split
    case h_6 => simp
    case' h_1 => unfold decodeA
    case' h_2 => unfold decodeE
    case' h_3 => unfold decodeX
    case' h_4 => unfold decodeV
    case' h_5 => unfold decodeD
    all_goals (repeat' split) <;> simp

/-! The obligation -/

/-- Settles O54: a step, a slot word and the two streams' tries by the equation of each; the lowest illegal word stops the checks of its bundle. -/
theorem stepRunsDecoded : Obligations.StepRunsDecoded := by
  refine ⟨fun _ _ _ => step_agenda, fun _ => step_self, fun i s k slot => exec_slot slot s, ?_, ?_, ?_, ?_⟩
  · intro l k c s t u b w i current stays fetched words hold sync reads ran may whole
    have mine := me_tried t b
    have legal := checkBundle_access (s := t.tried b) words hold reads (by rwa [mine])
    refine ⟨(t.tried b).me, by rw [mine], by rw [mine], ?_⟩
    rw [accessTry_issues current stays fetched whole legal (accessHalves_access sync (half_tried whole b) ran), updMe_updMe, updMe_ticks]
  · intro l k c s t v u b w i vs current stays fetched words hold sync reads whole took ran
    have mine := me_tried t b
    have legal := checkBundle_engine (s := t.tried b) words hold reads
    refine ⟨(t.tried b).me, by rw [mine], by rw [mine], ?_⟩
    rw [accessTry_issues current stays fetched whole legal (accessHalves_engine sync (half_tried whole b) (eWord_ok rfl took ran)), updMe_updMe, updMe_updMe,
      updMe_ticks, updMe_ticks, mine]
    rfl
  · intro l k c n s t u b r w i landed next hold lone reads ran
    refine execTry_issues landed next ?_
    rcases lone with ⟨rfl, hx, hv, hd⟩ | ⟨rfl, hx, hv, hd⟩ | ⟨rfl, hx, hv, hd⟩ <;>
      rw [executeHalves, hx, hv, hd, hold] <;> simp only [BitVec.getLsbD_zero]
    · rw [bind_ok (executeSlot_word reads ran _), bind_ok (executeSlot_none ..), executeSlot_none]
    · rw [bind_ok (executeSlot_none ..), bind_ok (executeSlot_word reads ran _), executeSlot_none]
    · rw [bind_ok (executeSlot_none ..), bind_ok (executeSlot_none ..), executeSlot_word reads ran _]
  · intro l k c i s t b w e current stays fetched isIssuer whole hold place word refuses before
    have named := errsAt_decodeSlot i w e refuses
    have issuer : t.cur = { l := l, k := k, c := c } := by rw [isIssuer, ← current]
    have legal (j : Nat) (h : j < i) : ∃ o, checkSlot (t.tried b).me b j (t.tried b) = .ok (o, t.tried b) := by
      cases wj : b.words.getD j none with
      | none => exact ⟨none, checkSlot_absent wj hold _⟩
      | some v =>
        obtain ⟨ins, reads, plain⟩ := before j h v wj
        exact ⟨some ins, checkSlot_word wj hold reads (.inl plain) _⟩
    have stops := checkBundle_stops place legal (checkSlot_illegal word hold refuses (t.tried b))
    refine ⟨named, ?_⟩
    rw [accessTry_traps current stays fetched whole issuer stops, named, if_pos (by omega)]
    rfl

end Sys2Proof.Machine

/-! The integer words of the X slot (R287 to R294): arithmetic, division, counts, immediates, push and mfs. -/

namespace Sys2Proof.Machine

open Sys2Proof.Claim

/-! Words as numbers (R5, R9) -/

/-- The upper half of a product of signed words (R288). -/
theorem upperHalf_signExtend_mul (x y : Word) :
    (x.signExtend 128 * y.signExtend 128).extractLsb' 64 64 = BitVec.ofInt 64 (x.toInt * y.toInt / 2 ^ 64) := by
  rw [BitVec.signExtend, BitVec.signExtend, ← BitVec.ofInt_mul]
  generalize x.toInt * y.toInt = p
  refine BitVec.eq_of_toNat_eq ?_
  rw [BitVec.extractLsb'_toNat, BitVec.toNat_ofInt, BitVec.toNat_ofInt, Nat.shiftRight_eq_div_pow]
  omega

/-- The upper half of a product of unsigned words (R288). -/
theorem upperHalf_zeroExtend_mul (x y : Word) :
    (x.zeroExtend 128 * y.zeroExtend 128).extractLsb' 64 64 = BitVec.ofNat 64 (x.toNat * y.toNat / 2 ^ 64) := by
  have fits : x.toNat * y.toNat < 2 ^ 128 := lt_of_lt_of_eq (Nat.mul_lt_mul'' x.isLt y.isLt) (by norm_num)
  refine BitVec.eq_of_toNat_eq ?_
  rw [BitVec.extractLsb'_toNat, BitVec.toNat_mul, BitVec.toNat_setWidth_of_le (by decide),
    BitVec.toNat_setWidth_of_le (by decide), BitVec.toNat_ofNat, Nat.shiftRight_eq_div_pow, Nat.mod_eq_of_lt (a := x.toNat * y.toNat) fits]

/-- A shift to the left multiplies by a power of two. -/
theorem shiftLeft_eq_mul_pow (v : Word) (n : Nat) : v <<< n = v * 2 ^ n := by
  have power : BitVec.twoPow 64 n = 2 ^ n := by
    refine BitVec.eq_of_toNat_eq ?_
    rw [BitVec.toNat_twoPow, BitVec.toNat_pow]
    rfl
  rw [BitVec.shiftLeft_eq_mul_twoPow, power]

/-- The first number below a bound that a test picks, or the bound. -/
theorem getD_find?_range {p : Nat → Bool} {m n : Nat} (bound : n ≤ m) (below : ∀ i, i < n → p i = false) (at_ : n < m → p n = true) :
    ((List.range m).find? p).getD m = n := by
  rcases Nat.lt_or_eq_of_le bound with inside | rfl
  · have found : (List.range m).find? p = some n := by
      rw [List.find?_range_eq_some]
      exact ⟨at_ inside, List.mem_range.2 inside, fun j hj => by rw [below j hj]; rfl⟩
    rw [found, Option.getD_some]
  · have none : (List.range n).find? p = none := by
      rw [List.find?_range_eq_none]
      exact fun i hi => by rw [below i hi]; rfl
    rw [none, Option.getD_none]

/-! What the shared forms answer (R287) -/

section

variable {s : State} {d a b : BitVec 5} {x y : Word} (hx : ScalarIs s a x)

include hx

theorem int1_ok {f : Word → Word} {v : Word} (room : RoomX s d) (value : f x = v) : runSlot (int1 d a f) s = .next (sentX s d 1 v) := by
  subst value
  refine runSlot_ok _ s _ ?_
  rw [int1, bind_ok (readScalar_is hx 3)]
  exact sendScalar_ok room ..

variable (hy : ScalarIs s b y)

include hy

theorem int2_ok {lat : Nat} {f : Word → Word → Word} {v : Word} (room : RoomX s d) (value : f x y = v) :
    runSlot (int2 lat d a b f) s = .next (sentX s d lat v) := by
  subst value
  refine runSlot_ok _ s _ ?_
  rw [int2, bind_ok (readScalar_is hx 3), bind_ok (readScalar_is hy 3)]
  exact sendScalar_ok room ..

theorem opSel_ok {c : BitVec 5} {z : Word} (hz : ScalarIs s c z) (room : RoomX s d) :
    opSel d a b c s = .ok ((), sentX s d 1 (if z ≠ 0#64 then x else y)) := by
  rw [opSel, bind_ok (readScalar_is hx 3), bind_ok (readScalar_is hy 3), bind_ok (readScalar_is hz 3), ite_not]
  exact sendScalar_ok room ..

/-! Division (R289) -/

/-- A division that no trap stops sends its quotient or its remainder. -/
theorem divide_ok {signed wantRem : Bool} {z : BitVec 1} {v : Word} (room : RoomX s d) (nonzero : z = 1#1 → y ≠ 0#64)
    (fits : z = 1#1 → signed = true → ¬(x = 0x8000000000000000#64 ∧ y = BitVec.allOnes 64))
    (value : (if wantRem then (divRem signed x y).2 else (divRem signed x y).1) = v) :
    runSlot (divide signed wantRem d a b z) s = .next (sentX s d 24 v) := by
  subst value
  refine runSlot_ok _ s _ ?_
  rw [divide, bind_ok (readScalar_is hx 3), bind_ok (readScalar_is hy 3), bind_ok (check_ok (by simpa [imp_iff_not_or] using nonzero) ..),
    bind_ok (check_ok (by simpa [imp_iff_not_or, or_assoc] using fits) ..)]
  exact sendScalar_ok room ..

/-- With Z a division by zero traps. -/
theorem divide_by_zero_traps (signed wantRem : Bool) (zero : y = 0#64) :
    runSlot (divide signed wantRem d a b 1#1) s = .next (takeMine { cause := 0x080, slot := 3 } s) := by
  subst zero
  refine runSlot_trap _ s _ ?_
  rw [divide, bind_ok (readScalar_is hx 3), bind_ok (readScalar_is hy 3)]
  exact bind_error (check_trap rfl ..) _

/-- With Z a signed division whose quotient does not fit traps. -/
theorem divide_overflow_traps (wantRem : Bool) (least : x = 0x8000000000000000#64) (minusOne : y = BitVec.allOnes 64) :
    runSlot (divide true wantRem d a b 1#1) s = .next (takeMine { cause := 0x081, slot := 3 } s) := by
  subst least minusOne
  refine runSlot_trap _ s _ ?_
  rw [divide, bind_ok (readScalar_is hx 3), bind_ok (readScalar_is hy 3), bind_ok (check_ok (by rfl) ..)]
  exact bind_error (check_trap rfl ..) _

end

theorem divRem_zero (signed : Bool) (x : Word) : divRem signed x 0#64 = (BitVec.allOnes 64, x) := if_pos rfl

theorem divRem_signed {y : Word} (x : Word) (nonzero : y ≠ 0#64) :
    divRem true x y = (BitVec.ofInt 64 (x.toInt.tdiv y.toInt), BitVec.ofInt 64 (x.toInt.tmod y.toInt)) := if_neg nonzero

theorem divRem_unsigned {y : Word} (x : Word) (nonzero : y ≠ 0#64) : divRem false x y = (x / y, x % y) := by
  rw [divRem, if_neg nonzero, BitVec.udiv_def, BitVec.umod_def]
  rfl

/-- The quotient that does not fit wraps, and leaves nothing. -/
theorem divRem_overflow : divRem true 0x8000000000000000#64 (BitVec.allOnes 64) = (0x8000000000000000#64, 0#64) := by decide

/-- Settles O4: the regular divisions signed and unsigned, then the borderline cases without Z and with it. -/
theorem division : Obligations.Division := by
  intro s d a b x y hx hy room
  have untrapped {signed wantRem : Bool} {z : BitVec 1} {v : Word} := divide_ok (signed := signed) (wantRem := wantRem) (z := z) (v := v) hx hy room
  have plain {signed wantRem : Bool} {v : Word} := untrapped (signed := signed) (wantRem := wantRem) (z := 0#1) (v := v) (fun h => nomatch h) fun h => nomatch h
  refine ⟨fun z nonzero regular => ?_, fun z nonzero => ?_, fun zero => ?_, fun least minusOne => ?_, fun zero => ?_, fun least minusOne => ?_⟩
  · have value := divRem_signed x nonzero
    exact ⟨untrapped (fun _ => nonzero) (fun _ _ => regular) (congrArg Prod.fst value),
      untrapped (fun _ => nonzero) (fun _ _ => regular) (congrArg Prod.snd value)⟩
  · have value := divRem_unsigned x nonzero
    exact ⟨untrapped (fun _ => nonzero) (fun _ h => nomatch h) (congrArg Prod.fst value),
      untrapped (fun _ => nonzero) (fun _ h => nomatch h) (congrArg Prod.snd value)⟩
  · have value (signed : Bool) : divRem signed x y = (BitVec.allOnes 64, x) := zero ▸ divRem_zero signed x
    exact ⟨plain (congrArg Prod.fst (value true)), plain (congrArg Prod.fst (value false)), plain (congrArg Prod.snd (value true)),
      plain (congrArg Prod.snd (value false))⟩
  · have value : divRem true x y = (0x8000000000000000#64, 0#64) := by rw [least, minusOne, divRem_overflow]
    exact ⟨plain (congrArg Prod.fst value), plain (congrArg Prod.snd value)⟩
  · exact ⟨divide_by_zero_traps hx hy true false zero, divide_by_zero_traps hx hy false false zero, divide_by_zero_traps hx hy true true zero,
      divide_by_zero_traps hx hy false true zero⟩
  · exact ⟨divide_overflow_traps hx hy false least minusOne, divide_overflow_traps hx hy true least minusOne⟩

/-- Settles O1: each word is the two-source form with its function and latency; sel reads a third source. -/
theorem integerWords : Obligations.IntegerWords := by
  intro s d a b x y hx hy room
  have word {lat : Nat} {f : Word → Word → Word} {v : Word} := int2_ok (lat := lat) (f := f) (v := v) hx hy room
  exact ⟨word rfl, word rfl, word rfl, word (upperHalf_signExtend_mul x y), word (upperHalf_zeroExtend_mul x y), word rfl, word rfl, word rfl,
    word rfl, word rfl, word rfl, word rfl, word rfl, word (if_congr BitVec.sle_iff_toInt_le rfl rfl),
    word (if_congr BitVec.sle_iff_toInt_le rfl rfl), word (if_congr BitVec.ule_iff_toNat_le rfl rfl),
    word (if_congr BitVec.ule_iff_toNat_le rfl rfl), fun _ _ => word rfl, fun c z hz => runSlot_ok _ s _ (opSel_ok hx hy hz room)⟩

/-! Push, mfs and the long immediates (R291 to R294) -/

theorem opPush_ok {s : State} {a : BitVec 5} {x : Word} (hx : ScalarIs s a x) (room : s.me.st.sq.length < 32) :
    opPush a s = .ok ((), sentX s 1#5 1 x) := by
  rw [opPush, bind_ok (readScalar_is hx 3)]
  exact sendScalar_ok ⟨.inr (.inl rfl), fun _ => room⟩ ..

/-- A system register without poison is read (R294). -/
theorem opMfs_ok {s : State} {d : BitVec 5} {n : BitVec 14} (clean : s.me.sys.poison.has n.toNat = false) (room : RoomX s d) :
    opMfs d n s = .ok ((), sentX s d 1 (BitVec.ofNat 64 (s.me.sysValue n.toNat s.ticks))) := by
  rw [opMfs, bind_ok (getS_run s), bind_ok (check_ok (by rw [clean]; rfl) ..)]
  exact sendScalar_ok room ..

/-- Settles O2: each word of one source is the one-source form with its function; push and mfs by their own lemmas. -/
theorem unaryWords : Obligations.UnaryWords := by
  intro s d a x hx room
  have word {f : Word → Word} {v : Word} := int1_ok (f := f) (v := v) hx room
  exact ⟨fun n bound zeros one => word (congrArg (BitVec.ofNat 64) (getD_find?_range bound zeros one)),
    fun n bound zeros one => word (congrArg (BitVec.ofNat 64) (getD_find?_range bound zeros one)), word rfl, fun i => word rfl, fun i => word rfl,
    fun i => word rfl, fun i => word rfl, fun n => word rfl, fun n => word rfl, fun n => word rfl, fun queue => runSlot_ok _ s _ (opPush_ok hx queue),
    fun n _ clean => runSlot_ok _ s _ (opMfs_ok clean room)⟩

/-- A destination code that lih may carry never names the queue (R292). -/
theorem roomX_of_lih_legal {s : State} {d : BitVec 5} {i : BitVec 19} (legal : (Instr.lih d i).ill = none) : RoomX s d := by
  obtain ⟨dest, other⟩ : (d.toNat = 0 ∨ d.toNat = 1 ∨ 16 ≤ d.toNat) ∧ d ≠ 1#5 := by
    simpa [Instr.ill, firstReason, scalarDest, or_assoc] using legal
  exact ⟨dest.imp eq_ofNat_of_toNat_eq (Or.imp_left eq_ofNat_of_toNat_eq), fun queue => absurd queue other⟩

theorem opLih_ok {s : State} {d : BitVec 5} {i : BitVec 19} {x : Word} (hx : ScalarIs s d x) (legal : (Instr.lih d i).ill = none) :
    opLih d i s = .ok ((), sentX s d 1 ((x &&& 0x7FFFF#64) + i.signExtend 64 * 2 ^ 19)) := by
  rw [opLih, bind_ok (readScalar_is hx 3), shiftLeft_eq_mul_pow]
  exact sendScalar_ok (roomX_of_lih_legal legal) ..

/-- The word of lih with destination code 1 is refused for its destination (R292). -/
theorem decodeSlot_lih_queue (i : BitVec 19) : decodeSlot 2 (encode (.lih 1#5 i)) = .error ⟨3, .dest⟩ := by
  have op : (encode (.lih 1#5 i)).extractLsb' 24 8 = 0x28#8 := Laws.extract_above i (Laws.extract_above 1#5 rfl)
  have dst : (fld (encode (.lih 1#5 i)) 19 : BitVec 5) = 1#5 := Laws.extract_above i (Laws.extract_last _ _)
  rw [Laws.slotX (Laws.no_mark op (by decide)), decodeX, op]
  change checked 3 _ 0#32 (.lih (fld _ 19) (fld _ 0)) = _
  rw [dst, checked, if_pos BitVec.and_zero]
  rfl

/-- Settles O3, clause by clause. -/
theorem longImmediates : Obligations.LongImmediates :=
  ⟨fun s _ _ room => runSlot_ok _ s _ (sendScalar_ok room ..), fun s _ _ _ hx legal => runSlot_ok _ s _ (opLih_ok hx legal),
    decodeSlot_lih_queue, by decide⟩

end Sys2Proof.Machine

/-! Scalar FP32 (R296, R297). -/

namespace Sys2Proof.Machine

open Sys2Proof.Claim

/-- The rounding mode of a word is its field, or RMODE for 4 (R296). -/
theorem scalarMode_ok {s : State} {r : BitVec 3} (clean : r = 4#3 → RmodeOk s) :
    scalarMode r s = .ok (if r = 4#3 then s.me.sys.rmode.toNat else r.toNat, s) := by
  by_cases field : r = 4#3
  · have free : s.me.sys.poison.has 7 = false := clean field
    rw [scalarMode, if_pos field, if_pos field, getRm, bind_ok (getMe_run s), bind_ok (check_ok (by rw [free]; rfl) ..)]
    rfl
  · rw [scalarMode, if_neg field, if_neg field]
    rfl

section

variable {s : State} {d a b : BitVec 5} {r : BitVec 3} {x y : Word} {m : Nat} (hx : ScalarIs s a x) (room : RoomX s d) (mode : scalarMode r s = .ok (m, s))

include hx room mode

theorem opFcvt_ok (v : BitVec 4) : opFcvt d a r v s = .ok ((), sentX s d 3 (BitVec.ofNat 64 (fcvtOf v.toNat m x).code) (fcvtOf v.toNat m x).fl) := by
  rw [opFcvt, bind_ok (readScalar_is hx 3), bind_ok mode]
  exact sendScalar_ok room ..

variable (hy : ScalarIs s b y)

include hy

theorem fp2_ok (f : Bool → FV → FV → FV) :
    let o := fpArith 0 m ((asF32 x).isSnan || (asF32 y).isSnan) (f (m == 2) (asF32 x) (asF32 y))
    fp2 d a b r f s = .ok ((), sentX s d 4 (BitVec.ofNat 64 o.code) o.fl) := by
  rw [fp2, bind_ok (readScalar_is hx 3), bind_ok (readScalar_is hy 3), bind_ok mode]
  exact sendScalar_ok room ..

theorem opFmaS_ok {c : BitVec 5} {z : Word} (hz : ScalarIs s c z) :
    let o := fpArith 0 m ((asF32 x).isSnan || (asF32 y).isSnan || (asF32 z).isSnan) (((asF32 x).mul (asF32 y)).add (asF32 z) (m == 2))
    opFmaS d a b r c s = .ok ((), sentX s d 4 (BitVec.ofNat 64 o.code) o.fl) := by
  rw [opFmaS, bind_ok (readScalar_is hx 3), bind_ok (readScalar_is hy 3), bind_ok (readScalar_is hz 3), bind_ok mode]
  exact sendScalar_ok room ..

end

/-- Settles O5: the words of two sources by `fp2_ok`, fma and fcvt by their own lemmas. -/
theorem scalarFloat : Obligations.ScalarFloat := by
  intro s d a b r x y m hx hy room _ clean hm
  have mode : scalarMode r s = .ok (m, s) := hm ▸ scalarMode_ok clean
  have word (f : Bool → FV → FV → FV) := runSlot_ok _ s _ (fp2_ok hx room mode hy f)
  exact ⟨word fun dn x y => x.add y dn, word fun dn x y => x.add y.neg dn, word fun _ x y => x.mul y,
    fun c z hz => runSlot_ok _ s _ (opFmaS_ok hx room mode hy hz), fun v _ => runSlot_ok _ s _ (opFcvt_ok hx room mode v)⟩

end Sys2Proof.Machine

/-! Reads of the scalar data queue (R249, R272): what they leave of a state. -/

namespace Sys2Proof.Machine

open Sys2Proof.Claim

/-- Two access sources, one after the other. -/
theorem accessTwo_sources {s t : State} {a b : BitVec 4} {v w : Word} (h : accessTwo s a b = some (v, w, t)) :
    ∃ u, accessSource s a = some (v, u) ∧ accessSource u b = some (w, t) := by
  obtain ⟨p, first, h⟩ := Option.bind_eq_some_iff.1 h
  obtain ⟨q, second, same⟩ := Option.map_eq_some_iff.1 h
  cases same
  exact ⟨p.2, first, second⟩

/-- The state after reads of access sources: as it was, but for the scalar data queue of the current context. -/
def ReadFrom (s t : State) : Prop := t = s ∨ ∃ q, t = s.updMe fun x => { x with st.sq := q }

theorem readFrom_source {s t : State} {c : BitVec 4} {v : Word} (h : accessSource s c = some (v, t)) : ReadFrom s t := accessSource_after h

theorem ReadFrom.trans {s t u : State} (h : ReadFrom s t) (h' : ReadFrom t u) : ReadFrom s u := by
  rcases h with rfl | ⟨q, rfl⟩
  · exact h'
  · rcases h' with rfl | ⟨r, rfl⟩
    · exact .inr ⟨q, rfl⟩
    · exact .inr ⟨r, updMe_updMe ..⟩

theorem readFrom_two {s t : State} {a b : BitVec 4} {v w : Word} (h : accessTwo s a b = some (v, w, t)) : ReadFrom s t := by
  obtain ⟨u, first, second⟩ := accessTwo_sources h
  exact (readFrom_source first).trans (readFrom_source second)

section

variable {s t : State} (h : ReadFrom s t)

include h

theorem ReadFrom.cur : t.cur = s.cur := by
  rcases h with rfl | ⟨q, rfl⟩ <;> rfl

theorem ReadFrom.host : t.host = s.host := by
  rcases h with rfl | ⟨q, rfl⟩ <;> rfl

theorem ReadFrom.hbm (l : Nat) : (t.ld l).hbm = (s.ld l).hbm := by
  rcases h with rfl | ⟨q, rfl⟩
  · rfl
  · exact updCtx_hbm ..

/-- Of the current context only the queue has changed. -/
theorem ReadFrom.me : ∃ q, t.me = { s.me with st.sq := q } := by
  rcases h with rfl | ⟨q, rfl⟩
  · exact ⟨_, rfl⟩
  · exact ⟨q, me_updMe ..⟩

/-- Of the current core only its contexts have changed, and of them only the current one. -/
theorem ReadFrom.core : ∃ m, here t = { here s with ctxs := m } ∧ ∀ c, c ≠ s.cur.c → (here t).ctx c = (here s).ctx c := by
  rcases h with rfl | ⟨q, rfl⟩
  · exact ⟨_, rfl, fun _ _ => rfl⟩
  · exact ⟨_, here_updMe .., fun c hc => by rw [here_updMe, ctx_updCtx_other _ _ _ _ hc]⟩

theorem ReadFrom.slotFree {n : Nat} (free : SlotFree s n) : SlotFree t n := by
  obtain ⟨q, me⟩ := h.me
  rwa [SlotFree, me]

theorem ReadFrom.clk : (here t).clk = (here s).clk := by
  obtain ⟨m, core, _⟩ := h.core
  rw [core]

theorem ReadFrom.spRead (mode off n : Nat) : (here t).spRead mode off n = (here s).spRead mode off n := by
  obtain ⟨m, core, _⟩ := h.core
  rw [core, spRead_ctxs]

theorem ReadFrom.spBad (mode off n : Nat) : (here t).spBad mode off n = (here s).spBad mode off n := by
  obtain ⟨m, core, _⟩ := h.core
  rw [core]
  rfl

end

end Sys2Proof.Machine

/-! Address arithmetic (R272, R273). -/

namespace Sys2Proof.Machine

open Sys2Proof.Claim

/-- The two-source forms read s before t. -/
theorem addr2_ok {s t : State} {a b : BitVec 4} {v w : Word} (sources : accessTwo s a b = some (v, w, t)) (d : BitVec 4) (f : Word → Word → Word) :
    addr2 d a b f s = .ok ((), withA t d (f v w)) := by
  obtain ⟨u, first, second⟩ := accessTwo_reads sources
  rw [addr2, bind_ok first, bind_ok second]
  rfl

/-- mada reads its destination last. -/
theorem opMada_ok {s t t' : State} {d a b : BitVec 4} {v w u : Word} (sources : accessTwo s a b = some (v, w, t'))
    (sum : accessSource t' d = some (u, t)) : opMada d a b s = .ok ((), withA t d (u + v * w)) := by
  obtain ⟨r, first, second⟩ := accessTwo_reads sources
  rw [opMada, bind_ok first, bind_ok second, bind_ok (readAccess_source sum)]
  rfl

/-- A word that reads one access source and writes a function of it. -/
theorem writeAccess_of_source {s t : State} {a : BitVec 4} {v : Word} (source : accessSource s a = some (v, t)) (d : BitVec 4) (f : Word → Word) :
    (readAccess 1 a >>= fun v => writeAccess d (f v)) s = .ok ((), withA t d (f v)) := bind_ok (readAccess_source source) _

/-- Settles O7: the words of no source and of one, of two, of three, and popq. -/
theorem addressArithmetic : Obligations.AddressArithmetic := by
  intro s t d a b v w u
  refine ⟨fun i => runSlot_ok (opLda d i) s _ rfl, fun source => ?_, fun sources => ?_, fun t' sources sum => runSlot_ok _ s _ (opMada_ok sources sum),
    fun head => runSlot_ok _ s _ (bind_ok (popScalar_ok head 1) _)⟩
  · have word (f : Word → Word) := runSlot_ok _ s _ (writeAccess_of_source source d f)
    refine ⟨fun i => ?_, word fun v => v, fun i => word fun v => v + i.signExtend 64, fun n => ?_⟩
    · rw [← shiftLeft_eq_mul_pow]
      exact word fun v => v + i.signExtend 64 <<< 16
    · rw [← shiftLeft_eq_mul_pow]
      exact word fun v => v <<< n.toNat
  · have word (f : Word → Word → Word) := runSlot_ok _ s _ (addr2_ok sources d f)
    exact ⟨word fun v w => v + w, word fun v w => v - w, word fun v w => v &&& w⟩

end Sys2Proof.Machine

/-! Scratchpad stores (R275, R278, R433) and what an OWN store leaves. -/

namespace Sys2Proof.Machine

open Sys2Proof.Claim

section

variable {s t : State} {b : BitVec 4} {v u : Word} {w : BitVec 3} {x : BitVec 7} {ea : Nat} (sources : accessTwo s b 15#4 = some (v, u, t))
  (hea : ea = eaOf v x.toInt (widthBytes w))

include sources hea

/-- The address is checked between the reads of the base and of the data. -/
theorem opSts_own (ok : LocalOk false ea (widthBytes w) (widthBytes w)) :
    opSts b w 0#1 x s = .ok ((), updHere t fun y => y.spWrite 0 ea (natLe (widthBytes w) u.toNat)) := by
  obtain ⟨r, base, data⟩ := accessTwo_sources sources
  subst hea
  refine (bind_ok (effective_ok base ..) _).trans ((bind_ok (localPlace_ok ok (widthBytes_pos w) r) _).trans ?_)
  exact bind_ok (popScalar_ok data 1) _

theorem opSts_nbr (ok : LocalOk true ea (widthBytes w) (widthBytes w)) (may : NotRestart s) :
    opSts b w 1#1 x s = .ok ((), sentNbr t (ea / 2 ^ 22) {
      src := 0, ctx := 0, sid := 0, kind := 2, off := ea % 2 ^ 22, n := widthBytes w, data := natLe (widthBytes w) u.toNat }) := by
  obtain ⟨r, base, data⟩ := accessTwo_sources sources
  subst hea
  refine (bind_ok (barRestart_ok may 1) _).trans ((bind_ok (effective_ok base ..) _).trans ((bind_ok (localPlace_ok ok (widthBytes_pos w) r) _).trans ?_))
  exact bind_ok (popScalar_ok data 1) _

end

section

variable {s t t' : State} {b : BitVec 4} {v : Word} {z : BitVec 2} {r g : BitVec 1} {x : BitVec 6} {d : VReg} {ea rl : Nat}
  (base : accessSource s b = some (v, t)) (data : vectorHead t = some (d, t')) (hea : ea = eaOf v x.toInt 256) (hrl : rl = rowLength z r)

include base data hea hrl

theorem opStv_own (ok : LocalOk false ea (vecSpan rl (g == 1#1)) 4) :
    opStv b z r 0#1 g x s = .ok ((), updHere t' fun y => y.writeVec z.toNat rl ea (g == 1#1) d) := by
  subst hea hrl
  refine (bind_ok (effective_ok base ..) _).trans ((bind_ok (localPlace_ok ok (vecSpan_pos z r _) t) _).trans ?_)
  exact bind_ok (popVector_ok data 1) _

theorem opStv_nbr (ok : LocalOk true ea (vecSpan rl (g == 1#1)) 4) (may : NotRestart s) :
    opStv b z r 1#1 g x s = .ok ((), sentNbr t' (ea / 2 ^ 22) {
      src := 0, ctx := 0, sid := 0, kind := 3, off := ea % 2 ^ 22, swz := z.toNat, rl := rl, side := g == 1#1,
      data := natLe 256 d.data.toNat ++ natLe 32 d.side.toNat }) := by
  subst hea hrl
  refine (bind_ok (barRestart_ok may 1) _).trans ((bind_ok (effective_ok base ..) _).trans ((bind_ok (localPlace_ok ok (vecSpan_pos z r _) t) _).trans ?_))
  exact bind_ok (popVector_ok data 1) _

end

/-- Settles O9, sts and stv, each with OWN and NBR. -/
theorem scratchpadStores : Obligations.ScratchpadStores :=
  fun s _ _ _ =>
    ⟨fun _ _ _ _ sources hea =>
      ⟨fun ok => runSlot_ok _ s _ (opSts_own sources hea ok), fun ok may => runSlot_ok _ s _ (opSts_nbr sources hea ok may)⟩,
    fun _ _ _ _ _ _ _ _ base data hea hrl =>
      ⟨fun ok => runSlot_ok _ s _ (opStv_own base data hea hrl ok), fun ok may => runSlot_ok _ s _ (opStv_nbr base data hea hrl ok may)⟩⟩

/-! Bytes as they lie in the scratchpad (R49 to R51) -/

theorem length_natLe (n v : Nat) : (natLe n v).length = n := by
  induction n generalizing v with
  | zero => rfl
  | succ n ih => rw [natLe, List.length_cons, ih]

/-- Without a swizzle a byte lies at its offset. -/
theorem bytePlace_plain (off : Nat) : bytePlace 0 off = off := Nat.div_add_mod off 4

theorem spRead_plain (x : Core) (off n : Nat) : x.spRead 0 off n = Mem.bytes x.spad off n := by
  induction n generalizing off with
  | zero => rfl
  | succ n ih => rw [Core.spRead, ih, bytePlace_plain, Mem.bytes]

theorem spWriteBytes_plain (m : Mem) (off : Nat) (bs : List (BitVec 8)) : spWriteBytes m 0 off bs = Mem.setBytes m off bs := by
  induction bs generalizing m off with
  | nil => rfl
  | cons b r ih => rw [spWriteBytes, ih, bytePlace_plain, Mem.setBytes]

theorem spad_spWrite_plain (x : Core) (off : Nat) (bs : List (BitVec 8)) : (x.spWrite 0 off bs).spad = Mem.setBytes x.spad off bs := spWriteBytes_plain ..

/-- Bytes read as they were written. -/
theorem Mem.bytes_setBytes {m : Mem} (wf : m.wf = true) (a : Nat) (bs : List (BitVec 8)) : Mem.bytes (Mem.setBytes m a bs) a bs.length = bs := by
  induction bs generalizing m a with
  | nil => rfl
  | cons b r ih =>
    rw [Mem.setBytes, List.length_cons, Mem.bytes, ih (Mem.wf_set _ _ _ wf), Mem.get_setBytes_outside _ _ _ _ (by omega), Mem.get_set_same _ _ _ wf]

theorem spRead_spWrite_same {x : Core} (wf : x.spad.wf = true) (off n v : Nat) : (x.spWrite 0 off (natLe n v)).spRead 0 off n = natLe n v := by
  have whole := Mem.bytes_setBytes wf off (natLe n v)
  rwa [length_natLe, ← spad_spWrite_plain, ← spRead_plain] at whole

theorem spRead_spWrite_other (x : Core) (off n v : Nat) {a : Nat} (apart : a < off ∨ off + n ≤ a) :
    (x.spWrite 0 off (natLe n v)).spRead 0 a 1 = x.spRead 0 a 1 := by
  rw [spRead_plain, spRead_plain, spad_spWrite_plain, Mem.bytes, Mem.bytes, Mem.get_setBytes_outside _ _ _ _ (by rwa [length_natLe])]
  rfl

/-! A change of the current core -/

theorem core_updHere_other (s : State) (f : Core → Core) {l k : Nat} (other : ¬(l = s.cur.l ∧ k = s.cur.k)) : (updHere s f).core l k = s.core l k := by
  by_cases die : l = s.cur.l
  · rw [die]
    exact score_updCore_otherCore _ _ _ _ _ fun core => other ⟨die, core⟩
  · exact score_updCore_otherLd _ _ _ _ _ _ die

theorem hbm_updHere (s : State) (f : Core → Core) (l : Nat) : ((updHere s f).ld l).hbm = (s.ld l).hbm := updLd_keeps Ld.hbm (by intro; rfl) l

/-- Settles O60: the store is `opSts_own`; what it writes reads as `spRead_spWrite_same` and `spRead_spWrite_other` say, and the reads of its base and
its data leave all but the scalar data queue. -/
theorem storeFrame : Obligations.StoreFrame := by
  intro s t u b w x v d ea sources hea ok run wf
  have stored : u = updHere t fun y => y.spWrite 0 ea (natLe (widthBytes w) d.toNat) :=
    Host.Outcome.next.inj (run.symm.trans (runSlot_ok _ s _ (opSts_own sources hea ok)))
  have reads := readFrom_two sources
  obtain ⟨q, me⟩ := reads.me
  obtain ⟨m, core, others⟩ := reads.core
  have meStored : u.me = t.me := by rw [stored, me_updHere rfl]
  have hereStored : here u = (here t).spWrite 0 ea (natLe (widthBytes w) d.toNat) := by rw [stored, here_updHere]
  refine ⟨?_, fun a apart => ?_, fun l k other => ?_, ?_, ?_, ?_, fun l => ?_, ?_, ?_, fun c hc => ?_, ?_, ?_, ?_, ?_, ?_⟩
  · rw [hereStored, spRead_spWrite_same wf]
  · rw [hereStored, spRead_spWrite_other _ _ _ _ apart]
  · rw [stored]
    exact core_updHere_other _ _ (by rwa [reads.cur])
  · rw [← reads.host, stored]
    rfl
  · rw [meStored, me]
  · rw [meStored, me]
  · rw [stored, hbm_updHere, reads.hbm]
  · rw [meStored, me]
  · rw [meStored, me]
  · rw [← others c hc, hereStored]
    rfl
  all_goals
    rw [hereStored, core]
    rfl

end Sys2Proof.Machine

/-! Atomics of the scratchpad (R57, R281, R282). -/

namespace Sys2Proof.Machine

open Sys2Proof.Claim

/-- A cas pops its new value; every other atomic has none (R281). -/
def CasData (o : BitVec 4) (s : State) (u : Word) (t : State) : Prop := if o = 9#4 then accessSource s 15#4 = some (u, t) else u = 0#64 ∧ t = s

section

variable {o : BitVec 4} {s t : State} {u : Word} (h : CasData o s u t)

include h

theorem readFrom_casData : ReadFrom s t := by
  unfold CasData at h
  split at h
  · exact readFrom_source h
  · exact .inl h.2

theorem casData_run : (if o = 9#4 then popScalar else pure 0#64) s = .ok (u, t) := by
  unfold CasData at h
  split at h
  · rw [if_pos ‹_›, popScalar_ok h]
  · obtain ⟨rfl, rfl⟩ := h
    rw [if_neg ‹_›]
    rfl

end

theorem makePending_run (l : Nat) (y : BitVec 4) (sl : LSlot) (s : State) : makePending l y sl s = .ok ((), s.updMe (pendSlot l y sl)) := rfl

/-- A change of the current core that is made unless a test holds. -/
theorem unless_updCore_run {c : Bool} {p : Prop} [Decidable p] (test : c = true ↔ p) (f : Core → Core) (s : State) :
    (if c then pure () else updCore f) s = .ok ((), if p then s else updHere s f) := by
  by_cases holds : p
  · rw [if_pos (test.2 holds), if_pos holds]
    rfl
  · rw [if_neg (mt test.1 holds), if_neg holds]
    rfl

section

variable {s t t' : State} {d a b o y : BitVec 4} {w h : BitVec 1} {ea v u : Word} {n : Nat} (sources : accessTwo s a b = some (ea, v, t'))
  (data : CasData o t' u t) (hn : n = if w = 1#1 then 8 else 4) (free : SlotFree s (atomSlot d h))

include sources data hn free

theorem opAmos_own {p : BitVec 2} (own : p ≠ 1#2) (ok : LocalOk false ea.toNat n n) :
    let old := leNat ((here s).spRead 0 ea.toNat n)
    let bad := (here s).spBad 0 ea.toNat n
    let pended := t.updMe (pendSlot (atomSlot d h) y { due := (here s).clk + 8, here := true, data := BitVec.ofNat 2048 old, mark := if bad then 0x1C0 else 0 })
    opAmos d a b o w p y h s = .ok ((),
      if bad = true ∨ (o = 9#4 ∧ old ≠ v.toNat % 2 ^ (8 * n)) then pended
      else updHere pended fun z => z.spWrite 0 ea.toNat (natLe n (atomNew o.toNat (8 * n) old (v.toNat % 2 ^ (8 * n)) (u.toNat % 2 ^ (8 * n))))) := by
  obtain ⟨r, first, second⟩ := accessTwo_reads sources
  have reads := (readFrom_two sources).trans (readFrom_casData data)
  have wide : 0 < n := by rw [hn]; split <;> decide
  have place : localPlace (p == 1#2) ea.toNat n n t' = .ok ((t'.cur.k, ea.toNat), t') := by
    rw [beq_false_of_ne own]
    exact localPlace_ok ok wide t'
  dsimp only
  rw [← reads.clk, ← reads.spRead, ← reads.spBad]
  rw [opAmos, ← hn]
  refine (when_bind_ok (when_ok fun nbr => absurd nbr own) _).trans ?_
  refine (bind_ok first _).trans ((bind_ok second _).trans
    ((bind_ok (needSlot_ok ((readFrom_two sources).slotFree free)) _).trans ((bind_ok place _).trans ?_)))
  refine ((ite_bind_ok (casData_run data) _).trans ((bind_ok (getCore_run t) _).trans ((congrFun (if_neg own) t).trans ?_)))
  exact (bind_ok (makePending_run ..) _).trans (unless_updCore_run (by simp [here]) ..)

theorem opAmos_nbr (ok : LocalOk true ea.toNat n n) (may : NotRestart s) :
    opAmos d a b o w 1#2 y h s = .ok ((), sentNbr (t.updMe (pendSlot (atomSlot d h) y { due := (here s).clk + 23 })) (ea.toNat / 2 ^ 22) {
      src := 0, ctx := 0, sid := 0, kind := 4, off := ea.toNat % 2 ^ 22, n := n, opn := o.toNat, v := v, w := u, slot := atomSlot d h }) := by
  obtain ⟨r, first, second⟩ := accessTwo_reads sources
  have reads := (readFrom_two sources).trans (readFrom_casData data)
  have wide : 0 < n := by rw [hn]; split <;> decide
  rw [← reads.clk]
  rw [opAmos, ← hn]
  refine (when_bind_ok (when_ok fun _ => barRestart_ok may 1) _).trans ?_
  refine (bind_ok first _).trans ((bind_ok second _).trans
    ((bind_ok (needSlot_ok ((readFrom_two sources).slotFree free)) _).trans ((bind_ok (localPlace_ok ok wide t') _).trans ?_)))
  refine ((ite_bind_ok (casData_run data) _).trans ((bind_ok (getCore_run t) _).trans ?_))
  rfl

end

/-- Settles O10, an amos of the core's own bank and one of another's. -/
theorem scratchpadAtomics : Obligations.ScratchpadAtomics := by
  intro s t t' d a b o y w h ea v u n sources data hn free
  exact ⟨fun p _ own ok => runSlot_ok _ s _ (opAmos_own sources data hn free own ok),
    fun _ ok may => runSlot_ok _ s _ (opAmos_nbr sources data hn free ok may)⟩

end Sys2Proof.Machine

/-! Global loads and atomics (R275, R276, R281, R415). -/

namespace Sys2Proof.Machine

open Sys2Proof.Claim

/-- A load's or atomic's requests go to the homes of its pieces; where the fabric has lost a piece the slot is marked instead (R415). -/
theorem sendHome_run (l : Nat) (y : BitVec 4) (qs : List (Phys × Nat)) (r : HomeReq) (s : State) : sendHome l y qs r s = .ok ((), queuedHome l y qs r s) := by
  rw [sendHome, bind_ok (getS_run s), queuedHome]
  cases qs.findSome? fun e => e.1.lost with
  | some cause => rfl
  | none =>
    refine (bind_ok (makePending_run ..) _).trans ((bind_ok (updMe_run ..) _).trans ?_)
    rw [updMe_updMe]
    rfl

section

variable {s t t' : State} {b y : BitVec 4} {p : BitVec 2} {qs : List (Phys × Nat)} {l : BitVec 5} {x : BitVec 6} {v : Word} {ea : Nat}
  (source : accessSource s b = some (v, t)) (free : SlotFree s l.toNat)

include source free

theorem opLdg_ok {w : BitVec 3} (hea : ea = eaOf v x.toInt (widthBytes w)) (ok : GlobalOk p.toNat ea (widthBytes w))
    (reach : Reach t p.toNat 1 ea [(ea, widthBytes w)] qs t') :
    opLdg l b y w p x s = .ok ((), queuedHome l.toNat y qs { blankReq with sx := widthSigned w } t') := by
  subst hea
  rw [opLdg, bind_ok (effective_ok source ..), bind_ok (needSlot_ok ((readFrom_source source).slotFree free)), bind_ok (globalForm_ok ok ..), bind_ok reach]
  exact sendHome_run ..

theorem opLdvg_ok {g : BitVec 1} (hea : ea = eaOf v x.toInt 256) (ok : GlobalOk p.toNat ea 32)
    (reach : Reach t p.toNat 1 ea (pagePieces p.toNat ea (if g = 1#1 then 288 else 256)) qs t') :
    opLdvg l b y g p x s = .ok ((), queuedHome l.toNat y qs { blankReq with vec := true } t') := by
  subst hea
  rw [opLdvg, bind_ok (effective_ok source ..), bind_ok (needSlot_ok ((readFrom_source source).slotFree free)), bind_ok (globalForm_ok ok ..), bind_ok reach]
  exact sendHome_run ..

end

/-- The data of a cas is popped once its address has translated. -/
theorem opAmog_ok {s t t' u' : State} {d a b o y : BitVec 4} {w h : BitVec 1} {p : BitVec 2} {ea v u : Word} {qs : List (Phys × Nat)}
    (sources : accessTwo s a b = some (ea, v, t)) (may : NotRestart s) (free : SlotFree s (atomSlot d h))
    (ok : GlobalOk p.toNat ea.toNat (if w = 1#1 then 8 else 4)) (reach : Reach t p.toNat 3 ea.toNat [(ea.toNat, if w = 1#1 then 8 else 4)] qs t')
    (data : CasData o t' u u') :
    opAmog d a b o w p y h s = .ok ((), queuedHome (atomSlot d h) y qs { blankReq with atom := some o.toNat, v := v, w := u } u') := by
  obtain ⟨r, first, second⟩ := accessTwo_reads sources
  rw [opAmog, bind_ok (barRestart_ok may 1), bind_ok first, bind_ok second, bind_ok (needSlot_ok ((readFrom_two sources).slotFree free)),
    bind_ok (globalForm_ok ok ..), bind_ok reach]
  exact (ite_bind_ok (casData_run data) _).trans (sendHome_run ..)

/-- Settles O11: ldg, ldvg and amog. -/
theorem globalLoads : Obligations.GlobalLoads := by
  intro s t t' b y p qs
  exact ⟨fun l w x v ea source free hea ok reach => runSlot_ok _ s _ (opLdg_ok source free hea ok reach),
    fun l g x v ea source free hea ok reach => runSlot_ok _ s _ (opLdvg_ok source free hea ok reach),
    fun d a o w h ea v u t2 sources may free ok reach data => runSlot_ok _ s _ (opAmog_ok sources may free ok reach data)⟩

end Sys2Proof.Machine

/-! Vectors as lists of elements (R226, R299): what an element of a packed vector is, and vectors built element by element. -/

namespace Sys2Proof.Machine

open Sys2Proof.Claim

theorem bits_eq (v lo n : Nat) : bits v lo n = v / 2 ^ lo % 2 ^ n := by rw [bits, Nat.shiftRight_eq_div_pow]

theorem elems_eq (w : Nat) (v : VReg) : elems w v.data.toNat = (List.range (2048 / w)).map (elemOf w v) :=
  List.map_congr_left fun _ _ => bits_eq ..

theorem length_elems (w v : Nat) : (elems w v).length = 2048 / w := by rw [elems, List.length_map, List.length_range]

/-- An element of a packed vector is the number that was packed there, within its width. -/
theorem packNat_elem {w e : Nat} {xs : List Nat} (inside : e < xs.length) : packNat w xs / 2 ^ (w * e) % 2 ^ w = xs[e] % 2 ^ w := by
  induction xs generalizing e with
  | nil => exact absurd inside (Nat.not_lt_zero e)
  | cons x r ih =>
    rw [packNat]
    cases e with
    | zero => rw [Nat.mul_zero, pow_zero, Nat.div_one, Nat.add_mul_mod_self_left, Nat.mod_mod, List.getElem_cons_zero]
    | succ e =>
      have low : x % 2 ^ w < 2 ^ w := Nat.mod_lt _ (Nat.two_pow_pos w)
      rw [Nat.mul_succ, Nat.add_comm (w * e), pow_add, ← Nat.div_div_eq_div_mul, Nat.add_mul_div_left _ _ (Nat.two_pow_pos w), Nat.div_eq_of_lt low,
        Nat.zero_add, ih (Nat.lt_of_succ_lt_succ inside), List.getElem_cons_succ]

/-- A packed vector fills as many bits as its elements. -/
theorem packNat_lt (w : Nat) (xs : List Nat) : packNat w xs < 2 ^ (w * xs.length) := by
  induction xs with
  | nil => exact Nat.one_pos
  | cons x r ih =>
    have low : x % 2 ^ w < 2 ^ w := Nat.mod_lt _ (Nat.two_pow_pos w)
    rw [packNat, List.length_cons, Nat.mul_succ, Nat.add_comm (w * r.length), pow_add]
    calc x % 2 ^ w + 2 ^ w * packNat w r < 2 ^ w * (packNat w r + 1) := by rw [Nat.mul_succ]; omega
      _ ≤ 2 ^ w * 2 ^ (w * r.length) := Nat.mul_le_mul_left _ ih

/-- Lists of one length are those that a function of the place gives. -/
theorem eq_map_range {α : Type} {n : Nat} {xs : List α} {g : Nat → α} (length : xs.length = n) (each : ∀ e (h : e < xs.length), xs[e] = g e) :
    xs = (List.range n).map g := by
  refine List.ext_getElem (by rw [length, List.length_map, List.length_range]) fun e h _ => ?_
  rw [each e h, List.getElem_map, List.getElem_range]

theorem getD_map_range {α : Type} {n e : Nat} (inside : e < n) (g : Nat → α) (d : α) : ((List.range n).map g).getD e d = g e := by
  rw [List.getD_eq_getElem _ _ (by simpa using inside), List.getElem_map, List.getElem_range]

theorem zip_map_range {α β : Type} (n : Nat) (g : Nat → α) (h : Nat → β) :
    ((List.range n).map g).zip ((List.range n).map h) = (List.range n).map fun e => (g e, h e) := List.zip_map'

/-- Formats' widths are 32, 16, 8 or 4 bits (R219). -/
theorem fw_cases (f : Nat) : fw f = 32 ∨ fw f = 16 ∨ fw f = 8 ∨ fw f = 4 := by
  unfold fw
  split <;> simp

theorem fw_pos (f : Nat) : 0 < fw f := by rcases fw_cases f with h | h | h | h <;> omega

end Sys2Proof.Machine

/-! Integer lanes (R224, R232, R306). -/

namespace Sys2Proof.Machine

open Sys2Proof.Claim

/-- The integer that an element of a format stands for (R224). -/
def lane (f : Nat) (v : VReg) (e : Nat) : Int := if isSigned f then sext (elemOf (fw f) v e) (fw f) else (elemOf (fw f) v e : Int)

theorem ints_eq (f : Nat) (v : VReg) : ints f v.data.toNat = (List.range (2048 / fw f)).map (lane f v) := by
  rw [ints, elems_eq, List.map_map]
  rfl

theorem wrap_emod (w : Nat) (x : Int) : ((wrap w x : Nat) : Int) % ((2 ^ w : Nat) : Int) = x % ((2 ^ w : Nat) : Int) := by
  rw [wrap, Int.toNat_of_nonneg (Int.emod_nonneg x (by positivity)), Int.emod_emod_of_dvd x dvd_rfl]

/-- The range of an integer format (R219). -/
def least (f : Nat) : Int := if isSigned f then -2 ^ (fw f - 1) else 0
def greatest (f : Nat) : Int := if isSigned f then 2 ^ (fw f - 1) - 1 else 2 ^ fw f - 1

/-- A clamped integer's code wraps the nearest integer of the range (R232). -/
theorem satInt_code (f : Nat) (x : Int) :
    (satInt f x).code = wrap (fw f) (if x < least f then least f else if greatest f < x then greatest f else x) := by
  have lo : (if isSigned f = true then -((2 ^ (fw f - 1) : Nat) : Int) else 0) = least f := by simp [least]
  have hi : (if isSigned f = true then ((2 ^ (fw f - 1) : Nat) : Int) - 1 else ((2 ^ fw f : Nat) : Int) - 1) = greatest f := by simp [greatest]
  simp only [satInt, lo, hi]
  split
  · rfl
  · split <;> rfl

/-- The integer lanes of a two-source form: what each holds. -/
theorem lane3_int {f : Nat} (isInt_ : isInt f = true) (m : Nat) (z : Bool) (gF : FV → FV → FV → FV) (gI : Int → Int → Int → Int) (va vb : VReg) :
    lane3 f m z gF gI (va.data.toNat, va.side.toNat) (vb.data.toNat, vb.side.toNat) (vb.data.toNat, vb.side.toNat) =
      packOuts f ((List.range (2048 / fw f)).map fun e =>
        if z then satInt f (gI (lane f va e) (lane f vb e) (lane f vb e)) else { code := wrap (fw f) (gI (lane f va e) (lane f vb e) (lane f vb e)) }) := by
  rw [lane3, if_pos isInt_]
  dsimp only
  rw [ints_eq, ints_eq, zip_map_range, zip_map_range, List.map_map]
  rfl

/-- Settles O17: the lanes by `lane3_int`, an element of the packed result by `packNat_elem`. -/
theorem integerLanes : Obligations.IntegerLanes := by
  intro f m e z va vb isInt_ inside x lo hi o
  have result : o = packOuts f ((List.range (2048 / fw f)).map fun e =>
      if z then satInt f (lane f va e + lane f vb e) else { code := wrap (fw f) (lane f va e + lane f vb e) }) := lane3_int isInt_ ..
  refine ⟨?_, by rw [result]; rfl⟩
  have element : o.data / 2 ^ (fw f * e) % 2 ^ fw f =
      (if z then satInt f (lane f va e + lane f vb e) else { code := wrap (fw f) (lane f va e + lane f vb e) }).code % 2 ^ fw f := by
    rw [result, packOuts, packNat_elem (by simpa using inside), List.getElem_map, List.getElem_map, List.getElem_range]
  rw [element, Int.natCast_mod]
  have wraps (y : Int) : ((wrap (fw f) y : Nat) : Int) % ((2 ^ fw f : Nat) : Int) = y % 2 ^ fw f := by rw [wrap_emod, Nat.cast_pow, Nat.cast_ofNat]
  cases z with
  | true => exact (congrArg (fun c : Nat => (c : Int) % ((2 ^ fw f : Nat) : Int)) (satInt_code f _)).trans (wraps _)
  | false => exact wraps _

end Sys2Proof.Machine

/-! The vector words of the V slot that send a result of the lanes (R302, R306 to R315, R318 to R321). -/

namespace Sys2Proof.Machine

open Sys2Proof.Claim

/-- An expandable operand is expanded (R88, R302). -/
theorem expanded_ok {s : State} {f x : BitVec 4} {suits : Bank → Bool} {v : VReg} {f' data side more : Nat} (h : Expands s f x suits v f' data side more)
    (kinds : ∀ b, suits b = true → b.kind = 1 ∨ b.kind = 2) : expanded f x suits v s = .ok ((f', data, side, more), s) := by
  by_cases plain : f ≠ 15#4
  · obtain ⟨rfl, rfl, rfl, rfl⟩ := (if_pos plain).mp h
    rw [expanded, if_pos plain]
    rfl
  · obtain ⟨suited, clean, readable, rfl, rfl, rfl, rfl⟩ := (if_neg plain).mp h
    rw [← here] at suited clean readable ⊢
    rw [expanded, if_neg plain, bind_ok (useBank_ok clean 4), bind_ok (check_ok suited ..)]
    rcases kinds _ suited with kind | kind
    · rw [if_pos kind] at readable
      rw [bind_ok (expandVector_scalar kind readable 4 _ s), if_pos kind, if_pos kind]
      rfl
    · have other : ((here s).banks.getD (x.toNat / 4) {}).kind ≠ 1 := by omega
      rw [if_neg other] at readable
      rw [bind_ok (expandVector_short other readable 4 _ s), if_neg other, if_neg other]
      rfl

theorem kind_of_forCvt (b : Bank) (h : b.forCvt = true) : b.kind = 1 ∨ b.kind = 2 := by simpa [Bank.forCvt] using h
theorem kind_of_forArith (b : Bank) (h : b.forArith = true) : b.kind = 1 ∨ b.kind = 2 := by
  obtain ⟨⟨suits, -⟩, -⟩ : (b.forCvt = true ∧ b.elem ≠ 3) ∧ b.elem ≠ 4 := by simpa [Bank.forArith] using h
  exact kind_of_forCvt b suits
theorem kind_of_forFloat (b : Bank) (h : b.forFloat = true) : b.kind = 1 ∨ b.kind = 2 := by
  obtain ⟨suits, -⟩ : b.forCvt = true ∧ b.elem ≤ 2 := by simpa [Bank.forFloat] using h
  exact kind_of_forCvt b suits

/-- RMODE without poison is read (R229, R437). -/
theorem getRm_ok {s : State} (clean : RmodeOk s) (slot : Nat) : getRm slot s = .ok (s.me.sys.rmode.toNat, s) := by
  have free : s.me.sys.poison.has 7 = false := clean
  rw [getRm, bind_ok (getMe_run s), bind_ok (check_ok (by rw [free]; rfl) ..)]
  rfl

section

variable {s : State} {a b f x : BitVec 4} {va vb : VReg} {f' bd bs more : Nat} (ha : VectorIs s a va)

include ha

/-- vabs and vneg send the lanes of their operand, expanded (R308). -/
theorem unaryV_ok (operand : Expands s f x Bank.forArith va f' bd bs more) (d : BitVec 4) (z : BitVec 1) (gF : FV → FV) (gI : Int → Int) :
    runSlot (unaryV d a z f x gF gI) s = .next (sentV s d (2 + more)
      (lane3 f' 0 (z == 1#1) (fun p _ _ => gF p) (fun p _ _ => gI p) (bd, bs) (bd, bs) (bd, bs))) := by
  refine runSlot_ok _ s _ ?_
  rw [unaryV, bind_ok (readVector_is ha 4), bind_ok (expanded_ok operand kind_of_forArith)]
  exact sendVector_ok ..

variable (hb : VectorIs s b vb)

include hb

variable (clean : RmodeOk s) (operand : Expands s f x Bank.forArith vb f' bd bs more)

include clean operand

/-- A lane form of two sources sends what its function gives (R306, R307, R309). -/
theorem lane2_ok (lat : Nat) (d : BitVec 4) (g : Nat → Nat → Nat × Nat → Nat × Nat → VOut) :
    runSlot (lane2 lat d a b f x g) s = .next (sentV s d (lat + more) (g f' s.me.sys.rmode.toNat (va.data.toNat, va.side.toNat) (bd, bs))) := by
  refine runSlot_ok _ s _ ?_
  rw [lane2, bind_ok (readVector_is ha 4), bind_ok (readVector_is hb 4), bind_ok (expanded_ok operand kind_of_forArith)]
  exact (bind_ok (getRm_ok clean 4) _).trans (sendVector_ok ..)

/-- A fused lane form sends the lanes of its three sources (R306). -/
theorem fusedV_ok {c : BitVec 4} {vc : VReg} (hc : VectorIs s c vc) (neg : Bool) (d : BitVec 4) :
    runSlot (fusedV neg d a b c f x) s = .next (sentV s d (4 + more) (lane3 f' s.me.sys.rmode.toNat false
      (fun p q r => (p.mul q).add (if neg then r.neg else r) (s.me.sys.rmode.toNat == 2)) (fun p q r => if neg then p * q - r else p * q + r)
      (va.data.toNat, va.side.toNat) (bd, bs) (vc.data.toNat, vc.side.toNat))) := by
  refine runSlot_ok _ s _ ?_
  rw [fusedV, bind_ok (readVector_is ha 4), bind_ok (readVector_is hb 4), bind_ok (readVector_is hc 4),
    bind_ok (expanded_ok operand kind_of_forArith)]
  exact (bind_ok (getRm_ok clean 4) _).trans (sendVector_ok ..)

end

/-- Settles O16, word by word: each is a lane form of one, two or three sources with its function. -/
theorem laneArithmetic : Obligations.LaneArithmetic := by
  intro s d a b f x va vb f' bd bs more ha hb clean operand
  have word (lat : Nat) (g) := lane2_ok ha hb clean operand lat d g
  exact ⟨fun _ => word 4 _, fun _ => word 4 _, fun _ => word 4 _,
    fun _ _ hc => ⟨fusedV_ok ha hb clean operand hc false d, fusedV_ok ha hb clean operand hc true d⟩, word 2 _, word 2 _, fun _ => word 2 _,
    fun single z => ⟨unaryV_ok ha single d z _ _, unaryV_ok ha single d z _ _⟩⟩

/-! Selection, logic, shifts (R310 to R312) -/

theorem zip_elems (w : Nat) (va vb : VReg) :
    (elems w va.data.toNat).zip (elems w vb.data.toNat) = (List.range (2048 / w)).map fun e => (elemOf w va e, elemOf w vb e) := by
  rw [elems_eq, elems_eq, zip_map_range]

theorem opVsel_ok {s : State} {a b c : BitVec 4} {va vb vm : VReg} (ha : VectorIs s a va) (hb : VectorIs s b vb) (hm : VectorIs s c vm)
    (d f : BitVec 4) : opVsel d a b c f s = .ok ((), sentV s d 2 (built (fw f.toNat) fun e =>
      if elemOf (fw f.toNat) vm e ≠ 0 then elemOf (fw f.toNat) va e else elemOf (fw f.toNat) vb e)) := by
  rw [opVsel, bind_ok (readVector_is ha 4), bind_ok (readVector_is hb 4), bind_ok (readVector_is hm 4)]
  rw [zip_elems, elems_eq, zip_map_range, List.map_map]
  exact sendVector_ok ..

/-- Settles O18: `opVsel_ok`; a vector built of elements has a side word of zero by definition. -/
theorem vectorSelect : Obligations.VectorSelect :=
  fun s d _ _ _ f _ _ _ ha hb hm => ⟨runSlot_ok _ s _ (opVsel_ok ha hb hm d f), rfl⟩

section

variable {s : State} {a b : BitVec 4} {va vb : VReg} (ha : VectorIs s a va) (hb : VectorIs s b vb)

include ha hb

theorem logicV_ok (d : BitVec 4) (g : {n : Nat} → BitVec n → BitVec n → BitVec n) :
    runSlot (logicV d a b g) s = .next (sentV s d 2 { data := (g va.data vb.data).toNat, side := (g va.side vb.side).toNat }) := by
  refine runSlot_ok _ s _ ?_
  rw [logicV, bind_ok (readVector_is ha 4), bind_ok (readVector_is hb 4)]
  exact sendVector_ok ..

theorem shiftV_ok {f : BitVec 4} {w : Nat} (hw : w = fw f.toNat) (d : BitVec 4) {g : Nat → Nat → Nat → Nat} {h : Nat → Nat}
    (each : ∀ e, g w (elemOf w va e) (elemOf w vb e) = h e) : runSlot (shiftV d a b f g) s = .next (sentV s d 2 (built w h)) := by
  subst hw
  obtain rfl : (fun e => g (fw f.toNat) (elemOf (fw f.toNat) va e) (elemOf (fw f.toNat) vb e)) = h := funext each
  refine runSlot_ok _ s _ ?_
  rw [shiftV, bind_ok (readVector_is ha 4), bind_ok (readVector_is hb 4)]
  rw [zip_elems, List.map_map]
  exact sendVector_ok ..

/-- A rearrangement sends the elements that its function lists. -/
theorem moveV_ok {f : BitVec 4} {w : Nat} (hw : w = fw f.toNat) (d : BitVec 4) {g : List Nat → List Nat → List Nat} {h : Nat → Nat}
    (each : g ((List.range (2048 / w)).map (elemOf w va)) ((List.range (2048 / w)).map (elemOf w vb)) = (List.range (2048 / w)).map h) :
    runSlot (moveV d a b f g) s = .next (sentV s d 2 (built w h)) := by
  subst hw
  refine runSlot_ok _ s _ ?_
  rw [moveV, bind_ok (readVector_is ha 4), bind_ok (readVector_is hb 4)]
  rw [elems_eq, elems_eq, each]
  exact sendVector_ok s d 2 (built (fw f.toNat) h)

end

/-- Settles O19: the bitwise words by `logicV_ok`, the shifts by `shiftV_ok`, whose factors are powers of two. -/
theorem logicAndShifts : Obligations.LogicAndShifts := by
  intro s d a b va vb ha hb
  have bitwise (g : {n : Nat} → BitVec n → BitVec n → BitVec n) := logicV_ok ha hb d g
  refine ⟨bitwise fun p q => p &&& q, bitwise fun p q => p ||| q, bitwise fun p q => p ^^^ q, logicV_ok ha ha d fun p _ => ~~~p, fun f w hw => ?_⟩
  exact ⟨shiftV_ok ha hb hw d fun e => if_congr Iff.rfl rfl (Nat.shiftLeft_eq ..),
    shiftV_ok ha hb hw d fun e => if_congr Iff.rfl rfl (Nat.shiftRight_eq_div_pow ..),
    shiftV_ok ha hb hw d fun e => congrArg (wrap w) (Int.shiftRight_eq_div_pow ..)⟩

end Sys2Proof.Machine

/-! Conversions, reduction and the transcendentals (R313 to R315, R318, R321). -/

namespace Sys2Proof.Machine

open Sys2Proof.Claim

section

variable {s : State} {a f x : BitVec 4} {va : VReg} {f' ad sd more : Nat} (ha : VectorIs s a va)

include ha

/-- vqnt sends its operand quantised, with scales of its own or given ones (R314). -/
theorem opVqnt_ok (operand : Expands s f x Bank.forFloat va f' ad sd more) (d c : BitVec 4) {w : BitVec 4} {given : Option Nat}
    (scales : if w = 0#4 then given = none else ∃ vw, VectorIs s w vw ∧ given = some vw.side.toNat) :
    opVqnt d a w c f x s = .ok ((), sentV s d (6 + more) (quantise c.toNat given (values f' ad sd))) := by
  have sends := (bind_ok (expanded_ok operand kind_of_forFloat) fun e => sendV d (6 + e.2.2.2) (quantise c.toNat given (values e.1 e.2.1 e.2.2.1))).trans
    (sendVector_ok s d (6 + more) (quantise c.toNat given (values f' ad sd)))
  rw [opVqnt, bind_ok (readVector_is ha 4)]
  split at scales <;> rename_i own
  · subst scales
    rw [if_pos own]
    exact sends
  · obtain ⟨vw, hw, rfl⟩ := scales
    rw [if_neg own, bind_ok (readVector_is hw 4)]
    exact sends

variable (clean : RmodeOk s)

include clean

theorem opVcvt_ok (operand : Expands s f x Bank.forCvt va f' ad sd more) (d : BitVec 4) {p : BitVec 3} {c : BitVec 4}
    (part : if countOf c.toNat ≤ countOf f' then p.toNat < countOf f' / countOf c.toNat else p = 0#3) :
    opVcvt d a p c f x s = .ok ((), sentV s d (3 + more)
      { packOuts c.toNat (convertPart f' c.toNat s.me.sys.rmode.toNat p.toNat (values f' ad sd)) with side := cvtSide c.toNat }) := by
  have legal : (if countOf c.toNat ≤ countOf f' then decide (p.toNat < countOf f' / countOf c.toNat) else p == 0#3) = true := by
    split at part <;> rename_i narrow <;> simpa [narrow] using part
  rw [opVcvt, bind_ok (readVector_is ha 4), bind_ok (expanded_ok operand kind_of_forCvt)]
  refine (bind_ok (check_ok legal ..) _).trans ((bind_ok (getRm_ok clean 4) _).trans ?_)
  exact sendVector_ok s d (3 + more) { packOuts c.toNat (convertPart f' c.toNat s.me.sys.rmode.toNat p.toNat (values f' ad sd)) with side := cvtSide c.toNat }

theorem opVdqt_ok (d : BitVec 4) (p : BitVec 3) (c : BitVec 4) : opVdqt d a p c f s = .ok ((), sentV s d 4
    (packOuts c.toNat (convertPart f.toNat c.toNat s.me.sys.rmode.toNat p.toNat (values f.toNat va.data.toNat va.side.toNat)))) := by
  rw [opVdqt, bind_ok (readVector_is ha 4), bind_ok (getRm_ok clean 4)]
  exact sendVector_ok ..

/-- vred sends the root of the reduction tree (R238, R318). -/
theorem opVred_ok (operand : Expands s f x Bank.forArith va f' ad sd more) (d : BitVec 4) {b : BitVec 4} {o : BitVec 2}
    (legal : vredDest o.toNat f' b.toNat = true) {ps : List Out} (hps : ps = (values f' ad sd).map (convert f' b.toNat s.me.sys.rmode.toNat)) {r : Out}
    (hr : r = redTree o.toNat b.toNat s.me.sys.rmode.toNat (Nat.log2 (countOf f')) (ps.map (·.code)) (ps.foldl (fun a q => a ||| q.fl) 0)) :
    opVred d a b o f x s = .ok ((), sentV s d (6 + more) { data := r.code, fl := r.fl }) := by
  subst hr hps
  rw [opVred, bind_ok (readVector_is ha 4), bind_ok (expanded_ok operand kind_of_forArith)]
  refine (bind_ok (check_ok legal ..) _).trans ((bind_ok (getRm_ok clean 4) _).trans ?_)
  exact sendVector_ok s d (6 + more) { data := _, fl := _ }

/-- The transcendental words send one function of every element (R321). -/
theorem transV_ok (operand : Expands s f x Bank.forFloat va f' ad sd more) (fn : Nat) (d : BitVec 4) :
    runSlot (transV fn d a f x) s = .next (sentV s d (8 + more) (packOuts f' ((values f' ad sd).map (transcend fn f' s.me.sys.rmode.toNat)))) := by
  refine runSlot_ok _ s _ ?_
  rw [transV, bind_ok (readVector_is ha 4), bind_ok (expanded_ok operand kind_of_forFloat)]
  exact (bind_ok (getRm_ok clean 4) _).trans (sendVector_ok ..)

end

/-- Settles O20, word by word. -/
theorem conversions : Obligations.Conversions := by
  intro s d a f x va f' ad sd more ha clean
  refine ⟨fun operand p c part => runSlot_ok _ s _ (opVcvt_ok ha clean operand d part), fun operand => ⟨fun c => ?_, fun w c vw other hw => ?_, ?_⟩,
    fun p c => runSlot_ok _ s _ (opVdqt_ok ha clean d p c), fun operand b o legal => runSlot_ok _ s _ (opVred_ok ha clean operand d legal rfl rfl)⟩
  · exact runSlot_ok _ s _ (opVqnt_ok ha operand d c rfl)
  · exact runSlot_ok _ s _ (opVqnt_ok ha operand d c ((if_neg other).mpr ⟨vw, hw, rfl⟩))
  · exact ⟨transV_ok ha clean operand 0 d, transV_ok ha clean operand 1 d, transV_ok ha clean operand 2 d, transV_ok ha clean operand 3 d⟩

end Sys2Proof.Machine

/-! Words that rearrange elements (R319, R320). -/

namespace Sys2Proof.Machine

open Sys2Proof.Claim

theorem replicate_eq_map_range {α : Type} (n : Nat) (x : α) : List.replicate n x = (List.range n).map fun _ => x := by
  rw [List.map_const', List.length_range]

/-- Two interleaved lists: the even places take from one, the odd ones from the other. -/
theorem flatMap_pair_range {α : Type} (n : Nat) (p q : Nat → α) :
    ((List.range n).flatMap fun e => [p e, q e]) = (List.range (2 * n)).map fun e => if e % 2 = 0 then p (e / 2) else q (e / 2) := by
  induction n with
  | zero => rfl
  | succ n ih =>
    have odd : (2 * n + 1) % 2 = 1 ∧ (2 * n + 1) / 2 = n := by omega
    rw [List.range_succ, List.flatMap_append, ih, Nat.mul_succ, List.range_succ, List.range_succ, List.map_append, List.map_append, List.append_assoc]
    simp [odd]

/-- Two lists one behind the other. -/
theorem append_map_range {α : Type} (n : Nat) (p q : Nat → α) :
    (List.range n).map p ++ (List.range n).map q = (List.range (2 * n)).map fun e => if e < n then p e else q (e - n) := by
  refine eq_map_range (by simp; omega) fun e h => ?_
  rw [List.length_append, List.length_map, List.length_map, List.length_range] at h
  rw [List.getElem_append]
  simp only [List.length_map, List.length_range, List.getElem_map, List.getElem_range, dite_eq_ite]

/-- The elements of a vector are an even number (R219, R299). -/
theorem elements_even (f : Nat) : 2 * (2048 / fw f / 2) = 2048 / fw f := by
  rcases fw_cases f with h | h | h | h <;> rw [h]

/-- A number above the bits of another joins it by addition. -/
theorem or_high_part {k l : Nat} (low : l < 2 ^ k) (c : Prop) [Decidable c] (u : Nat) :
    l ||| (if c then u <<< k else 0) = l + if c then 2 ^ k * u else 0 := by
  split
  · rw [Nat.or_comm, ← Nat.shiftLeft_add_eq_or_of_lt low, Nat.shiftLeft_eq, Nat.mul_comm, Nat.add_comm]
  · rw [Nat.or_zero, Nat.add_zero]

/-- Units moved towards place 0, or away from it, with zeros coming in (R320). -/
theorem slideUnits_map (up : Bool) (k n : Nat) (g : Nat → Nat) : slideUnits up k ((List.range n).map g) =
    (List.range n).map fun e => if up then (if k ≤ e then g (e - k) else 0) else if e + k < n then g (e + k) else 0 := by
  rw [slideUnits, List.length_map, List.length_range]
  refine List.map_congr_left fun e mem => ?_
  have inside : e < n := List.mem_range.mp mem
  refine if_congr Iff.rfl (if_congr Iff.rfl (getD_map_range (by omega) g 0) rfl) ?_
  split
  · exact getD_map_range ‹_› g 0
  · exact List.getD_eq_default _ _ (by simpa using ‹¬e + k < n›)

section

variable {s : State} {a b : BitVec 4} {va vb : VReg} (ha : VectorIs s a va)

include ha

theorem opVbcast_ok {f : BitVec 4} {w : Nat} (hw : w = fw f.toNat) (d : BitVec 4) (k : BitVec 8) :
    opVbcast d a k f s = .ok ((), sentV s d 2 (built w fun _ => elemOf w va k.toNat)) := by
  subst hw
  rw [opVbcast, bind_ok (readVector_is ha 4), bits_eq, replicate_eq_map_range]
  exact sendVector_ok s d 2 (built (fw f.toNat) fun _ => elemOf (fw f.toNat) va k.toNat)

variable (hb : VectorIs s b vb)

include hb

/-- vslide over elements: its side word is zero. -/
theorem opVslide_elements {f : BitVec 4} (plain : f ≠ 3#4 ∧ f ≠ 4#4 ∧ f ≠ 11#4 ∧ f ≠ 12#4) {w k : Nat} (hw : w = fw f.toNat)
    (hk : k = vb.data.toNat % 2 ^ 32) (d : BitVec 4) (r : BitVec 1) : opVslide d a b r f s = .ok ((), sentV s d 2 (built w fun e =>
      if r == 1#1 then (if k ≤ e then elemOf w va (e - k) else 0) else if e + k < 2048 / w then elemOf w va (e + k) else 0)) := by
  subst hw hk
  have blocky : (f == 3#4 || f == 4#4 || f == 11#4 || f == 12#4) = false := by simpa [and_assoc] using plain
  rw [opVslide, bind_ok (readVector_is ha 4), bind_ok (readVector_is hb 4)]
  dsimp only
  rw [blocky, if_neg Bool.false_ne_true, if_pos (by rfl), elems_eq, slideUnits_map, bits_eq, pow_zero, Nat.div_one]
  exact sendVector_ok ..

/-- vslide over blocks moves each block's scale, and for format 12 its special, with it. -/
theorem opVslide_blocks {f : BitVec 4} (blocks : f = 3#4 ∨ f = 4#4 ∨ f = 11#4 ∨ f = 12#4) {w k u : Nat} (hw : w = fw f.toNat)
    (hk : k = vb.data.toNat % 2 ^ 32) (hu : u = 2048 / (32 * w)) {slid : (Nat → Nat) → Nat → Nat} {up : BitVec 1}
    (hslid : slid = fun g e => if up == 1#1 then (if k ≤ e then g (e - k) else 0) else if e + k < u then g (e + k) else 0) (d : BitVec 4) :
    opVslide d a b up f s = .ok ((), sentV s d 2 { built (32 * w) (slid (elemOf (32 * w) va)) with
      side := packNat 8 ((List.range u).map (slid fun e => va.side.toNat / 2 ^ (8 * e) % 256)) +
        (if f = 12#4 then 2 ^ 128 * packNat 8 ((List.range u).map (slid fun e => va.side.toNat / 2 ^ (128 + 8 * e) % 256)) else 0) }) := by
  have blocky : (f == 3#4 || f == 4#4 || f == 11#4 || f == 12#4) = true := by simpa [or_assoc] using blocks
  have few : u ≤ 16 := by rcases fw_cases f.toNat with h | h | h | h <;> rw [hu, hw, h] <;> decide
  have bytes (lo : Nat) : (fun e => bits va.side.toNat (lo + 8 * e) 8) = fun e => va.side.toNat / 2 ^ (lo + 8 * e) % 256 := funext fun _ => bits_eq ..
  have slide (g : Nat → Nat) : slideUnits (up == 1#1) k ((List.range u).map g) = (List.range u).map (slid g) := by rw [slideUnits_map, hslid]
  have low (g : Nat → Nat) : packNat 8 ((List.range u).map g) < 2 ^ 128 :=
    (packNat_lt 8 _).trans_le (Nat.pow_le_pow_right two_pos (by rw [List.length_map, List.length_range]; omega))
  subst hw hk hu
  rw [opVslide, bind_ok (readVector_is ha 4), bind_ok (readVector_is hb 4)]
  dsimp only
  rw [blocky, if_pos rfl, if_neg (by decide), elems_eq, bytes, bytes, bits_eq, pow_zero, Nat.div_one, slide, slide, slide, or_high_part (low _)]
  simp only [Nat.zero_add]
  exact sendVector_ok s d 2 { built _ _ with side := _ }

end

theorem opVsplat_ok {s : State} {f : BitVec 4} (clean : RmodeOk s) (d : BitVec 4) (i : BitVec 12) {o : Out}
    (ho : o = if isInt f.toNat then satInt f.toNat i.toInt else narrow f.toNat s.me.sys.rmode.toNat (ofInt i.toInt)) :
    opVsplat d i f s = .ok ((), sentV s d 2 { built (fw f.toNat) fun _ => o.code with fl := o.fl }) := by
  subst ho
  rw [opVsplat, bind_ok (getRm_ok clean 4), replicate_eq_map_range]
  exact sendVector_ok s d 2 { built (fw f.toNat) fun _ => _ with fl := _ }

/-- Settles O21: what each word lists of the elements is a function of the place. -/
theorem rearrangements : Obligations.Rearrangements := by
  intro s d a b f va vb w n ha hb hw hn
  have move {g : List Nat → List Nat → List Nat} {h : Nat → Nat} := moveV_ok ha hb hw d (g := g) (h := h)
  have half : 2 * (n / 2) = n := by rw [hn, hw]; exact elements_even _
  refine ⟨move ?_, fun k => runSlot_ok _ s _ (opVbcast_ok ha hw d k), fun h => move ?_, fun h => move ?_, fun i clean => ?_, ?_, ?_⟩
  · rw [List.map_map]
    refine List.map_congr_left fun e _ => ?_
    have places : 0 < n := by rcases fw_cases f.toNat with h | h | h | h <;> rw [hn, hw, h] <;> decide
    rw [Function.comp_apply, List.length_map, List.length_range, ← hn]
    exact getD_map_range (Nat.mod_lt _ places) _ _
  · rw [List.length_map, List.length_range, ← hn, flatMap_pair_range, half]
    refine List.map_congr_left fun e mem => ?_
    have inside : h.toNat * (n / 2) + e / 2 < n := by
      have lower : h.toNat * (n / 2) ≤ 1 * (n / 2) := Nat.mul_le_mul_right _ (Nat.le_of_lt_succ h.isLt)
      have := List.mem_range.mp mem
      omega
    rw [getD_map_range inside, getD_map_range inside]
  · rw [List.length_map, List.length_range, ← hn, append_map_range, half]
    refine List.map_congr_left fun e mem => ?_
    have low := h.isLt
    have inside := List.mem_range.mp mem
    split
    · exact getD_map_range (by omega) ..
    · exact getD_map_range (by omega) ..
  · exact hw ▸ runSlot_ok _ s _ (opVsplat_ok clean d i rfl)
  · rintro n3 n4 n11 n12 k hk
    subst hn
    exact ⟨runSlot_ok _ s _ (opVslide_elements ha hb ⟨n3, n4, n11, n12⟩ hw hk d 0#1), runSlot_ok _ s _ (opVslide_elements ha hb ⟨n3, n4, n11, n12⟩ hw hk d 1#1)⟩
  · intro blocks k u hk hu slid up
    exact runSlot_ok _ s _ (opVslide_blocks ha hb blocks hw hk hu rfl d)

end Sys2Proof.Machine

/-! The registers, counters and plane loads of the D slot (R340, R345, R348, R349, R351, R354, R361, R369 to R371). -/

namespace Sys2Proof.Machine

open Sys2Proof.Claim

/-! What the words of the slot share (R347, R349, R255) -/

theorem sendD_run (lat : Nat) (v : Word) (s : State) : sendD lat v s = .ok ((), sentD s lat v) := rfl

theorem dHere_run (s : State) : dHere s = .ok ((s.me.st.cc, s.me.exBundle.1), s) := rfl

theorem needPriv_ok {s : State} (privileged : s.me.priv = true) : needPriv s = .ok ((), s) := by
  rw [needPriv, bind_ok (getMe_run s)]
  exact check_ok privileged ..

theorem needPriv_trap {s : State} (plain : s.me.priv = false) : needPriv s = .error (.trap { cause := 0x02E, slot := 5 }) := by
  rw [needPriv, bind_ok (getMe_run s)]
  exact check_trap plain ..

theorem needHeld_ok {s : State} {tile : Bool} {n : Nat} (held : Held s tile n) : needHeld tile n s = .ok ((), s) := by
  obtain ⟨st, mine⟩ := held
  rw [needHeld, bind_ok (getMe_run s), bind_ok (getCore_run s), ← here]
  exact check_ok (by simp [st, mine]) ..

theorem needHeld_trap {s : State} {tile : Bool} {n : Nat} (held : ¬Held s tile n) :
    needHeld tile n s = .error (.trap { cause := if tile then 0x109 else 0x108, slot := 5 }) := by
  rw [needHeld, bind_ok (getMe_run s), bind_ok (getCore_run s), ← here]
  exact check_trap (by simpa [Held] using held) ..

theorem needArray_ok {s : State} (service : InService s) : needArray s = .ok ((), s) := by
  have up : (here s).retired = false := service
  rw [needArray, bind_ok (getCore_run s), ← here]
  exact check_ok (by rw [up]; rfl) ..

/-- The bank and the width that the selection names for a purpose (R89). -/
theorem selected_run (purpose : Nat) (s : State) : selected purpose s = .ok ((selNo s purpose, selWidth s purpose, selBank s purpose), s) := by
  rw [selected, bind_ok (getMe_run s), bits_eq, bits_eq]
  rfl

/-- A word may expand through the selected bank (R437). -/
theorem needBank_ok {s : State} {x : BitVec 1} {purpose : Nat} (clean : SelClean s x purpose) : needBank x (selBank s purpose) s = .ok ((), s) := by
  rw [needBank, bind_ok (getMe_run s)]
  refine check_ok ?_ ..
  rcases (by decide : ∀ x : BitVec 1, x = 0#1 ∨ x = 1#1) x with rfl | rfl
  · rfl
  · obtain ⟨selection, bank⟩ := clean rfl
    rw [selection, bank]
    rfl

/-- A bank through which a word expands is of a kind that the word takes. -/
theorem checkBank_ok {x : BitVec 1} {suits : Bool} (fit : x = 1#1 → suits = true) (slot cause addr : Nat) (s : State) :
    check (x == 0#1 || suits) slot cause addr s = .ok ((), s) := by
  refine check_ok ?_ ..
  rcases (by decide : ∀ x : BitVec 1, x = 0#1 ∨ x = 1#1) x with rfl | rfl
  · rfl
  · rw [fit rfl]
    rfl

/-! Delay registers, saturation, trims, measurements (R330, R340, R351, R361, R369, R370) -/

section

variable {s : State} {a : BitVec 5} {v : Word} (ha : ScalarIs s a v)

include ha

theorem opDcw_ok (n : BitVec 4) (legal : dcOk v.toNat = true) :
    opDcw a n s = .ok ((), s.updMe fun x => { x with regs.dc := x.regs.dc.set n.toNat { val := v, valid := true } }) := by
  rw [opDcw, bind_ok (readScalar_is ha 5), bind_ok (check_ok legal ..)]
  rfl

theorem opDcw_trap (n : BitVec 4) (illegal : dcOk v.toNat = false) : opDcw a n s = .error (.trap { cause := 0x102, slot := 5 }) := by
  rw [opDcw, bind_ok (readScalar_is ha 5)]
  exact bind_error (check_trap illegal ..) _

theorem opRtrimw_plain (n : BitVec 6) (plain : s.me.priv = false) : opRtrimw a n s = .error (.trap { cause := 0x02E, slot := 5 }) := by
  rw [opRtrimw, bind_ok (readScalar_is ha 5)]
  exact bind_error (needPriv_trap plain) _

theorem opRcal_plain (plain : s.me.priv = false) : opRcal a s = .error (.trap { cause := 0x02E, slot := 5 }) := by
  rw [opRcal, bind_ok (readScalar_is ha 5)]
  exact bind_error (needPriv_trap plain) _

variable (privileged : s.me.priv = true)

include privileged

theorem opRtrimw_ok {n : BitVec 6} (there : n.toNat ≤ 32) (accepts : (here s).trimAccepts n.toNat v.toNat = true) :
    opRtrimw a n s = .ok ((), updHere s fun y => y.setTrim n.toNat v) := by
  rw [opRtrimw, bind_ok (readScalar_is ha 5), bind_ok (needPriv_ok privileged), bind_ok (getCore_run s), ← here,
    bind_ok (check_ok (by rw [accepts, decide_eq_true there]; rfl) ..)]
  rfl

/-- A register that is not there, or does not accept the value, traps (R370). -/
theorem opRtrimw_trap {n : BitVec 6} (bad : 32 < n.toNat ∨ (here s).trimAccepts n.toNat v.toNat = false) :
    opRtrimw a n s = .error (.trap { cause := 0x104, slot := 5 }) := by
  rw [opRtrimw, bind_ok (readScalar_is ha 5), bind_ok (needPriv_ok privileged), bind_ok (getCore_run s), ← here]
  refine bind_error (check_trap ?_ ..) _
  rcases bad with high | refused
  · rw [decide_eq_false (Nat.not_le.mpr high), Bool.false_and]
  · rw [refused, Bool.and_false]

/-- A measurement is set going on a chain that is not being measured (R369). -/
theorem opRcal_ok (there : v.toNat ≤ 263) (idle : ∀ r ∈ s.me.rcals, r.chain ≠ v.toNat) :
    opRcal a s = .ok ((), ({ s with draw := s.draw + 1 } : State).updMe fun x => { x with rcals := x.rcals ++ [{
      chain := v.toNat, land := s.me.st.cc + (64 + 128 * 2 ^ ((here s).calctl.toNat / 2 ^ 48 % 16)), seq := s.me.st.cc
      val := (here s).rcalCount s.cur.k v.toNat s.draw, ends := s.ticks + (here s).rcalTicks s.cur.k v.toNat s.draw }] }) := by
  have free : (decide (v.toNat ≤ 263) && !(s.me.rcals.any fun r => r.chain == v.toNat)) = true := by simpa [there] using idle
  rw [opRcal, bind_ok (readScalar_is ha 5), bind_ok (needPriv_ok privileged), bind_ok (getMe_run s), bind_ok (getS_run s), bind_ok (getCore_run s),
    bind_ok (check_ok free ..), bind_ok (fresh_run s), ← here, updMe_run, Core.rcalLatency, bits_eq]
  exact congrArg (fun t => Except.ok ((), t)) (updMe_congr _ _ _ rfl)

theorem opRcal_trap (high : 263 < v.toNat) : opRcal a s = .error (.trap { cause := 0x104, slot := 5 }) := by
  rw [opRcal, bind_ok (readScalar_is ha 5), bind_ok (needPriv_ok privileged), bind_ok (getMe_run s), bind_ok (getS_run s), bind_ok (getCore_run s)]
  exact bind_error (check_trap (by rw [decide_eq_false (Nat.not_le.mpr high), Bool.false_and]) ..) _

end

theorem opDcr_ok {s : State} {n : BitVec 4} {v : Word} (reads : Has (s.me.regs.dc.getD n.toNat {}) v) :
    opDcr n s = .ok ((), sentD s 1 v) := by
  rw [opDcr, readDc]
  exact (bind_ok ((bind_ok (getMe_run s) _).trans (useReg_has reads ..)) _).trans (sendD_run ..)

/-- The quarter of SATMASK that rsat sends (R361). -/
def satQuarter (s : State) (q : BitVec 2) : Word := BitVec.ofNat 64 (s.me.sys.satmask.toNat / 2 ^ (64 * q.toNat) % 2 ^ 64)

/-- rsat sends a quarter of the mask, and with C clears it (R361). -/
theorem opRsat_ok {s : State} {q : BitVec 2} (clean : s.me.sys.poison.has (64 + q.toNat) = false) {c : BitVec 1} {t : State}
    (after : (if c = 1#1 then updMe fun x => { x with sys.satmask := x.sys.satmask &&& ~~~((BitVec.ofNat 256 (2 ^ 64 - 1)) <<< (64 * q.toNat)) }
      else pure ()) s = .ok ((), t)) : opRsat c q s = .ok ((), sentD t 1 (satQuarter s q)) := by
  rw [opRsat, bind_ok (getMe_run s)]
  refine (bind_ok (check_ok (by rw [clean]; rfl) ..) _).trans ((when_bind_ok after _).trans ?_)
  rw [bits_eq]
  rfl

theorem opRtrimr_ok {n : BitVec 6} (there : n.toNat ≤ 33) (s : State) : opRtrimr n s = .ok ((), sentD s 1 ((here s).trimReg n.toNat)) := by
  rw [opRtrimr, bind_ok (check_ok (decide_eq_true there) ..)]
  rfl

theorem opRtrimr_trap {n : BitVec 6} (high : 33 < n.toNat) (s : State) : opRtrimr n s = .error (.trap { cause := 0x104, slot := 5 }) := by
  rw [opRtrimr]
  exact bind_error (check_trap (decide_eq_false (Nat.not_le.mpr high)) ..) _

/-- Settles O24, word by word. -/
theorem arrayRegisters : Obligations.ArrayRegisters := by
  refine ⟨fun s a n v ha => ?_, fun s n v reads => runSlot_ok _ s _ (opDcr_ok reads), fun s q clean => ?_, fun s n => ?_, fun s a n v ha => ?_,
    fun s a v ha => ?_⟩
  · exact ⟨fun legal => runSlot_ok _ s _ (opDcw_ok ha n legal), fun illegal => runSlot_trap _ s _ (opDcw_trap ha n illegal)⟩
  · exact ⟨runSlot_ok _ s _ (opRsat_ok clean (c := 0#1) rfl), runSlot_ok _ s _ (opRsat_ok clean (c := 1#1) rfl)⟩
  · exact ⟨fun there => runSlot_ok _ s _ (opRtrimr_ok there s), fun high => runSlot_trap _ s _ (opRtrimr_trap high s)⟩
  · exact ⟨fun plain => runSlot_trap _ s _ (opRtrimw_plain ha n plain), fun privileged there accepts => runSlot_ok _ s _ (opRtrimw_ok ha privileged there accepts),
      fun privileged high => runSlot_trap _ s _ (opRtrimw_trap ha privileged (.inl high)),
      fun privileged refused => runSlot_trap _ s _ (opRtrimw_trap ha privileged (.inr refused))⟩
  · exact ⟨fun plain => runSlot_trap _ s _ (opRcal_plain ha plain), fun privileged high => runSlot_trap _ s _ (opRcal_trap ha privileged high),
      fun privileged there idle => runSlot_ok _ s _ (opRcal_ok ha privileged there idle)⟩

/-! Counters (R345, R371) -/

theorem opRstat_ok {n : BitVec 6} (there : n.toNat ≤ 6) (s : State) : opRstat n s = .ok ((), sentD s 1 ((here s).counter n.toNat)) := by
  rw [opRstat, bind_ok (check_ok (decide_eq_true there) ..)]
  rfl

theorem opRstat_trap {n : BitVec 6} (high : 6 < n.toNat) (s : State) : opRstat n s = .error (.trap { cause := 0x104, slot := 5 }) := by
  rw [opRstat]
  exact bind_error (check_trap (decide_eq_false (Nat.not_le.mpr high)) ..) _

/-- Settles O25: each counter by its number. -/
theorem statusCounters : Obligations.StatusCounters := by
  intro s n
  have counter (m : BitVec 6) (there : m.toNat ≤ 6) (h : n = m) : exec (.rstat n) s = .next (sentD s 1 ((here s).counter m.toNat)) := by
    rw [h]
    exact runSlot_ok _ s _ (opRstat_ok there s)
  exact ⟨counter 0#6 (by decide), counter 1#6 (by decide), counter 2#6 (by decide), counter 3#6 (by decide), counter 4#6 (by decide),
    counter 5#6 (by decide), counter 6#6 (by decide), fun high => runSlot_trap _ s _ (opRstat_trap high s)⟩

/-! Plane loads (R348, R349, R354) -/

section

variable {s : State} {a b : BitVec 5} {x : BitVec 1} {p : BitVec 2} {u v : Word} (ha : ScalarIs s a u) (hb : ScalarIs s b v)

include ha hb

theorem opRldw_missing (held : ¬Held s false p.toNat) : opRldw a b x p s = .error (.trap { cause := 0x108, slot := 5 }) := by
  rw [opRldw, bind_ok (readScalar_is ha 5), bind_ok (readScalar_is hb 5)]
  exact bind_error (needHeld_trap held) _

variable (held : Held s false p.toNat) (service : InService s) (clean : SelClean s x 1) (kind : x = 1#1 → (selBank s 1).kind = 3)

include held service clean kind

/-- What rldw does once its plane, array and bank are in order: it tests where its image lies and sets the load going. -/
theorem opRldw_run : opRldw a b x p s = (do
    check (u.toNat % 4 == 0) 5 0x202 u.toNat
    check (decide (u.toNat + (v.toNat / 2 ^ 16 % 2 ^ 6 + 1) * (if x = 1#1 then 32 * selWidth s 1 else 192) ≤ spadEnd)) 5 0x200 u.toNat
    updMe fun c => { c with loads := c.loads ++ [{
      seq := s.me.st.cc, va := s.me.exBundle.1, plane := p.toNat, claim := ((here s).claim false p.toNat).gen, first := v.toNat / 2 ^ 8 % 2 ^ 6,
      count := v.toNat / 2 ^ 16 % 2 ^ 6 + 1, off := u.toNat, exp := v.setWidth 8, bank := if x = 1#1 then some (selNo s 1) else none,
      book := selBank s 1, width := selWidth s 1 }] } : M Unit) s := by
  rw [opRldw, bind_ok (readScalar_is ha 5), bind_ok (readScalar_is hb 5), bind_ok (needHeld_ok held), bind_ok (needArray_ok service),
    bind_ok (selected_run 1 s)]
  refine (bind_ok (needBank_ok clean) _).trans ((bind_ok (checkBank_ok (fun e => beq_iff_eq.mpr (kind e)) ..) _).trans ?_)
  simp only [bits_eq]
  by_cases aligned : (u.toNat % 4 == 0) = true
  · rw [bind_ok (check_ok aligned ..), bind_ok (check_ok aligned ..)]
    by_cases fits : decide (u.toNat + (v.toNat / 2 ^ 16 % 2 ^ 6 + 1) * (if x = 1#1 then 32 * selWidth s 1 else 192) ≤ spadEnd) = true
    · rw [bind_ok (check_ok fits ..), bind_ok (check_ok fits ..)]
      rfl
    · have beyond := check_trap (Bool.eq_false_iff.mpr fits) 5 0x200 u.toNat s
      exact (bind_error beyond _).trans (bind_error beyond _).symm
  · have crooked := check_trap (Bool.eq_false_iff.mpr aligned) 5 0x202 u.toNat s
    exact (bind_error crooked _).trans (bind_error crooked _).symm

end

/-- Settles O27: a missing plane by `opRldw_missing`; the other outcomes are the tests of `opRldw_run`, in their order. -/
theorem planeLoad : Obligations.PlaneLoad := by
  intro s a b x p u v ha hb
  refine ⟨fun held => runSlot_trap _ s _ (opRldw_missing ha hb held), fun held service clean kind => ?_⟩
  intro count size
  have run := opRldw_run ha hb held service clean kind
  refine ⟨fun aligned fits => runSlot_ok _ s _ (run.trans ?_), fun crooked => runSlot_trap _ s _ (run.trans ?_),
    fun aligned beyond => runSlot_trap _ s _ (run.trans ?_)⟩
  · exact (bind_ok (check_ok (beq_iff_eq.mpr aligned) ..) _).trans (bind_ok (check_ok (decide_eq_true fits) ..) _)
  · exact bind_error (check_trap (beq_eq_false_iff_ne.mpr crooked) ..) _
  · exact (bind_ok (check_ok (beq_iff_eq.mpr aligned) ..) _).trans (bind_error (check_trap (decide_eq_false (Nat.not_le.mpr beyond)) ..) _)

end Sys2Proof.Machine

/-! Passes over the array (R325, R331, R348, R358 to R360). -/

namespace Sys2Proof.Machine

open Sys2Proof.Claim

/-- Two's complement sees the field alone (R9). -/
theorem sext_mod (v n : Nat) : sext (v % 2 ^ n) n = sext v n := by rw [sext, sext, Nat.mod_mod]

/-- A pass over clean data is issued (R329, R331, R360). -/
theorem startPass_ok {s : State} {tile plane dcn d n : Nat} {x : BitVec 1} {a : List Int} {bk : Bank} (clean : PassClean s plane d a) :
    startPass tile plane dcn x d a n bk s = .ok ((), passIssued s tile plane dcn d a (if x = 1#1 then bk.aexp else sext (d / 2 ^ 56) 8)
      (if x = 1#1 then 1 else 0)) := by
  obtain ⟨coded, unpoisoned⟩ := clean
  have codes : (!(a.any (· == -16))) = true := by simpa using fun v mem => coded v mem
  have courses : (!(((here s).planes.getD plane {}).poison.any fun w => decide (w.1 / 24 < dcNrow d) || w.1 == 1536)) = true := by
    simpa using fun i b mem => unpoisoned (i, b) mem
  rw [startPass, bind_ok (check_ok codes ..), bind_ok (getCore_run s), ← here]
  refine (bind_ok (check_ok courses ..) _).trans ((bind_ok (dHere_run s) _).trans ?_)
  have moved : startPass.setBitsAt d 8 6 ((dcRow d + dcStep d) % 64) = d - dcRow d * 2 ^ 8 + (dcRow d + dcStep d) % 64 * 2 ^ 8 := by
    rw [startPass.setBitsAt, Nat.shiftLeft_eq, Nat.shiftLeft_eq, dcRow]
  simp only [moved, bits_eq, sext_mod]
  rfl

/-- The activations of an expanded pass are the codes of a readable A4L bank (R87). -/
theorem activations_ok {b : Bank} {w v : Nat} (readable : Readable b (indices w 64 v)) (n : Nat) (s : State) :
    activations n w b v s = .ok ((indices w 64 v).map fun i => sext (b.entry i) 5, s) := by
  rw [activations, bind_ok (readEntries_ok readable 5 n 0 s), List.map_map]
  rfl

/-- A pass takes its activations through the bank or as they stand in a vector or record (R358, R359). -/
theorem activationsOf_ok {b : Bank} {x : BitVec 1} {n w v : Nat} {plain a : List Int} (readable : x = 1#1 → Readable b (indices w 64 v))
    (ha : a = if x = 1#1 then (indices w 64 v).map fun i => sext (b.entry i) 5 else plain) (s : State) :
    (if x = 1#1 then activations n w b v else pure plain) s = .ok (a, s) := by
  subst ha
  split
  · exact activations_ok (readable ‹_›) n s
  · rfl

section

variable {s : State} {c : BitVec 4} {t p : BitVec 2} {x : BitVec 1} {d : Nat} (dc : DcIs s c.toNat d) (plane : Held s false p.toNat)
  (tile : Held s true t.toNat) (service : InService s) (bank : SelClean s x 0) (kind : x = 1#1 → (selBank s 0).kind = 4)

include dc

theorem readDc_ok : readDc 5 c.toNat s = .ok (BitVec.ofNat 64 d, s) := by
  obtain ⟨reads, -⟩ := dc
  rw [readDc, bind_ok (getMe_run s)]
  exact useReg_has reads ..

theorem toNat_dc : (BitVec.ofNat 64 d).toNat = d := by
  obtain ⟨-, fits⟩ := dc
  exact Nat.mod_eq_of_lt fits

omit dc

include plane tile service bank kind

theorem passChecks_ok : passChecks t.toNat p.toNat x s = .ok ((selNo s 0, selWidth s 0, selBank s 0), s) := by
  rw [passChecks, bind_ok (needHeld_ok plane), bind_ok (needHeld_ok tile), bind_ok (needArray_ok service), bind_ok (selected_run 0 s)]
  exact (bind_ok (needBank_ok bank) _).trans (bind_ok (checkBank_ok (fun e => beq_iff_eq.mpr (kind e)) ..) _)

include dc

/-- rpass issues its pass (R358, R360). -/
theorem opRpass_ok {v : BitVec 4} {va : VReg} {a : List Int} (hv : VectorIs s v va)
    (readable : x = 1#1 → Readable (selBank s 0) (indices (selWidth s 0) 64 va.data.toNat))
    (ha : a = if x = 1#1 then (indices (selWidth s 0) 64 va.data.toNat).map fun i => sext ((selBank s 0).entry i) 5
      else (List.range 64).map fun k => sext (va.data.toNat / 2 ^ (8 * k) % 2 ^ 5) 5)
    (clean : PassClean s p.toNat d a) : opRpass v c t p x s = .ok ((), passIssued s t.toNat p.toNat c.toNat d a
      (if x = 1#1 then (selBank s 0).aexp else sext (d / 2 ^ 56) 8) (if x = 1#1 then 1 else 0)) := by
  rw [opRpass, bind_ok (readVector_is hv 5), bind_ok (readDc_ok dc), bind_ok (passChecks_ok plane tile service bank kind)]
  simp only [bits_eq, toNat_dc dc]
  exact (ite_bind_ok (activationsOf_ok readable ha s) _).trans (startPass_ok clean)

/-- rpassr issues the pass of its record, moves the cursor, and with ADV consumes a hod that is used up (R359, R360). -/
theorem opRpassr_ok {h : BitVec 4} {id q rec_ : Nat} {r : Ring} {a : List Int} (ring : RingIs s h.toNat id r) (noOvf : r.ovf = false)
    (hq : q = if x = 1#1 then 8 * selWidth s 0 else 40) (aligned : r.rcur % q = 0) (used : 0 < r.used) (full : r.fullHod r.rp = true)
    (good : (here s).spBad 0 (r.offset r.rp + r.rcur) q = false) (hrec : rec_ = leNat ((here s).spRead 0 (r.offset r.rp + r.rcur) q))
    (readable : x = 1#1 → Readable (selBank s 0) (indices (selWidth s 0) 64 rec_))
    (ha : a = if x = 1#1 then (indices (selWidth s 0) 64 rec_).map fun i => sext ((selBank s 0).entry i) 5
      else (List.range 64).map fun k => sext (rec_ / 2 ^ (5 * k) % 2 ^ 5) 5)
    (clean : PassClean s p.toNat d a) {u : State} (hu : u = tagsRead (passIssued s t.toNat p.toNat c.toNat d a
      (if x = 1#1 then (selBank s 0).aexp else sext (d / 2 ^ 56) 8) (if x = 1#1 then 1 else 0)) id r [r.rp]) (adv : BitVec 1) :
    opRpassr h c t p x adv s = .ok ((),
      if r.rcur + q + q ≤ ringStage r.cfg then updRingS u id fun r' => { r' with rcur := r.rcur + q }
      else if adv = 1#1 then consumed (updRingS u id fun r' => { r' with rcur := 0 }) id r 1
      else updRingS u id fun r' => { r' with rcur := 0 }) := by
  have checks : (if s.me.st.checked = true then selected 0 else passChecks t.toNat p.toNat x) s = .ok ((selNo s 0, selWidth s 0, selBank s 0), s) := by
    split
    · exact selected_run 0 s
    · exact passChecks_ok plane tile service bank kind
  have ready : ¬(r.used = 0 ∨ (!r.fullHod r.rp) = true) := by rw [full]; simp; omega
  subst hq hrec hu
  rw [opRpassr, bind_ok (getMe_run s), bind_ok (readRing_ok ring 5)]
  refine (bind_ok (readDc_ok dc) _).trans ((ite_bind_ok checks _).trans ?_)
  refine (bind_ok (check_ok (by rw [noOvf]; simp) ..) _).trans ((bind_ok (check_ok (by simp [aligned]) ..) _).trans ?_)
  refine (congrFun (if_neg ready) s).trans ((bind_ok (getCore_run s) _).trans ?_)
  rw [← here]
  refine (bind_ok (check_ok (by rw [good]; rfl) ..) _).trans ?_
  simp only [bits_eq, toNat_dc dc]
  refine (ite_bind_ok (activationsOf_ok readable ha s) _).trans ((bind_ok (startPass_ok clean) _).trans ((bind_ok (acquireTags_run ..) _).trans ?_))
  generalize (if x = 1#1 then 8 * selWidth s 0 else 40) = q
  by_cases last : ringStage r.cfg < r.rcur + q + q
  · rw [if_pos last]
    rw [if_neg (Nat.not_le.mpr last)]
    refine (bind_ok rfl _).trans ?_
    split <;> rfl
  · rw [if_neg last, if_pos (Nat.not_lt.mp last)]
    rfl

end

/-- Settles O28: rpass by `opRpass_ok`, rpassr by `opRpassr_ok`. -/
theorem racePasses : Obligations.RacePasses := by
  intro s c t p x d dc plane tile service bank kind b w e ex
  refine ⟨fun v va a hv readable ha clean => runSlot_ok _ s _ (opRpass_ok dc plane tile service bank kind hv readable ha clean), ?_⟩
  intro h adv id q rec_ r a ring noOvf hq aligned used full good hrec readable ha clean u
  exact runSlot_ok _ s _ (opRpassr_ok dc plane tile service bank kind ring noOvf hq aligned used full good hrec readable ha clean rfl adv)

end Sys2Proof.Machine

/-! The comb (R333, R362): lanes sorted by key and number, and the five words that send something of the order. -/

namespace Sys2Proof.Machine

open Sys2Proof.Claim

/-! Sorting by a key, equals in the order of their numbers -/

/-- One numbered value comes before another: by its key, then by its number. -/
def ComesBefore (key : Nat × Nat → Nat) (a b : Nat × Nat) : Prop := key a < key b ∨ (key a = key b ∧ a.2 < b.2)

theorem insertBy_perm {α : Type} (le : α → α → Bool) (x : α) (l : List α) : (insertBy le x l).Perm (x :: l) := by
  induction l with
  | nil => exact .refl _
  | cons y r ih =>
    rw [insertBy]
    split
    · exact (ih.cons y).trans (.swap x y r)
    · exact .refl _

theorem sortBy_perm {α : Type} (le : α → α → Bool) (l : List α) : (sortBy le l).Perm l := by
  have into (acc : List α) : (l.foldl (fun acc x => insertBy le x acc) acc).Perm (l ++ acc) := by
    induction l generalizing acc with
    | nil => exact .refl _
    | cons x r ih => exact (ih _).trans (((insertBy_perm le x acc).append_left r).trans List.perm_middle)
  simpa [sortBy] using into []

section

variable {key : Nat × Nat → Nat}

/-- A value whose number is above all those of a sorted list finds its place in it. -/
theorem insertBy_sorted {x : Nat × Nat} {l : List (Nat × Nat)} (sorted : l.Pairwise (ComesBefore key)) (above : ∀ y ∈ l, y.2 < x.2) :
    (insertBy (fun a b => decide (key a ≤ key b)) x l).Pairwise (ComesBefore key) := by
  induction l with
  | nil => exact List.pairwise_singleton ..
  | cons y r ih =>
    obtain ⟨first, rest⟩ := List.pairwise_cons.mp sorted
    rw [insertBy]
    split <;> rename_i order <;> rw [decide_eq_true_eq] at order
    · refine List.pairwise_cons.mpr ⟨fun z mem => ?_, ih rest fun z mem => above z (List.mem_cons_of_mem y mem)⟩
      rcases List.mem_cons.mp ((insertBy_perm ..).mem_iff.mp mem) with rfl | mem
      · exact order.lt_or_eq.imp_right fun same => ⟨same, above y List.mem_cons_self⟩
      · exact first z mem
    · refine List.pairwise_cons.mpr ⟨fun z mem => .inl ((Nat.not_le.mp order).trans_le ?_), sorted⟩
      rcases List.mem_cons.mp mem with rfl | mem
      · exact le_rfl
      · rcases first z mem with less | ⟨same, -⟩
        · exact less.le
        · exact same.le

/-- Values of rising numbers are sorted by key, equals by their numbers. -/
theorem sortBy_sorted {l : List (Nat × Nat)} (rising : l.Pairwise fun a b => a.2 < b.2) :
    (sortBy (fun a b => decide (key a ≤ key b)) l).Pairwise (ComesBefore key) := by
  have into (acc : List (Nat × Nat)) (sorted : acc.Pairwise (ComesBefore key)) (above : ∀ y ∈ acc, ∀ x ∈ l, y.2 < x.2) :
      (l.foldl (fun acc x => insertBy (fun a b => decide (key a ≤ key b)) x acc) acc).Pairwise (ComesBefore key) := by
    induction l generalizing acc with
    | nil => exact sorted
    | cons x r ih =>
      obtain ⟨first, rest⟩ := List.pairwise_cons.mp rising
      refine ih rest _ (insertBy_sorted sorted fun y mem => above y mem x List.mem_cons_self) fun y mem z later => ?_
      rcases List.mem_cons.mp ((insertBy_perm ..).mem_iff.mp mem) with rfl | mem
      · exact first z later
      · exact above y mem z (List.mem_cons_of_mem x later)
  exact into [] .nil fun y mem => nomatch mem

end

/-! The order of the lanes -/

/-- The numbers of the lanes in the comb's order. -/
def lanesInOrder (desc : Bool) (ls : List Nat) : List Nat := (combOrder desc ls).map (·.2)

/-- The key of a numbered lane: its value, or for a falling order what it lacks to 255. -/
def combKey (desc : Bool) (a : Nat × Nat) : Nat := if desc then 255 - a.1 else a.1

/-- What R362 sends of a lane: its number and its value. -/
def laneCode (ls : List Nat) (l : Nat) : Nat := l * 256 + ls.getD l 0

theorem mem_combOrder {desc : Bool} {ls : List Nat} {e : Nat × Nat} (mem : e ∈ combOrder desc ls) : e.2 < ls.length ∧ ls.getD e.2 0 = e.1 := by
  have listed := List.mem_zipIdx_iff_getElem?.mp ((sortBy_perm ..).mem_iff.mp mem)
  obtain ⟨inside, -⟩ := List.getElem?_eq_some_iff.mp listed
  exact ⟨inside, by rw [List.getD_eq_getElem?_getD, listed, Option.getD_some]⟩

theorem combOrder_sorted (desc : Bool) (ls : List Nat) : (combOrder desc ls).Pairwise (ComesBefore (combKey desc)) := by
  refine sortBy_sorted (key := combKey desc) (List.pairwise_map.mp ?_)
  rw [List.zipIdx_map_snd]
  exact List.pairwise_lt_range'

theorem lanesInOrder_perm (desc : Bool) (ls : List Nat) : (lanesInOrder desc ls).Perm (List.range ls.length) := by
  have numbers := (sortBy_perm (fun a b => decide (combKey desc a ≤ combKey desc b)) ls.zipIdx).map (·.2)
  rwa [List.zipIdx_map_snd, ← List.range_eq_range'] at numbers

/-- A rising order: by value, equals by number. -/
theorem lanesInOrder_up (ls : List Nat) :
    (lanesInOrder false ls).Pairwise fun i j => ls.getD i 0 < ls.getD j 0 ∨ (ls.getD i 0 = ls.getD j 0 ∧ i < j) := by
  refine List.pairwise_map.mpr ((combOrder_sorted false ls).imp_of_mem fun ha hb before => ?_)
  rw [(mem_combOrder ha).2, (mem_combOrder hb).2]
  exact before

/-- A falling order of bytes: by value, equals by number. -/
theorem lanesInOrder_down {ls : List Nat} (bytes : ∀ v ∈ ls, v ≤ 255) :
    (lanesInOrder true ls).Pairwise fun i j => ls.getD j 0 < ls.getD i 0 ∨ (ls.getD i 0 = ls.getD j 0 ∧ i < j) := by
  have byte {e : Nat × Nat} (mem : e ∈ combOrder true ls) : ls.getD e.2 0 = e.1 ∧ e.1 ≤ 255 := by
    obtain ⟨inside, value⟩ := mem_combOrder mem
    rw [List.getD_eq_getElem _ _ inside] at value
    exact ⟨by rw [List.getD_eq_getElem _ _ inside, value], value ▸ bytes _ (List.getElem_mem inside)⟩
  refine List.pairwise_map.mpr ((combOrder_sorted true ls).imp_of_mem fun ha hb before => ?_)
  obtain ⟨va, la⟩ := byte ha
  obtain ⟨vb, lb⟩ := byte hb
  rw [va, vb]
  rcases before with less | ⟨same, number⟩
  · simp only [combKey, if_true] at less
    omega
  · simp only [combKey, if_true] at same
    omega

/-- What is sent of the ordered lanes is what R362 sends of their numbers. -/
theorem map_combEnc (desc : Bool) (ls : List Nat) : (combOrder desc ls).map combEnc = (lanesInOrder desc ls).map (laneCode ls) := by
  rw [lanesInOrder, List.map_map]
  refine List.map_congr_left fun e mem => ?_
  rw [Function.comp_apply, laneCode, (mem_combOrder mem).2, combEnc]

theorem combEnc_headD {desc : Bool} {ls : List Nat} (some_ : ls ≠ []) :
    combEnc ((combOrder desc ls).headD (0, 0)) = laneCode ls ((lanesInOrder desc ls).headD 0) := by
  have length : (combOrder desc ls).length = ls.zipIdx.length := (sortBy_perm ..).length_eq
  cases order : combOrder desc ls with
  | nil =>
    rw [order, List.length_zipIdx] at length
    exact absurd (List.length_eq_zero_iff.mp length.symm) some_
  | cons e r =>
    have mem : e ∈ combOrder desc ls := order ▸ List.mem_cons_self
    rw [lanesInOrder, order, List.map_cons, List.headD_cons, List.headD_cons, laneCode, (mem_combOrder mem).2, combEnc]

/-- The place of a lane in the order. -/
theorem findIdx?_combOrder {desc : Bool} {ls : List Nat} {l : Nat} (inside : l < ls.length) :
    ((combOrder desc ls).findIdx? fun p => p.2 == l).getD 0 = (lanesInOrder desc ls).idxOf l := by
  have mem : l ∈ lanesInOrder desc ls := (lanesInOrder_perm desc ls).mem_iff.mpr (List.mem_range.mpr inside)
  have found : (lanesInOrder desc ls).findIdx (· == l) < (lanesInOrder desc ls).length := List.idxOf_lt_length_of_mem mem
  have lanes : ((combOrder desc ls).findIdx? fun p => p.2 == l) = (lanesInOrder desc ls).findIdx? (· == l) := by
    rw [lanesInOrder, List.findIdx?_map]
    rfl
  rw [lanes, List.findIdx?_eq_guard_findIdx_lt, Option.guard, if_pos (decide_eq_true found)]
  rfl

/-- The first lanes of the order, and filling up to 64 (R362). -/
theorem topLanes (o : List Nat) (length : o.length = 64) (g : Nat → Nat) (k : BitVec 6) (fill : Nat) :
    (o.take (k.toNat + 1)).map g ++ List.replicate (63 - k.toNat) fill =
      (List.range 64).map fun j => if j < k.toNat + 1 then g (o.getD j 0) else fill := by
  have bound := k.isLt
  have taken : ((o.take (k.toNat + 1)).map g).length = k.toNat + 1 := by rw [List.length_map, List.length_take, length]; omega
  refine eq_map_range (by rw [List.length_append, taken, List.length_replicate]; omega) fun e inside => ?_
  rw [List.getElem_append]
  split <;> rename_i early <;> rw [taken] at early
  · rw [if_pos early, List.getElem_map, List.getElem_take, List.getD_eq_getElem _ _ (by omega)]
  · rw [if_neg early, List.getElem_replicate]

/-! The words (R362) -/

/-- What a comb word sends of the order of its lanes is issued (R333, R362). -/
theorem combOp_ok {s : State} {v : BitVec 4} {x : BitVec 1} {va : VReg} {ls : List Nat} (hv : VectorIs s v va) (service : InService s)
    (bank : SelClean s x 2)
    (lanes : if x = 1#1 then
        (selBank s 2).kind = 1 ∧ ((selBank s 2).elem = 5 ∨ (selBank s 2).elem = 6) ∧ Readable (selBank s 2) (indices (selWidth s 2) 64 va.data.toNat) ∧
        ls = (indices (selWidth s 2) 64 va.data.toNat).map fun i => (max 0 (min 255 (sext ((selBank s 2).entry i) (fw (selBank s 2).elem)))).toNat
      else ls = (List.range 64).map fun l => va.data.toNat / 2 ^ (8 * l) % 256) (desc : Bool) (res : List (Nat × Nat) → Payload) :
    combOp v x desc res s = .ok ((), combIssued s (if x = 1#1 then 1 else 0) (res (combOrder desc ls))) := by
  have fit : x = 1#1 → ((selBank s 2).kind == 1 && ((selBank s 2).elem == 5 || (selBank s 2).elem == 6)) = true := by
    intro expands
    obtain ⟨kind, elem, -⟩ := (if_pos expands).mp lanes
    simp [kind, elem]
  rw [combOp, bind_ok (readVector_is hv 5), bind_ok (needArray_ok service), bind_ok (selected_run 2 s)]
  refine (bind_ok (needBank_ok bank) _).trans ((bind_ok (checkBank_ok fit ..) _).trans ?_)
  split at lanes <;> rename_i expands
  · obtain ⟨-, -, readable, rfl⟩ := lanes
    refine (congrFun (if_pos expands) s).trans ((bind_ok (readEntries_ok readable 5 _ 0 s) _).trans ?_)
    rw [List.map_map]
    rfl
  · refine (congrFun (if_neg expands) s).trans ?_
    simp only [lanes, bits_eq]
    rfl

/-- Settles O29: every word sends something of `combOrder`, whose lane numbers are `lanesInOrder`. -/
theorem combWords : Obligations.CombWords := by
  intro s v x va ls hv service bank lanes e
  have word (desc : Bool) (res : List (Nat × Nat) → Payload) : runSlot (combOp v x desc res) s = .next (combIssued s e (res (combOrder desc ls))) :=
    runSlot_ok _ s _ (combOp_ok hv service bank lanes desc res)
  have length : ls.length = 64 := by
    split at lanes
    · obtain ⟨-, -, -, rfl⟩ := lanes
      rw [List.length_map, indices, List.length_map, List.length_range]
    · rw [lanes, List.length_map, List.length_range]
  have bytes : ∀ v ∈ ls, v ≤ 255 := by
    intro v mem
    split at lanes
    · obtain ⟨-, -, -, rfl⟩ := lanes
      obtain ⟨i, -, rfl⟩ := List.mem_map.mp mem
      omega
    · rw [lanes] at mem
      obtain ⟨i, -, rfl⟩ := List.mem_map.mp mem
      omega
  have some_ : ls ≠ [] := by rintro rfl; cases length
  have perm (desc : Bool) : (lanesInOrder desc ls).Perm (List.range 64) := length ▸ lanesInOrder_perm desc ls
  refine ⟨lanesInOrder false ls, lanesInOrder true ls, ?_, lanesInOrder_up ls, lanesInOrder_down bytes, ?_⟩
  · intro o mem
    rcases List.mem_pair.mp mem with rfl | rfl <;> exact perm _
  intro enc vec
  refine ⟨(word false _).trans ?_, (word true _).trans ?_, fun d o ho => ?_⟩
  · rw [combEnc_headD some_]; rfl
  · rw [combEnc_headD some_]; rfl
  have order : o = lanesInOrder (d == 1#1) ls := by
    rw [ho]
    rcases (by decide : ∀ d : BitVec 1, d = 0#1 ∨ d = 1#1) d with rfl | rfl <;> rfl
  subst order
  refine ⟨(word (d == 1#1) _).trans ?_, fun k => (word (d == 1#1) _).trans ?_, (word (d == 1#1) _).trans ?_⟩
  · rw [map_combEnc]; rfl
  · rw [List.map_take, map_combEnc, ← List.map_take, topLanes _ ((perm _).length_eq.trans (List.length_range)) (laneCode ls) k]; rfl
  · rw [List.map_congr_left fun l mem => findIdx?_combOrder (length ▸ List.mem_range.mp mem)]; rfl

end Sys2Proof.Machine

/-! Accumulator tiles (R73, R363 to R368). -/

namespace Sys2Proof.Machine

open Sys2Proof.Claim

theorem heldTile_ok {s : State} {t : BitVec 2} (held : Held s true t.toNat) : heldTile t s = .ok (tileAt s t.toNat, s) := by
  rw [heldTile, bind_ok (needHeld_ok held), bind_ok (getCore_run s)]
  rfl

theorem updTile_run (t : Nat) (f : Tile → Tile) (s : State) : updTile t f s = .ok ((), updTileS s t f) := rfl

/-- Numbers that a table does not list are not in its set. -/
theorem Nset.has_of_absent {p : Nset} {n : Nat} (absent : ∀ e ∈ p, e.1 ≠ n) : p.has n = false := by
  have none_ : mget p n = none := by
    induction p with
    | nil => rfl
    | cons e r ih =>
      rw [mget, if_neg (absent e List.mem_cons_self)]
      exact ih fun f mem => absent f (List.mem_cons_of_mem e mem)
  rw [Nset.has, mgetD, none_, Option.getD_none]

/-! accz, accrd, accst (R364, R367, R368) -/

section

variable {s : State} {a : BitVec 5} {t : BitVec 2} {v : Word} (ha : ScalarIs s a v)

include ha

theorem opAccz_trap (held : ¬Held s true t.toNat) : opAccz a t s = .error (.trap { cause := 0x109, slot := 5 }) := by
  rw [opAccz, bind_ok (readScalar_is ha 5), heldTile]
  exact bind_error (bind_error (needHeld_trap held) _) _

variable (held : Held s true t.toNat)

include held

theorem opAccz_ok : opAccz a t s =
    .ok ((), updTileS s t.toNat fun x => { x with zero := true, rows := [], exp := some (sext v.toNat 16), poison := [] }) := by
  rw [opAccz, bind_ok (readScalar_is ha 5), bind_ok (heldTile_ok held)]
  rfl

/-- accrd sends 64 columns of a row that has no poison, converted (R367). -/
theorem opAccrd_ok {f g : BitVec 2} (format : f ≠ 3#2) (mode : RmodeOk s)
    (clean : ∀ e ∈ (tileAt s t.toNat).poison,
      e.1 ≠ 16384 ∧ ¬(256 * (v.toNat % 64) + 64 * g.toNat ≤ e.1 ∧ e.1 < 256 * (v.toNat % 64) + 64 * g.toNat + 64))
    {vs : List FV} (hvs : vs = ((((tileAt s t.toNat).row (v.toNat % 64)).drop (64 * g.toNat)).take 64).map (tileValue (tileAt s t.toNat).expo)) {o : VOut}
    (ho : o = if f = 0#2 then packOuts 0 (vs.map (narrow 0 s.me.sys.rmode.toNat)) else if f = 1#2 then packBfp vs
      else packOuts 5 (vs.map (narrow 5 s.me.sys.rmode.toNat))) :
    opAccrd a f g t s = .ok ((), s.updMe (inFlight 2 8 .age (.vec (BitVec.ofNat 2048 o.data) (BitVec.ofNat 256 o.side)) o.fl)) := by
  have good : (!((tileAt s t.toNat).badAt (256 * (v.toNat % 64) + 64 * g.toNat) 64 || (tileAt s t.toNat).poison.has 16384)) = true := by
    rw [Nset.has_of_absent fun e mem => (clean e mem).1, Bool.or_false, Tile.badAt, Bool.not_eq_true', List.any_eq_false]
    intro e mem
    simpa only [Bool.and_eq_true, decide_eq_true_eq] using (clean e mem).2
  have converted : o = (match f.toNat with
      | 0 => packOuts 0 (vs.map (narrow 0 s.me.sys.rmode.toNat))
      | 1 => packBfp vs
      | _ => packOuts 5 (vs.map (narrow 5 s.me.sys.rmode.toNat))) := by
    rw [ho]
    rcases (by decide : ∀ f : BitVec 2, f = 0#2 ∨ f = 1#2 ∨ f = 2#2 ∨ f = 3#2) f with rfl | rfl | rfl | rfl
    · rfl
    · rfl
    · rfl
    · exact absurd rfl format
  subst hvs
  rw [opAccrd, bind_ok (readScalar_is ha 5), bind_ok (heldTile_ok held)]
  refine (bind_ok (check_ok good ..) _).trans ((bind_ok (getRm_ok mode 5) _).trans ?_)
  rw [converted]
  rfl

end

/-- The core after a command has joined its queue. -/
theorem here_queued (s : State) (c : Cmd) : here (queued s c) = { here s with queue := (here s).queue ++ [ofStep s c] } := by
  rw [here, queued, updCore_cur, updLd_cur, score_updCore_same, State.core, ld_updLd_same]
  rfl

theorem me_queued (s : State) (c : Cmd) : (queued s c).me = s.me := by
  have core : (here (queued s c)).ctxs = (here s).ctxs := by rw [here_queued]
  exact congrArg (fun m => mgetD m s.cur.c {}) core

theorem setClaim_queue (y : Core) (tile : Bool) (n : Nat) (f : Claim → Claim) : (y.setClaim tile n f).queue = y.queue := by cases tile <;> rfl

theorem here_afterRelease_tile (s : State) (n : Nat) : here (afterRelease s true n) = (here s).setClaim true n Claim.released :=
  here_updHere { s with draw := s.draw + 1 } _

/-- The state after a command that reads a tile has joined the queue: the tile has one reader more (R77). -/
def queuedReader (s : State) (t : Nat) (c : Cmd) : State := updHere (queued s c) fun y => y.setClaim true t fun c => { c with readers := c.readers + 1 }

theorem here_queuedReader (s : State) (t : Nat) (c : Cmd) : here (queuedReader s t c) =
    ({ here s with queue := (here s).queue ++ [ofStep s c] } : Core).setClaim true t fun c => { c with readers := c.readers + 1 } := by
  rw [queuedReader, here_updHere, here_queued]

theorem me_queuedReader (s : State) (t : Nat) (c : Cmd) : (queuedReader s t c).me = s.me := (me_updHere (setClaim_ctxs ..)).trans (me_queued ..)

/-- The claim of a tile that gains a reader. -/
theorem claim_queuedReader {s : State} {t : Nat} (there : ((here s).claim true t).st ≠ .free) (c : Cmd) :
    (here (queuedReader s t c)).claim true t = { (here s).claim true t with readers := ((here s).claim true t).readers + 1 } := by
  rw [here_queuedReader]
  exact claim_setClaim { here s with queue := (here s).queue ++ [ofStep s c] } _ _ _ there

/-- The command that an accst of tile `t` puts in the queue (R368). -/
def tileCmd (s : State) (v w : Word) (p : BitVec 1) (f t : BitVec 2) : Cmd :=
  { id := 0, ctx := 0, sid := 0, kind := .accst, dst := v, arg := w, sp := p.toNat, tile := some (tileAt s t.toNat), tileNo := t.toNat
    tileFmt := f.toNat, reading := true, rm := s.me.sys.rmode.toNat }

/-- accst queues the tile as it stands, becomes its reader, and with REL releases it (R77, R368). -/
theorem opAccst_ok {s : State} {a b : BitVec 5} {r p : BitVec 1} {f t : BitVec 2} {v w : Word} (ha : ScalarIs s a v) (hb : ScalarIs s b w)
    (held : Held s true t.toNat) (va : v.toNat % 256 = 0) (wa : w.toNat % 256 = 0) (row : accRow f.toNat ≤ w.toNat)
    (fits : p = 0#1 → v.toNat + 63 * w.toNat + accRow f.toNat ≤ 0x300000) (clean : (tileAt s t.toNat).poison = []) (room : QueueRoom s) (mode : RmodeOk s)
    {u : State} (hu : u = queuedReader s t.toNat (tileCmd s v w p f t)) :
    opAccst a b r p f t s = .ok ((), if r = 1#1 then afterRelease u true t.toNat else u) := by
  have aligned : (v.toNat % 256 == 0 && w.toNat % 256 == 0 && decide (accRow f.toNat ≤ w.toNat)) = true := by simp [va, wa, row]
  have inside : (p == 1#1 || decide (v.toNat + 63 * w.toNat + accRow f.toNat ≤ spadEnd)) = true := by
    rcases (by decide : ∀ p : BitVec 1, p = 0#1 ∨ p = 1#1) p with rfl | rfl
    · rw [decide_eq_true (show _ ≤ spadEnd from fits rfl), Bool.or_true]
    · rfl
  have free : ¬16 ≤ (here s).queue.length := Nat.not_le.mpr room
  subst hu
  rw [opAccst, bind_ok (readScalar_is ha 5), bind_ok (readScalar_is hb 5), bind_ok (heldTile_ok held)]
  refine (bind_ok (check_ok aligned ..) _).trans ((bind_ok (check_ok inside ..) _).trans ((bind_ok (check_ok (by rw [clean]; rfl) ..) _).trans ?_))
  refine (bind_ok (getCore_run s) _).trans ((congrFun (if_neg free) s).trans ((bind_ok (getRm_ok mode 5) _).trans ?_))
  refine (bind_ok (enqueue_run _ s) _).trans ((bind_ok (updCore_run _ _) _).trans ?_)
  split
  · exact releaseObject_run ..
  · rfl

/-- Settles O30: what an accst leaves of its core and its context is what `queuedReader` and a release leave. -/
theorem tileWords : Obligations.TileWords := by
  intro s a t v ha
  refine ⟨fun held => runSlot_trap _ s _ (opAccz_trap ha held), fun held => ⟨runSlot_ok _ s _ (opAccz_ok ha held), ?_, ?_⟩⟩
  · intro f g format mode clean vs o
    exact runSlot_ok _ s _ (opAccrd_ok ha held format mode clean rfl rfl)
  · intro b r p f w hb va wa row fits clean room mode
    have run := runSlot_ok _ s _ (opAccst_ok (r := r) ha hb held va wa row fits clean room mode rfl)
    have there : ((here s).claim true t.toNat).st ≠ .free := by simp [held.1]
    have claim := claim_queuedReader there (tileCmd s v w p f t)
    have queue : (here (queuedReader s t.toNat (tileCmd s v w p f t))).queue = (here s).queue ++ [ofStep s (tileCmd s v w p f t)] := by
      rw [here_queuedReader, setClaim_queue]
    refine ⟨_, run, ?_⟩
    by_cases release : r = 1#1
    · have still : ((here (queuedReader s t.toNat (tileCmd s v w p f t))).claim true t.toNat).st ≠ .free := by rw [claim]; exact there
      obtain ⟨released, regs, -, -⟩ := afterRelease_spec still
      rw [if_pos release]
      exact ⟨by rw [regs, me_queuedReader], (congrArg Core.queue (here_afterRelease_tile ..)).trans ((setClaim_queue ..).trans queue), (released.trans (congrArg _ claim)).trans (if_pos release).symm⟩
    · rw [if_neg release]
      exact ⟨by rw [me_queuedReader], queue, claim.trans (if_neg release).symm⟩

/-! accnorm (R365) -/

/-- The largest magnitude in a tile. -/
def Tile.top (x : Tile) : Nat := (List.range 64).foldl (fun m r => (x.row r).foldl (fun m v => max m v.natAbs) m) 0

theorem foldl_max_natAbs (l : List Int) (m : Nat) :
    m ≤ l.foldl (fun m v => max m v.natAbs) m ∧ (∀ v ∈ l, v.natAbs ≤ l.foldl (fun m v => max m v.natAbs) m) ∧
      (l.foldl (fun m v => max m v.natAbs) m = m ∨ ∃ v ∈ l, l.foldl (fun m v => max m v.natAbs) m = v.natAbs) := by
  induction l generalizing m with
  | nil => exact ⟨le_rfl, fun v mem => (nomatch mem), .inl rfl⟩
  | cons x r ih =>
    obtain ⟨least, bound, attained⟩ := ih (max m x.natAbs)
    refine ⟨(le_max_left ..).trans least, fun v mem => ?_, ?_⟩
    · rcases List.mem_cons.mp mem with rfl | mem
      · exact (le_max_right ..).trans least
      · exact bound v mem
    · rcases attained with same | ⟨v, mem, same⟩
      · rw [List.foldl_cons, same]
        exact (max_choice m x.natAbs).imp_right fun other => ⟨x, List.mem_cons_self, other⟩
      · exact .inr ⟨v, List.mem_cons_of_mem x mem, same⟩

theorem Tile.top_eq (x : Tile) : x.top = ((List.range 64).flatMap x.row).foldl (fun m v => max m v.natAbs) 0 := List.foldl_flatMap.symm

/-- A bound on all mantissas of a tile is one on the largest. -/
theorem Tile.top_mul_lt_iff (x : Tile) {a b : Nat} (pos : 0 < b) : x.top * a < b ↔ ∀ r < 64, ∀ m ∈ x.row r, m.natAbs * a < b := by
  obtain ⟨-, bound, attained⟩ := foldl_max_natAbs ((List.range 64).flatMap x.row) 0
  rw [← Tile.top_eq] at bound attained
  constructor
  · exact fun below r hr m mem => (Nat.mul_le_mul_right a (bound m (List.mem_flatMap.mpr ⟨r, List.mem_range.mpr hr, mem⟩))).trans_lt below
  · intro each
    rcases attained with zero | ⟨m, mem, same⟩
    · rwa [zero, Nat.zero_mul]
    · obtain ⟨r, hr, mem⟩ := List.mem_flatMap.mp mem
      rw [same]
      exact each r (List.mem_range.mp hr) m mem

/-- A tile whose largest magnitude is 0 is zero. -/
theorem Tile.top_eq_zero_iff (x : Tile) : x.top = 0 ↔ ∀ r < 64, ∀ m ∈ x.row r, m = 0 := by
  have small := x.top_mul_lt_iff (a := 1) (b := 1) Nat.one_pos
  simpa only [Nat.mul_one, Nat.lt_one_iff, Int.natAbs_eq_zero] using small

/-- The last number below a bound that a test picks. -/
theorem find?_reverse_range {p : Nat → Bool} {m n : Nat} (inside : n < m) (at_ : p n = true) (above : ∀ i, n < i → i < m → p i = false) :
    (List.range m).reverse.find? p = some n := by
  induction m with
  | zero => exact absurd inside (Nat.not_lt_zero n)
  | succ m ih =>
    rw [List.range_succ, List.reverse_append, List.reverse_singleton, List.singleton_append, List.find?_cons]
    rcases Nat.lt_succ_iff_lt_or_eq.mp inside with later | rfl
    · rw [above m later m.lt_succ_self]
      exact ih later fun i high low => above i high (Nat.lt_succ_of_lt low)
    · rw [at_]

/-- The shift of accnorm is the greatest that fits (R365). -/
theorem normShift_eq {top n : Nat} {e : Int} (fits : n ≤ 46 ∧ top * 2 ^ n < 2 ^ 46 ∧ -32768 ≤ e - (n : Int))
    (greatest : ∀ k : Nat, k ≤ 46 ∧ top * 2 ^ k < 2 ^ 46 ∧ -32768 ≤ e - (k : Int) → k ≤ n) : normShift top e = n := by
  obtain ⟨inside, mantissas, exponent⟩ := fits
  rw [normShift, find?_reverse_range (n := n) (by omega) (by rw [decide_eq_true mantissas, decide_eq_true exponent]; rfl), Option.getD_some]
  intro i high low
  rw [Bool.eq_false_iff]
  intro fit
  rw [Bool.and_eq_true, decide_eq_true_eq, decide_eq_true_eq] at fit
  exact absurd (greatest i ⟨by omega, fit⟩) (by omega)

theorem opAccnorm_run {s : State} {t : BitVec 2} (held : Held s true t.toNat) (clean : (tileAt s t.toNat).poison = []) : opAccnorm t s =
    if (tileAt s t.toNat).top = 0 then .ok ((), s)
    else .ok ((), updTileS s t.toNat fun y => { y.mapRows fun m => m * ((2 ^ normShift (tileAt s t.toNat).top (tileAt s t.toNat).expo : Nat) : Int) with
      exp := some (y.expo - normShift (tileAt s t.toNat).top (tileAt s t.toNat).expo) }) := by
  rw [opAccnorm, bind_ok (heldTile_ok held)]
  refine (bind_ok (check_ok (by rw [clean]; rfl) ..) _).trans ?_
  split <;> rename_i zero
  · exact (if_pos zero).symm
  · exact (if_neg zero).symm

/-! accexp (R366) -/

section

variable {s : State} {a : BitVec 5} {t : BitVec 2} (held : Held s true t.toNat) (clean : (tileAt s t.toNat).poison.has 16384 = false)

include held clean

theorem opAccexp_read : opAccexp a 0#1 t s = .ok ((), sentD s 1 (BitVec.ofInt 64 (tileAt s t.toNat).expo)) := by
  rw [opAccexp]
  refine (congrFun (if_neg (by decide)) s).trans ((bind_ok (M_pure 0#64 s) _).trans ((bind_ok (heldTile_ok held) _).trans ((bind_ok (check_ok (by rw [clean]; rfl) ..) _).trans ?_)))
  rfl

/-- accexp with ADD sets the clamped sum and notes a clamp (R366). -/
theorem opAccexp_add {v : Word} (ha : ScalarIs s a v) {n : Int} (hn : n = (tileAt s t.toNat).expo + sext v.toNat 16) {u w : State}
    (hu : u = updTileS s t.toNat fun y => { y with exp := some (max (-32768) (min 32767 n)) })
    (hw : w = if n < -32768 ∨ 32767 < n then u.updMe fun c => c.orR rACCOVF else u) :
    opAccexp a 1#1 t s = .ok ((), sentD w 1 (BitVec.ofInt 64 (tileAt s t.toNat).expo)) := by
  subst hn hu
  rw [opAccexp]
  refine (congrFun (if_pos rfl) s).trans ((bind_ok (readScalar_is ha 5) _).trans ((bind_ok (heldTile_ok held) _).trans ?_))
  refine (bind_ok (check_ok (by rw [clean]; rfl) ..) _).trans ((congrFun (if_pos rfl) s).trans ((bind_ok (updTile_run ..) _).trans ?_))
  rw [hw]
  split <;> rfl

end

/-- Settles O31: accnorm by the greatest shift that fits (`normShift_eq`), accexp by where the sum lies. -/
theorem tileScaling : Obligations.TileScaling := by
  refine ⟨?_, ?_⟩
  · rintro s t x rfl held clean
    have run := opAccnorm_run held clean
    refine ⟨fun zero => ?_, fun n nonzero => ?_⟩
    · rw [if_pos ((Tile.top_eq_zero_iff _).mpr zero)] at run
      exact runSlot_ok _ s _ run
    · intro ⟨fits, greatest⟩
      have each (k : Nat) : (k ≤ 46 ∧ (∀ r < 64, ∀ m ∈ (tileAt s t.toNat).row r, m.natAbs * 2 ^ k < 2 ^ 46) ∧
          -32768 ≤ (tileAt s t.toNat).expo - (k : Int)) ↔ k ≤ 46 ∧ (tileAt s t.toNat).top * 2 ^ k < 2 ^ 46 ∧ -32768 ≤ (tileAt s t.toNat).expo - (k : Int) := by
        rw [Tile.top_mul_lt_iff _ (by decide)]
      have shift := normShift_eq ((each n).mp fits) fun k fit => greatest k ((each k).mpr fit)
      have top : (tileAt s t.toNat).top ≠ 0 := by
        obtain ⟨r, hr, m, mem, other⟩ := nonzero
        exact fun zero => other ((Tile.top_eq_zero_iff _).mp zero r hr m mem)
      rw [if_neg top, shift] at run
      simp only [Nat.cast_pow, Nat.cast_ofNat] at run
      exact runSlot_ok _ s _ run
  · rintro s a t x rfl held clean
    refine ⟨runSlot_ok _ s _ (opAccexp_read held clean), fun v n ha hn => ?_⟩
    have run := runSlot_ok _ s _ (opAccexp_add held clean ha hn rfl rfl)
    refine ⟨fun low high => run.trans ?_, fun low => run.trans ?_, fun high => run.trans ?_⟩
    · rw [if_neg (by omega), min_eq_right high, max_eq_right low]
    · rw [if_pos (.inl low), min_eq_right (by omega), max_eq_left low.le]
      rfl
    · rw [if_pos (.inr high), min_eq_left high.le, max_eq_right (by decide)]
      rfl

end Sys2Proof.Machine

/-! The E words on registers, time, the system, tokens and capabilities (R378, R392, R394, R403, R407 to R411). -/

namespace Sys2Proof.Machine

open Sys2Proof.Claim

/-- Two sources of the E word are read in their order (R375). -/
theorem engineTwo_sources {s t : State} {a b : BitVec 4} {v w : Word} (h : engineTwo s a b = some (v, w, t)) :
    ∃ m, readAccess 2 a s = .ok (v, m) ∧ readAccess 2 b m = .ok (w, t) := by
  obtain ⟨⟨v', m⟩, first, rest⟩ := Option.bind_eq_some_iff.mp h
  obtain ⟨⟨w', t'⟩, second, same⟩ := Option.map_eq_some_iff.mp rest
  cases same
  exact ⟨m, readAccess_engine first, readAccess_engine second⟩

/-! Geometry registers, selection, time and the system words -/

theorem opMte_ok {s t : State} {a : BitVec 4} {v : Word} (h : engineSource s a = some (v, t)) (n : BitVec 6) :
    opMte a n s = .ok ((), t.updMe fun x => { x with regs.eg := x.regs.eg.set n.toNat { val := v, valid := true } }) := by
  rw [opMte, bind_ok (readAccess_engine h)]
  rfl

theorem opMfe_ok {s : State} {n : BitVec 6} {v : Word} (h : EgIs s n.toNat v) (b : BitVec 4) : opMfe b n s = .ok ((), withA s b v) := by
  rw [opMfe, bind_ok (readEg_ok h)]
  rfl

theorem opCbsel_ok {s t : State} {a : BitVec 4} {v : Word} (h : engineSource s a = some (v, t)) :
    opCbsel a s = .ok ((), t.updMe fun x => { x with st.selNext := some (v.setWidth 12) }) := by
  rw [opCbsel, bind_ok (readAccess_engine h)]
  rfl

theorem opRetire_ok {s : State} (issued : s.me.st.run = []) : opRetire s = .ok ((), s.updMe fun x => { x with retiring := 1 }) := by
  rw [opRetire, bind_ok (getMe_run s), issued]
  rfl

theorem opSysc_ok {s t : State} {a b : BitVec 4} {v w : Word} (h : engineTwo s a b = some (v, w, t)) (sv : BitVec 8) :
    opSysc a b sv s = .ok ((), t.updMe fun x =>
      { x with st.atrap := some { cause := 0x3BF, access := true, kind := 4, slot := 2, va := some x.st.pc, args := (v.toNat, w.toNat, sv.toNat) } }) := by
  obtain ⟨m, first, second⟩ := engineTwo_sources h
  rw [opSysc, bind_ok first, bind_ok second]
  rfl

/-- Settles O32, word by word. -/
theorem geometryAndSystem : Obligations.GeometryAndSystem := by
  refine ⟨?_, ?_, ?_, ?_, ?_, ?_, ?_, ?_⟩
  · exact fun s _ _ n _ source => runSlot_ok _ s _ (opMte_ok source n)
  · exact fun s b _ _ register => runSlot_ok _ s _ (opMfe_ok register b)
  · exact fun s _ _ _ source => runSlot_ok _ s _ (opCbsel_ok source)
  · exact fun s b => ⟨runSlot_ok (opRdtime b 1#1) s _ rfl, runSlot_ok (opRdtime b 0#1) s _ rfl⟩
  · exact fun s => runSlot_ok opYield s _ rfl
  · exact fun s issued => runSlot_ok _ s _ (opRetire_ok issued)
  · exact fun s n => ⟨runSlot_trap (opTrap n) s _ rfl, fun _ => runSlot_trap (opBrk n) s _ rfl⟩
  · exact fun s _ _ _ sv _ _ sources => runSlot_ok _ s _ (opSysc_ok sources sv)

/-! Counting leaves what the slot word acts on -/

theorem foldl_cur {α : Type} {f : State → α → State} (keeps : ∀ s a, (f s a).cur = s.cur) (l : List α) (s : State) : (l.foldl f s).cur = s.cur :=
  List.foldlRecOn (motive := fun u : State => u.cur = s.cur) l f rfl fun u same a _ => (keeps u a).trans same

theorem updStep_cur (s : State) (l sid : Nat) (f : Ctx → Ctx) : (s.updStep l sid f).cur = s.cur := by
  rw [State.updStep]
  split <;> rfl

theorem notice_cur (s : State) (l kind sev unit cause loc : Nat) : (s.notice l kind sev unit cause loc).cur = s.cur := by
  unfold State.notice
  dsimp only
  split <;> rfl

theorem lostPacket_cur (s : State) (k : Packet) (cause : Nat) : (s.lostPacket k cause).cur = s.cur := by
  unfold State.lostPacket
  dsimp only
  refine (foldl_cur (f := State.refuseToken) (fun _ _ => rfl) ..).trans ?_
  split
  · exact foldl_cur (fun _ _ => updStep_cur ..) ..
  · exact (notice_cur ..).trans (foldl_cur (fun _ _ => updStep_cur ..) ..)

theorem toPort_cur (s : State) (p : Nat) (t : Transit) : (s.toPort p t).cur = s.cur := by
  unfold State.toPort
  dsimp only
  split
  · rfl
  · split
    · exact lostPacket_cur ..
    · split
      · exact lostPacket_cur ..
      · split <;> rfl

theorem hop_cur (s : State) (p : Nat) (t : Transit) : (s.hop p t).cur = s.cur := by
  unfold State.hop
  dsimp only
  split
  · rfl
  · split
    · split
      · rfl
      · exact toPort_cur ..
    · rfl
    · rfl
    · exact lostPacket_cur ..

theorem post_cur (s : State) (src dst vc : Nat) (body : List (BitVec 8)) : (s.post src dst vc body).cur = s.cur := by
  rw [State.post]
  split
  · rfl
  · exact hop_cur ..

theorem sendBatch_cur (s : State) (b : Batch) : (s.sendBatch b).cur = s.cur := post_cur ..

theorem keepBatch_cur (s : State) (b : Batch) : (s.keepBatch b).cur = s.cur := by
  rw [State.keepBatch]
  split
  · exact sendBatch_cur ..
  · rfl

theorem addRecs_cur (s : State) (l home : Nat) (auth : Option (Nat × Nat)) (rs : List Rec) : (s.addRecs l home auth rs).cur = s.cur := by
  rw [State.addRecs]
  split
  · exact keepBatch_cur ..
  · split
    · exact keepBatch_cur ..
    · exact (keepBatch_cur ..).trans (sendBatch_cur ..)

theorem countRecs_cur (s : State) (l p : Nat) (recs : List (Nat × Nat × Int)) : (s.countRecs l p recs).cur = s.cur :=
  foldl_cur (fun _ _ => addRecs_cur ..) ..

theorem opOf_updMe (s : State) (f : Ctx → Ctx) (l opid : Nat) : (s.updMe f).opOf l opid = s.opOf l opid :=
  updLd_keeps (f := fun x => x.updCore s.cur.k fun y => y.updCtx s.cur.c f) (fun x => mgetD x.ops opid {}) (fun _ => rfl) l

/-! Tokens at issue (R394, R395, R399) -/

/-- The state and the token of a tsend: `t` is the state with the operands read. -/
def tokenState (t : State) (r stamp : Nat) : State := t.countAt t.cur.l (myOp t).parish (rtYard r) stamp 1

def tokenOf (t : State) (stamp rt : Word) (off len : Nat) : Token :=
  let v := tokenState t rt.toNat stamp.toNat
  let pa := t.parish t.cur.l (myOp t).parish
  let r := rt.toNat
  let auth := pa.authTo (ldNo (rtPkg r) (rtDie r))
  { id := (v.ld v.cur.l).nextCmd, src := t.cur.l, core := t.cur.k, sid := t.me.sid, pkg := rtPkg r, die := rtDie r, opid := rtOpid r, port := rtPort r,
    dyard := rtYard r, stamp := stamp, parish := (myOp t).parish, home := pa.home, hpar := pa.hpar,
    expidx := (auth.map (·.1)).getD 0, gen := (auth.map (·.2)).getD 0, local_ := auth.isNone, route := rt, payload := (here v).spRead 0 off len,
    bad := (List.range (len / 4)).filter fun i => (here v).spBad 0 (off + 4 * i) 4 }

/-- A legal token is counted, and sent or kept (R394, R395, R399). -/
theorem opTsend_ok {s t : State} {a b : BitVec 4} {l : BitVec 8} {m : BitVec 2} {g : BitVec 6} {stamp off rt : Word}
    (sources : engineTwo s a b = some (stamp, off, t)) (route : EgIs t g.toNat rt) (die : rtDie rt.toNat ≤ 7) (reserved : rt.toNat % 2 ^ 30 = 0)
    (port : portV ((myOp t).oport m.toNat) = true) (create : MayCreate t [portYard ((myOp t).oport m.toNat)] (rtYard rt.toNat) stamp.toNat)
    (aligned : off.toNat % 64 = 0) (inside : off.toNat + 64 * l.toNat ≤ spadEnd) (free : (t.ld t.cur.l).nbrBusy t.me.sid = false)
    (room : if (myOp t).restart then t.me.kept.length < 16 else t.me.pending < 4) {u : State}
    (hu : u = (tokenState t rt.toNat stamp.toNat).updLd (tokenState t rt.toNat stamp.toNat).cur.l fun x => { x with nextCmd := x.nextCmd + 1 }) :
    opTsend a b l m g s = .ok ((), if (myOp t).restart then u.updMe fun x => { x with kept := x.kept ++ [tokenOf t stamp rt off.toNat (64 * l.toNat)] }
      else u.sendToken t.cur.l (tokenOf t stamp rt off.toNat (64 * l.toNat))) := by
  obtain ⟨m', first, second⟩ := engineTwo_sources sources
  have counted := countCreate_ok create
  obtain ⟨hopen, ⟨enabled, inRange⟩, may, -⟩ := create
  have yard : checkYard 2 t.cur.l (myOp t).parish (rtYard rt.toNat) t = .ok ((), t) := by
    rw [checkYard, bind_ok (getS_run t), bind_ok (check_ok enabled ..)]
    exact check_ok (decide_eq_true inRange) ..
  have legal : (decide (rtDie rt.toNat ≤ 7) && bits rt.toNat 0 30 == 0) = true := by
    have low : bits rt.toNat 0 30 = 0 := by simpa [bits_eq] using reserved
    rw [decide_eq_true die, low]
    rfl
  have keeps : (!((myOp t).restart && decide (16 ≤ t.me.kept.length))) = true := by
    split at room <;> simp_all
  have pends : ¬(!(myOp t).restart && decide (4 ≤ t.me.pending)) = true := by
    split at room <;> simp_all
  have cur : u.cur = t.cur := by rw [hu]; exact countRecs_cur ..
  rw [opTsend, bind_ok first, bind_ok second, bind_ok (readEg_ok route), bind_ok (getS_run t)]
  refine (bind_ok (check_ok legal ..) _).trans ((bind_ok (check_ok port ..) _).trans ((bind_ok (check_ok (by rw [hopen]; rfl) ..) _).trans ?_))
  refine (bind_ok yard _).trans ((bind_ok (check_ok may ..) _).trans ((bind_ok (check_ok (by rw [aligned]; rfl) ..) _).trans ?_))
  refine (bind_ok (check_ok (decide_eq_true inside) ..) _).trans ((bind_ok (check_ok keeps ..) _).trans ?_)
  refine (when_bind_ok (when_ok fun busy => absurd (free.symm.trans busy) (by decide)) _).trans ((when_bind_ok (when_ok fun full => absurd full pends) _).trans ?_)
  refine (bind_ok counted _).trans ((bind_ok (getCore_run _) _).trans ?_)
  have numbered : newCmd (tokenState t rt.toNat stamp.toNat) =
      .ok (((tokenState t rt.toNat stamp.toNat).ld (tokenState t rt.toNat stamp.toNat).cur.l).nextCmd, u) := by rw [hu]; rfl
  refine (bind_ok numbered _).trans ?_
  by_cases restart : (myOp t).restart = true
  · rw [if_pos restart]
    exact congrFun (if_pos restart) u
  · rw [if_neg restart]
    exact (congrFun (if_neg restart) u).trans (congrArg (fun d => Except.ok ((), u.sendToken d (tokenOf t stamp rt off.toNat (64 * l.toNat)))) (congrArg (·.l) cur))

/-- Settles O35: `opTsend_ok` with the token written out. -/
theorem tokenWord : Obligations.TokenWord := by
  rintro s t a b l m g stamp off rt r sources route rfl die reserved port create aligned inside free room
  have run := opTsend_ok sources route die reserved port create aligned inside free room rfl
  exact runSlot_ok _ s _ run

/-! Capabilities (R403) -/

section

variable {s t : State} {a : BitVec 4} {v : Word} (source : engineSource s a = some (v, t))

include source

/-- A capability that the step may create is counted and held. -/
theorem opCaph_ok {y : BitVec 8} (may : NotRestart t) (create : MayCreate t (myOp t).outYards y.toNat v.toNat) (room : t.me.caps.length < 8) :
    opCaph a y s =
      .ok ((), (t.countAt t.cur.l (myOp t).parish y.toNat v.toNat 1).updMe fun x => { x with caps := x.caps ++ [(y.toNat, v.toNat)] }) := by
  rw [opCaph, bind_ok (readAccess_engine source), bind_ok (barRestart_ok may 2), bind_ok (checkCreate_ok create), bind_ok (getMe_run t),
    bind_ok (check_ok (decide_eq_true room) ..), bind_ok (countCreate_ok create)]
  rfl

/-- A capability that the step does not hold is none that it gives up (R145). -/
theorem opCapd_unheld {y : BitVec 8} (inRange : y.toNat ≤ (t.parish t.cur.l (myOp t).parish).nym1) (unheld : (y.toNat, v.toNat) ∉ t.me.caps) :
    opCapd a y s = .error (.trap { cause := 0x243, access := true, slot := 2 }) := by
  rw [opCapd, bind_ok (readAccess_engine source), bind_ok (getS_run t)]
  refine (bind_ok (check_ok (decide_eq_true inRange) ..) _).trans (bind_error (check_trap ?_ ..) _)
  simpa using unheld

/-- A yard above NYM1 is reported first (R137). -/
theorem opCapd_noYard {y : BitVec 8} (high : (t.parish t.cur.l (myOp t).parish).nym1 < y.toNat) :
    opCapd a y s = .error (.trap { cause := 0x240, access := true, slot := 2 }) := by
  rw [opCapd, bind_ok (readAccess_engine source), bind_ok (getS_run t)]
  exact bind_error (check_trap (decide_eq_false (Nat.not_le.mpr high)) ..) _

/-- A capability that the step holds is given up and counted out (R145). -/
theorem opCapd_ok {y : BitVec 8} (inRange : y.toNat ≤ (t.parish t.cur.l (myOp t).parish).nym1) (held : (y.toNat, v.toNat) ∈ t.me.caps) :
    opCapd a y s = .ok ((), (t.updMe fun x => { x with caps := x.caps.erase (y.toNat, v.toNat) }).countAt t.cur.l (myOp t).parish y.toNat v.toNat (-1)) := by
  rw [opCapd, bind_ok (readAccess_engine source), bind_ok (getS_run t)]
  refine (bind_ok (check_ok (decide_eq_true inRange) ..) _).trans ((bind_ok (check_ok (by simpa using held) ..) _).trans ?_)
  rw [bind_ok (updMe_run ..), updS_run]
  exact congrArg (fun o : Op => Except.ok ((), State.countAt _ t.cur.l o.parish y.toNat v.toNat (-1))) (opOf_updMe ..)

end

/-- Settles O37, by the four answers of caph and capd. -/
theorem capabilityWords : Obligations.CapabilityWords := by
  intro s t a y v source
  refine ⟨fun may create room => runSlot_ok _ s _ (opCaph_ok source may create room), fun inRange held => runSlot_ok _ s _ (opCapd_ok source inRange held), ?_, ?_⟩
  · exact fun inRange unheld => runSlot_trap _ s _ (opCapd_unheld source inRange unheld)
  · exact fun high => runSlot_trap _ s _ (opCapd_noYard source high)

end Sys2Proof.Machine

/-! Codebook loads (R390) into a bank with a poisoned LIMIT, and the wait words (R400 to R402) of a context that its core lists twice. -/

namespace Sys2Proof.Machine

open Sys2Proof.Claim

/-! cbld: the LIMIT of a bank is poisoned -/

/-- A state whose first bank has entries up to 256 under a LIMIT that poison marks (258 is its number); a1 names one entry. -/
def poisonedLimit : State :=
  { lds := [(0, { cores := [(0, {
      ctxs := [(0, { live := true, regs := { a := [{ valid := true }, { val := 1#64, valid := true }] } })]
      banks := [{ lim := 256#64, poison := [(258, true)] }] })] })] }

/-- The commands in the queue of the current core after an outcome. -/
def queueLength : Res → Nat
  | .next t => (here t).queue.length
  | _ => 0

/-- The word traps on the LIMIT, and queues nothing. -/
theorem queueLength_cbld : queueLength (exec (.cbld 0#4 1#4 0#8 0#1 0#2) poisonedLimit) = 0 := by decide +kernel

/-- Refutes O34: a cbld of a bank whose LIMIT is poisoned, with no cbval of its context before, traps with 0x1C3 (R437); the statement lets it join
the queue. -/
theorem not_codebookWords : ¬ Obligations.CodebookWords := by
  intro holds
  have room : QueueRoom poisonedLimit := by unfold QueueRoom; decide
  obtain ⟨loads, -⟩ := holds poisonedLimit poisonedLimit 0#4 1#4 0#2 0#64 1#64 rfl room
  have legal : EntriesOk 0 1 (some 256) 0 0 8 := by unfold EntriesOk; decide
  have queues := congrArg queueLength (loads 0#8 0#1 rfl legal)
  rw [queueLength_cbld] at queues
  have one : queueLength (.next (queued poisonedLimit {
      id := 0, ctx := 0, sid := 0, kind := .cbld, src := 0#64, bank := 0, sp := 0, first := 0, count := 1, floor := 8 })) = 1 := by decide +kernel
  exact absurd (queues.trans one) (by decide)

/-! waitc: two entries of one context -/

/-- The step at a waitc: a0 holds its time limit, the geometry registers one condition, a curfew that has passed for stamp 5. -/
def waitingStep : Ctx :=
  { regs := { a := [{ val := 5#64, valid := true }], eg := { val := 0x1000000000000000#64, valid := true } :: { val := 5#64, valid := true } ::
      List.replicate 6 { valid := true } } }

/-- A state whose core lists context 0 twice, `waitingStep` first, with a load of the step under way. The acquire settles the load, and looks for
the step by its number: it finds the live entry, and writes it back where the map looks first. -/
def doubledContext : State :=
  { lds := [(0, {
      cores := [(0, { ctxs := [(0, waitingStep), (0, { live := true })] })]
      homeQ := [{ src := 0, core := 0, ctx := 0, sid := 0, slot := 0, addr := 0, n := 1 }]
      parishes := [(0, { enabled := true, curfews := [(0, 6)] })] })] }

/-- Its conditions: one curfew, the others absent. -/
def doubledConditions : List (Nat × Nat) := [(2 ^ 60, 5), (0, 0), (0, 0), (0, 0)]

/-- The access registers of the current context after an outcome. -/
def accessRegisters : Res → List Reg
  | .next t => t.me.regs.a
  | _ => []

/-- The time limit is gone from a0 after the waitc. -/
theorem accessRegisters_waitc :
    ((accessRegisters (exec (.waitc 0#4 1#4 0#1 0#3) doubledContext)).getD 0 {}).valid = false := by decide +kernel

theorem condsAre_doubled : CondsAre doubledContext (0#3).toNat doubledConditions := by
  refine ⟨rfl, fun i small => ⟨BitVec.ofNat 64 (doubledConditions.getD i (0, 0)).1, BitVec.ofNat 64 (if i = 0 then 5 else 0), ?_⟩⟩
  revert i
  unfold EgIs Has
  decide +kernel

theorem condLegal_doubled : ∀ c ∈ doubledConditions, CondLegal doubledContext c := by
  have absent : CondLegal doubledContext (0, 0) :=
    ⟨by decide, fun kind => absurd kind (by decide), fun kind => absurd kind (by decide), fun kind => absurd kind (by decide), fun kind => absurd kind (by decide)⟩
  have curfew : CondLegal doubledContext (2 ^ 60, 5) :=
    ⟨by decide, fun _ => ⟨by unfold YardOk; decide, by decide⟩, fun kind => absurd kind (by decide), fun kind => absurd kind (by decide),
      fun kind => absurd kind (by decide)⟩
  simpa [doubledConditions] using And.intro curfew absent

/-- Refutes O36: the statement keeps the access registers of the current context, whatever the state; in one that lists the context twice
(`doubledContext`) the acquire of the waitc puts the other entry's registers in their place. -/
theorem not_waitWords : ¬ Obligations.WaitWords := by
  intro holds
  obtain ⟨-, waits⟩ := holds
  obtain ⟨goesOn, -⟩ := waits doubledContext doubledContext 0#4 1#4 0#1 0#3 5#64 doubledConditions [true, false, false, false] false rfl rfl
    (fun _ => ⟨condsAre_doubled, condLegal_doubled, (2 ^ 60, 5), List.mem_cons_self, by decide⟩) (fun _ under => nomatch under) (by decide +kernel) (by decide +kernel)
  obtain ⟨u, next, -, kept⟩ := goesOn (.inl (by decide))
  have gone := accessRegisters_waitc
  rw [next, accessRegisters, kept] at gone
  exact absurd gone (by decide)

end Sys2Proof.Machine

/-! Filler races (R459): the start of one on a core that runs one already. -/

namespace Sys2Proof.Machine

open Sys2Proof.Claim

/-- A state with filler races in package 0 and one on core 0 of die 0, whose dies are listed out of order. -/
def unorderedDies : State :=
  { lds := [(1, {}), (0, { cores := [(0, { filler := true })] })], pkgs := [(0, { fillers := true })] }

/-- The numbers of the dies that a state lists, after an outcome. -/
def dieNumbers : Res → List Nat
  | .next t => t.lds.map (·.1)
  | _ => []

/-- The event writes the core back as it stands, which adds an entry for its die: the one that the list holds is not where the map looks for it. -/
theorem dieNumbers_fillerRaceStart : dieNumbers (exec (.fillerRaceStart 0 0) unorderedDies) = [0, 1, 0] := by decide +kernel

/-- Refutes O50: a core that runs a filler race stays as it is by the statement, and with it the whole state; the model writes the core back, and
where the state lists its dies out of order (`unorderedDies`) that adds an entry. -/
theorem not_linkPowerAndRegisterEvents : ¬ Obligations.LinkPowerAndRegisterEvents := by
  intro holds
  obtain ⟨-, -, -, -, -, -, -, -, fillers, -⟩ := holds unorderedDies 0 0 (by decide) (by decide)
  have unchanged := (fillers 0 (by decide) (by decide) (by decide) (by decide) (by decide)).1 (by decide)
  have same := (dieNumbers_fillerRaceStart.symm.trans (congrArg dieNumbers unchanged)).trans (show _ = [1, 0] from rfl)
  exact absurd same (by decide)

end Sys2Proof.Machine
